-- ==== Sys2Proof/Word.lean ====
section
/-! DEFINITION. The word types of the SK-9 and their plainest arithmetic (R4, R6). -/

namespace Sys2Proof

/-- One byte of memory. -/
abbrev Byte := BitVec 8

/-- A 32-bit lane word, instruction parcel or system register. -/
abbrev Word := BitVec 32

/-- A 64-bit address, pair or code reference. -/
abbrev DWord := BitVec 64

/-- A set of the 96 lanes of a strand; lane `l` is bit `l` (R435's order). -/
abbrev Lanes := BitVec 96

/-- `x :: y` of R6 for two words: `hi` in the high half. -/
def cat32 (hi lo : Word) : DWord := BitVec.ofNat 64 (hi.toNat * 2 ^ 32 + lo.toNat)

/-- The low word of a pair (R83: bits [31:0] lie in the even register). -/
def lo32 (x : DWord) : Word := BitVec.ofNat 32 x.toNat

/-- The high word of a pair. -/
def hi32 (x : DWord) : Word := BitVec.ofNat 32 (x.toNat / 2 ^ 32)

@[simp] theorem lo32_cat32 (h l : Word) : lo32 (cat32 h l) = l := by
  have := h.isLt; have := l.isLt
  apply BitVec.eq_of_toNat_eq
  simp only [lo32, cat32, BitVec.toNat_ofNat]
  omega

@[simp] theorem hi32_cat32 (h l : Word) : hi32 (cat32 h l) = h := by
  have := h.isLt; have := l.isLt
  apply BitVec.eq_of_toNat_eq
  simp only [hi32, cat32, BitVec.toNat_ofNat]
  omega

end Sys2Proof
end

