-- ==== Sys2Proof/Syntax.lean ====
section
/-! DEFINITION. The instructions and events of the SK-9: one constructor of `Instr` per row of spec/opcode_table.json.
An instruction carries the fields of its format (Tables 2.1 to 2.5), still as the encoding gives them, because the checks of
Table 2.7 name their causes from those fields; an event carries the unit it happens at. -/

namespace Sys2Proof

/-- The trailing parcels of an X64, I64 or M96 instruction: extension word 1 (Table 2.3, or the layout an entry gives) and
the guard word (R32). -/
inductive Ext where
  | l64
  | l96 (w1 : BitVec 32)
  | l128 (w1 guard : BitVec 32)
  deriving DecidableEq, Repr

/-- Format X64 (Table 2.1); the M96 format is the same layout with word 1 present (R35). -/
structure X64 where
  d : BitVec 8
  a : BitVec 8
  b : BitVec 8
  c : BitVec 8
  esz : BitVec 2
  flg : BitVec 4
  imm8 : BitVec 8
  u : BitVec 1
  stall : BitVec 3
  ext : Ext
  deriving DecidableEq, Repr

/-- Format I64 (Table 2.2). Only MOVI has trailing parcels (R30). -/
structure I64 where
  d : BitVec 8
  a : BitVec 8
  imm26 : BitVec 26
  flg : BitVec 2
  esz : BitVec 2
  u : BitVec 1
  stall : BitVec 3
  ext : Ext
  deriving DecidableEq, Repr

/-- Format T96 (Table 2.4), the format of every terminator; `rsv` is [95:90] and `r5` is bit 5. -/
structure T96 where
  rsv : BitVec 6
  yl : BitVec 1
  el : BitVec 1
  p2 : BitVec 8
  p1 : BitVec 8
  p0 : BitVec 8
  imm26 : BitVec 26
  flg : BitVec 4
  b : BitVec 8
  a : BitVec 8
  r5 : BitVec 1
  stall : BitVec 3
  guard : Option (BitVec 32)
  deriving DecidableEq, Repr

/-- Format A96 (Table 2.5), the format of loads, stores and atomics. -/
structure A96 where
  ofs : BitVec 32
  type : BitVec 8
  xsc : BitVec 3
  hint : BitVec 3
  scope : BitVec 3
  ord : BitVec 2
  sz : BitVec 3
  b : BitVec 8
  a : BitVec 8
  d : BitVec 8
  u : BitVec 1
  stall : BitVec 3
  guard : Option (BitVec 32)
  deriving DecidableEq, Repr

/-- Branch conditions, SUB 0 to 3 of opcodes 0x03 to 0x06 (R92). -/
inductive Cond where | nz | z | bset | bclr
  deriving DecidableEq, Repr

/-- Integer comparisons, SUB 0 to 5 of ICMP and ICMPI (R116). -/
inductive Cmp where | eq | ne | lt | le | gt | ge
  deriving DecidableEq, Repr

/-- Floating-point predicates, SUB 0 to 7 of FCMP (R143). -/
inductive FCmp where | eq | ne | lt | le | gt | ge | un | ord
  deriving DecidableEq, Repr

/-- The three IEEE formats, in the order of every type selector of R140. -/
inductive FType where | f32 | f16 | bf16
  deriving DecidableEq, Repr

/-- CVTA SUB 0 to 3 (R122). -/
inductive CvtaKind where | scr | prv | toscr | cls
  deriving DecidableEq, Repr

/-- CVTFF SUB 0 to 5 (R153). -/
inductive CvtffKind where | toF16 | toBf16 | fromF16 | fromBf16 | f16ToBf16 | bf16ToF16
  deriving DecidableEq, Repr

/-- SHFL SUB 0 to 3 (R165). -/
inductive ShflMode where | idx | up | down | xor
  deriving DecidableEq, Repr

/-- VOTE SUB 0 to 2 (R167). -/
inductive VoteMode where | any | all | ballot
  deriving DecidableEq, Repr

/-- LRED and LSCAN SUB 0 to 8 (Table 6.4). -/
inductive LaneOp where | add | min | max | and | or | xor | fadd | fmin | fmax
  deriving DecidableEq, Repr

/-- CCTL SUB 0 to 2 (R213). -/
inductive CctlOp where | wb | inv | wbinv
  deriving DecidableEq, Repr

/-- SRAM bank modes, in the order of BANKMODE's SUB values (R186, R214). -/
inductive BankMode where | cache | scratch | fifo
  deriving DecidableEq, Repr

/-- Atomic operations, SUB 0 to 9 (Table 9.11). -/
inductive AtomOp where | add | and | or | xor | min | max | exch | incw | decw | cas
  deriving DecidableEq, Repr

/-- FENCE SUB 0 to 2 (R246). -/
inductive FenceKind where | acq | rel | ar
  deriving DecidableEq, Repr

/-- COPY SUB 0 to 2 (R265). -/
inductive CopyKind where | lin | pat | peer
  deriving DecidableEq, Repr

/-- COLL SUB 0 to 4 (R267). -/
inductive CollOp where | allred | allgat | redsct | bcast | a2a
  deriving DecidableEq, Repr

/-- Classes of outstanding operations, in the order of WAITC's SUB values (Table 10.1). -/
inductive OpClass where | m | c | g | x
  deriving DecidableEq, Repr

/-- MMA and MMAS SUB 0 to 3 (R353, R354). -/
inductive MmaMode where | facc | wrap | sat | part
  deriving DecidableEq, Repr

/-- SPDM 1.3 requests answered over DOE (R483). -/
inductive SpdmMsg where
  | getVersion | getCapabilities | negotiateAlgorithms | getDigests | getCertificate | challenge | getMeasurements
  | keyExchange | finish | ideKm
  deriving DecidableEq, Repr

/-- Where a plain register write goes: a BAR0 offset (R471) or a system register of a partition, context and cluster. -/
inductive RegTarget where
  | bar0 (ofs : Nat)
  | sr (part ctx cluster num : Nat)
  deriving DecidableEq, Repr

/-- The cause codes of Table 12.4, in code order. -/
inductive Cause where
  | illOpc | illField | illLen | fetchStraddle | fetchXlate | fetchPerm | fetchText | pcWrap | pcAlign | runLong | priv
  | stallShort | regRange | regRoWrite | codeUnarrived | break | ldXlate | stXlate | ldPerm | stPerm | align | noncanon
  | winRange | privateForeign | atomStraddle | atomKind | scratchRange | bankMode | fifoTimeout | memPoison | regPoison
  | walkError | waiteqTimeout | ordReserved | hostError | peerError | fpInvalid | fpDivzero | fpOverflow | fpUnderflow
  | fpInexact | intDivzero | cvtRange | scaleInvalid | eszInvalid | quantSat | amaxNan | laneIndex | mxOperandXlate
  | mxOperandPerm | mxType | mxAccExhausted | mxAccUnmapped | mxBatchRange | mxMeta | mxPinTimeout | fnDomain | fnPool
  | fnLength | fnEmpty | fnNonfinite | fnRootsOver | fnFitCount | fnInterval | promiseMissed | copyFault | gatherFault
  | collFault | barrierInvalid | semInvalid | fetchwInvalid | waitcClass | allotExceeds | giveUnderflow | taskQueueInvalid
  | taskSuccessorFault | launchInvalid | frontierInvalid | frontierOverflow | roleInvalid | substWithdrawn | escapeOverflow
  | substTableError | substTextFault | substIneligible | substDisabled | trapSoft | preemptSoft | preemptForced | kill
  | stopPath | traceFull | mcHaltLine | mcLink | mcHbm | mcInternal
  deriving DecidableEq, Repr

/-- The code of a cause (Table 12.4): causes are listed in code order. -/
def Cause.code (c : Cause) : BitVec 8 := BitVec.ofNat 8 c.ctorIdx

/-- The steps of the SK-9 (spec/opcode_table.json), 182 instructions and then 84 events. -/
inductive Instr where
  /-- NOP (R89). -/
  | nop (f : X64)
  /-- RUNEND (R90). -/
  | runend (f : T96)
  /-- BRA (R91). -/
  | bra (f : T96)
  /-- BRC (R92). -/
  | brc (c : Cond) (f : T96)
  /-- BRU (R92). -/
  | bru (c : Cond) (f : T96)
  /-- BRANY (R92). -/
  | brany (c : Cond) (f : T96)
  /-- BRALL (R92). -/
  | brall (c : Cond) (f : T96)
  /-- JMPI (R93). -/
  | jmpi (f : T96)
  /-- CALL (R93). -/
  | call (f : T96)
  /-- CALLI (R93). -/
  | calli (f : T96)
  /-- RET (R93). -/
  | ret (f : T96)
  /-- RCVG (R94). -/
  | rcvg (f : T96)
  /-- ENDK (R95). -/
  | endk (f : T96)
  /-- YIELD (R96). -/
  | yield (f : T96)
  /-- IADD (R105). -/
  | iadd (sat : Bool) (f : X64)
  /-- ISUB (R105). -/
  | isub (sat : Bool) (f : X64)
  /-- IADDI (R105). -/
  | iaddi (sat : Bool) (f : I64)
  /-- IMUL (R106). -/
  | imul (f : X64)
  /-- IMULH (R106). -/
  | imulh (f : X64)
  /-- IMAD (R107). -/
  | imad (sat : Bool) (f : X64)
  /-- IMADW (R108). -/
  | imadw (f : X64)
  /-- IDIV (R109). -/
  | idiv (f : X64)
  /-- IREM (R109). -/
  | irem (f : X64)
  /-- IMIN (R110). -/
  | imin (f : X64)
  /-- IMAX (R110). -/
  | imax (f : X64)
  /-- IABS (R110). -/
  | iabs (f : X64)
  /-- INEG (R110). -/
  | ineg (f : X64)
  /-- AND (R111). -/
  | and (f : X64)
  /-- OR (R111). -/
  | or (f : X64)
  /-- XOR (R111). -/
  | xor (f : X64)
  /-- ANDN (R111). -/
  | andn (f : X64)
  /-- ORN (R111). -/
  | orn (f : X64)
  /-- XNOR (R111). -/
  | xnor (f : X64)
  /-- ANDI (R111). -/
  | andi (f : I64)
  /-- ORI (R111). -/
  | ori (f : I64)
  /-- XORI (R111). -/
  | xori (f : I64)
  /-- SHL (R112). -/
  | shl (f : X64)
  /-- SHRL (R112). -/
  | shrl (f : X64)
  /-- SHRA (R112). -/
  | shra (f : X64)
  /-- SHLI (R112). -/
  | shli (f : I64)
  /-- SHRLI (R112). -/
  | shrli (f : I64)
  /-- SHRAI (R112). -/
  | shrai (f : I64)
  /-- FSHR (R113). -/
  | fshr (f : X64)
  /-- BFX (R114). -/
  | bfx (f : X64)
  /-- BFI (R114). -/
  | bfi (f : X64)
  /-- POPC (R115). -/
  | popc (f : X64)
  /-- CLZ (R115). -/
  | clz (f : X64)
  /-- CTZ (R115). -/
  | ctz (f : X64)
  /-- BREV (R115). -/
  | brev (f : X64)
  /-- ICMP (R116). -/
  | icmp (c : Cmp) (f : X64)
  /-- ICMPI (R116). -/
  | icmpi (c : Cmp) (f : I64)
  /-- SEL (R117). -/
  | sel (f : X64)
  /-- MOV (R118). -/
  | mov (f : X64)
  /-- MOVI (R119). -/
  | movi (f : I64)
  /-- LEA (R120). -/
  | lea (f : X64)
  /-- IADD64 (R121). -/
  | iadd64 (f : X64)
  /-- ISUB64 (R121). -/
  | isub64 (f : X64)
  /-- CVTA (R122). -/
  | cvta (k : CvtaKind) (f : X64)
  /-- PERMB (R123). -/
  | permb (f : X64)
  /-- PACK (R124). -/
  | pack (f : X64)
  /-- UNPACK (R124). -/
  | unpack (f : X64)
  /-- FADD (R141). -/
  | fadd (t : FType) (f : X64)
  /-- FSUB (R141). -/
  | fsub (t : FType) (f : X64)
  /-- FMUL (R141). -/
  | fmul (t : FType) (f : X64)
  /-- FFMA (R141). -/
  | ffma (t : FType) (f : X64)
  /-- FMIN (R142). -/
  | fmin (f : X64)
  /-- FMAX (R142). -/
  | fmax (f : X64)
  /-- FMINN (R142). -/
  | fminn (f : X64)
  /-- FMAXN (R142). -/
  | fmaxn (f : X64)
  /-- FCMP (R143). -/
  | fcmp (c : FCmp) (f : X64)
  /-- FCLASS (R144). -/
  | fclass (f : X64)
  /-- FABS (R145). -/
  | fabs (f : X64)
  /-- FNEG (R145). -/
  | fneg (f : X64)
  /-- FCOPYSIGN (R145). -/
  | fcopysign (f : X64)
  /-- FRND (R146). -/
  | frnd (t : FType) (f : X64)
  /-- FSCALB (R147). -/
  | fscalb (t : FType) (f : X64)
  /-- FTWOSUM (R148). -/
  | ftwosum (f : X64)
  /-- FDOT2 (R149). -/
  | fdot2 (bf : Bool) (f : X64)
  /-- FDOT4Q (R150). -/
  | fdot4q (f : X64)
  /-- CVTFI (R151). -/
  | cvtfi (t : FType) (f : X64)
  /-- CVTIF (R152). -/
  | cvtif (t : FType) (f : X64)
  /-- CVTFF (R153). -/
  | cvtff (k : CvtffKind) (f : X64)
  /-- CVTQ (R155). -/
  | cvtq (f : X64)
  /-- CVTDQ (R156). -/
  | cvtdq (f : X64)
  /-- RCP (R162). -/
  | rcp (f : X64)
  /-- RSQ (R162). -/
  | rsq (f : X64)
  /-- SQRT (R162). -/
  | sqrt (f : X64)
  /-- DIV (R162). -/
  | div (f : X64)
  /-- EXP2 (R162). -/
  | exp2 (f : X64)
  /-- LOG2 (R162). -/
  | log2 (f : X64)
  /-- SINPI (R162). -/
  | sinpi (f : X64)
  /-- COSPI (R162). -/
  | cospi (f : X64)
  /-- TANH (R162). -/
  | tanh (f : X64)
  /-- SIGM (R162). -/
  | sigm (f : X64)
  /-- SHFL (R165). -/
  | shfl (m : ShflMode) (f : X64)
  /-- BCAST (R166). -/
  | bcast (f : X64)
  /-- VOTE (R167). -/
  | vote (m : VoteMode) (f : X64)
  /-- LRED (R168). -/
  | lred (op : LaneOp) (f : X64)
  /-- LSCAN (R168). -/
  | lscan (op : LaneOp) (f : X64)
  /-- MATCH (R170). -/
  | matchLanes (f : X64)
  /-- LEADER (R170). -/
  | leader (f : X64)
  /-- LD (R206). -/
  | ld (f : A96)
  /-- ST (R206). -/
  | st (f : A96)
  /-- LDS (R207). -/
  | lds (f : A96)
  /-- STS (R207). -/
  | sts (f : A96)
  /-- LDT (R208). -/
  | ldt (f : A96)
  /-- STT (R208). -/
  | stt (f : A96)
  /-- PF (R209). -/
  | pf (f : A96)
  /-- FPUSH (R210). -/
  | fpush (f : A96)
  /-- FPOP (R210). -/
  | fpop (f : A96)
  /-- REGPF (R212). -/
  | regpf (w1 : Bool) (f : A96)
  /-- CCTL (R213). -/
  | cctl (op : CctlOp) (f : A96)
  /-- BANKMODE (R214). -/
  | bankmode (m : BankMode) (f : X64)
  /-- SCRCFG (R216). -/
  | scrcfg (clear : Bool) (f : X64)
  /-- ATOM (R241). -/
  | atom (op : AtomOp) (f : A96)
  /-- ATOMC (R242). -/
  | atomc (f : A96)
  /-- ATOMSC (R243). -/
  | atomsc (op : AtomOp) (f : A96)
  /-- RED (R244). -/
  | red (op : AtomOp) (f : A96)
  /-- ATOMS (R245). -/
  | atoms (op : AtomOp) (f : A96)
  /-- FENCE (R246). -/
  | fence (k : FenceKind) (f : X64)
  /-- WAITEQ (R247). -/
  | waiteq (ne : Bool) (f : A96)
  /-- COPY (R265). -/
  | copy (k : CopyKind) (f : X64)
  /-- GATHER (R266). -/
  | gather (f : X64)
  /-- COLL (R267). -/
  | coll (op : CollOp) (f : X64)
  /-- WAITC (R268). -/
  | waitc (k : OpClass) (f : T96)
  /-- SLEEPT (R269). -/
  | sleept (f : T96)
  /-- BAR (R272). -/
  | bar (f : T96)
  /-- BARA (R272). -/
  | bara (f : X64)
  /-- BARW (R272). -/
  | barw (f : T96)
  /-- SEMP (R274). -/
  | semp (f : T96)
  /-- SEMV (R274). -/
  | semv (f : X64)
  /-- FETCHW (R275). -/
  | fetchw (f : X64)
  /-- IFENCE (R276). -/
  | ifence (f : T96)
  /-- MMA (R370). -/
  | mma (m : MmaMode) (f : X64)
  /-- MMAS (R370). -/
  | mmas (m : MmaMode) (f : X64)
  /-- MCOMP (R371). -/
  | mcomp (f : X64)
  /-- MSACC (R372). -/
  | msacc (f : X64)
  /-- MBATCH (R373). -/
  | mbatch (f : X64)
  /-- MWAIT (R374). -/
  | mwait (f : T96)
  /-- MREL (R375). -/
  | mrel (f : X64)
  /-- MZERO (R375). -/
  | mzero (f : X64)
  /-- MRDA (R376). -/
  | mrda (f : X64)
  /-- MWRA (R376). -/
  | mwra (f : X64)
  /-- MSTA (R376). -/
  | msta (f : X64)
  /-- MLDA (R376). -/
  | mlda (f : X64)
  /-- MSTAT (R377). -/
  | mstat (f : X64)
  /-- FNLD (R389). -/
  | fnld (f : X64)
  /-- FNST (R389). -/
  | fnst (f : X64)
  /-- FNFIT (R392). -/
  | fnfit (f : X64)
  /-- FNEVAL (R393). -/
  | fneval (f : X64)
  /-- FNADD (R394). -/
  | fnadd (f : X64)
  /-- FNSUB (R394). -/
  | fnsub (f : X64)
  /-- FNMUL (R394). -/
  | fnmul (f : X64)
  /-- FNAFF (R395). -/
  | fnaff (f : X64)
  /-- FNCOMP (R396). -/
  | fncomp (f : X64)
  /-- FNDIFF (R397). -/
  | fndiff (f : X64)
  /-- FNINT (R397). -/
  | fnint (f : X64)
  /-- FNQUAD (R398). -/
  | fnquad (f : X64)
  /-- FNROOT (R399). -/
  | fnroot (f : X64)
  /-- FNDOM (R400). -/
  | fndom (f : X64)
  /-- FNINFO (R401). -/
  | fninfo (f : X64)
  /-- FNREL (R401). -/
  | fnrel (f : X64)
  /-- ACQ (R312). -/
  | acq (f : T96)
  /-- GIVE (R313). -/
  | give (f : X64)
  /-- CLAIM (R314). -/
  | claim (f : T96)
  /-- TSPAWN (R315). -/
  | tspawn (f : X64)
  /-- TPOP (R316). -/
  | tpop (f : T96)
  /-- TDONE (R317). -/
  | tdone (f : X64)
  /-- LAUNCH (R318). -/
  | launch (f : X64)
  /-- SBRD (R424). -/
  | sbrd (f : X64)
  /-- ESCRD (R425). -/
  | escrd (f : X64)
  /-- SBWD (R426). -/
  | sbwd (f : X64)
  /-- SBCLR (R427). -/
  | sbclr (f : X64)
  /-- TRAP (R340). -/
  | trap (f : T96)
  /-- RTE (R341). -/
  | rte (f : T96)
  /-- BRK (R342). -/
  | brk (f : T96)
  /-- SRRD (R343). -/
  | srrd (f : I64)
  /-- SRWR (R343). -/
  | srwr (f : I64)
  /-- CYCRD (R344). -/
  | cycrd (f : X64)
  /-- TRMARK (R448). -/
  | trmark (f : X64)
  /-- EVRD (R345). -/
  | evrd (f : X64)
  /-- CKPT (R346). -/
  | ckpt (f : X64)
  /-- SLOT_HANDOUT (R72). -/
  | slotHandout (cluster spindle slot : Nat)
  /-- MISS_DATA_LANDS (R73). -/
  | missDataLands (fib : Nat)
  /-- SFU_RESULT_LANDS (R158). -/
  | sfuResultLands (cluster spindle : Nat)
  /-- DEFERRED_TRAP_DELIVERY (R160). -/
  | deferredTrapDelivery (fib : Nat)
  /-- STORE_PERFORMED (R200). -/
  | storePerformed (cluster spindle idx : Nat)
  /-- ATOMIC_RETURN (R239). -/
  | atomicReturn (fib : Nat)
  /-- WAITEQ_WAKE (R247). -/
  | waiteqWake (fib : Nat)
  /-- WALK_COMPLETE (R180). -/
  | walkComplete (cluster idx : Nat)
  /-- PAGE_REQUEST_DRAIN (R181). -/
  | pageRequestDrain (die ctx : Nat)
  /-- POOL_ENTRY_GRANT (R292). -/
  | poolEntryGrant (unit loc : Nat)
  /-- BANK_MODE_CHANGE_END (R186). -/
  | bankModeChangeEnd (cluster bank : Nat)
  /-- FIFO_TIMEOUT (R189). -/
  | fifoTimeout (fib : Nat)
  /-- WAITEQ_TIMEOUT (R247). -/
  | waiteqTimeout (fib : Nat)
  /-- ENGINE_OP_COMPLETE (R255). -/
  | engineOpComplete (strand : Nat) (k : OpClass) (idx : Nat)
  /-- FETCHW_REPLY (R275). -/
  | fetchwReply (part idx : Nat)
  /-- SLEEPT_WAKE (R269). -/
  | sleeptWake (fib : Nat)
  /-- YIELD_WAKE (R96). -/
  | yieldWake (fib : Nat)
  /-- IFENCE_DONE (R276). -/
  | ifenceDone (fib : Nat)
  /-- MATRIX_OP_PERFORM (R364). -/
  | matrixOpPerform (cluster idx : Nat)
  /-- MX_PIN_TIMEOUT (R349). -/
  | mxPinTimeout (cluster idx : Nat)
  /-- MX_ACC_EXHAUSTED (R350). -/
  | mxAccExhausted (cluster idx : Nat)
  /-- FN_OP_PERFORM (R381). -/
  | fnOpPerform (strand : Nat)
  /-- LAUNCH_ACCEPT (R288). -/
  | launchAccept (part : Nat) (device : Bool)
  /-- LQ_RECALL (R474). -/
  | lqRecall (part : Nat)
  /-- SKEIN_PLACE (R286). -/
  | skeinPlace (part : Nat)
  /-- SKEIN_GRANT (R294). -/
  | skeinGrant (skein : Nat)
  /-- TASK_PUSH_ACCEPT (R315). -/
  | taskPushAccept (fib : Nat)
  /-- POINT_COMPLETE (R306). -/
  | pointComplete (skein : Nat)
  /-- SLICE_END (R330). -/
  | sliceEnd (ctx : Nat)
  /-- INSTRUCTION_LEVEL_HALT (R329). -/
  | instructionLevelHalt (ctx : Nat)
  /-- CONTEXT_SAVE_END (R329). -/
  | contextSaveEnd (ctx : Nat)
  /-- KILL (R334). -/
  | kill (ctx : Nat)
  /-- CONTEXT_RESTORE (R295). -/
  | contextRestore (ctx : Nat)
  /-- HALT_LINE (R335). -/
  | haltLine (part : Nat) (cause : Cause)
  /-- CODE_ARRIVAL (R463). -/
  | codeArrival (fib : Nat)
  /-- CODE_UNARRIVED (R463). -/
  | codeUnarrived (fib : Nat)
  /-- CKPT_TAKE (R346). -/
  | ckptTake (part : Nat)
  /-- TRIAL (R408). -/
  | trial (cluster job sample : Nat) (cand : List (BitVec 64))
  /-- CANDIDATE_INSTALL (R408). -/
  | candidateInstall (cluster job : Nat) (cand : List (BitVec 64))
  /-- EPHEMERIS_TICK (R432). -/
  | ephemerisTick
  /-- TRACE_DRAIN (R438). -/
  | traceDrain (cluster : Nat)
  /-- ARB_AGE_STEP (R456). -/
  | arbAgeStep
  /-- MEASURE_PASS_END (R447). -/
  | measurePassEnd (part : Nat)
  /-- XL_INV_WRITE (R182). -/
  | xlInvWrite (ctx : Nat) (v : BitVec 32)
  /-- XL_INV_DONE (R182). -/
  | xlInvDone (ctx : Nat)
  /-- FQ_RESUME (R325). -/
  | fqResume (ctx : Nat) (v : BitVec 32)
  /-- DBG_STOP (R440). -/
  | dbgStop (ctx cluster sid path : Nat)
  /-- DBG_RELEASE (R442). -/
  | dbgRelease (ctx cluster sid path : Nat)
  /-- DBG_STEP (R442). -/
  | dbgStep (ctx cluster sid path : Nat)
  /-- DBG_STOP_ALL (R440). -/
  | dbgStopAll (ctx : Nat)
  /-- DBG_RELEASE_ALL (R442). -/
  | dbgReleaseAll (ctx : Nat)
  /-- CMP_PARK (R468). -/
  | cmpPark (part : Nat) (exempt : Option Nat)
  /-- CMP_UNPARK (R468). -/
  | cmpUnpark (part : Nat)
  /-- CMP_FWD (R469). -/
  | cmpFwd (part : Nat)
  /-- CMP_FWD_DONE (R469). -/
  | cmpFwdDone (part : Nat)
  /-- BP_LIM_WRITE (R458). -/
  | bpLimWrite (part ctx : Nat) (v : BitVec 32)
  /-- TQ_CFG_WRITE (R303). -/
  | tqCfgWrite (die queue : Nat) (v : BitVec 32)
  /-- EV_SEL_WRITE (R431). -/
  | evSelWrite (cluster : Nat) (v : BitVec 32)
  /-- EPH_CTL_WRITE (R432). -/
  | ephCtlWrite (part : Nat) (v : BitVec 32)
  /-- MR_CTL_WRITE (R446). -/
  | mrCtlWrite (part : Nat) (v : BitVec 32)
  /-- LQ_ENABLE (R473). -/
  | lqEnable (part : Nat) (en : Bool)
  /-- REGISTER_WRITE (R5, R471). -/
  | registerWrite (t : RegTarget) (v : BitVec 64)
  /-- FW_LOAD (R479). -/
  | fwLoad (ofs : Nat) (bytes : List (BitVec 8))
  /-- FW_ACTIVATE (R481). -/
  | fwActivate
  /-- PART_WR (R479). -/
  | partWr (part ctx sr : Nat) (v : BitVec 32)
  /-- PART_RD (R479). -/
  | partRd (part ctx sr : Nat)
  /-- ROLLBACK (R338). -/
  | rollback (part : Nat)
  /-- PART_RESET (R479). -/
  | partReset (part : Nat)
  /-- PEER_WR (R477). -/
  | peerWr (part idx : Nat) (bytes : List (BitVec 8))
  /-- NEIGH_WR (R477). -/
  | neighWr (idx : Nat) (bytes : List (BitVec 8))
  /-- POWER_LIMIT (R479). -/
  | powerLimit (watts : Nat)
  /-- TELEMETRY (R479). -/
  | telemetry
  /-- CLOCK_CHANGE (R484). -/
  | clockChange (k : Nat)
  /-- RESET_RELEASE (R480). -/
  | resetRelease
  /-- STAGE_A_DONE (R480). -/
  | stageADone (err : Nat)
  /-- STAGE_B_DONE (R480). -/
  | stageBDone (err : Nat)
  /-- STAGE_C_DONE (R480). -/
  | stageCDone (err : Nat)
  /-- STAGE_D_DONE (R480). -/
  | stageDDone (err : Nat)
  /-- HOST_LINK_LOSS (R476). -/
  | hostLinkLoss
  /-- IDE_INTEGRITY_FAIL (R476). -/
  | ideIntegrityFail
  /-- HOST_CXL_MEM_ACCESS (R232). -/
  | hostCxlMemAccess (ofs : Nat) (write : Option (List (BitVec 8))) (len : Nat)
  /-- PEER_WRITE (R478). -/
  | peerWrite (part idx ofs : Nat) (bytes : List (BitVec 8))
  /-- SPDM_MESSAGE (R483). -/
  | spdmMessage (m : SpdmMsg) (bytes : List (BitVec 8))
  /-- PORT_DOWN (R478). -/
  | portDown (port : Nat)
  deriving DecidableEq, Repr

/-- Extension word 1, zero where the instruction has none (R39: LEN 0b00 behaves as zero modifiers). -/
def Ext.w1 : Ext → BitVec 32
  | .l64 => 0
  | .l96 w => w
  | .l128 w _ => w

/-- The guard word, where there is one. -/
def Ext.guard : Ext → Option (BitVec 32)
  | .l128 _ g => some g
  | _ => none

/-- Length in bytes (R25). -/
def Ext.bytes : Ext → Nat
  | .l64 => 8
  | .l96 _ => 12
  | .l128 _ _ => 16

end Sys2Proof
end

