-- ==== Sys2Proof/Machine/Fields.lean ====
section
/-! DEFINITION. The static decode checks of an instruction: steps 14 and 15 of Table 2.7 (R39, R41 to R44 and the field tables
of every chapter), the system register numbers with their levels (R343), and the registers an instruction names (R15, R40). -/

namespace Sys2Proof

/-- Elements per word, `n = 32 ÷ ESZ` (R36). -/
def nElems (esz : BitVec 2) : Nat := 2 ^ esz.toNat

/-- Element width in bits (Table 2.1). -/
def elemBits (esz : BitVec 2) : Nat := 32 / nElems esz

/-- How an entry uses an 8-bit register field. -/
inductive Use where
  | zero
  | reg
  | pair
  | acc
  | fun_
  | bar
  deriving DecidableEq, Repr

/-- How an entry uses a modifier byte (Tables 4.1 and 5.7). -/
inductive ModUse where
  | none
  | full
  | raw
  | noSel
  | selByte
  | selByteOnly
  deriving DecidableEq, Repr

/-- The use an entry makes of every field of an X64 or M96 instruction: R43's "field that the instruction uses". -/
structure XUse where
  d : Use := .reg
  a : Use := .reg
  b : Use := .reg
  c : Use := .zero
  ma : ModUse := .none
  mb : ModUse := .none
  mc : ModUse := .none
  /-- Whether word 1 holds modifier bytes and DMASK (R31); otherwise it is laid out by the entry. -/
  mods : Bool := true
  /-- Number of DMASK bits, 0 where DMASK does not apply. -/
  dm : Nat := 0
  flg : BitVec 4 := 0
  imm : BitVec 8 := 0
  uOk : Bool := false
  deriving DecidableEq, Repr

/-- R41: an even register in v0–v238 or q0–q6. -/
def pairOk (v : BitVec 8) : Bool := v.toNat % 2 == 0 && decide (v.toNat ≤ 246)

/-- R41, R42: what each use of a register field requires. -/
def useOk (u : Use) (v : BitVec 8) : Bool :=
  match u with
  | .zero => v == 0
  | .reg => true
  | .pair => pairOk v
  | .acc => decide (v.toNat < 32)
  | .fun_ => decide (v.toNat < 16)
  | .bar => decide (v.toNat < 16)

/-- SEL and SWZ of a modifier byte for an operand of `n` elements (R39). -/
def selOk (n : Nat) (m : BitVec 8) : Bool :=
  let sel := (m.extractLsb' 0 3).toNat
  let swz := m.getLsbD 3
  decide (sel < n) && (!swz || n != 1) && (sel == 0 || (swz && m.extractLsb' 4 2 == 0))

/-- R37, R39: a modifier byte under the use its entry gives the operand. A swizzle pattern with SWZ = 0 is not examined
(DEDUCED, log entry 14). -/
def modOk (use : ModUse) (n : Nat) (m : BitVec 8) : Bool :=
  match use with
  | .none => m == 0
  | .full => selOk n m
  | .raw => selOk n m && m.extractLsb' 6 2 == 0
  | .noSel => m.extractLsb' 0 4 == 0
  | .selByte => decide ((m.extractLsb' 0 3).toNat < 4) && m.extractLsb' 3 3 == 0
  | .selByteOnly => decide ((m.extractLsb' 0 3).toNat < 4) && m.extractLsb' 3 5 == 0

/-- R32: a guard word with GON = 0 is all zero below bit 14, and bits [31:15] are reserved. -/
def guardOk (g : Option (BitVec 32)) : Bool :=
  match g with
  | none => true
  | some g => g.extractLsb' 15 17 == 0 && (g.getLsbD 14 || g == 0)

def X64.moda (f : X64) : BitVec 8 := f.ext.w1.extractLsb' 0 8
def X64.modb (f : X64) : BitVec 8 := f.ext.w1.extractLsb' 8 8
def X64.modc (f : X64) : BitVec 8 := f.ext.w1.extractLsb' 16 8

/-- DMASK as written; R39 gives LEN 0b00 the value with bits 0 to n−1 set. -/
def X64.dmaskRaw (f : X64) : BitVec 8 := f.ext.w1.extractLsb' 24 8

/-- The element write mask of an instruction with `n` DMASK bits (R39). -/
def X64.dmask (f : X64) (n : Nat) : BitVec 8 :=
  match f.ext with
  | .l64 => BitVec.ofNat 8 (2 ^ n - 1)
  | _ => f.dmaskRaw

/-- Whether the instruction has word 1 (LEN 0b01 or 0b10). -/
def X64.isLong (f : X64) : Bool :=
  match f.ext with
  | .l64 => false
  | _ => true

/-- R38, R39, R41 to R43 for an X64 or M96 instruction. `na` and `nc` are the element counts by which operands A and C are
prepared (1 for an operand read as one word, R36). -/
def xFieldsOk (f : X64) (x : XUse) (na nb nc : Nat) : Bool :=
  useOk x.d f.d && useOk x.a f.a && useOk x.b f.b && useOk x.c f.c &&
  (f.flg &&& ~~~x.flg) == 0 && (f.imm8 &&& ~~~x.imm) == 0 && (x.uOk || f.u == 0) && guardOk f.ext.guard &&
  (!x.mods ||
    (modOk x.ma na f.moda && modOk x.mb nb f.modb && modOk x.mc nc f.modc && decide (f.dmaskRaw.toNat < 2 ^ x.dm)))

/-- Type code of an eight-bit float (Table 5.4, codes 0x01 to 0x37). -/
def isK8 (t : BitVec 8) : Bool := t.extractLsb' 6 2 == 0 && t.extractLsb' 3 1 == 0 && t.extractLsb' 0 3 != 0

/-- Element bits of a listed type code, or none (Table 5.4). -/
def typeBits (t : BitVec 8) : Option Nat :=
  if isK8 t then some 8
  else if t == 0x40 || t == 0x41 then some 16
  else if t == 0x50 || t == 0x51 then some 8
  else if t == 0x52 || t == 0x53 then some 4
  else none

/-- The eight-bit types of CVTQ, CVTDQ and FDOT4Q (R150, R155, R156). -/
def isByteType (t : BitVec 8) : Bool := typeBits t == some 8

/-- ESZ code of an element width. -/
def eszOf (bits : Nat) : BitVec 2 := if bits == 32 then 0 else if bits == 16 then 1 else if bits == 8 then 2 else 3

/-- ESZ that a format selects (R139). -/
def FType.esz : FType → BitVec 2
  | .f32 => 0
  | _ => 1

/-- FLG[1:0] as a type selector; 0b11 is none (R140, R161). -/
def ftypeOf (flg : BitVec 4) : Option FType :=
  match (flg.extractLsb' 0 2).toNat with
  | 0 => some .f32
  | 1 => some .f16
  | 2 => some .bf16
  | _ => none

/-- An atomic operand type (Table 9.10). -/
inductive AType where | s32 | n32 | s64 | n64 | f32 | f16 | bf16
  deriving DecidableEq, Repr

def aTypeOf (t : BitVec 8) : Option AType :=
  match t.toNat with
  | 0x10 => some .s32
  | 0x11 => some .n32
  | 0x12 => some .s64
  | 0x13 => some .n64
  | 0x20 => some .f32
  | 0x21 => some .f16
  | 0x22 => some .bf16
  | _ => none

def AType.isFloat : AType → Bool
  | .f32 | .f16 | .bf16 => true
  | _ => false

def AType.is64 : AType → Bool
  | .s64 | .n64 => true
  | _ => false

/-- The operations each type allows (Table 9.10). -/
def AType.allows (t : AType) (op : AtomOp) : Bool :=
  match t, op with
  | .n32, _ | .n64, _ => true
  | .s32, .incw | .s32, .decw | .s64, .incw | .s64, .decw => false
  | .s32, _ | .s64, _ => true
  | _, .add | _, .min | _, .max => true
  | _, _ => false

/-! ### System registers -/

/-- Privilege levels (R22). -/
inductive Level where | user | super | mach
  deriving DecidableEq, Repr

def Level.rank : Level → Nat
  | .user => 0
  | .super => 1
  | .mach => 2

/-- What the tables of the chapters say of a system register number: level of a read, level of a write, and whether it is
read-only (R183, R261, R303, R323, R368, R387, R421, R439, R452). -/
structure SrInfo where
  rd : Level
  wr : Level
  ro : Bool := false
  deriving DecidableEq, Repr

/-- The defined system register numbers (R343). -/
def srInfo (n : Nat) : Option SrInfo :=
  if n == 0x000 || n == 0x061 then some ⟨.user, .user, false⟩
  else if n == 0x002 || n == 0x003 || n == 0x008 || n == 0x010 || n == 0x018 then some ⟨.super, .super, false⟩
  else if (0x009 ≤ n && n ≤ 0x00F) || n == 0x024 || n == 0x025 || n == 0x02B || n == 0x02C then some ⟨.super, .super, true⟩
  else if n == 0x020 || n == 0x021 || n == 0x022 || n == 0x028 || n == 0x029 || n == 0x02A || n == 0x030 || n == 0x031 then
    some ⟨.super, .mach, false⟩
  else if (0x040 ≤ n && n ≤ 0x046) || n == 0x060 || (0x062 ≤ n && n ≤ 0x064) || (0x080 ≤ n && n ≤ 0x082) || n == 0x0A8 ||
      n == 0x0B0 || n == 0x100 then some ⟨.user, .user, true⟩
  else if n == 0x084 || n == 0x085 || n == 0x0A2 || n == 0x0A3 || n == 0x0B2 || n == 0x0B3 || n == 0x0C1 || n == 0x0E4 ||
      n == 0x0EA || n == 0x0EF || n == 0x0F9 || n == 0x0FD || n == 0x112 || n == 0x213 then some ⟨.super, .super, true⟩
  else if n == 0x0E6 || n == 0x206 then some ⟨.user, .super, false⟩
  else if n == 0x0FC || n == 0x0FE || n == 0x0FF || n == 0x101 || n == 0x102 || n == 0x104 || n == 0x105 || n == 0x106 ||
      n == 0x108 || n == 0x109 || n == 0x111 then some ⟨.super, .mach, false⟩
  else if n == 0x0A0 || n == 0x0A1 || n == 0x0C0 || (0x0C2 ≤ n && n ≤ 0x0C4) || (0x0E0 ≤ n && n ≤ 0x0E3) || n == 0x0E5 ||
      (0x0E7 ≤ n && n ≤ 0x0E9) || (0x0EB ≤ n && n ≤ 0x0EE) || (0x0F0 ≤ n && n ≤ 0x0F8) || n == 0x0FA || n == 0x0FB ||
      n == 0x10A || n == 0x110 || (0x118 ≤ n && n ≤ 0x11B) || (0x200 ≤ n && n ≤ 0x202) || n == 0x204 || n == 0x205 ||
      (0x208 ≤ n && n ≤ 0x20A) || (0x210 ≤ n && n ≤ 0x212) || n == 0x214 then some ⟨.super, .super, false⟩
  else none

/-- The system register an SRRD or SRWR names (Table 12.8). -/
def I64.sr (f : I64) : Nat := (f.imm26.extractLsb' 0 12).toNat

/-! ### The field uses of each entry -/

/-- Default of the integer range: A and B with arithmetic modifiers, DMASK, FLG0 (Table 4.1). -/
def uArith (esz : BitVec 2) : XUse := { ma := .full, mb := .full, dm := nElems esz, flg := 1, uOk := true }

/-- Raw-bit instructions of two sources (R37). -/
def uRaw (esz : BitVec 2) : XUse := { ma := .raw, mb := .raw, dm := nElems esz, uOk := true }

/-- Floating-point instructions of two sources (Table 5.7). -/
def uFp (esz : BitVec 2) : XUse := { ma := .full, mb := .full, dm := nElems esz, flg := 3, uOk := true }

/-- Instructions whose fields other than those given are zero and that have no modifiers (R205, R264, R311, R339, R423). -/
def uPlain : XUse := { d := .zero, a := .zero, b := .zero }

/-- M96 forms: no modifier bytes (R35). -/
def uM96 : XUse := { d := .zero, a := .zero, b := .zero, mods := false }

/-- The field uses of an X64 or M96 instruction, with the element counts of its prepared operands A, B and C; none for other
formats and for events. -/
def Instr.xuse : Instr → Option (X64 × XUse × Nat × Nat × Nat)
  | .nop f => some (f, uPlain, 1, 1, 1)
  | .iadd _ f | .isub _ f | .imul f | .imulh f | .idiv f | .irem f | .imin f | .imax f =>
    some (f, uArith f.esz, nElems f.esz, nElems f.esz, 1)
  | .imad _ f => some (f, { uArith f.esz with c := .reg, mc := .full }, nElems f.esz, nElems f.esz, nElems f.esz)
  | .imadw f => some (f, { uArith f.esz with d := .pair, c := .pair, dm := 0 }, nElems f.esz, nElems f.esz, 1)
  | .iabs f | .ineg f =>
    some (f, { uArith f.esz with b := .zero, mb := .none, flg := 3 }, nElems f.esz, 1, 1)
  | .and f | .or f | .xor f | .andn f | .orn f | .xnor f | .shl f | .shrl f | .shra f =>
    some (f, uRaw f.esz, nElems f.esz, nElems f.esz, 1)
  | .fshr f | .bfi f => some (f, { uRaw f.esz with c := .reg, mc := .raw }, nElems f.esz, nElems f.esz, nElems f.esz)
  | .bfx f => some (f, { uRaw f.esz with c := .reg, mc := .raw, flg := 1 }, nElems f.esz, nElems f.esz, nElems f.esz)
  | .popc f | .clz f | .ctz f | .brev f | .mov f =>
    some (f, { uRaw f.esz with b := .zero, mb := .none }, nElems f.esz, 1, 1)
  | .icmp _ f => some (f, { uArith f.esz with dm := 0, imm := 0xFF }, nElems f.esz, nElems f.esz, 1)
  | .sel f => some (f, { uRaw f.esz with c := .reg, imm := 0xFF }, nElems f.esz, nElems f.esz, 1)
  | .lea f =>
    some (f, { d := .pair, a := .pair, mb := .full, flg := 1, imm := 7, uOk := true }, 1, nElems f.esz, 1)
  | .iadd64 f | .isub64 f => some (f, { d := .pair, a := .pair, b := .pair, uOk := true }, 1, 1, 1)
  | .cvta k f =>
    some (f, { d := if k = .scr ∨ k = .prv then .pair else .reg, a := if k = .scr then .reg else .pair, b := .zero,
               uOk := true }, 1, 1, 1)
  | .permb f => some (f, { c := .reg, dm := 4, uOk := true }, 1, 1, 1)
  | .pack f => some (f, { dm := nElems f.esz, flg := 3, uOk := true }, 1, 1, 1)
  | .unpack f => some (f, { b := .zero, flg := 1, imm := 1, uOk := true }, 1, 1, 1)
  | .fadd _ f | .fsub _ f | .fmul _ f => some (f, uFp f.esz, nElems f.esz, nElems f.esz, 1)
  | .ffma _ f => some (f, { uFp f.esz with c := .reg, mc := .full }, nElems f.esz, nElems f.esz, nElems f.esz)
  | .fmin f | .fmax f | .fminn f | .fmaxn f => some (f, uFp f.esz, nElems f.esz, nElems f.esz, 1)
  | .fcmp _ f => some (f, { uFp f.esz with dm := 0, imm := 0xFF }, nElems f.esz, nElems f.esz, 1)
  | .fclass f | .fabs f | .fneg f => some (f, { uFp f.esz with b := .zero, mb := .none }, nElems f.esz, 1, 1)
  | .fcopysign f => some (f, uFp f.esz, nElems f.esz, nElems f.esz, 1)
  | .frnd _ f => some (f, { uFp f.esz with b := .zero, mb := .none, flg := 7 }, nElems f.esz, 1, 1)
  | .fscalb _ f => some (f, { uFp f.esz with mb := .raw }, nElems f.esz, nElems f.esz, 1)
  | .ftwosum f => some (f, { uFp f.esz with d := .pair, flg := 0, dm := 0 }, nElems f.esz, nElems f.esz, 1)
  | .fdot2 _ f => some (f, { uFp f.esz with c := .reg, mc := .noSel, dm := 0 }, nElems f.esz, nElems f.esz, 1)
  | .fdot4q f =>
    some (f, { uFp f.esz with ma := .raw, mb := .raw, c := .reg, mc := .noSel, dm := 0, imm := 0xFF }, nElems f.esz,
      nElems f.esz, 1)
  | .cvtfi _ f => some (f, { uFp f.esz with b := .zero, mb := .none, flg := 15 }, nElems f.esz, 1, 1)
  | .cvtif _ f => some (f, { uFp f.esz with b := .zero, mb := .none, flg := 7 }, nElems f.esz, 1, 1)
  | .cvtff k f =>
    match k with
    | .toF16 | .toBf16 => some (f, { uFp f.esz with ma := .noSel, mb := .noSel }, 1, 1, 1)
    | .fromF16 | .fromBf16 =>
      some (f, { uFp f.esz with b := .zero, ma := .noSel, mb := .none, flg := 0, dm := 0, imm := 1 }, 1, 1, 1)
    | .f16ToBf16 | .bf16ToF16 => some (f, { uFp f.esz with b := .zero, mb := .none }, nElems f.esz, 1, 1)
  | .cvtq f => some (f, { uFp f.esz with ma := .selByte, mb := .none, imm := 0xFF }, 1, 1, 1)
  | .cvtdq f => some (f, { uFp f.esz with ma := .selByteOnly, mb := .none, dm := 0, imm := 0xFF }, 1, 1, 1)
  | .rcp f | .rsq f | .sqrt f | .exp2 f | .log2 f | .sinpi f | .cospi f | .tanh f | .sigm f =>
    some (f, { uFp f.esz with b := .zero, mb := .none }, nElems f.esz, 1, 1)
  | .div f => some (f, uFp f.esz, nElems f.esz, nElems f.esz, 1)
  | .shfl _ f => some (f, { imm := 0xFF }, 1, 1, 1)
  | .bcast f => some (f, { b := .zero, imm := 0xFF }, 1, 1, 1)
  | .vote _ f => some (f, { b := .zero, imm := 0xFF }, 1, 1, 1)
  | .lred op f => some (f, { b := .zero, flg := if op = .min ∨ op = .max then 1 else 0 }, 1, 1, 1)
  | .lscan op f => some (f, { b := .zero, flg := if op = .min ∨ op = .max then 3 else 2 }, 1, 1, 1)
  | .matchLanes f => some (f, { b := .zero }, 1, 1, 1)
  | .leader f => some (f, { a := .zero, b := .zero }, 1, 1, 1)
  | .bankmode _ f => some (f, { uPlain with imm := 0x0F }, 1, 1, 1)
  | .scrcfg clr f =>
    some (f, { uPlain with a := if clr then .zero else .reg, b := if clr then .zero else .reg, imm := 3 }, 1, 1, 1)
  | .fence _ f => some (f, { uPlain with imm := 7 }, 1, 1, 1)
  | .copy _ f => some (f, { d := .reg, a := .pair, b := .pair, c := .reg, mods := false }, 1, 1, 1)
  | .gather f => some (f, { d := .pair, a := .pair, b := .reg, c := .reg, mods := false }, 1, 1, 1)
  | .coll _ f => some (f, { d := .pair, a := .pair, b := .reg, mods := false }, 1, 1, 1)
  | .bara f =>
    some (f, { uPlain with d := .reg, a := if f.flg.getLsbD 0 then .reg else .bar, b := .reg, flg := 1 }, 1, 1, 1)
  | .semv f => some (f, { uPlain with a := .reg, imm := 0xFF }, 1, 1, 1)
  | .fetchw f => some (f, { uPlain with a := .reg, b := .pair }, 1, 1, 1)
  | .mma _ f | .mmas _ f => some (f, { uM96 with d := .acc, a := .pair, b := .pair, c := .reg }, 1, 1, 1)
  | .mcomp f => some (f, { uM96 with d := .pair, a := .pair, c := .reg }, 1, 1, 1)
  | .msacc f => some (f, { uM96 with d := .acc, a := .acc, b := .reg, c := .reg }, 1, 1, 1)
  | .mbatch f => some (f, { uM96 with d := .reg }, 1, 1, 1)
  | .mrel f | .mzero f => some (f, { uM96 with d := .acc }, 1, 1, 1)
  | .mrda f | .mwra f => some (f, { uM96 with d := .acc, a := .reg, b := .reg, flg := 3 }, 1, 1, 1)
  | .msta f | .mlda f => some (f, { uM96 with d := .acc, a := .pair, b := .reg, flg := 3 }, 1, 1, 1)
  | .mstat f => some (f, { uM96 with d := .reg, a := .reg }, 1, 1, 1)
  | .fnld f => some (f, { uM96 with d := .fun_, a := .pair, b := .reg, c := .pair }, 1, 1, 1)
  | .fnst f => some (f, { uM96 with d := .reg, a := .pair, b := .fun_, c := .reg }, 1, 1, 1)
  | .fnfit f => some (f, { uM96 with d := .fun_, a := .reg, c := .pair, imm := 0xFF }, 1, 1, 1)
  | .fneval f => some (f, { uM96 with d := .reg, a := .fun_, b := .reg }, 1, 1, 1)
  | .fnadd f | .fnsub f | .fnmul f | .fncomp f => some (f, { uM96 with d := .fun_, a := .fun_, b := .fun_ }, 1, 1, 1)
  | .fnaff f | .fndom f => some (f, { uM96 with d := .fun_, a := .fun_, b := .reg, c := .reg }, 1, 1, 1)
  | .fndiff f | .fnint f => some (f, { uM96 with d := .fun_, a := .fun_ }, 1, 1, 1)
  | .fnquad f | .fninfo f => some (f, { uM96 with d := .reg, a := .fun_ }, 1, 1, 1)
  | .fnroot f => some (f, { uM96 with d := .reg, a := .fun_, b := .reg }, 1, 1, 1)
  | .fnrel f => some (f, { uM96 with d := .fun_ }, 1, 1, 1)
  | .give f => some (f, { uPlain with imm := 0x1F }, 1, 1, 1)
  | .tspawn f => some (f, { uPlain with a := .pair, imm := 0x3F }, 1, 1, 1)
  | .tdone f => some (f, { uPlain with a := .pair, b := .pair }, 1, 1, 1)
  | .launch f => some (f, { uPlain with d := .reg, a := .pair }, 1, 1, 1)
  | .sbrd f | .escrd f => some (f, { uPlain with d := .reg, a := .reg }, 1, 1, 1)
  | .sbwd f => some (f, { uPlain with a := .reg, imm := 0xFF }, 1, 1, 1)
  | .sbclr f => some (f, { uPlain with a := if f.imm8 == 1 then .zero else .reg, imm := 1 }, 1, 1, 1)
  | .cycrd f => some (f, { uPlain with d := .pair, imm := 1 }, 1, 1, 1)
  | .evrd f => some (f, { uPlain with d := .reg, imm := 3 }, 1, 1, 1)
  | .ckpt f => some (f, { uPlain with d := .reg }, 1, 1, 1)
  | .trmark f => some (f, { uPlain with a := .reg, imm := 0xFF }, 1, 1, 1)
  | _ => none

/-- Whether a bit range `b` to `b + n − 1` lies within a word (R116, R117, R143). -/
def bitsFit (b n : Nat) : Bool := decide (b + n ≤ 32)

/-- A v-register destination, or vz, of a function-unit instruction (R388). 249 and 250 are left to step 17. -/
def fnDstOk (v : BitVec 8) : Bool := decide (v.toNat < 240) || v == 248 || v == 249 || v == 250

/-- The checks of step 14 that an entry adds to the uses of its fields. Of a COLL of SUB 1, 3 and 4, whose TYPE R267 gives only as an
element size, the codes taken are those of n32 and n64 with ROP 0 (DEDUCED, log entry 115). -/
def Instr.extraOk : Instr → Bool
  | .nop f => f.esz == 0 && f.ext.guard.getD 0 == 0
  | .icmp _ f | .sel f => bitsFit f.imm8.toNat (nElems f.esz)
  | .fmin f | .fmax f | .fminn f | .fmaxn f | .fclass f | .fabs f | .fneg f | .fcopysign f =>
    (ftypeOf f.flg).isSome && f.flg.extractLsb' 2 2 == 0
  | .fcmp _ f => (ftypeOf f.flg).isSome && bitsFit f.imm8.toNat (nElems f.esz)
  | .fdot4q f | .cvtq f | .cvtdq f => isByteType f.imm8
  | .rcp f | .rsq f | .sqrt f | .div f | .exp2 f | .log2 f | .sinpi f | .cospi f | .tanh f | .sigm f =>
    (ftypeOf f.flg).isSome && !(decide (240 ≤ f.d.toNat) && decide (f.d.toNat ≤ 247))
  | .shfl _ f => [2, 4, 8, 16, 32, 96].contains f.imm8.toNat
  | .bcast f => decide (f.imm8.toNat < 96)
  | .vote m f => decide (f.imm8.toNat < 32) && (m != .ballot || decide (f.d.toNat + 2 < 240))
  | .matchLanes f => decide (f.d.toNat + 2 < 240)
  | .fninfo f => f.isLong && f.ext.w1 == 0 && decide (f.d.toNat + 2 < 240)
  | .fence _ f => f.esz == 0 && decide (f.imm8.toNat ≤ 5)
  | .bankmode _ f | .scrcfg _ f => f.esz == 0
  | .fetchw f | .cycrd f | .evrd f | .ckpt f => f.esz == 0
  | .copy k f =>
    let w := f.ext.w1
    f.isLong && f.esz == 0 && f.imm8 == 0 && (if k = .peer then w.extractLsb' 17 15 == 0 else w == 0)
  | .gather f =>
    let r := (f.ext.w1.extractLsb' 0 16).toNat
    f.isLong && f.esz == 0 && f.ext.w1.extractLsb' 16 16 == 0 && r != 0 && r % 4 == 0
  | .coll op f =>
    let w := f.ext.w1
    let rop := (w.extractLsb' 16 4).toNat
    let t := aTypeOf (w.extractLsb' 8 8)
    f.isLong && f.esz == 0 && w.extractLsb' 20 4 == 0 && (op = .bcast || w.extractLsb' 24 8 == 0) &&
    (if op = .allred ∨ op = .redsct then
      match t with
      | none => false
      | some t => decide (rop < 6) && (!t.isFloat || decide (rop < 3))
    else rop == 0 && (t == some .n32 || t == some .n64))
  | .bara f => f.esz == 0 && (f.flg.getLsbD 0 || decide (f.a.toNat < 16))
  | .semv f => f.esz == 0 && f.imm8 != 0
  | .mma _ f | .mmas _ f =>
    let w := f.ext.w1
    f.isLong && w.extractLsb' 16 16 == 0 && (typeBits (w.extractLsb' 0 8)).isSome &&
      (typeBits (w.extractLsb' 8 8)).isSome && decide (f.c.toNat ≤ 255)
  | .mcomp f =>
    let w := f.ext.w1
    f.isLong && w.extractLsb' 8 24 == 0 && (typeBits (w.extractLsb' 0 8)).isSome && decide (f.c.toNat ≤ 238)
  | .msacc f | .mrel f | .mzero f | .mrda f | .mwra f | .msta f | .mlda f | .mstat f => f.isLong && f.ext.w1 == 0
  | .mbatch f => f.isLong && f.ext.w1 == 0 && !(decide (240 ≤ f.d.toNat) && decide (f.d.toNat ≤ 247))
  | .fnld f | .fnrel f => f.isLong && f.ext.w1 == 0
  | .fnst f | .fneval f | .fnquad f => f.isLong && f.ext.w1 == 0 && fnDstOk f.d
  | .fnroot f =>
    f.isLong && f.ext.w1 == 0 && fnDstOk f.d && fnDstOk f.b && f.b != f.d
  | .fnfit f => f.isLong && f.ext.w1.extractLsb' 6 26 == 0 && f.imm8 != 0 && decide (f.imm8.toNat ≤ 96)
  | .fnadd f | .fnsub f | .fnmul f | .fnaff f | .fncomp f | .fndiff f | .fnint f | .fndom f =>
    f.isLong && f.ext.w1.extractLsb' 6 26 == 0
  | .give f => f.esz == 0 && f.imm8 != 0 && decide (f.imm8.toNat ≤ 29)
  | .tspawn f | .tdone f | .launch f => f.esz == 0
  | .sbwd f => f.imm8 == 3 || f.imm8 == 4
  | .trmark f => f.esz == 0 && (f.a == 248 || f.imm8 == 0)
  | _ => true

/-- MMAS and MCOMP read C + 1: a C above 238 traps (R369); MMA reads C alone. -/
def Instr.cPlusOneOk : Instr → Bool
  | .mmas _ f => decide (f.c.toNat ≤ 238)
  | _ => true

/-- Whether the ESZ field has a value the entry allows (R44). An entry that states the value 0b00 allows no other; an instruction
that uses no ESZ, whose entry does not list the field or says that it must be zero, takes ILL_FIELD by R43 and stands in
`extraOk` (log entry 90). -/
def Instr.eszOk : Instr → Bool
  | .imadw f | .lea f | .iadd64 f | .isub64 f | .permb f | .ftwosum f => f.esz == 0
  | .cvta _ f => f.esz == 0
  | .pack f | .unpack f => f.esz != 0
  | .fadd t f | .fsub t f | .fmul t f | .ffma t f | .frnd t f | .fscalb t f | .cvtfi t f | .cvtif t f => f.esz == t.esz
  | .fmin f | .fmax f | .fminn f | .fmaxn f | .fclass f | .fabs f | .fneg f | .fcopysign f | .rcp f | .rsq f | .sqrt f
  | .div f | .exp2 f | .log2 f | .sinpi f | .cospi f | .tanh f | .sigm f => (ftypeOf f.flg).map FType.esz == some f.esz
  | .fcmp _ f => (ftypeOf f.flg).map FType.esz == some f.esz
  | .fdot2 _ f => f.esz == 1
  | .fdot4q f | .cvtq f | .cvtdq f => f.esz == 2
  | .cvtff k f =>
    match k with
    | .fromF16 | .fromBf16 => f.esz == 0
    | _ => f.esz == 1
  | .shfl _ f | .vote _ f | .lred _ f | .lscan _ f => f.esz == 0
  | .mma _ f | .mmas _ f => (typeBits (f.ext.w1.extractLsb' 0 8)).map eszOf == some f.esz
  | .mcomp f => (typeBits (f.ext.w1.extractLsb' 0 8)).map eszOf == some f.esz
  | .bcast f | .matchLanes f | .leader f | .msacc f | .mbatch f | .mrel f
  | .mzero f | .mrda f | .mwra f | .msta f | .mlda f | .mstat f | .fnld f | .fnst f | .fnfit f | .fneval f | .fnadd f
  | .fnsub f | .fnmul f | .fnaff f | .fncomp f | .fndiff f | .fnint f | .fnquad f | .fnroot f | .fndom f | .fninfo f
  | .fnrel f | .sbrd f | .escrd f | .sbwd f | .sbclr f => f.esz == 0
  | .movi f => f.ext == .l64 || f.esz == 0
  | _ => true

/-! ### I64, T96 and A96 -/

/-- Step 14 for the I64 instructions (Table 4.1, Table 12.8, R101, R112, R116, R119). -/
def Instr.iFieldsOk : Instr → Bool
  | .iaddi _ f => f.flg.extractLsb' 1 1 == 0
  | .andi f | .ori f | .xori f => f.flg == 0
  | .shli f | .shrli f | .shrai f =>
    f.flg == 0 && f.imm26.extractLsb' 5 21 == 0 && decide ((f.imm26.extractLsb' 0 5).toNat < elemBits f.esz)
  | .icmpi _ f => f.flg.extractLsb' 1 1 == 0 && bitsFit (f.imm26.extractLsb' 21 5).toNat (nElems f.esz)
  | .movi f =>
    f.a == 0 && f.flg == 0 && f.u == 0 && (f.ext == .l64 || f.imm26 == 0) && guardOk f.ext.guard
  | .srrd f => f.a == 0 && f.esz == 0 && f.flg == 0 && f.u == 0 && f.imm26.extractLsb' 12 14 == 0 && (srInfo f.sr).isSome
  | .srwr f =>
    f.d == 0 && f.esz == 0 && f.flg == 0 && f.u == 0 && f.imm26.extractLsb' 12 14 == 0 &&
      (match srInfo f.sr with
       | some i => !i.ro
       | none => false)
  | _ => true

/-- R61: what a publish field may name. -/
def pubOk (v : BitVec 8) : Bool := decide (v.toNat < 240) || v == 248 || decide (251 ≤ v.toNat)

/-- R33, R61, R88: the fields every terminator shares. -/
def T96.commonOk (f : T96) : Bool :=
  f.rsv == 0 && f.r5 == 0 && pubOk f.p0 && pubOk f.p1 && pubOk f.p2 && guardOk f.guard

def T96.noPub (f : T96) : Bool := f.p0 == 248 && f.p1 == 248 && f.p2 == 248

/-- A nonnegative IMM26 of at most `m`. -/
def T96.immUpTo (f : T96) (m : Nat) : Bool := decide (f.imm26.toNat ≤ m)

/-- Step 14 for the terminators (Tables 3.5, 10.5, 11.8, 12.8, 13.9). -/
def Instr.tFieldsOk : Instr → Bool
  | .runend f | .acq f => f.commonOk && f.a == 0 && f.b == 0 && f.flg == 0 && f.imm26 == 0
  | .bra f => f.commonOk && f.a == 0 && f.b == 0 && f.flg == 0
  | .brc c f => f.commonOk && (if c = .bset ∨ c = .bclr then decide (f.b.toNat < 32) else f.b == 0)
  | .bru c f | .brany c f | .brall c f =>
    f.commonOk && (if c = .bset ∨ c = .bclr then decide (f.b.toNat < 32) else f.b == 0) && f.flg == 0
  | .jmpi f | .ret f => f.commonOk && pairOk f.a && f.b == 0 && f.flg == 0 && f.imm26 == 0
  | .call f => f.commonOk && pairOk f.a && decide (f.a.toNat < 240) && f.b == 0 && f.flg == 0
  | .calli f => f.commonOk && pairOk f.a && decide (f.a.toNat < 240) && pairOk f.b && f.flg == 0 && f.imm26 == 0
  | .rcvg f => f.commonOk && f.a == 0 && f.b == 0 && f.flg != 0 && f.imm26 == 0
  | .endk f => f.commonOk && f.noPub && f.a == 0 && f.b == 0 && f.flg == 0 && f.imm26 == 0
  | .yield f => f.commonOk && f.a == 0 && f.b == 0 && f.flg == 0 && f.immUpTo (2 ^ 25 - 1)
  | .waitc _ f => f.commonOk && f.a == 0 && f.b == 0 && f.flg == 0 && f.immUpTo 63
  | .sleept f => f.commonOk && f.b == 0 && f.flg == 0 && f.immUpTo 63
  | .bar f | .barw f =>
    f.commonOk && f.flg.extractLsb' 1 3 == 0 && (f.flg.getLsbD 0 || decide (f.a.toNat < 16)) && f.imm26 == 0
  | .semp f => f.commonOk && f.b == 0 && f.flg == 0 && f.imm26 != 0 && f.immUpTo 255
  | .ifence f => f.commonOk && f.a == 0 && f.b == 0 && decide (f.flg.toNat ≤ 5) && f.imm26 == 0
  | .mwait f =>
    f.commonOk && f.flg.extractLsb' 1 3 == 0 && f.imm26 == 0 &&
      !(decide (240 ≤ f.b.toNat) && decide (f.b.toNat ≤ 250) && f.b != 248)
  | .claim f => f.commonOk && f.a == 0 && f.b == 0 && f.flg == 0 && f.imm26 != 0 && f.immUpTo 29
  | .tpop f => f.commonOk && f.a.toNat % 8 == 0 && decide (f.a.toNat ≤ 232) && f.b == 0 && f.flg == 0 && f.immUpTo 63
  | .trap f | .brk f => f.commonOk && f.a == 0 && f.b == 0 && f.flg == 0 && f.immUpTo (2 ^ 25 - 1)
  | .rte f => f.commonOk && f.noPub && f.a == 0 && f.b == 0 && f.flg == 0 && f.imm26 == 0
  | _ => true

/-- R32, R34: the field ranges every A96 instruction shares. -/
def A96.commonOk (f : A96) : Bool := decide (f.scope.toNat ≤ 5) && decide (f.sz.toNat ≤ 4) && guardOk f.guard

/-- R203, R234: with plain ORD, SCOPE is 0. -/
def A96.scopeOk (f : A96) : Bool := f.ord != 0 || f.scope == 0

/-- The scratch forms accept only .strand and .skein (R203, R245). -/
def A96.scratchScope (f : A96) : Bool := decide (f.scope.toNat ≤ 1)

/-- R197: the data register of a load. -/
def A96.loadDst (f : A96) : Bool :=
  if f.sz.toNat ≤ 2 then decide (f.d.toNat ≤ 248)
  else if f.sz == 3 then pairOk f.d
  else f.d.toNat % 4 == 0 && (decide (f.d.toNat ≤ 236) || f.d == 240 || f.d == 244)

/-- R197: the data register of a store. -/
def A96.storeSrc (f : A96) : Bool :=
  if f.sz.toNat ≤ 2 then true
  else if f.sz == 3 then pairOk f.d
  else f.d.toNat % 4 == 0 && (decide (f.d.toNat ≤ 236) || f.d == 240 || f.d == 244)

/-- R197, R204: HINT of a load and of a store. -/
def A96.loadHint (f : A96) : Bool := f.hint.extractLsb' 0 2 != 3 && (!f.hint.getLsbD 2 || decide (f.sz.toNat ≤ 1))

def A96.storeHint (f : A96) : Bool := f.hint.extractLsb' 0 2 != 3 && !f.hint.getLsbD 2

/-- R235: TYPE listed, operation allowed, SZ as the type fixes it, and pairs for 64-bit types. -/
def A96.atomTypeOk (f : A96) (op : AtomOp) : Bool :=
  match aTypeOf f.type with
  | none => false
  | some t =>
    t.allows op && f.sz == (if t.is64 then 3 else 2) && (!t.is64 || (pairOk f.b && (pairOk f.d)))

def A96.atomCommon (f : A96) : Bool := f.commonOk && f.xsc == 0 && f.hint == 0 && f.scopeOk

/-- Step 14 for the A96 instructions (Tables 8.1 and 9.9). -/
def Instr.aFieldsOk : Instr → Bool
  | .ld f => f.commonOk && pairOk f.a && f.loadDst && decide (f.ord.toNat ≤ 1) && f.scopeOk && f.loadHint && f.type == 0
  | .st f =>
    f.commonOk && pairOk f.a && f.storeSrc && (f.ord == 0 || f.ord == 2) && f.scopeOk && f.storeHint && f.type == 0
  | .lds f =>
    f.commonOk && f.loadDst && decide (f.ord.toNat ≤ 1) && f.scopeOk && f.scratchScope && f.loadHint && f.type == 0
  | .sts f =>
    f.commonOk && f.storeSrc && (f.ord == 0 || f.ord == 2) && f.scopeOk && f.scratchScope && f.storeHint && f.type == 0
  | .ldt f => f.commonOk && decide (f.sz.toNat ≤ 2) && f.loadDst && f.ord == 0 && f.scope == 0 && f.hint == 0 && f.type == 0
  | .stt f => f.commonOk && decide (f.sz.toNat ≤ 2) && f.ord == 0 && f.scope == 0 && f.hint == 0 && f.type == 0
  | .pf f =>
    f.commonOk && pairOk f.a && f.d == 0 && f.sz == 0 && f.ord == 0 && f.scope == 0 && f.hint.extractLsb' 1 2 == 0 &&
      f.type == 0
  | .fpush f =>
    f.commonOk && f.a == 0 && f.b == 0 && f.sz == 2 && f.ord == 0 && f.scope == 0 && f.hint == 0 && f.xsc == 0 && f.u == 0 &&
      f.type == 0 && decide (f.ofs.toNat < 16)
  | .fpop f =>
    f.commonOk && f.a == 0 && f.b == 0 && f.sz == 2 && f.ord == 0 && f.scope == 0 && f.hint == 0 && f.xsc == 0 && f.u == 0 &&
      f.type == 0 && decide (f.ofs.toNat < 16) && f.loadDst
  | .regpf _ f =>
    f.commonOk && f.a == 0 && f.b == 0 && f.d == 0 && f.sz == 0 && f.ord == 0 && f.scope == 0 && f.hint == 0 && f.xsc == 0 &&
      f.u == 0 && f.type == 0 && f.ofs.toNat % 32 == 0 && decide (f.ofs.toNat ≤ 224)
  | .cctl _ f =>
    f.commonOk && pairOk f.a && f.d == 0 && f.sz == 0 && f.ord == 0 && f.scope == 0 && f.hint == 0 && f.type == 0
  | .atom op f => f.atomCommon && pairOk f.a && op != .cas && f.atomTypeOk op
  | .atomc f =>
    f.atomCommon && pairOk f.a && f.atomTypeOk .cas
  | .atomsc op f => f.atomCommon && pairOk f.a && f.ord == 3 && decide (4 ≤ f.scope.toNat) && f.atomTypeOk op
  | .red op f =>
    f.atomCommon && pairOk f.a && f.d == 0 && (f.ord == 0 || f.ord == 2) && op != .exch && op != .cas && f.atomTypeOk op
  | .atoms op f => f.atomCommon && f.scratchScope && op != .cas && f.atomTypeOk op
  | .waiteq _ f =>
    f.atomCommon && pairOk f.a && decide (f.ord.toNat ≤ 1) && f.type == 0 && (f.sz == 2 || f.sz == 3) &&
      (f.sz == 2 || (pairOk f.b && pairOk f.d))
  | _ => true

/-- Steps 14 and 15 of Table 2.7 (R45) for one instruction: the first cause its own fields raise, whatever the state. -/
def Instr.fieldCheck (i : Instr) : Option Cause :=
  let x :=
    match i.xuse with
    | some (f, u, na, nb, nc) => xFieldsOk f u na nb nc && i.extraOk && i.cPlusOneOk
    | none => true
  if !(x && i.iFieldsOk && i.tFieldsOk && i.aFieldsOk) then some .illField
  else if !i.eszOk then some .eszInvalid
  else none

end Sys2Proof
end

