-- ==== Sys2Proof/WellFormed.lean ====
section
/-! DEFINITION. When an instruction is well formed: what an assembler may emit. Its own fields pass steps 14 and 15 of Table 2.7
and its length is one its format allows (Table 2.8). -/

namespace Sys2Proof

/-- The lengths a format allows: I64 only 64 bits but for MOVI (R30), and no 64-bit form of COPY, GATHER, COLL and the M96
instructions (Table 2.8). -/
def Instr.lenOk : Instr → Bool
  | .iaddi _ f | .andi f | .ori f | .xori f | .shli f | .shrli f | .shrai f | .icmpi _ f | .srrd f | .srwr f =>
    f.ext == .l64
  | .copy _ f | .gather f | .coll _ f | .mma _ f | .mmas _ f | .mcomp f | .msacc f | .mbatch f | .mrel f | .mzero f
  | .mrda f | .mwra f | .msta f | .mlda f | .mstat f | .fnld f | .fnst f | .fnfit f | .fneval f | .fnadd f | .fnsub f
  | .fnmul f | .fnaff f | .fncomp f | .fndiff f | .fnint f | .fnquad f | .fnroot f | .fndom f | .fninfo f | .fnrel f =>
    f.isLong
  | _ => true

/-- SUB values that Table 2.8 lists: compare-and-swap only in ATOMC and ATOMSC, no exchange in RED. -/
def Instr.subOk : Instr → Bool
  | .atom op _ | .atoms op _ => op != .cas
  | .red op _ => op != .cas && op != .exch
  | _ => true

/-- Whether the step is an instruction, with an encoding, rather than an event. -/
def Instr.isEvent : Instr → Bool
  | .slotHandout .. | .missDataLands .. | .sfuResultLands .. | .deferredTrapDelivery .. | .storePerformed ..
  | .atomicReturn .. | .waiteqWake .. | .walkComplete .. | .pageRequestDrain .. | .poolEntryGrant ..
  | .bankModeChangeEnd .. | .fifoTimeout .. | .waiteqTimeout .. | .engineOpComplete .. | .fetchwReply ..
  | .sleeptWake .. | .yieldWake .. | .ifenceDone .. | .matrixOpPerform .. | .mxPinTimeout ..
  | .mxAccExhausted .. | .fnOpPerform .. | .launchAccept .. | .lqRecall .. | .skeinPlace .. | .skeinGrant ..
  | .taskPushAccept .. | .pointComplete .. | .sliceEnd .. | .instructionLevelHalt .. | .contextSaveEnd ..
  | .kill .. | .contextRestore .. | .haltLine .. | .codeArrival .. | .codeUnarrived .. | .ckptTake ..
  | .trial .. | .candidateInstall .. | .ephemerisTick .. | .traceDrain .. | .arbAgeStep .. | .measurePassEnd ..
  | .xlInvWrite .. | .xlInvDone .. | .fqResume .. | .dbgStop .. | .dbgRelease .. | .dbgStep .. | .dbgStopAll ..
  | .dbgReleaseAll .. | .cmpPark .. | .cmpUnpark .. | .cmpFwd .. | .cmpFwdDone .. | .bpLimWrite ..
  | .tqCfgWrite .. | .evSelWrite .. | .ephCtlWrite .. | .mrCtlWrite .. | .lqEnable .. | .registerWrite ..
  | .fwLoad .. | .fwActivate .. | .partWr .. | .partRd .. | .rollback .. | .partReset .. | .peerWr ..
  | .neighWr .. | .powerLimit .. | .telemetry .. | .clockChange .. | .resetRelease .. | .stageADone ..
  | .stageBDone .. | .stageCDone .. | .stageDDone .. | .hostLinkLoss .. | .ideIntegrityFail ..
  | .hostCxlMemAccess .. | .peerWrite .. | .spdmMessage .. | .portDown .. => true
  | _ => false

/-- A well-formed instruction. -/
def Instr.wf (i : Instr) : Bool := !i.isEvent && i.lenOk && i.subOk && i.fieldCheck == none

/-- A well-formed instruction, as a proposition. -/
abbrev WellFormed (i : Instr) : Prop := i.wf = true

end Sys2Proof
end

