-- ==== Sys2Proof/Decode.lean ====
section
/-! DEFINITION. The decoder, total on any bytes, with the causes of steps 6 and 9 to 11 of Table 2.7 as its refusals, and the
encoder written from the same tables (Tables 2.1 to 2.5 and 2.8, R25 to R35, R46). -/

namespace Sys2Proof

/-! ### Fields of the formats -/

/-- LEN (R25). -/
def lenField (w : BitVec 128) : BitVec 2 := w.extractLsb' 0 2

/-- OPC, at bits [13:6] of every format. -/
def opcField (w : BitVec 128) : Nat := (w.extractLsb' 6 8).toNat

/-- Extension word 1 and guard word by LEN (R29, R32). -/
def extField (w : BitVec 128) : Ext :=
  match (lenField w).toNat with
  | 0 => .l64
  | 1 => .l96 (w.extractLsb' 64 32)
  | _ => .l128 (w.extractLsb' 64 32) (w.extractLsb' 96 32)

/-- The guard word of a T96 or A96 instruction. -/
def guardField (w : BitVec 128) : Option (BitVec 32) :=
  if (lenField w).toNat = 2 then some (w.extractLsb' 96 32) else none

/-- Table 2.1. -/
def x64Fields (w : BitVec 128) : X64 where
  d := w.extractLsb' 14 8
  a := w.extractLsb' 22 8
  b := w.extractLsb' 30 8
  c := w.extractLsb' 38 8
  esz := w.extractLsb' 50 2
  flg := w.extractLsb' 52 4
  imm8 := w.extractLsb' 56 8
  u := w.extractLsb' 5 1
  stall := w.extractLsb' 2 3
  ext := extField w

/-- Table 2.2. -/
def i64Fields (w : BitVec 128) : I64 where
  d := w.extractLsb' 14 8
  a := w.extractLsb' 22 8
  imm26 := w.extractLsb' 38 26
  flg := w.extractLsb' 36 2
  esz := w.extractLsb' 34 2
  u := w.extractLsb' 5 1
  stall := w.extractLsb' 2 3
  ext := extField w

/-- Table 2.4. -/
def t96Fields (w : BitVec 128) : T96 where
  rsv := w.extractLsb' 90 6
  yl := w.extractLsb' 89 1
  el := w.extractLsb' 88 1
  p2 := w.extractLsb' 80 8
  p1 := w.extractLsb' 72 8
  p0 := w.extractLsb' 64 8
  imm26 := w.extractLsb' 38 26
  flg := w.extractLsb' 34 4
  b := w.extractLsb' 22 8
  a := w.extractLsb' 14 8
  r5 := w.extractLsb' 5 1
  stall := w.extractLsb' 2 3
  guard := guardField w

/-- Table 2.5. -/
def a96Fields (w : BitVec 128) : A96 where
  ofs := w.extractLsb' 64 32
  type := w.extractLsb' 56 8
  xsc := w.extractLsb' 53 3
  hint := w.extractLsb' 50 3
  scope := w.extractLsb' 47 3
  ord := w.extractLsb' 45 2
  sz := w.extractLsb' 42 3
  b := w.extractLsb' 30 8
  a := w.extractLsb' 22 8
  d := w.extractLsb' 14 8
  u := w.extractLsb' 5 1
  stall := w.extractLsb' 2 3
  guard := guardField w

/-! ### Table 2.8: the instructions of an opcode in SUB order -/

/-- The X64 and M96 opcodes; SUB at bits [49:46]. -/
def xRow (opc : Nat) (f : X64) : Option (List Instr) :=
  match opc with
  | 0x00 => some [.nop f]
  | 0x20 => some [.iadd false f, .iadd true f]
  | 0x21 => some [.isub false f, .isub true f]
  | 0x23 => some [.imul f]
  | 0x24 => some [.imulh f]
  | 0x25 => some [.imad false f, .imad true f]
  | 0x26 => some [.imadw f]
  | 0x27 => some [.idiv f, .irem f]
  | 0x28 => some [.imin f, .imax f]
  | 0x29 => some [.iabs f, .ineg f]
  | 0x2a => some [.and f, .or f, .xor f, .andn f, .orn f, .xnor f]
  | 0x2c => some [.shl f, .shrl f, .shra f]
  | 0x2e => some [.fshr f]
  | 0x2f => some [.bfx f]
  | 0x30 => some [.bfi f]
  | 0x31 => some [.popc f, .clz f, .ctz f, .brev f]
  | 0x32 => some [.icmp .eq f, .icmp .ne f, .icmp .lt f, .icmp .le f, .icmp .gt f, .icmp .ge f]
  | 0x34 => some [.sel f]
  | 0x35 => some [.mov f]
  | 0x37 => some [.lea f]
  | 0x38 => some [.iadd64 f, .isub64 f]
  | 0x39 => some [.cvta .scr f, .cvta .prv f, .cvta .toscr f, .cvta .cls f]
  | 0x3a => some [.permb f]
  | 0x3b => some [.pack f, .unpack f]
  | 0x40 => some [.fadd .f32 f, .fadd .f16 f, .fadd .bf16 f]
  | 0x41 => some [.fsub .f32 f, .fsub .f16 f, .fsub .bf16 f]
  | 0x42 => some [.fmul .f32 f, .fmul .f16 f, .fmul .bf16 f]
  | 0x43 => some [.ffma .f32 f, .ffma .f16 f, .ffma .bf16 f]
  | 0x44 => some [.fmin f, .fmax f, .fminn f, .fmaxn f]
  | 0x45 => some [.fcmp .eq f, .fcmp .ne f, .fcmp .lt f, .fcmp .le f, .fcmp .gt f, .fcmp .ge f, .fcmp .un f,
      .fcmp .ord f]
  | 0x46 => some [.fclass f]
  | 0x47 => some [.fabs f, .fneg f, .fcopysign f]
  | 0x48 => some [.frnd .f32 f, .frnd .f16 f, .frnd .bf16 f]
  | 0x49 => some [.fscalb .f32 f, .fscalb .f16 f, .fscalb .bf16 f]
  | 0x4a => some [.ftwosum f]
  | 0x4b => some [.fdot2 false f, .fdot2 true f]
  | 0x4c => some [.fdot4q f]
  | 0x4d => some [.cvtfi .f32 f, .cvtfi .f16 f, .cvtfi .bf16 f]
  | 0x4e => some [.cvtif .f32 f, .cvtif .f16 f, .cvtif .bf16 f]
  | 0x4f => some [.cvtff .toF16 f, .cvtff .toBf16 f, .cvtff .fromF16 f, .cvtff .fromBf16 f, .cvtff .f16ToBf16 f,
      .cvtff .bf16ToF16 f]
  | 0x50 => some [.cvtq f]
  | 0x51 => some [.cvtdq f]
  | 0x60 => some [.rcp f]
  | 0x61 => some [.rsq f]
  | 0x62 => some [.sqrt f]
  | 0x63 => some [.div f]
  | 0x64 => some [.exp2 f]
  | 0x65 => some [.log2 f]
  | 0x66 => some [.sinpi f]
  | 0x67 => some [.cospi f]
  | 0x68 => some [.tanh f]
  | 0x69 => some [.sigm f]
  | 0x70 => some [.shfl .idx f, .shfl .up f, .shfl .down f, .shfl .xor f]
  | 0x71 => some [.bcast f]
  | 0x72 => some [.vote .any f, .vote .all f, .vote .ballot f]
  | 0x73 => some [.lred .add f, .lred .min f, .lred .max f, .lred .and f, .lred .or f, .lred .xor f, .lred .fadd f,
      .lred .fmin f, .lred .fmax f]
  | 0x74 => some [.lscan .add f, .lscan .min f, .lscan .max f, .lscan .and f, .lscan .or f, .lscan .xor f,
      .lscan .fadd f, .lscan .fmin f, .lscan .fmax f]
  | 0x75 => some [.matchLanes f]
  | 0x76 => some [.leader f]
  | 0x8a => some [.bankmode .cache f, .bankmode .scratch f, .bankmode .fifo f]
  | 0x8b => some [.scrcfg false f, .scrcfg true f]
  | 0xa4 => some [.fence .acq f, .fence .rel f, .fence .ar f]
  | 0xb0 => some [.copy .lin f, .copy .pat f, .copy .peer f]
  | 0xb1 => some [.gather f]
  | 0xb2 => some [.coll .allred f, .coll .allgat f, .coll .redsct f, .coll .bcast f, .coll .a2a f]
  | 0xb6 => some [.bara f]
  | 0xb9 => some [.semv f]
  | 0xba => some [.fetchw f]
  | 0xc0 => some [.mma .facc f, .mma .wrap f, .mma .sat f, .mma .part f]
  | 0xc1 => some [.mmas .facc f, .mmas .wrap f, .mmas .sat f, .mmas .part f]
  | 0xc2 => some [.mcomp f]
  | 0xc3 => some [.msacc f]
  | 0xc4 => some [.mbatch f]
  | 0xc6 => some [.mrel f]
  | 0xc7 => some [.mzero f]
  | 0xc8 => some [.mrda f]
  | 0xc9 => some [.mwra f]
  | 0xca => some [.msta f]
  | 0xcb => some [.mlda f]
  | 0xcc => some [.mstat f]
  | 0xd0 => some [.fnld f]
  | 0xd1 => some [.fnst f]
  | 0xd2 => some [.fnfit f]
  | 0xd3 => some [.fneval f]
  | 0xd4 => some [.fnadd f]
  | 0xd5 => some [.fnsub f]
  | 0xd6 => some [.fnmul f]
  | 0xd7 => some [.fnaff f]
  | 0xd8 => some [.fncomp f]
  | 0xd9 => some [.fndiff f]
  | 0xda => some [.fnint f]
  | 0xdb => some [.fnquad f]
  | 0xdc => some [.fnroot f]
  | 0xdd => some [.fndom f]
  | 0xde => some [.fninfo f]
  | 0xdf => some [.fnrel f]
  | 0xe1 => some [.give f]
  | 0xe3 => some [.tspawn f]
  | 0xe5 => some [.tdone f]
  | 0xe6 => some [.launch f]
  | 0xe8 => some [.sbrd f]
  | 0xe9 => some [.escrd f]
  | 0xea => some [.sbwd f]
  | 0xeb => some [.sbclr f]
  | 0xf1 => some [.cycrd f]
  | 0xf2 => some [.trmark f]
  | 0xf3 => some [.evrd f]
  | 0xf4 => some [.ckpt f]
  | _ => none

/-- The I64 opcodes; SUB at bits [33:30]. -/
def iRow (opc : Nat) (f : I64) : Option (List Instr) :=
  match opc with
  | 0x22 => some [.iaddi false f, .iaddi true f]
  | 0x2b => some [.andi f, .ori f, .xori f]
  | 0x2d => some [.shli f, .shrli f, .shrai f]
  | 0x33 => some [.icmpi .eq f, .icmpi .ne f, .icmpi .lt f, .icmpi .le f, .icmpi .gt f, .icmpi .ge f]
  | 0x36 => some [.movi f]
  | 0xef => some [.srrd f]
  | 0xf0 => some [.srwr f]
  | _ => none

/-- The T96 opcodes; SUB at bits [33:30]. -/
def tRow (opc : Nat) (f : T96) : Option (List Instr) :=
  match opc with
  | 0x01 => some [.runend f]
  | 0x02 => some [.bra f]
  | 0x03 => some [.brc .nz f, .brc .z f, .brc .bset f, .brc .bclr f]
  | 0x04 => some [.bru .nz f, .bru .z f, .bru .bset f, .bru .bclr f]
  | 0x05 => some [.brany .nz f, .brany .z f, .brany .bset f, .brany .bclr f]
  | 0x06 => some [.brall .nz f, .brall .z f, .brall .bset f, .brall .bclr f]
  | 0x07 => some [.jmpi f]
  | 0x08 => some [.call f]
  | 0x09 => some [.calli f]
  | 0x0a => some [.ret f]
  | 0x0b => some [.rcvg f]
  | 0x0c => some [.endk f]
  | 0x0d => some [.yield f]
  | 0xb3 => some [.waitc .m f, .waitc .c f, .waitc .g f, .waitc .x f]
  | 0xb4 => some [.sleept f]
  | 0xb5 => some [.bar f]
  | 0xb7 => some [.barw f]
  | 0xb8 => some [.semp f]
  | 0xbb => some [.ifence f]
  | 0xc5 => some [.mwait f]
  | 0xe0 => some [.acq f]
  | 0xe2 => some [.claim f]
  | 0xe4 => some [.tpop f]
  | 0xec => some [.trap f]
  | 0xed => some [.rte f]
  | 0xee => some [.brk f]
  | _ => none

/-- The A96 opcodes; SUB at bits [41:38]. -/
def aRow (opc : Nat) (f : A96) : Option (List Instr) :=
  match opc with
  | 0x80 => some [.ld f]
  | 0x81 => some [.st f]
  | 0x82 => some [.lds f]
  | 0x83 => some [.sts f]
  | 0x84 => some [.ldt f]
  | 0x85 => some [.pf f]
  | 0x86 => some [.fpush f]
  | 0x87 => some [.fpop f]
  | 0x88 => some [.regpf false f, .regpf true f]
  | 0x89 => some [.cctl .wb f, .cctl .inv f, .cctl .wbinv f]
  | 0x8c => some [.stt f]
  | 0xa0 => some [.atom .add f, .atom .and f, .atom .or f, .atom .xor f, .atom .min f, .atom .max f, .atom .exch f,
      .atom .incw f, .atom .decw f]
  | 0xa1 => some [.atomc f]
  | 0xa2 => some [.atomsc .add f, .atomsc .and f, .atomsc .or f, .atomsc .xor f, .atomsc .min f, .atomsc .max f,
      .atomsc .exch f, .atomsc .incw f, .atomsc .decw f, .atomsc .cas f]
  | 0xa3 => some [.red .add f, .red .and f, .red .or f, .red .xor f, .red .min f, .red .max f, .red .exch f,
      .red .incw f, .red .decw f]
  | 0xa5 => some [.waiteq false f, .waiteq true f]
  | 0xa6 => some [.atoms .add f, .atoms .and f, .atoms .or f, .atoms .xor f, .atoms .min f, .atoms .max f,
      .atoms .exch f, .atoms .incw f, .atoms .decw f]
  | _ => none

/-- X64 opcodes without a 64-bit form: COPY, GATHER, COLL and the M96 instructions (Table 2.8). -/
def longOnly (opc : Nat) : Bool :=
  (0xb0 ≤ opc && opc ≤ 0xb2) || (0xc0 ≤ opc && opc ≤ 0xdf)

/-- Step 11: the row's entry at SUB, RED having none at 6 (Table 2.8). -/
def rowPick (opc : Nat) (row : List Instr) (sub : Nat) : Except Cause Instr :=
  if opc = 0xa3 ∧ sub = 6 then .error .illOpc
  else
    match row[sub]? with
    | some i => .ok i
    | none => .error .illOpc

/-- Length in bytes of a LEN field other than 0b11 (R25). -/
def lenBytes (len : BitVec 2) : Nat := 8 + 4 * len.toNat

/-- Steps 9 to 11 of Table 2.7 on the 128 bits that begin at the instruction, LEN already known not to be 0b11. -/
def decodeBits (w : BitVec 128) : Except Cause Instr :=
  let opc := opcField w
  match xRow opc (x64Fields w) with
  | some r =>
    if (lenField w).toNat = 0 ∧ longOnly opc then .error .illLen else rowPick opc r (w.extractLsb' 46 4).toNat
  | none =>
    match iRow opc (i64Fields w) with
    | some r =>
      if (lenField w).toNat ≠ 0 ∧ opc ≠ 0x36 then .error .illLen else rowPick opc r (w.extractLsb' 30 4).toNat
    | none =>
      match tRow opc (t96Fields w) with
      | some r => if (lenField w).toNat = 0 then .error .illLen else rowPick opc r (w.extractLsb' 30 4).toNat
      | none =>
        match aRow opc (a96Fields w) with
        | some r => if (lenField w).toNat = 0 then .error .illLen else rowPick opc r (w.extractLsb' 38 4).toNat
        | none => .error .illOpc

/-- A little-endian number from bytes (R2, R25). -/
def natOfBytes : List Byte → Nat
  | [] => 0
  | b :: bs => b.toNat + 256 * natOfBytes bs

/-- The `n` little-endian bytes of a number. -/
def bytesOfNat : Nat → Nat → List Byte
  | 0, _ => []
  | n + 1, v => BitVec.ofNat 8 v :: bytesOfNat n (v / 256)

/-- The decoder: the instruction at the head of `bs` and its length in bytes. Fewer bytes than LEN asks for is an instruction
that leaves its fetch block (step 7). -/
def decode (bs : List Byte) : Except Cause (Instr × Nat) :=
  let w := BitVec.ofNat 128 (natOfBytes (bs.take 16))
  if bs.length < 4 then .error .fetchStraddle
  else if (lenField w).toNat = 3 then .error .illLen
  else if bs.length < lenBytes (lenField w) then .error .fetchStraddle
  else
    match decodeBits w with
    | .ok i => .ok (i, lenBytes (lenField w))
    | .error c => .error c

/-! ### The encoder -/

/-- An instruction's fields by format; events have no encoding. -/
inductive Fields where
  | x (f : X64)
  | i (f : I64)
  | t (f : T96)
  | a (f : A96)
  | event
  deriving DecidableEq, Repr

/-- The format and fields of each instruction (Table 2.8). -/
def Instr.fields : Instr → Fields
  | .nop f | .iadd _ f | .isub _ f | .imul f | .imulh f | .imad _ f | .imadw f | .idiv f | .irem f | .imin f
  | .imax f | .iabs f | .ineg f | .and f | .or f | .xor f | .andn f | .orn f | .xnor f | .shl f | .shrl f
  | .shra f | .fshr f | .bfx f | .bfi f | .popc f | .clz f | .ctz f | .brev f | .icmp _ f | .sel f | .mov f
  | .lea f | .iadd64 f | .isub64 f | .cvta _ f | .permb f | .pack f | .unpack f | .fadd _ f | .fsub _ f
  | .fmul _ f | .ffma _ f | .fmin f | .fmax f | .fminn f | .fmaxn f | .fcmp _ f | .fclass f | .fabs f | .fneg f
  | .fcopysign f | .frnd _ f | .fscalb _ f | .ftwosum f | .fdot2 _ f | .fdot4q f | .cvtfi _ f | .cvtif _ f
  | .cvtff _ f | .cvtq f | .cvtdq f | .rcp f | .rsq f | .sqrt f | .div f | .exp2 f | .log2 f | .sinpi f
  | .cospi f | .tanh f | .sigm f | .shfl _ f | .bcast f | .vote _ f | .lred _ f | .lscan _ f | .matchLanes f
  | .leader f | .bankmode _ f | .scrcfg _ f | .fence _ f | .copy _ f | .gather f | .coll _ f | .bara f
  | .semv f | .fetchw f | .mma _ f | .mmas _ f | .mcomp f | .msacc f | .mbatch f | .mrel f | .mzero f | .mrda f
  | .mwra f | .msta f | .mlda f | .mstat f | .fnld f | .fnst f | .fnfit f | .fneval f | .fnadd f | .fnsub f
  | .fnmul f | .fnaff f | .fncomp f | .fndiff f | .fnint f | .fnquad f | .fnroot f | .fndom f | .fninfo f
  | .fnrel f | .give f | .tspawn f | .tdone f | .launch f | .sbrd f | .escrd f | .sbwd f | .sbclr f | .cycrd f
  | .trmark f | .evrd f | .ckpt f => .x f
  | .iaddi _ f | .andi f | .ori f | .xori f | .shli f | .shrli f | .shrai f | .icmpi _ f | .movi f | .srrd f
  | .srwr f => .i f
  | .runend f | .bra f | .brc _ f | .bru _ f | .brany _ f | .brall _ f | .jmpi f | .call f | .calli f | .ret f
  | .rcvg f | .endk f | .yield f | .waitc _ f | .sleept f | .bar f | .barw f | .semp f | .ifence f | .mwait f
  | .acq f | .claim f | .tpop f | .trap f | .rte f | .brk f => .t f
  | .ld f | .st f | .lds f | .sts f | .ldt f | .stt f | .pf f | .fpush f | .fpop f | .regpf _ f | .cctl _ f
  | .atom _ f | .atomc f | .atomsc _ f | .red _ f | .atoms _ f | .waiteq _ f => .a f
  | _ => .event

/-- OPC and SUB of each instruction (Table 2.8). -/
def Instr.opcSub : Instr → Nat × Nat
  | .nop _ => (0x00, 0)
  | .runend _ => (0x01, 0)
  | .bra _ => (0x02, 0)
  | .brc k _ => (0x03, k.ctorIdx)
  | .bru k _ => (0x04, k.ctorIdx)
  | .brany k _ => (0x05, k.ctorIdx)
  | .brall k _ => (0x06, k.ctorIdx)
  | .jmpi _ => (0x07, 0)
  | .call _ => (0x08, 0)
  | .calli _ => (0x09, 0)
  | .ret _ => (0x0a, 0)
  | .rcvg _ => (0x0b, 0)
  | .endk _ => (0x0c, 0)
  | .yield _ => (0x0d, 0)
  | .iadd k _ => (0x20, k.toNat)
  | .isub k _ => (0x21, k.toNat)
  | .iaddi k _ => (0x22, k.toNat)
  | .imul _ => (0x23, 0)
  | .imulh _ => (0x24, 0)
  | .imad k _ => (0x25, k.toNat)
  | .imadw _ => (0x26, 0)
  | .idiv _ => (0x27, 0)
  | .irem _ => (0x27, 1)
  | .imin _ => (0x28, 0)
  | .imax _ => (0x28, 1)
  | .iabs _ => (0x29, 0)
  | .ineg _ => (0x29, 1)
  | .and _ => (0x2a, 0)
  | .or _ => (0x2a, 1)
  | .xor _ => (0x2a, 2)
  | .andn _ => (0x2a, 3)
  | .orn _ => (0x2a, 4)
  | .xnor _ => (0x2a, 5)
  | .andi _ => (0x2b, 0)
  | .ori _ => (0x2b, 1)
  | .xori _ => (0x2b, 2)
  | .shl _ => (0x2c, 0)
  | .shrl _ => (0x2c, 1)
  | .shra _ => (0x2c, 2)
  | .shli _ => (0x2d, 0)
  | .shrli _ => (0x2d, 1)
  | .shrai _ => (0x2d, 2)
  | .fshr _ => (0x2e, 0)
  | .bfx _ => (0x2f, 0)
  | .bfi _ => (0x30, 0)
  | .popc _ => (0x31, 0)
  | .clz _ => (0x31, 1)
  | .ctz _ => (0x31, 2)
  | .brev _ => (0x31, 3)
  | .icmp k _ => (0x32, k.ctorIdx)
  | .icmpi k _ => (0x33, k.ctorIdx)
  | .sel _ => (0x34, 0)
  | .mov _ => (0x35, 0)
  | .movi _ => (0x36, 0)
  | .lea _ => (0x37, 0)
  | .iadd64 _ => (0x38, 0)
  | .isub64 _ => (0x38, 1)
  | .cvta k _ => (0x39, k.ctorIdx)
  | .permb _ => (0x3a, 0)
  | .pack _ => (0x3b, 0)
  | .unpack _ => (0x3b, 1)
  | .fadd k _ => (0x40, k.ctorIdx)
  | .fsub k _ => (0x41, k.ctorIdx)
  | .fmul k _ => (0x42, k.ctorIdx)
  | .ffma k _ => (0x43, k.ctorIdx)
  | .fmin _ => (0x44, 0)
  | .fmax _ => (0x44, 1)
  | .fminn _ => (0x44, 2)
  | .fmaxn _ => (0x44, 3)
  | .fcmp k _ => (0x45, k.ctorIdx)
  | .fclass _ => (0x46, 0)
  | .fabs _ => (0x47, 0)
  | .fneg _ => (0x47, 1)
  | .fcopysign _ => (0x47, 2)
  | .frnd k _ => (0x48, k.ctorIdx)
  | .fscalb k _ => (0x49, k.ctorIdx)
  | .ftwosum _ => (0x4a, 0)
  | .fdot2 k _ => (0x4b, k.toNat)
  | .fdot4q _ => (0x4c, 0)
  | .cvtfi k _ => (0x4d, k.ctorIdx)
  | .cvtif k _ => (0x4e, k.ctorIdx)
  | .cvtff k _ => (0x4f, k.ctorIdx)
  | .cvtq _ => (0x50, 0)
  | .cvtdq _ => (0x51, 0)
  | .rcp _ => (0x60, 0)
  | .rsq _ => (0x61, 0)
  | .sqrt _ => (0x62, 0)
  | .div _ => (0x63, 0)
  | .exp2 _ => (0x64, 0)
  | .log2 _ => (0x65, 0)
  | .sinpi _ => (0x66, 0)
  | .cospi _ => (0x67, 0)
  | .tanh _ => (0x68, 0)
  | .sigm _ => (0x69, 0)
  | .shfl k _ => (0x70, k.ctorIdx)
  | .bcast _ => (0x71, 0)
  | .vote k _ => (0x72, k.ctorIdx)
  | .lred k _ => (0x73, k.ctorIdx)
  | .lscan k _ => (0x74, k.ctorIdx)
  | .matchLanes _ => (0x75, 0)
  | .leader _ => (0x76, 0)
  | .ld _ => (0x80, 0)
  | .st _ => (0x81, 0)
  | .lds _ => (0x82, 0)
  | .sts _ => (0x83, 0)
  | .ldt _ => (0x84, 0)
  | .pf _ => (0x85, 0)
  | .fpush _ => (0x86, 0)
  | .fpop _ => (0x87, 0)
  | .regpf k _ => (0x88, k.toNat)
  | .cctl k _ => (0x89, k.ctorIdx)
  | .bankmode k _ => (0x8a, k.ctorIdx)
  | .scrcfg k _ => (0x8b, k.toNat)
  | .stt _ => (0x8c, 0)
  | .atom k _ => (0xa0, k.ctorIdx)
  | .atomc _ => (0xa1, 0)
  | .atomsc k _ => (0xa2, k.ctorIdx)
  | .red k _ => (0xa3, k.ctorIdx)
  | .fence k _ => (0xa4, k.ctorIdx)
  | .waiteq k _ => (0xa5, k.toNat)
  | .atoms k _ => (0xa6, k.ctorIdx)
  | .copy k _ => (0xb0, k.ctorIdx)
  | .gather _ => (0xb1, 0)
  | .coll k _ => (0xb2, k.ctorIdx)
  | .waitc k _ => (0xb3, k.ctorIdx)
  | .sleept _ => (0xb4, 0)
  | .bar _ => (0xb5, 0)
  | .bara _ => (0xb6, 0)
  | .barw _ => (0xb7, 0)
  | .semp _ => (0xb8, 0)
  | .semv _ => (0xb9, 0)
  | .fetchw _ => (0xba, 0)
  | .ifence _ => (0xbb, 0)
  | .mma k _ => (0xc0, k.ctorIdx)
  | .mmas k _ => (0xc1, k.ctorIdx)
  | .mcomp _ => (0xc2, 0)
  | .msacc _ => (0xc3, 0)
  | .mbatch _ => (0xc4, 0)
  | .mwait _ => (0xc5, 0)
  | .mrel _ => (0xc6, 0)
  | .mzero _ => (0xc7, 0)
  | .mrda _ => (0xc8, 0)
  | .mwra _ => (0xc9, 0)
  | .msta _ => (0xca, 0)
  | .mlda _ => (0xcb, 0)
  | .mstat _ => (0xcc, 0)
  | .fnld _ => (0xd0, 0)
  | .fnst _ => (0xd1, 0)
  | .fnfit _ => (0xd2, 0)
  | .fneval _ => (0xd3, 0)
  | .fnadd _ => (0xd4, 0)
  | .fnsub _ => (0xd5, 0)
  | .fnmul _ => (0xd6, 0)
  | .fnaff _ => (0xd7, 0)
  | .fncomp _ => (0xd8, 0)
  | .fndiff _ => (0xd9, 0)
  | .fnint _ => (0xda, 0)
  | .fnquad _ => (0xdb, 0)
  | .fnroot _ => (0xdc, 0)
  | .fndom _ => (0xdd, 0)
  | .fninfo _ => (0xde, 0)
  | .fnrel _ => (0xdf, 0)
  | .acq _ => (0xe0, 0)
  | .give _ => (0xe1, 0)
  | .claim _ => (0xe2, 0)
  | .tspawn _ => (0xe3, 0)
  | .tpop _ => (0xe4, 0)
  | .tdone _ => (0xe5, 0)
  | .launch _ => (0xe6, 0)
  | .sbrd _ => (0xe8, 0)
  | .escrd _ => (0xe9, 0)
  | .sbwd _ => (0xea, 0)
  | .sbclr _ => (0xeb, 0)
  | .trap _ => (0xec, 0)
  | .rte _ => (0xed, 0)
  | .brk _ => (0xee, 0)
  | .srrd _ => (0xef, 0)
  | .srwr _ => (0xf0, 0)
  | .cycrd _ => (0xf1, 0)
  | .trmark _ => (0xf2, 0)
  | .evrd _ => (0xf3, 0)
  | .ckpt _ => (0xf4, 0)
  | _ => (0, 0)

/-- LEN of an extension. -/
def Ext.len : Ext → BitVec 2
  | .l64 => 0
  | .l96 _ => 1
  | .l128 _ _ => 2

/-- LEN of a T96 or A96 instruction. -/
def guardLen (g : Option (BitVec 32)) : BitVec 2 := if g.isSome then 2 else 1

/-- The bits of an X64 or M96 instruction (Table 2.1, R31, R32), zero above its length. -/
def X64.bits (f : X64) (opc sub : Nat) : BitVec 128 :=
  f.ext.guard.getD 0 ++ f.ext.w1 ++ f.imm8 ++ f.flg ++ f.esz ++ BitVec.ofNat 4 sub ++ f.c ++ f.b ++ f.a ++ f.d ++
    BitVec.ofNat 8 opc ++ f.u ++ f.stall ++ f.ext.len

/-- The bits of an I64 instruction (Table 2.2, R30). -/
def I64.bits (f : I64) (opc sub : Nat) : BitVec 128 :=
  f.ext.guard.getD 0 ++ f.ext.w1 ++ f.imm26 ++ f.flg ++ f.esz ++ BitVec.ofNat 4 sub ++ f.a ++ f.d ++
    BitVec.ofNat 8 opc ++ f.u ++ f.stall ++ f.ext.len

/-- The bits of a T96 instruction (Table 2.4). -/
def T96.bits (f : T96) (opc sub : Nat) : BitVec 128 :=
  f.guard.getD 0 ++ f.rsv ++ f.yl ++ f.el ++ f.p2 ++ f.p1 ++ f.p0 ++ f.imm26 ++ f.flg ++ BitVec.ofNat 4 sub ++ f.b ++
    f.a ++ BitVec.ofNat 8 opc ++ f.r5 ++ f.stall ++ guardLen f.guard

/-- The bits of an A96 instruction (Table 2.5). -/
def A96.bits (f : A96) (opc sub : Nat) : BitVec 128 :=
  f.guard.getD 0 ++ f.ofs ++ f.type ++ f.xsc ++ f.hint ++ f.scope ++ f.ord ++ f.sz ++ BitVec.ofNat 4 sub ++ f.b ++ f.a ++
    f.d ++ BitVec.ofNat 8 opc ++ f.u ++ f.stall ++ guardLen f.guard

/-- The 128 bits that begin at an instruction, zero above its length. -/
def Instr.bits (i : Instr) : BitVec 128 :=
  match i.fields with
  | .x f => f.bits i.opcSub.1 i.opcSub.2
  | .i f => f.bits i.opcSub.1 i.opcSub.2
  | .t f => f.bits i.opcSub.1 i.opcSub.2
  | .a f => f.bits i.opcSub.1 i.opcSub.2
  | .event => 0

/-- Length of an instruction in bytes (R25); an event has none. -/
def Instr.bytes (i : Instr) : Nat :=
  match i.fields with
  | .x f => f.ext.bytes
  | .i f => f.ext.bytes
  | .t f => if f.guard.isSome then 16 else 12
  | .a f => if f.guard.isSome then 16 else 12
  | .event => 0

/-- The 32-bit words of an instruction, the one at the lowest address first (R25). -/
def encode (i : Instr) : List Word :=
  (List.range (i.bytes / 4)).map fun k => i.bits.extractLsb' (32 * k) 32

/-- The bytes of an instruction as they lie in memory. -/
def encodeBytes (i : Instr) : List Byte := bytesOfNat i.bytes i.bits.toNat

/-- TFWORD of an instruction: its bits [31:0] (R45). -/
def Instr.word0 (i : Instr) : Word := i.bits.extractLsb' 0 32

/-- What the decoder reads from an instruction whose bits are `w`, bit 0 the least significant of its first parcel. -/
def decodeTableWord (nbits w : Nat) : Option Instr :=
  match decode (bytesOfNat 16 (w % 2 ^ nbits)) with
  | .ok (i, _) => some i
  | .error _ => none

end Sys2Proof
end

