-- ==== Sys2Proof/Config.lean ====
section
/-! DEFINITION. What one implementation fixes and the specification leaves open: values without a body, so that no proof
can rest on one (R225, R263, R199, R289; log entries 4, 7, 9). -/

namespace Sys2Proof.Config

/-- The line that a cluster evicts from its L1 in a cycle, if it does (R225: the moment is unstated). Log entry 4. -/
opaque evictLine : Nat → Nat → Option Nat

/-- The CACHE bank of a cluster that a line lies in, and the line that leaves a full bank (R186). Log entry 4. -/
opaque lineBank : Nat → Nat → Nat
opaque victim : Nat → Nat

/-- The slice of its die that is a line's home (R184: which of the 64 is not stated). Log entry 106. -/
opaque l2Slice : Nat → Nat

/-- Whether older values of bytes stay readable, and which of those that a read may take it takes: 0 stands for the newest (R231).
Log entry 116. -/
opaque keepsHistory : Bool
opaque olderValue : Nat → Nat

/-- The same for the reads of an evaluation of WAITEQ, by the fibre and a number in which the cycle counts (R247). Log entry 116. -/
opaque olderWait : Nat → Nat → Nat

/-- Cycles from the issue of an access until it may be performed, and which of its pieces is performed first: 0 stands for all of them
in order (R200, R218, R220). Log entry 81. -/
opaque perfDelay : Nat → Nat
opaque pieceChoice : Nat → Nat

/-- Cycles from a PF until its line arrives (R192). Log entry 47. -/
opaque pfDelay : Nat → Nat

/-- The promise of the `n`-th COPY of a launch of class 1 to 3, which R263 calls an estimate, and of class 0, for which R263
states no value. Log entry 7. -/
opaque promise : Nat → BitVec 32

/-- The word in which the data of an uncorrectable error is delivered (R199: the destination words are poisoned; their
value is not stated). Log entry 9. -/
opaque poisonWord : Nat → BitVec 32

/-- Board power in watts and the die temperatures that TELEMETRY returns (R479: no value stated). Log entry 12. -/
opaque telemetry : Nat → BitVec 32

/-- The body of a reply to an SPDM message, by its number, its bytes, the running image and the configuration blob, which are what is
measured (R482, R483 name the messages; DSP0274 gives the bytes). Log entry 12. -/
opaque spdmReply : Nat → List (BitVec 8) → List (BitVec 8) → List (BitVec 8) → List (BitVec 8)

/-- Whether a firmware image's two signatures verify against the ROM keys (R481; the algorithms are external standards).
Log entry 13. -/
opaque signaturesVerify : List (BitVec 8) → Bool

/-- The minimum security version and the absent clusters in a configuration blob (R11, R481: its layout is not stated). Log entry 13. -/
opaque blobMin : List (BitVec 8) → BitVec 32
opaque blobAbsent : List (BitVec 8) → List Nat

/-- The code of a result of the special-function unit that 960 bits of precision do not tell how to round; none is known (R162). Log
entry 22. -/
opaque undecided : Nat

/-- Bytes a burst reads when its source and destination overlap (R254: old or new value). Log entry 8. -/
opaque overlapNew : Nat → Bool

/-- Whether the peer of the `n`-th transfer refuses it (R478: the peer decides). Log entry 11. -/
opaque peerRefuses : Nat → Bool

/-- The bytes in which a context save area holds an item of Table 12.5 of a given kind, from the values it stands for: the table
names the contents and not the places of most of them. Log entry 29. -/
opaque saveBytes : Nat → List Nat → List (BitVec 8)

/-- The set of an instruction cache in which a line lies (R9). Log entry 101. -/
opaque icSet : Nat → Nat

/-- The partition whose memory a line of HBM is, where the host writes it (R337). Log entry 31. -/
opaque memOwner : Nat → Nat

/-- The window of a partition that it has granted to the peer of an entry of its peer table: physical base and size (R478; how a
window is granted is not stated). Log entry 11. -/
opaque peerWindow : Nat → Nat → Nat × Nat

/-- Events of a unit whose state the model does not hold, on a cluster in a cycle (R430): lines of HBM and CXL, the cycles of the arrays
and units. Arguments: cluster, event code, cycle. Log entry 30. -/
opaque unitEvents : Nat → Nat → Nat → Nat

/-- Which stop record is that of the unit at which a halt line rose (R336), by a counter. Log entry 94. -/
opaque haltOrigin : Nat → Nat

/-- Whether an idle beat of a cluster in a cycle carries a beat of a pending trial or nothing (R71, R408). Log entry 10. -/
opaque trialBeat : Nat → Nat → Bool

/-- The value of a register or result that the specification leaves open, by a counter. Log entry 10. -/
opaque freeWord : Nat → BitVec 32

end Sys2Proof.Config
end

