-- ==== Sys2Proof/Machine/Table.lean ====
section
/-! DEFINITION. Finite tables by number, lane sets and lane vectors: the plain data out of which the state is built. -/

namespace Sys2Proof.Machine

/-- A table by number: entries in rising order of key, at most one for a key. -/
abbrev Table (α : Type) := List (Nat × α)

def tget? {α : Type} : Table α → Nat → Option α
  | [], _ => none
  | (k, v) :: t, n => if k = n then some v else tget? t n

/-- Set an entry, keeping the keys in rising order. -/
def tset {α : Type} : Table α → Nat → α → Table α
  | [], n, a => [(n, a)]
  | (k, v) :: t, n, a => if n < k then (n, a) :: (k, v) :: t else if n = k then (n, a) :: t else (k, v) :: tset t n a

def terase {α : Type} (t : Table α) (n : Nat) : Table α := t.filter fun e => e.1 != n

/-- Change the entry at `n` where there is one. -/
def tmod {α : Type} : Table α → Nat → (α → α) → Table α
  | [], _, _ => []
  | (k, v) :: t, n, f => if k = n then (k, f v) :: t else (k, v) :: tmod t n f

/-- The lowest key from `n` on that the table does not hold. -/
def tfree {α : Type} (t : Table α) (n : Nat) : Nat → Nat
  | 0 => n
  | fuel + 1 => if (tget? t n).isSome then tfree t (n + 1) fuel else n

/-- Element `n` of a list replaced, where it has one. -/
def lset {α : Type} : List α → Nat → α → List α
  | [], _, _ => []
  | _ :: l, 0, a => a :: l
  | x :: l, n + 1, a => x :: lset l n a

/-- Lane numbers 0 to 95. -/
def allLanes : List Nat := List.range 96

/-- A lane set from a predicate. -/
def lanesOf (p : Nat → Bool) : Lanes := BitVec.ofNat 96 (allLanes.foldl (fun a l => if p l then a + 2 ^ l else a) 0)

/-- Members of a lane set in rising order. -/
def lanesIn (m : Lanes) : List Nat := allLanes.filter fun l => m.getLsbD l

/-- The lowest member. -/
def lowLane? (m : Lanes) : Option Nat := (lanesIn m).head?

/-- Number of members. -/
def laneCount (m : Lanes) : Nat := (lanesIn m).length

/-- The lanes of beat group `b` (R14). -/
def groupLanes (b : Nat) : Lanes := lanesOf fun l => l / 32 == b

/-- The beat group of a lane (R14: beat b carries lanes 32b to 32b + 31). -/
def groupOf (l : Nat) : Nat := l / 32

/-- Bits of a lane set as the words of lanes 0–31, 32–63, 64–95. -/
def lanesWord (m : Lanes) (k : Nat) : Word := m.extractLsb' (32 * k) 32

/-- A triple by beat number. -/
def tri (t : Nat × Nat × Nat) (b : Nat) : Nat := if b = 0 then t.1 else if b = 1 then t.2.1 else t.2.2

/-- The same value in all three beats. -/
def tri1 (n : Nat) : Nat × Nat × Nat := (n, n, n)

/-- A triple changed beat by beat. -/
def triMap (f : Nat → Nat) (t : Nat × Nat × Nat) : Nat × Nat × Nat := (f t.1, f t.2.1, f t.2.2)

/-- The greater of two triples, beat by beat. -/
def triMax (a b : Nat × Nat × Nat) : Nat × Nat × Nat := (max a.1 b.1, max a.2.1 b.2.1, max a.2.2 b.2.2)

/-- The word of lane `l` of a lane vector; a vector that is too short reads as zero. -/
def laneW (v : List Word) (l : Nat) : Word := v.getD l 0

/-- A lane vector from a function of the lane. -/
def laneVec (f : Nat → Word) : List Word := allLanes.map f

end Sys2Proof.Machine
end

