-- ==== Sys2Proof/Machine/State.lean ====
section
/-! DEFINITION. The state of the whole device as plain data: every register, memory, queue and table the specification names,
and the state right after reset. -/

namespace Sys2Proof.Machine

/-- Why the machine stops. No step of a running device stops: every trap is a next state. -/
inductive Fault where
  /-- `exec` was asked for an instruction while no fibre is at its beat 2: no instruction of the machine, so nothing the
  specification describes. Safe. -/
  | noFibre
  deriving DecidableEq, Repr

/-- Why a step has no meaning. -/
inductive Refusal where
  /-- The instruction has no meaning yet; raised only by the arms of `exec` that say so. Safe. -/
  | notModelled (mnemonic : String)
  deriving DecidableEq, Repr

/-! ### Registers -/

/-- A taint tag (R416). -/
structure Tag where
  entry : Nat
  serial : Nat
  direct : Bool
  deriving DecidableEq, Repr

/-- The 96 lane words of one register of a strand, with the poison bits and the errors of R332 and the tags of R416. -/
structure Row where
  vals : List Word := []
  poison : Lanes := 0
  /-- Words behind an uncorrectable error that no read has found yet (R332). -/
  ecc : Lanes := 0
  tags : List (Nat × Tag) := []
  deriving DecidableEq, Repr

/-- A register write in flight (R66, R99). `land b` is the first cycle at which a beat of group b sees it; none while a
variable-latency result has not landed. `cov` are the bits of a word it covers; `orIn` ORs into vfst (R137). -/
structure Flight where
  seq : Nat
  reg : Nat
  lanes : Lanes
  vals : List Word
  cov : Word := 0xFFFFFFFF
  land : Option (Nat × Nat × Nat)
  orIn : Bool := false
  poison : Lanes := 0
  tags : List (Nat × Tag) := []
  deriving DecidableEq, Repr

/-! ### Traps -/

/-- A trap to be delivered: cause, detail, lanes, TFWORD, whether it resumes at the next instruction and with which
run-start flag, and whether it is deferred (R321, R323). -/
structure Trap where
  cause : Cause
  addr : DWord := 0
  mask : Option Lanes := none
  next : Bool := false
  defer : Bool := false
  word : Option Word := none
  /-- The code reference that FN_FREF holds (R384). -/
  fref : DWord := 0
  /-- The cycle from which a deferred trap is due: that in which its data has landed in every lane (R199). -/
  since : Nat := 0
  deriving DecidableEq, Repr

/-- The trap-frame registers of a fibre (Table 12.1). -/
structure Frame where
  pc : DWord := 0
  cause : Word := 0
  addr : DWord := 0
  mask : Lanes := 0
  word : Word := 0
  deriving DecidableEq, Repr

/-- One instruction of an observed run of a fibre (R402, R406). -/
structure RunInstr where
  pc : DWord
  instr : Instr
  deriving DecidableEq, Repr

/-- An execution that was looked up, with its mode (R411) and what it keeps of the table entry until its terminator. -/
structure SubstUse where
  idx : Nat
  entry : Nat
  serial : Nat
  /-- Candidate mode rather than checked. -/
  cand : Bool
  /-- The candidate, the original body, and the terminator's code reference. -/
  body : List Instr
  text : List Instr
  /-- The terminator of the original text (R415). -/
  endI : Option Instr
  term : DWord
  ins : List Nat
  outs : List Nat
  /-- Next candidate instruction in candidate mode. -/
  next : Nat := 0
  deriving DecidableEq, Repr

/-- The run in progress of a fibre whose launch has FLAGS[3] = 1 (R402 to R413). -/
structure RunRec where
  start : DWord
  instrs : List RunInstr := []
  /-- Input registers in the order of their first read, with the words the lanes read (R402, R404). -/
  inputs : List (Nat × List Word) := []
  /-- Registers written so far. -/
  written : List Nat := []
  /-- The run mask (R409). -/
  lanes : Lanes := 0
  use : Option SubstUse := none
  /-- A table error found at lookup: the entry id (R415). -/
  bad : Option Nat := none
  /-- The number the sampler gave the execution when it began (R405, R406). -/
  num : Option Nat := none
  /-- A trap of R414 or R415 was delivered at the terminator, whose tests are not made again (R429). -/
  told : Bool := false
  deriving DecidableEq, Repr

/-- The trap slot (R321). -/
structure TrapSlot where
  qs : List Row
  runPos : Nat
  runStart : Bool
  em : Lanes
  level : Level
  resume : DWord
  /-- RTE suppresses the promise trap for one execution (R269). -/
  noPromise : Bool := false
  /-- The run that the trap interrupted (R403, R412). -/
  run : Option RunRec := none
  deriving DecidableEq, Repr

/-! ### Memory accesses in progress -/

/-- One byte's place: a cell of the physical memory, or a byte of a skein's scratch by its offset, which the XOR rule places when
the access reaches the bank (R188, R217). -/
inductive Loc where
  | mem (key : Nat)
  | scr (skein ofs : Nat)
  deriving DecidableEq, Repr

/-- What an agent knows of the writes performed, by their numbers (R230, R231): all up to `base`, and those to single locations up to
the number beside them. -/
structure View where
  base : Nat := 0
  locs : List (Loc × Nat) := []
  deriving DecidableEq, Repr

/-- A release that a write carries (R228): its scope, the strand of its fibre, none for another agent, and what happens before it. -/
structure Rel where
  scope : Nat
  strand : Option Nat
  view : View
  deriving DecidableEq, Repr

/-- A write that replaced a byte's value, with the releases that it carries. -/
structure Write where
  loc : Loc
  num : Nat
  old : Byte
  rels : List Rel
  deriving DecidableEq, Repr

/-- Page kinds (Table 7.4), and scratch. -/
inductive Kind where | rc | so | uo | scr
  deriving DecidableEq, Repr

/-- One byte of an access. -/
structure ByteAt where
  loc : Loc
  kind : Kind
  deriving DecidableEq, Repr

/-- The part of an access that one lane makes: its generic address and its bytes in order. -/
structure LaneAcc where
  lane : Nat
  addr : DWord
  bytes : List ByteAt
  /-- A shared line: global, not the private window, no SPRIV (R444). -/
  shared : Bool := false
  /-- Bytes of an element of LDT and STT, each in its own row (R208); 0 for an access whose bytes follow each other. -/
  el : Nat := 0
  deriving DecidableEq, Repr

/-- How a load's bytes become registers (R197, R208). -/
structure LoadForm where
  dst : Nat
  sz : Nat
  sx : Bool
  /-- LDT packs its elements into one word. -/
  ldt : Bool := false
  deriving DecidableEq, Repr

/-- One lane operation of an atomic instruction (R236, R242): operand and expected value. -/
structure AtomLane where
  acc : LaneAcc
  operand : DWord
  expected : DWord
  deriving DecidableEq, Repr

/-- An atomic instruction in progress (R239). -/
structure AtomReq where
  op : AtomOp
  type : AType
  dst : Option Nat
  lanes : List AtomLane
  /-- The ticket of an ATOMSC's first lane operation (R229, R238). -/
  ticket : Option Nat
  word : Word
  seq : Nat
  acq : Bool
  /-- A release (R221 case 2). -/
  rel : Bool := false
  scope : Nat := 0
  tags : List (Nat × Tag) := []
  /-- The releases that its lane operations have read (R228). -/
  rels : List Rel := []
  /-- Lane operations performed so far: lane, old value and failure (R238, R240); `lanes` are those still to be performed. -/
  done : List (LaneAcc × Nat × Option Cause) := []
  /-- The cycle before which no lane operation is performed. -/
  due : Nat := 0
  /-- Of a scratch atomic some of whose lanes are performed after its issue: the landing of its old values (R238, R239). -/
  late : Option (Nat × Nat × Nat) := none
  deriving DecidableEq, Repr

/-- A WAITEQ in progress (R247). -/
structure WaitEq where
  lanes : List LaneAcc
  comparand : List DWord
  ne : Bool
  sz : Nat
  dst : Nat
  failing : Lanes
  acq : Bool
  scope : Nat := 0
  word : Word
  /-- Where the fibre goes on when the condition holds. -/
  nxt : DWord
  tags : List (Nat × Tag) := []
  deriving DecidableEq, Repr

/-- A load that missed (R73, R199), with its pieces still to be performed and those performed (R220, R226). -/
structure MissLoad where
  form : LoadForm
  lanes : List LaneAcc
  seq : Nat
  word : Word
  act : Lanes
  acq : Bool
  scope : Nat := 0
  /-- HINT[1:0] (R204). -/
  hint : BitVec 2
  tags : List (Nat × Tag) := []
  /-- Lane, first byte and number of bytes of each piece not yet performed. -/
  pend : List (Nat × Nat × Nat) := []
  /-- Lane, first byte and bytes of each piece performed. -/
  got : List (Nat × Nat × List Byte) := []
  /-- The releases that its pieces have read (R228). -/
  rels : List Rel := []
  /-- Lanes whose data came back bad, with the cause (R199). -/
  bad : List (LaneAcc × Cause) := []
  /-- The cycle before which no piece is performed. -/
  due : Nat := 0
  deriving DecidableEq, Repr

/-- An entry of a spindle's store queue (R200): the pieces not yet performed, in the order the lanes write them (R201, R220, R226),
a RED, or the lines of a CCTL whose write-backs and removals are still to be performed (R225). `owners` are the fibres to which the access is program-order earlier (R219): the issuing one, those split from it,
and those it merged into. `po` are the entries of the queue that are program-order earlier. -/
structure StoreEntry where
  id : Nat := 0
  po : List Nat := []
  strand : Nat
  owners : List Nat
  pieces : List (List (ByteAt × Byte)) := []
  red : Option AtomReq := none
  cctl : Option CctlOp := none
  lines : List Nat := []
  release : Bool := false
  scope : Nat := 0
  /-- What comes before the access in its fibre, and the releases of the fibre's fences (R221, R228). -/
  view : View := {}
  fences : List Rel := []
  /-- HINT[1:0] (R204). -/
  hint : BitVec 2 := 0
  /-- The cycle before which no further piece is performed. -/
  due : Nat := 0
  deriving DecidableEq, Repr

/-! ### Waits -/

/-- A barrier of R271. -/
structure Barrier where
  phase : Word := 0
  count : Nat := 0
  target : Option Nat := none
  /-- The lane count a `.barrier` line or the manifest gives (R271, R283). -/
  dflt : Nat := 0
  deriving DecidableEq, Repr

/-- Which barrier (R264). -/
inductive BarRef where
  | skein (n : Nat)
  | manifest (n : Nat)
  deriving DecidableEq, Repr

/-- What a parked fibre waits for besides its publish list (R62, R75). -/
inductive Wait where
  /-- Nothing: a fibre that is not parked, or one that waits for its publish list alone. -/
  | none
  /-- A cycle of the chip counter (YIELD, R96). -/
  | yield (t : Nat)
  /-- A merge at RCVG k (R81). -/
  | rcvg (k : Nat)
  /-- A page walk (R179, R180). -/
  | walk
  /-- The data of a load (R73). -/
  | miss (m : MissLoad)
  /-- Old values of an atomic (R239). -/
  | atomic (a : AtomReq)
  /-- A WAITEQ, since a cycle (R247). -/
  | waiteq (w : WaitEq) (since : Nat)
  /-- A FENCE: the fibre's earlier accesses that it orders (R246). -/
  | fence (kind : FenceKind) (scope : Nat)
  /-- FPUSH to, or FPOP from, a FIFO bank since a cycle, with the instruction's beat-2 cycle (R189). -/
  | fifo (bank : Nat) (since beat2 : Nat) (push : Option Row) (dst : Nat) (act : Lanes) (nxt : DWord) (tags : List (Nat × Tag))
  /-- A bank that is changing its mode (R186, R214): the fibre keeps its slot (R59). -/
  | bank (n : Nat)
  /-- WAITC (R268). -/
  | waitc (k : OpClass) (n : Nat)
  /-- SLEEPT until the promise `t` (R269). -/
  | sleept (t : Word) (n : Nat)
  /-- A phase of a barrier (R272). -/
  | bar (b : BarRef) (phase : Word)
  /-- A semaphore request (R274). -/
  | sem (n : Nat)
  /-- IFENCE (R276). -/
  | ifence (scope : Nat)
  /-- MWAIT for a batch (R374). -/
  | mwait (batch : Nat) (st : Bool) (dst : Nat) (tags : List (Nat × Tag))
  /-- A register write that must wait (R182, R468), then the instruction again: the fibre keeps its slot (R59). -/
  | unit
  /-- ACQ (R312). -/
  | acq
  /-- CLAIM (R314). -/
  | claim (k : Nat)
  /-- A push to a task queue to be accepted, with what follows it (R315, R317). -/
  | push
  /-- A task queue above its high watermark (R300). -/
  | high (die queue : Nat)
  /-- TPOP (R316). -/
  | tpop (die queue reg : Nat) (tags : List (Nat × Tag))
  /-- LAUNCH (R318): the record, the destination register, the lanes of act, and the cycle since which it waits. -/
  | launch (rec_ : List Byte) (dst : Nat) (act : Lanes) (tags : List (Nat × Tag)) (since : Nat)
  /-- CKPT (R346). -/
  | ckpt (dst : Nat) (act : Lanes) (tags : List (Nat × Tag))
  /-- Code that has not arrived (R463), since a cycle. -/
  | code (since : Nat)
  /-- Trap entry that waits for results in flight (R321). -/
  | trap (t : Trap) (resume : DWord) (start : Bool) (act : Lanes)
  /-- The fault queue, under a record's sequence number (R325). -/
  | faultQ (seq : Nat)
  deriving DecidableEq, Repr

/-- Fibre states (Table 3.3); an ended fibre has no path entry. -/
inductive FState where | running | ready | parked | stopped
  deriving DecidableEq, Repr

/-- A task record (R297) and the queue it was popped from. -/
structure Task where
  die : Nat
  queue : Nat
  words : List Word
  deriving DecidableEq, Repr

/-- One fibre: an entry of a strand's path table (R76), with its run position and its trap registers. -/
structure Fibre where
  laneSet : Lanes
  pc : DWord
  /-- The text base by which the fibre fetches, from the last resolution of its code reference (R467); none until the next
  fetch resolves it. -/
  base : Option DWord := none
  tokens : BitVec 16 := 0
  state : FState := .ready
  wait : Wait := .none
  /-- Where the fibre continues when the wait of its terminator ends; until then `pc` names the terminator. -/
  after : Option DWord := none
  /-- Registers of the last publish list still awaited (R62). -/
  pubs : List Nat := []
  stamp : Nat := 0
  /-- First cycles at which the next instruction's beats may issue (R64). -/
  bound : Nat × Nat × Nat := (0, 0, 0)
  /-- Cycles of the beats of the next instruction that have issued. -/
  beats : List Nat := []
  runPos : Nat := 0
  wb0 : Nat := 0
  wb1 : Nat := 32
  /-- The next instruction was found to read outside the working set, and its beat 0 is delayed (R69). -/
  wsHeld : Bool := false
  /-- Fills of windows that REGPF set (R212): window and the cycle in which its fill ends. -/
  fills : List (Nat × Nat) := []
  level : Level := .user
  /-- Next hand-out at class 3 (R74, R96). -/
  last3 : Bool := false
  slot : Option TrapSlot := none
  frame : Frame := {}
  /-- Deferred causes that are due or held, in issue order (R160, R199, R384). -/
  deferred : List (Nat × Trap) := []
  task : Option Task := none
  /-- Walks of the instruction under way that failed, by page (R180). -/
  walks : List (Nat × Cause) := []
  /-- The promise trap is suppressed for one execution (R269). -/
  noPromise : Bool := false
  /-- FN_FREF (R384). -/
  fnFref : DWord := 0
  run : Option RunRec := none
  /-- Debugger: stop before the next instruction; step one; release passes one stop (R440, R442). -/
  stopReq : Bool := false
  stepReq : Bool := false
  passStop : Bool := false
  /-- The release was of a BRK that DBG_CTL.HOLD stopped (R442). -/
  passBrk : Bool := false
  /-- Cause of the stop of a stopped fibre: 15, 90 or 91 (R441). -/
  stopCause : Nat := 0
  /-- The stop record to be written when what the fibre issued is done: cause, the first bytes of its detail, and the cycle of the
  stop (R441, Table 12.7). -/
  stopRec : Option (Nat × Nat × Nat) := none
  /-- A release that waits for the stop record, and whether it is a step (R441, R442). -/
  release : Option Bool := none
  /-- A pre-emption has saved the fibre (R328, R329). -/
  saved : Bool := false
  /-- The fibre had issued an instruction since its skein was placed (R309). -/
  issued : Bool := false
  /-- Bits [31:0] of the instruction the fibre parked at, for the TFWORD of a trap its wait ends in. -/
  word : Word := 0
  /-- What the fibre knows of the writes performed; the releases its reads have read, for a later FENCE; and the releases of its FENCEs
  (R228, R230). -/
  view : View := {}
  pend : List Rel := []
  fences : List Rel := []
  deriving DecidableEq, Repr

/-! ### Strands and skeins -/

/-- How an engine operation failed (R258, Table 10.4). -/
structure Fail where
  cause : Cause
  kind : Nat
  addr : DWord := 0
  done : Nat := 0
  deriving DecidableEq, Repr

/-- An issued operation that has not been reported (R249). -/
structure OpRec where
  cls : OpClass
  num : Nat
  done : Bool := false
  fail : Option Fail := none
  /-- A pre-emption saved the operation (R262, R269). -/
  saved : Bool := false
  deriving DecidableEq, Repr

/-- The most recent candidate-mode execution that covered a lane (R417). -/
structure Provenance where
  entry : Nat := 0
  serial : Nat := 0
  ins : List Word := [0, 0, 0, 0]
  outs : List Word := [0, 0]
  deriving DecidableEq, Repr

/-- A value of a function register (R378): the interval ends and the coefficients by their FP32 bits, with the taint tag. -/
structure FnVal where
  lo : Word
  hi : Word
  coef : List Word
  tag : Option Tag := none
  deriving DecidableEq, Repr

/-- An operation in the function unit's queue (R381), with the operands it read at issue (R382). -/
structure FnOp where
  strand : Nat
  fib : Nat
  instr : Instr
  act : Lanes
  ref : DWord
  ctl : Word
  seq : Nat
  /-- The flights of its v-register results, by the destination's order. -/
  flights : List Nat := []
  /-- Words read in lane u, and the words of a register read in each lane. -/
  nums : List Word := []
  lanes : List Word := []
  bytes : List ByteAt := []
  /-- Tags of register operands before and after the function operands, and by lane (R416). -/
  pre : Option Tag := none
  post : Option Tag := none
  laneTags : List (Nat × Tag) := []
  /-- Tags of the GREG by lane of act, the last among the sources (R416). -/
  gregTags : List (Nat × Tag) := []
  /-- The fibre has not ended. -/
  live : Bool := true
  /-- The cause with which it was performed, waiting here while its fibre holds 16 (R160, R384). -/
  held : Option Trap := none
  deriving DecidableEq, Repr

/-- A matrix batch of a strand (R359, R360): operations issued into it and not yet completed, and the cause, the failing address
and the index of its first aborted operation. -/
structure Batch where
  num : Nat := 0
  ops : Nat := 0
  left : Nat := 0
  status : Option (Cause × DWord × Nat) := none
  stopped : Bool := false
  /-- Marked for re-issue (R365). -/
  reissue : Bool := false
  reported : Bool := false
  deriving DecidableEq, Repr

/-- What a matrix operation does, its operands read at issue (R347). -/
inductive MxKind where
  /-- Mode, types, accumulator, addresses and strides of A and B, and for MMAS the metadata offset. -/
  | mma (mode : MmaMode) (ta tb acc : Nat) (pa pb sa sb : Nat) (info : Option Nat)
  /-- Type, destination, source, strides of source and destination, metadata offset. -/
  | mcomp (t dst src ss ds info : Nat)
  /-- Target, part, and the scratch addresses of sa and sb. -/
  | msacc (acc part oa ob : Nat)
  | mzero (acc : Nat)
  | mrel (acc : Nat)
  /-- MRDA, MSTA and MWRA, MLDA: whether to memory, accumulator, format, base address and stride. -/
  | move (out : Bool) (acc fmt base stride : Nat)
  deriving DecidableEq, Repr

/-- An operation in a cluster's matrix queue (R347, R358): strand, number of its batch, index in it, row set, and the cycle it
entered the queue. -/
structure MxOp where
  strand : Nat
  batch : Nat
  idx : Nat
  rows : Lanes
  kind : MxKind
  since : Nat
  /-- Its place in the order in which the cluster's operations entered their queues (R358, R367). -/
  ord : Nat := 0
  /-- It has begun (R358): its operands are being fetched. -/
  begun : Bool := false
  /-- L2 lines it has pinned, and since when its fetch can pin none (R349). -/
  pins : Nat := 0
  pinAt : Option Nat := none
  /-- Walks that failed, by page (R180). -/
  walks : List (Nat × Cause) := []
  /-- The cycle before which it is not performed. -/
  due : Nat := 0
  /-- It waits in bind since a cycle (R350). -/
  bindAt : Option Nat := none
  /-- It aborted, and its batch is stopped (R364). -/
  aborted : Bool := false
  deriving DecidableEq, Repr

/-- A pattern of R466: ROWB, ROWS and PLANES, and the strides SRS, DRS, SPS, DPS. -/
structure Pattern where
  rowb : Nat
  rows : Nat
  planes : Nat
  srs : Int
  drs : Int
  sps : Int
  dps : Int
  deriving DecidableEq, Repr

/-- What an engine operation does, its operands read at issue (R265 to R267). -/
inductive EngKind where
  | lin (dst src n : Nat)
  | pat (dst src : Nat) (p : Pattern)
  /-- Peer index, GET, the peer-side offset, the local address and the length. -/
  | peer (idx : Nat) (get : Bool) (ofs loc n : Nat)
  /-- Destination, base, list offset in scratch, rows, bytes of a row. -/
  | gather (dst base list rows rowb : Nat)
  /-- Operation, type, ROP, ROOT, group, instance (R267), destination, source, elements. -/
  | coll (op : CollOp) (t : AType) (rop root group inst dst src n : Nat)
  deriving DecidableEq, Repr

/-- One side of a range: an address of the issuing strand, or an offset in the window of a peer. -/
inductive Side where
  | here (a : Nat)
  | peer (idx ofs : Nat)
  deriving DecidableEq, Repr

/-- A range to copy: source, destination and length. -/
structure Range where
  src : Side
  dst : Side
  n : Nat
  deriving DecidableEq, Repr

/-- A part of a burst that has passed its checks, still to be performed (R254): the bytes to write, and those to read or the values that
were read ahead of them; `poison` marks a burst with a bad source (R258). -/
structure EngPiece where
  dst : List ByteAt
  src : List ByteAt
  vals : List Byte := []
  poison : Bool := false
  deriving DecidableEq, Repr

/-- An operation in the copy engine's queue (R251), with its issue number in its class (R249), its place in the order in which the
cluster's operations entered their queues, and its progress burst by burst (R258, R262). -/
structure EngOp where
  strand : Nat
  cls : OpClass
  num : Nat
  kind : EngKind
  ord : Nat := 0
  /-- The chip cycle that a COPY promised (R263). -/
  promise : Option Nat := none
  /-- The ranges in byte order, once the engine has started the operation. -/
  plan : Option (List Range) := none
  /-- The range and the byte in it at which the next burst starts, the bytes before that range, and the bytes written. -/
  idx : Nat := 0
  pos : Nat := 0
  base : Nat := 0
  done : Nat := 0
  /-- The first bad source (R258), and the lines logged for replay (R444). -/
  bad : Option (Cause × Nat) := none
  logged : List Nat := []
  /-- Where the operation's free values start; source bytes by address as they were before the operation overwrote them; and bytes
  by number that a later burst is to write and an earlier one has read (R254). -/
  ctr : Nat := 0
  old : List (Nat × Byte) := []
  ahead : List (Nat × Byte) := []
  /-- Parts of its bursts that are still to be performed, and, once no further burst is made, how it ends. -/
  flying : List EngPiece := []
  ending : Option (Option Fail) := none
  /-- Walks that failed, by page (R180). -/
  walks : List (Nat × Cause) := []
  /-- The cycle before which no further burst is made. -/
  due : Nat := 0
  deriving DecidableEq, Repr

/-- A strand (R14 to R19, Table 1.5). -/
structure Strand where
  blocks : Nat
  role : Nat := 0
  spindle : Nat := 0
  regs : Table Row := []
  flights : List Flight := []
  seq : Nat := 0
  paths : Table Fibre := []
  /-- STRAND_CTL (Table 12.2). -/
  ctl : Word := 0x100
  /-- Issue numbers of the classes M, C, G, X (R249). -/
  issued : List Nat := [0, 0, 0, 0]
  ops : List OpRec := []
  promiseLast : Word := 0
  afAddr : DWord := 0
  afDone : Word := 0
  afInfo : Word := 0
  /-- Failures that were reported and not yet consumed by a wait, with their class and number (R259). -/
  fails : List (OpClass × Nat × Fail) := []
  fns : Table FnVal := []
  prov : Table Provenance := []
  /-- NEXT, the number of batches closed, the open batch, and the closed ones, oldest first (R359, R360). -/
  mxNext : Nat := 0
  mxClosed : Nat := 0
  mxOpen : Batch := {}
  batches : List Batch := []
  /-- MX_FLAGS (Table 13.8). -/
  mxFlags : Word := 0
  /-- Matrix operations that a pre-emption saved, in issue order (R367). -/
  mxSaved : List MxOp := []
  /-- Copy-engine operations that a pre-emption saved, in issue order (R262). -/
  engSaved : List EngOp := []
  /-- Generation tag of the register allocation (R333). -/
  gen : Nat := 0
  deriving DecidableEq, Repr

/-- A skein (R16, R293, R296, Table 1.5). -/
structure Skein where
  launch : Nat
  index : Nat
  coords : Nat × Nat × Nat := (0, 0, 0)
  point : Option (Nat × Nat × Nat) := none
  part : Nat
  ctx : Nat
  cls : Nat := 0
  strands : Nat := 1
  granted : Bool := false
  /-- The skein's request for its grant was recorded (R312), and when; and it holds an entry of the request list (R292). -/
  asked : Bool := false
  askedAt : Nat := 0
  listed : Bool := false
  /-- Current limits: register blocks, scratch KiB, accumulator slots, pool units; and what FULL would add. -/
  pro : Nat × Nat × Nat × Nat
  full : Nat × Nat × Nat × Nat
  /-- Scratch bytes by physical column offset (R187, R188), zero where unlisted. -/
  scratch : List Host.Cell := []
  /-- Rows of 128 bytes of scratch that hold poisoned bytes (R258). -/
  scrPoison : List Nat := []
  /-- The banks over which scratch is laid (R187). -/
  banks : List Nat := []
  scrcfg : Table (Nat × Nat) := []
  bars : List Barrier := List.replicate 16 {}
  /-- Accumulators bound: name to slot (R350), and the contents of those a pre-emption saved, by name: rows of 64 words. -/
  accs : Table Nat := []
  accSaved : Table (Table (List Word)) := []
  pool : Nat := 0
  claims : List (Nat × Nat) := []
  /-- Next replay record number of the skein, and the lines logged since its last synchronisation point (R444). -/
  replay : Nat := 0
  logged : List Nat := []
  /-- COLLs the skein has issued on each group (R267). -/
  colls : Table Nat := []
  saved : Bool := false
  /-- The launches of the skeins this one withdrew and now does the work of (R275). -/
  withdrew : List Nat := []
  deriving DecidableEq, Repr

/-! ### The cluster -/

/-- An entry of the SFU queue (R157, R160): the flights of its strand that it lands, the trap of a withheld result, and the
cycle before which it does not land. -/
structure SfuEntry where
  fib : Nat
  seqs : List Nat
  withheld : Option Trap
  notBefore : Nat
  /-- Its fibre has not ended (R159). -/
  live : Bool := true
  /-- Its result was withheld and has landed, and waits here while its fibre holds 16 causes (R160). -/
  held : Bool := false
  deriving DecidableEq, Repr

/-- A spindle (R13, R70, R157, R200). -/
structure Spindle where
  slots : List (Option Nat) := List.replicate 8 none
  last : Nat := 7
  sfu : List SfuEntry := []
  stores : List StoreEntry := []
  /-- Store-queue entries made so far, which number them. -/
  storeCtr : Nat := 0
  /-- No beat issues before this cycle (R188). -/
  hold : Nat := 0
  deriving DecidableEq, Repr

/-- A bank of the cluster (R186, R189, R215). -/
structure Bank where
  mode : BankMode := .cache
  /-- The mode a change in progress leads to. -/
  next : Option BankMode := none
  owner : Option Nat := none
  fifo : List Row := []
  deriving DecidableEq, Repr

/-- A translation (Table 7.1): page base, size exponent, and the entry's fields. -/
structure Xlat where
  part : Nat
  ctx : Nat
  vbase : Nat
  size : Nat
  frame : Nat
  loc : Nat
  ord : Nat
  code : Bool
  spriv : Bool
  x : Bool
  w : Bool
  deriving DecidableEq, Repr

/-- A PF request that waits for a translation (R180, R192): strand, address, whether it came through the private window, and `.l2`. -/
structure PfReq where
  strand : Nat
  va : Nat
  own : Bool
  l2 : Bool
  deriving DecidableEq, Repr

/-- An operation that waits for a translation (R180): of the copy engine by strand, class and number, or of the matrix queue by its
place in the order of entry. -/
inductive UnitReq where
  | eng (strand : Nat) (cls : OpClass) (num : Nat)
  | mx (ord : Nat)
  deriving DecidableEq, Repr

/-- An entry of the miss table (R179). -/
structure Miss where
  part : Nat
  ctx : Nat
  page : Nat
  fibs : List Nat
  /-- The walk began before an invalidation that covers it (R182). -/
  stale : Bool := false
  /-- Its age at the walkers' arbiter (R180, R456). -/
  age : Nat := 0
  /-- Prefetches that wait for the walk (R180, R192), and operations of the engines. -/
  pfs : List PfReq := []
  units : List UnitReq := []
  /-- It holds one of its die's page walkers (R180). -/
  walker : Bool := false
  deriving DecidableEq, Repr

/-- An RC line in the cluster's L1 (R178): its copy and the CACHE bank that holds it. -/
structure L1Line where
  bytes : List Byte
  bank : Nat
  /-- Filled by `.stream`: the next victim (R204). -/
  next : Bool := false
  deriving DecidableEq, Repr

/-- A store kept in a UO line (R225): byte, the fibres to which it is an earlier store (R202), value, and whether it is still to be
written back. -/
structure UoStore where
  ofs : Nat
  owners : List Nat
  val : Byte
  dirty : Bool
  /-- The releases that its write-back carries (R228). -/
  rels : List Rel := []
  deriving DecidableEq, Repr

/-- A UO line in the cluster's L1 (R225): the bytes its home slice held when it was filled, the stores made to it since, oldest
first, and the CACHE bank that holds it. -/
structure UoLine where
  bytes : List Byte
  stores : List UoStore := []
  bank : Option Nat := none
  /-- Filled by `.stream`: the next victim (R204). -/
  next : Bool := false
  deriving DecidableEq, Repr

/-- A line that a PF brings to the L1, or with `l2` to its home slice, from the cycle `due` on; not yet referenced (R192). -/
structure Prefetch where
  part : Nat
  line : Nat
  kind : Kind := .rc
  l2 : Bool := false
  due : Nat := 0
  deriving DecidableEq, Repr

/-- A FETCHW that waits for its reply (R275): the skein, the mailbox's scratch offset and the launch pair. -/
structure FetchReq where
  skein : Nat
  ofs : Nat
  seq : DWord
  deriving DecidableEq, Repr

/-- Bytes sent to a peer (R478): partition, peer-table index, offset in its window. -/
structure PeerMsg where
  part : Nat
  idx : Nat
  ofs : Nat
  bytes : List Byte
  /-- The bytes are poisoned (R258). -/
  poison : Bool := false
  /-- Sent by a collective through a peer page (R177): `ofs` is the physical address, and no index is named. -/
  page : Bool := false
  deriving DecidableEq, Repr

/-- States of a substitution-table entry (Table 18.1). -/
inductive SubState where | free | probation | promoted | rejected | withdrawn
  deriving DecidableEq, Repr

/-- A substitution-table entry (Tables 18.1 and 18.9). `installs` is the installation count of its index (Table 18.4). -/
structure SubEntry where
  state : SubState := .free
  installs : Nat := 0
  part : Nat := 0
  start : DWord := 0
  /-- Text base the run start last resolved to (R467). -/
  base : DWord := 0
  serial : Nat := 0
  clean : Nat := 0
  spot : Nat := 0
  cover : Nat := 0
  ins : List Nat := []
  outs : List Nat := []
  cand : List Instr := []
  /-- The original text, which the checksum of R415 stands for: its body and its terminator. -/
  text : List Instr := []
  endI : Option Instr := none
  /-- An uncorrectable error marks the entry (R415). -/
  bad : Bool := false
  deriving DecidableEq, Repr

/-- An entry of the operand sampler (R406). An entry taken before the run's text could be fetched whole has no `endI` yet. -/
structure Sampler where
  part : Nat
  start : DWord
  count : Nat := 0
  done : Bool := false
  ins : List Nat := []
  outs : List Nat := []
  text : List Instr := []
  endI : Option Instr := none
  /-- Samples: number of the execution (R405), lane, and the value of each input. -/
  samples : List (Nat × Nat × List Word) := []
  /-- Candidate under trial and the number of samples it has matched (R408). -/
  trial : Option (List Instr × Nat) := none
  deriving DecidableEq, Repr

/-- A cluster's trace stream (R434 to R438). -/
structure TraceSeg where
  /-- TR_HEAD and TR_TAIL. -/
  head : Word := 0
  tail : Word := 0
  /-- The staging buffer. -/
  staged : List Byte := []
  /-- Packets of the present cycle in the order of R437: fibre, type, and payload after skein and path. -/
  pend : List (Nat × Nat × List Byte) := []
  /-- A SYNC must stand before the next packet. -/
  fresh : Bool := true
  /-- Time of the previous packet, and of the previous SYNC; packets written since it. -/
  last : Nat := 0
  syncAt : Nat := 0
  since : Nat := 0
  /-- Packets produced, dropped ones included. -/
  total : Nat := 0
  /-- Packets dropped since the last LOSS, with the times of the first and the last. -/
  dropped : Nat := 0
  dropFrom : Nat := 0
  dropTo : Nat := 0
  /-- MODE 1 holds the cluster's traced fibres (R438). -/
  holding : Bool := false
  deriving DecidableEq, Repr

/-- A cluster (R13). -/
structure Cluster where
  trace : TraceSeg := {}
  /-- EV_SEL, and the event totals at the last zeroing of each physical counter (R431). -/
  evSel : Word := 0
  evBase : List Nat := [0, 0, 0, 0]
  /-- Counts of the events of Table 20.1 since reset, by code, and at the last tick (R430, R432). -/
  ev : Table Nat := []
  evTick : Table Nat := []
  subst : List SubEntry := List.replicate 64 {}
  sampler : List (Option Sampler) := List.replicate 32 none
  /-- Run starts, text offset bits [31:0], by the entry ids installed so far (Table 18.4). -/
  subRuns : Table Nat := []
  banks : List Bank := List.replicate 16 {}
  uo : Table UoLine := []
  l1 : Table L1Line := []
  tlb : List Xlat := []
  misses : List Miss := []
  copies : List EngOp := []
  /-- Operations that have entered the copy engine's and the matrix queue. -/
  opCtr : Nat := 0
  /-- The matrix queue (R358), the free accumulator slots in order (R350, R351), and the rows of 64 words of the slots, zero where
  unlisted. -/
  mxq : List MxOp := []
  accFree : List Nat := List.range 32
  accMem : Table (Table (List Word)) := []
  /-- The function unit's queue (R381). -/
  fnq : List FnOp := []
  pf : List Prefetch := []
  /-- The count of uncorrectable register errors (R332). -/
  regErrs : Nat := 0
  nextSkein : Nat := 0
  spindles : List Spindle := List.replicate 4 {}
  deriving DecidableEq, Repr

/-! ### Contexts, partitions, launches -/

/-- Where a context stands in a pre-emption (R328): switched in, a soft request made or the halt begun at a reference count,
or switched out. -/
inductive PreState where
  | in_
  | soft (since : Nat)
  | halt (since : Nat)
  | out
  deriving DecidableEq, Repr

/-- The registers of a context (R183, Tables 7.8 and 12.1). -/
structure Context where
  xlRoot : DWord := 0
  en : Bool := false
  prqIrq : Bool := false
  prqEn : Bool := false
  privRoot : DWord := 0
  privLane : Word := 8
  xlInvVa : DWord := 0
  xlInvBusy : Bool := false
  prqRing : DWord := 0
  prqSize : Word := 64
  prqHead : Word := 0
  prqTail : Word := 0
  prqSeq : Word := 0
  tvec : DWord := 0
  preGrace : Word := 5000
  preKill : Word := 100000
  slice : Word := 0
  ctxSave : DWord := 0
  pre : PreState := .in_
  /-- Reference count at which the context was switched in (R330). -/
  sliceAt : Nat := 0
  escBase : DWord := 0
  escCount : Word := 0
  /-- DBG_CTL to BP_HDL23 (Tables 20.5, 20.6). -/
  dbgHold : Bool := false
  dbgIrq : Bool := false
  dbgStopH : Word := 0
  dbgHead : Word := 0
  dbgBase : DWord := 0
  bpOfs : List Word := [0, 0, 0, 0]
  bpHdl : List Word := [0, 0]
  /-- The address each breakpoint last resolved to (R467). -/
  bpBase : List DWord := [0, 0, 0, 0]
  /-- TQ_SEL (Table 11.5) and BP_SEL (Table 22.2). -/
  tqSel : Nat := 0
  bpSel : Word := 0
  deriving DecidableEq, Repr

/-- The registers of a partition (Tables 12.1, 18.6, 22.1 and 22.2). -/
structure Partition where
  rangeBase : Nat := 1
  rangeLimit : Nat := 0
  qosWt : Word := 1
  colours : DWord := 0
  icWays : Word := 0
  baseTbl : DWord := 0
  codeTmo : Word := 100000
  fwdBase : DWord := 0
  fwdCount : Word := 1
  cmpPark : Bool := false
  cmpErr : Bool := false
  cmpBusy : Bool := false
  /-- A write of PARK = 0 waits for BUSY to clear (R468). -/
  cmpUnpark : Bool := false
  /-- The fibre that CMP_CTL.PARK exempts (R468). -/
  cmpExempt : Option Nat := none
  ckLog : DWord := 0
  ckSize : Word := 0
  ckEpoch : Word := 0
  ckFull : Bool := false
  /-- The lines that the undo log of the epoch holds, oldest first; their old contents lie in memory at CK_LOG (R337). -/
  undo : List Nat := []
  stopBase : DWord := 0
  /-- SUBST_CTL (Table 18.7). -/
  substCtl : Word := 0
  /-- EPH_CTL to EPH_TAIL (Tables 20.5, 20.6), the records the merger holds and the count of those lost (R433). -/
  ephK : Nat := 10
  ephIrq : Bool := false
  ephEn : Bool := false
  ephSize : Word := 16
  ephBase : DWord := 0
  ephHead : Word := 0
  ephTail : Word := 0
  ephWait : List (List Byte) := []
  ephLost : Nat := 0
  ephClock : Bool := false
  /-- TR_CTL and TR_BASE. -/
  trSeg : Nat := 12
  trIrq : Bool := false
  trMode : Bool := false
  trEn : Bool := false
  trBase : DWord := 0
  /-- RP_CTL, RP_HEAD, RP_BASE (R444, R445). -/
  rpFull : Bool := false
  rpSize : Nat := 16
  rpHead : Word := 0
  rpBase : DWord := 0
  /-- MR_CTL, MR_STAT, MR_AREA; the launch being measured and the signatures so far (R446, R447). -/
  mrEn : Bool := false
  mrPasses : Nat := 1
  mrMismatch : Word := 0
  mrPass : Nat := 0
  mrArea : DWord := 0
  mrLaunch : Option Nat := none
  mrSig : DWord := 0
  mrSig0 : DWord := 0
  /-- Beats of carding trials that idle cycles have carried since the last trial ended (R71). -/
  trialBeats : Nat := 0
  /-- Device sequence number of the next LAUNCH (R318). -/
  devSeq : Nat := 0
  /-- Fibres parked in LAUNCH, oldest first (R318). -/
  devReqs : List Nat := []
  /-- Launch-queue registers (Table 23.3). -/
  lqBase : DWord := 0
  lqSize : Word := 16
  lqEn : Bool := false
  lqExpect : DWord := 0
  lqRecall : Word := 100
  /-- Lines of the launch queue of which the snoop filter has reported a change that the front end has not looked at, with the cycle of
  the report (R288, R474). -/
  lqChanged : List (Nat × Nat) := []
  /-- The fibre whose CKPT is pending (R346). -/
  ckPending : Option Nat := none
  /-- The cause that raised the halt line, while the partition is stopped (R335), and the stop records written (R336). -/
  halted : Option Cause := none
  stops : Nat := 0
  /-- FETCHW requests that wait for the distributor, oldest first (R275). -/
  fetchws : List FetchReq := []
  /-- The peer table: 32-byte entries by index (R477). -/
  peers : Table (List Byte) := []
  deriving DecidableEq, Repr

/-- A record of the page-request queue (Table 7.6). -/
structure PrqEntry where
  part : Nat
  ctx : Nat
  addr : DWord
  seq : Word
  cluster : Nat
  sid : Nat
  path : Nat
  cause : Cause
  flags : Nat
  /-- The vector is raised whatever PRQ_IRQ holds (R291). -/
  irq : Bool := false
  deriving DecidableEq, Repr

/-- A task queue (R299, Table 11.6). -/
structure TaskQ where
  en : Bool := false
  part : Nat := 0
  high : Nat := 0
  low : Nat := 0
  /-- R300: from a push at or above HIGH until the depth falls below LOW. -/
  raised : Bool := false
  recs : List (List Word) := []
  /-- Fibres waiting in TPOP, oldest first. -/
  poppers : List Nat := []
  deriving DecidableEq, Repr

/-- A push in progress (R292, R315, R317). -/
structure Push where
  fib : Nat
  queue : Nat
  rec_ : List Word
  /-- Pushed by TSPAWN, so that R300 applies to its fibre. -/
  spawn : Bool
  deriving DecidableEq, Repr

/-- What a compute die holds (Table 1.1). -/
structure Die where
  prq : List PrqEntry := []
  prqWait : List PrqEntry := []
  tqs : Table TaskQ := []
  pushes : List Push := []
  deriving DecidableEq, Repr

/-- A text line, by its physical line number, or a base-table entry, by its handle, in a quadrant's instruction cache, with its
partition and the set and the way that hold it (R454, R461). -/
structure IcItem where
  part : Nat
  entry : Bool
  num : Nat
  bytes : List Byte
  set : Nat := 0
  way : Nat := 0
  deriving DecidableEq, Repr

/-- What a quadrant instruction cache of 2 MiB in 16 ways holds (R9, R461). -/
structure ICache where
  items : List IcItem := []
  deriving DecidableEq, Repr

/-- A manifest semaphore in a launch (R274, R462): scope, count and the requests waiting, oldest first. -/
structure Sem where
  scope : Nat
  count : Nat
  queue : List (Nat × Nat) := []
  deriving DecidableEq, Repr

/-- Where a fired frontier point stands (R306, R309). -/
inductive PointState where
  | waiting
  | placed (skein : Nat)
  | ended (skein : Nat)
  deriving DecidableEq, Repr

/-- A point in flight. -/
structure FPoint where
  p0 : Nat
  line : Nat
  at_ : PointState := .waiting
  deriving DecidableEq, Repr

/-- A frontier launch (R304 to R310). -/
structure Frontier where
  d0 : Nat
  d1 : Nat
  d2 : Nat
  vecs : List (Int × Int × Int) := []
  backing : DWord := 0
  /-- Heights of the lines below 65,536, zero where unlisted (R306, R308). -/
  heights : Table Nat := []
  inflight : List FPoint := []
  /-- Points that can fire and wait for an entry of the in-flight list, with the cycle from which they wait (R292, R306). -/
  asking : List (Nat × FPoint) := []
  stopped : Bool := false
  /-- Address of the frontier image, while the context is switched out (R309). -/
  image : DWord := 0
  deriving DecidableEq, Repr

/-- A launch that a front end has accepted (Table 11.1, R283, R286, R290, R462). -/
structure Launch where
  part : Nat
  ctx : Nat
  rec_ : List Byte
  seq : DWord
  device : Bool := false
  /-- Lane counts of the skein barriers (R283). -/
  bars : List Nat := List.replicate 16 0
  mbars : List (Nat × Barrier) := []
  msems : List Sem := []
  /-- Groups: scope and skein indices in rank order. -/
  groups : List (Nat × List Nat) := []
  placed : Nat := 0
  ended : Nat := 0
  /-- It holds an entry of a distributor's placement list (R292). -/
  listed : Bool := false
  /-- Unplaced skeins that FETCHW withdrew (R275). -/
  withdrawn : List Nat := []
  /-- Instances of levels bound to units: level, instance number, unit (R286). -/
  binds : List (Nat × Nat × Nat) := []
  engFail : Bool := false
  killed : Bool := false
  frontier : Option Frontier := none
  /-- A completion record held for a page request, by its sequence number (R291), with its status and skein count. -/
  held : Option (Word × Word × Word) := none
  /-- The replay log filled while the launch ran (R445). -/
  logFull : Bool := false
  deriving DecidableEq, Repr

/-- The beat-2 moment of an instruction: the fibre and the cycles of its beats (R64). -/
structure Issue where
  fib : Nat
  r0 : Nat
  r1 : Nat
  r2 : Nat
  deriving DecidableEq, Repr

/-- A line that its home slice holds (R184, R185): the partition whose access allocated it, and the slice of its die. -/
structure L2Line where
  part : Nat
  slice : Nat
  deriving DecidableEq, Repr

/-- Where an SPDM session stands (R483). -/
inductive SpdmState where
  | none
  | keyed
  | secured
  deriving DecidableEq, Repr

/-- The whole device. -/
structure State where
  /-- The chip cycle counter (R12). -/
  cycle : Nat := 0
  /-- The reference count (R12). -/
  refCount : Nat := 0
  mem : List Host.Cell := []
  /-- Bytes of memory behind an uncorrectable error or a poison mark (R199, R240, R258), by cell key. -/
  poison : List Nat := []
  /-- Lines of host memory whose reads get an error response over CXL (R199), by line key. -/
  hostErr : List Nat := []
  /-- The number of the last write performed and the releases it carries; the writes performed, newest first; and what the order S of
  SO accesses and the order T of ATOMSC operations hand on (R224, R229 to R231). -/
  writeNo : Nat := 0
  writeRels : List Rel := []
  hist : List Write := []
  soView : View := {}
  scView : View := {}
  /-- The lines that the L2 slices hold, by line number (R184, R185). -/
  l2 : Table L2Line := []
  strands : Table Strand := []
  skeins : Table Skein := []
  clusters : Table Cluster := []
  ctxs : Table Context := []
  parts : Table Partition := []
  launches : Table Launch := []
  /-- Number of launches accepted, which numbers them in the order of acceptance. -/
  launchCtr : Nat := 0
  /-- Interrupt vectors raised towards the host, oldest first (R472). -/
  irqs : List Nat := []
  dies : Table Die := []
  /-- The quadrant instruction caches, by quadrant number 0 to 15 (R9, R461). -/
  ics : Table ICache := []
  /-- BP_LIM of the pool queues that were written (R457): MIN and CAP by `poolKey`. -/
  bpLim : Table (Nat × Nat) := []
  /-- The beats of the present cycle have been issued (R70). -/
  beaten : Bool := true
  /-- Beat-2 moments of the present cycle still to be executed. -/
  issues : List Issue := []
  cur : Option Issue := none
  /-- Events chosen to come next, in order: which agent moves is plain data. -/
  agenda : List Instr := []
  freeCtr : Nat := 0
  /-- The next ticket of the hub sequencer (R243). -/
  ticketCtr : Nat := 0
  /-- The neighbour tables' entries by index (R477, R479). -/
  neigh : Table (List Byte) := []
  /-- Lines the host holds with ownership, with its data and the wall-clock time at which it took them (R3, R474), by line key. -/
  hostOwned : Table (List Byte × Nat) := []
  /-- Ports that are down (R478): Weft 0 to 17 by number, Ethernet port p as 32 + p. -/
  portsDown : List Nat := []
  /-- What the device has sent to its peers, oldest first (R478). -/
  peerOut : List PeerMsg := []
  /-- Clusters that the signed configuration blob marks absent (R11). -/
  absent : List Nat := []
  /-- The part of a reference tick that has passed, in units of 1 / (25 · 720720) (R12, R484). -/
  refFrac : Nat := 0
  /-- The arithmetic clock is 1.25 GHz · k / 16 (R484), and POWER_LIMIT in watts (R479). -/
  clkK : Nat := 16
  power : Nat := 1750
  /-- START_STAT (Table 23.6), and whether reset has been released (R480). -/
  startStat : Word := 0
  released : Bool := false
  /-- MB_CMD, MB_RET and the data area (R479). -/
  mbCmd : Word := 0
  mbRet : Word := 0
  mbData : List Byte := []
  /-- A PART_WR that waits (R182, R468): partition, context, register and value. -/
  mbWait : Option (Nat × Nat × Nat × Word) := none
  /-- The two firmware slots, the active one, the one that becomes active at the next reset, and the one running (R479, R481). -/
  fwSlots : List (List Byte) := [[], []]
  fwActive : Nat := 0
  fwNext : Nat := 0
  fwRun : Nat := 0
  /-- Replies to SPDM requests, oldest first (R483). -/
  doeOut : List (List Byte) := []
  /-- The MSI-X table, 32-bit words by number, and the pending bits of its 128 vectors (R471). -/
  msix : Table Word := []
  msixPba : BitVec 128 := 0
  /-- The host-physical base of the HDM range, as the host sets it (R470). -/
  hdmBase : DWord := 0
  /-- Memory_Active of the CXL DVSEC range registers (Table 23.6). -/
  memActive : Bool := false
  /-- The host link is lost, or contained after a failed integrity check (R476). -/
  linkDown : Bool := false
  /-- The configuration blob in flash (R481). -/
  blob : List Byte := []
  /-- The SPDM session (R483): none, KEY_EXCHANGE answered, or secured; and the IDE_KM messages taken, which program the keys of R476. -/
  spdm : SpdmState := .none
  ideKm : List (List Byte) := []
  /-- Data of the last host read over CXL.mem, with whether it was poisoned (R232, R480). -/
  hostData : List Byte := []
  hostPoison : Bool := false
  deriving DecidableEq, Repr

/-- The machine right after reset. -/
def State.reset : State := {}

end Sys2Proof.Machine
end

