-- ==== Sys2Proof/Machine/Access.lean ====
section
/-! DEFINITION. Names of the units, access to the tables of the state, and the bytes of numbers. -/

namespace Sys2Proof.Machine

/-! ### Names of units -/

/-- The key of a strand: cluster and 16-bit skein id (R16). -/
def mkStrand (cluster sid : Nat) : Nat := cluster * 65536 + sid

/-- The key of a fibre: strand and path index (R15). -/
def mkFib (strand path : Nat) : Nat := strand * 128 + path

def fibStrand (k : Nat) : Nat := k / 128
def fibPath (k : Nat) : Nat := k % 128
def strandCluster (k : Nat) : Nat := k / 65536
def strandSid (k : Nat) : Nat := k % 65536
def strandSkein (k : Nat) : Nat := k / 16
def fibCluster (k : Nat) : Nat := strandCluster (fibStrand k)
def fibSkein (k : Nat) : Nat := strandSkein (fibStrand k)

/-- The die of a cluster (R10). -/
def clusterDie (c : Nat) : Nat := c / 48

/-- The quadrant of a cluster, 0 to 15 over the package (R10). -/
def clusterQuad (c : Nat) : Nat := c / 12

/-- The key of a context. -/
def ctxKey (part ctx : Nat) : Nat := part * 16 + ctx

/-! ### Table access -/

def State.strand? (s : State) (k : Nat) : Option Strand := tget? s.strands k
def State.modStrand (s : State) (k : Nat) (f : Strand → Strand) : State := { s with strands := tmod s.strands k f }
def State.fib? (s : State) (k : Nat) : Option Fibre := (s.strand? (fibStrand k)).bind fun st => tget? st.paths (fibPath k)

def State.modFib (s : State) (k : Nat) (f : Fibre → Fibre) : State :=
  s.modStrand (fibStrand k) fun st => { st with paths := tmod st.paths (fibPath k) f }

def State.skein? (s : State) (k : Nat) : Option Skein := tget? s.skeins k
def State.modSkein (s : State) (k : Nat) (f : Skein → Skein) : State := { s with skeins := tmod s.skeins k f }

/-- A cluster; one the table does not list is as after reset. -/
def State.cluster (s : State) (c : Nat) : Cluster := (tget? s.clusters c).getD {}
def State.modCluster (s : State) (c : Nat) (f : Cluster → Cluster) : State :=
  { s with clusters := tset s.clusters c (f (s.cluster c)) }

def State.spindle (s : State) (c i : Nat) : Spindle := (s.cluster c).spindles.getD i {}
def State.modSpindle (s : State) (c i : Nat) (f : Spindle → Spindle) : State :=
  s.modCluster c fun cl => { cl with spindles := lset cl.spindles i (f (cl.spindles.getD i {})) }

def State.ctx (s : State) (k : Nat) : Context := (tget? s.ctxs k).getD {}
def State.modCtx (s : State) (k : Nat) (f : Context → Context) : State := { s with ctxs := tset s.ctxs k (f (s.ctx k)) }
def State.part (s : State) (p : Nat) : Partition := (tget? s.parts p).getD {}
def State.modPart (s : State) (p : Nat) (f : Partition → Partition) : State := { s with parts := tset s.parts p (f (s.part p)) }
def State.die (s : State) (d : Nat) : Die := (tget? s.dies d).getD {}
def State.modDie (s : State) (d : Nat) (f : Die → Die) : State := { s with dies := tset s.dies d (f (s.die d)) }

/-- The key of the context a strand runs in. -/
def State.strandCtx (s : State) (strand : Nat) : Nat :=
  match s.skein? (strandSkein strand) with
  | some k => ctxKey k.part k.ctx
  | none => 0

/-- The partition a strand runs in. -/
def State.strandPart (s : State) (strand : Nat) : Nat := s.strandCtx strand / 16

/-- Whether a partition owns a cluster (R451, R11). -/
def State.owns (s : State) (p c : Nat) : Bool :=
  decide ((s.part p).rangeBase ≤ c) && decide (c ≤ (s.part p).rangeLimit) && decide (c < 192) && !s.absent.contains c

/-- The clusters of a partition. -/
def State.clustersOf (s : State) (p : Nat) : List Nat := (List.range 192).filter (s.owns p)

/-- The partition that owns a cluster. -/
def State.owner (s : State) (c : Nat) : Option Nat := (List.range 32).find? fun p => s.owns p c

/-- Field `n` bytes long at an offset of a record (R4). -/
def recField (r : List Byte) (ofs n : Nat) : Nat := natOfBytes ((r.drop ofs).take n)

/-- Bits [lo + n − 1 : lo] of a number. -/
def bits (x lo n : Nat) : Nat := x / 2 ^ lo % 2 ^ n

end Sys2Proof.Machine
end

