-- ==== Sys2Proof/Machine/Trace.lean ====
section
/-! DEFINITION. Counting the events of Table 20.1 (R430, R431), the packets of a trace stream (R434 to R438) and interrupt
vectors. -/

namespace Sys2Proof.Machine

/-- Count `n` events of a code on a cluster (R430). -/
def State.count (s : State) (cl code n : Nat) : State :=
  s.modCluster cl fun c => { c with ev := tset c.ev code ((tget? c.ev code).getD 0 + n) }

/-- The launch of a fibre. -/
def State.launchOf (s : State) (k : Nat) : Option Launch := (s.skein? (fibSkein k)).bind fun sk => tget? s.launches sk.launch

/-- FLAGS of a launch record (Table 11.2). -/
def Launch.flags (l : Launch) : Nat := recField l.rec_ 4 4

/-- A flag bit of the fibre's launch. -/
def State.launchFlag (s : State) (k bit : Nat) : Bool := ((s.launchOf k).map fun l => l.flags.testBit bit).getD false

/-- Whether a fibre is traced (R434). -/
def State.traced (s : State) (k : Nat) : Bool :=
  s.launchFlag k 4 && (s.part (((s.skein? (fibSkein k)).map (·.part)).getD 0)).trEn

/-- A word of the MSI-X table (R471): four to a vector, of which bit 0 of the last masks it; a vector is masked after reset. The layout
and the reset values are PCI Express's (PRESUMED, log entry 56). -/
def State.msixWord (s : State) (n : Nat) : Word := (tget? s.msix n).getD (if n % 4 = 3 then 1 else 0)

/-- Whether a vector is masked. -/
def State.vecMasked (s : State) (v : Nat) : Bool := (s.msixWord (4 * v + 3)).getLsbD 0

/-- Raise an interrupt vector towards the host (R472): the message of a masked one stays pending (R471; log entry 56). -/
def State.raise (s : State) (v : Nat) : State :=
  if s.vecMasked v then { s with msixPba := s.msixPba ||| BitVec.twoPow 128 v } else { s with irqs := s.irqs ++ [v] }

/-- A write to the MSI-X table; a vector that is pending and no longer masked has its message sent. -/
def State.msixWrite (s : State) (n : Nat) (w : Word) : State :=
  let s := { s with msix := tset s.msix n w }
  let v := n / 4
  if s.msixPba.getLsbD v && !s.vecMasked v then { s with irqs := s.irqs ++ [v], msixPba := s.msixPba &&& ~~~(BitVec.twoPow 128 v) } else s

/-- The shortest little-endian bytes of a number; none for zero (R435). -/
def shortBytes (n : Nat) : Nat → List Byte
  | 0 => []
  | k + 1 => if n = 0 then [] else BitVec.ofNat 8 n :: shortBytes (n / 256) k

/-- The bytes of a packet (R435). -/
def packetBytes (type delta : Nat) (payload : List Byte) : List Byte :=
  let d := shortBytes delta 8
  BitVec.ofNat 8 (type * 16 + d.length) :: d ++ payload

/-- The bytes of a SYNC at a time (Table 20.3). -/
def syncBytes (cl now seq : Nat) : List Byte :=
  packetBytes 1 0 (BitVec.ofNat 8 (clusterDie cl) :: bytesOfNat 2 cl ++ bytesOfNat 8 now ++ bytesOfNat 4 seq)

/-- Write a packet into a stream's staging buffer with the LOSS and SYNC that must stand before it, or drop it (R435, R436,
R438). -/
def TraceSeg.write (t : TraceSeg) (cl now type : Nat) (payload : List Byte) : TraceSeg :=
  let loss := decide (0 < t.dropped)
  let lossB := if loss then
      packetBytes 8 (now - t.last) (bytesOfNat 4 t.dropped ++ bytesOfNat 4 (t.dropTo - t.dropFrom))
    else []
  let n1 := t.total + (if loss then 1 else 0)
  let sync := t.fresh || loss || decide (256 ≤ t.since) || decide (t.syncAt + 4096 ≤ now)
  let syncB := if sync then syncBytes cl now n1 else []
  let last := if sync then now else t.last
  let body := packetBytes type (now - last) payload
  let all := lossB ++ syncB ++ body
  if t.staged.length + all.length ≤ 512 then
    { t with
      staged := t.staged ++ all, fresh := false, last := now, syncAt := if sync then now else t.syncAt
      since := if sync then 1 else t.since + 1, total := n1 + (if sync then 2 else 1), dropped := 0 }
  else
    { t with
      total := t.total + 1, dropped := t.dropped + 1, dropFrom := if t.dropped = 0 then now else t.dropFrom, dropTo := now }

/-- Skein and path of a fibre, as packets name it (R435). -/
def fibBytes (k : Nat) : List Byte := bytesOfNat 2 (strandSid (fibStrand k)) ++ [BitVec.ofNat 8 (fibPath k)]

/-- The 12 bytes of a lane set (R435). -/
def lanesBytes (m : Lanes) : List Byte := bytesOfNat 12 m.toNat

/-- Packets of one cycle stand by ascending skein id and path, those of one fibre in the order of its events (R437). -/
def insertPacket (e : Nat × Nat × List Byte) : List (Nat × Nat × List Byte) → List (Nat × Nat × List Byte)
  | [] => [e]
  | x :: xs => if e.1 < x.1 then e :: x :: xs else x :: insertPacket e xs

/-- A packet of a traced fibre in the present cycle; `payload` follows skein and path. -/
def State.packet (s : State) (k type : Nat) (payload : List Byte) : State :=
  if s.traced k then
    s.modCluster (fibCluster k) fun c => { c with trace := { c.trace with pend := insertPacket (k, type, payload) c.trace.pend } }
  else s

/-- Write the packets of the cycle that ends into the stream of a cluster: TRACE_PACKETS counts each packet the stream takes, SYNC and
LOSS among them, and TRACE_DROPPED each that it drops (R430). -/
def State.traceFlush (s : State) (cl : Nat) : State :=
  let ps := (s.cluster cl).trace.pend
  if ps.isEmpty then s
  else
    let s := s.modCluster cl fun c => { c with trace := { c.trace with pend := [] } }
    ps.foldl
      (fun a p =>
        let before := (a.cluster cl).trace
        let a := a.modCluster cl fun c => { c with trace := c.trace.write cl a.cycle p.2.1 (fibBytes p.1 ++ p.2.2) }
        let after := (a.cluster cl).trace
        if before.dropped < after.dropped then a.count cl 0x3D 1 else a.count cl 0x3C (after.total - before.total)) s

end Sys2Proof.Machine
end

