-- ==== Sys2Proof/Machine/Ops.lean ====
section
/-! DEFINITION. Named operations over the state: registers under R66 and R99, slots and fibre states (R72, R75), taking a trap
(R321, R322, R325) and returning from one (R341). -/

namespace Sys2Proof.Machine

/-! ### Registers under R66 and R99 -/

/-- Whether a beat of group `g` at cycle `t` sees a write in flight (R66). -/
def Flight.seen (f : Flight) (g t : Nat) : Bool :=
  match f.land with
  | none => false
  | some ld => decide (tri ld g ≤ t)

/-- One lane word with its poison bit, an error no read has found yet, and its taint tag. -/
structure LaneVal where
  w : Word := 0
  poison : Bool := false
  /-- The word lies behind an uncorrectable error (R332). -/
  ecc : Bool := false
  tag : Option Tag := none
  deriving DecidableEq, Repr

/-- Flights in landing order for group `g`, the earlier-issued first among those that land together (R99). -/
def insertFlight (g : Nat) (f : Flight) : List Flight → List Flight
  | [] => [f]
  | x :: xs =>
    let key := fun (h : Flight) => (tri (h.land.getD (tri1 0)) g, h.seq)
    if (key f).1 < (key x).1 ∨ (key f).1 = (key x).1 ∧ (key f).2 < (key x).2 then f :: x :: xs
    else x :: insertFlight g f xs

def sortFlights (g : Nat) (fs : List Flight) : List Flight := fs.foldl (fun a f => insertFlight g f a) []

/-- The bits of a lane word that a write covers: those of its enabled elements (R99), and for em_k the one bit that stands for
the lane (R77). -/
def Flight.covAt (f : Flight) (l : Nat) : Word :=
  if 253 ≤ f.reg then (if f.cov.getLsbD (l % 32) then 0xFFFFFFFF else 0) else f.cov

/-- Lay landed writes over a lane word in landing order. A word that lands sets the bits it covers, but for those that a
later-issued write that has landed already covers, so each element ends with its later-issued writer's value (R99, R158; log
entry 92). -/
def layFlights (l : Nat) : List Flight → List (Nat × Word) → LaneVal → LaneVal
  | [], _, v => v
  | f :: fs, hist, v =>
    let x := laneW f.vals l
    if f.orIn then layFlights l fs hist { v with w := v.w ||| x }
    else
      let m := f.covAt l &&& ~~~(hist.foldl (fun a h => if h.1 > f.seq then a ||| h.2 else a) 0)
      let v' := if m == 0 then v else
        { w := (v.w &&& ~~~m) ||| (x &&& m), poison := f.poison.getLsbD l, tag := (f.tags.find? (·.1 == l)).map (·.2) }
      layFlights l fs ((f.seq, f.covAt l) :: hist) v'

/-- The lane word a row holds with nothing in flight. -/
def Row.lane (r : Row) (l : Nat) : LaneVal :=
  { w := laneW r.vals l, poison := r.poison.getLsbD l, ecc := r.ecc.getLsbD l, tag := (r.tags.find? (·.1 == l)).map (·.2) }

/-- The row of a register; one that was never written holds zeros (R19). -/
def Strand.row (st : Strand) (reg : Nat) : Row := (tget? st.regs reg).getD {}

/-- Bits [31:9] of vfst read as zero, and writes to them are ignored (R136, Table 5.6). -/
def keepBits (reg : Nat) (w : Word) : Word := if reg = 252 then w &&& 0x1FF else w

/-- What a beat of group `g` at cycle `t` reads in lane `l` of a stored register (R66). -/
def Strand.view (st : Strand) (reg l g t : Nat) : LaneVal :=
  let fs := st.flights.filter fun f => f.reg == reg && f.lanes.getLsbD l && f.seen g t
  let v := layFlights l (sortFlights g fs) [] ((st.row reg).lane l)
  { v with w := keepBits reg v.w }

/-- Whether R66 shows lane `l` of a register stale to a beat of group `g` at cycle `t` (R68); a merged write that covers no bit counts
(log entry 105). -/
def Strand.staleAt (st : Strand) (reg l g t : Nat) : Bool :=
  st.flights.any fun f => f.reg == reg && f.lanes.getLsbD l && !f.seen g t

/-- The execution mask of a lane set as group `g` sees it at cycle `t`, for the lanes of em_k (R40, R67, R77). -/
def Strand.emBits (st : Strand) (laneSet : Lanes) (k g t : Nat) : Word :=
  BitVec.ofNat 32 ((List.range 32).foldl
    (fun a j => if laneSet.getLsbD (32 * k + j) && (st.view (253 + k) (32 * k + j) g t).w != 0 then a + 2 ^ j else a) 0)

/-- The execution mask of a fibre whose beats read at `t` (R67). -/
def Strand.mask (st : Strand) (laneSet : Lanes) (t : Nat × Nat × Nat) : Lanes :=
  laneSet &&& lanesOf fun l => (st.view (253 + l / 32) l (l / 32) (tri t (l / 32))).w != 0

/-- The register that field value `v` names, read in lane `l` by a beat of group `g` at cycle `t` (Table 2.6). -/
def Strand.read (st : Strand) (laneSet : Lanes) (v l g t : Nat) : LaneVal :=
  if v < 248 ∨ v = 251 ∨ v = 252 then st.view v l g t
  else if v = 249 then { w := BitVec.ofNat 32 l }
  else if v = 250 then { w := BitVec.ofNat 32 st.role }
  else if 253 ≤ v then { w := st.emBits laneSet (v - 253) g t }
  else {}

/-- The landing of a fixed-latency write, not before the earlier fixed-latency writes to the same register and lanes (R99). -/
def Strand.landAfter (st : Strand) (reg : Nat) (lanes : Lanes) (ld : Nat × Nat × Nat) : Nat × Nat × Nat :=
  st.flights.foldl
    (fun a f => if f.reg == reg && f.lanes &&& lanes != 0 then (match f.land with | some x => triMax a x | none => a) else a) ld

/-- Issue a write. -/
def Strand.launchWrite (st : Strand) (f : Flight) : Strand :=
  { st with flights := st.flights ++ [{ f with seq := st.seq }], seq := st.seq + 1 }

/-- Whether every write of a strand to a register has landed in every group by `t`. -/
def Strand.regDone (st : Strand) (reg t : Nat) : Bool :=
  st.flights.all fun f => f.reg != reg || f.lanes == 0 || (f.seen 0 t && f.seen 1 t && f.seen 2 t)

/-- The row of a register with everything that has landed by `t`. -/
def Strand.settledRow (st : Strand) (reg t : Nat) : Row :=
  let vs := allLanes.map fun l => (l, st.view reg l (l / 32) t)
  { vals := vs.map fun v => v.2.w
    poison := lanesOf fun l => (vs.getD l (0, {})).2.poison
    ecc := lanesOf fun l => (vs.getD l (0, {})).2.ecc
    tags := vs.filterMap fun v => v.2.tag.map fun g => (v.1, g) }

/-- Registers with a write in flight. -/
def Strand.flying (st : Strand) : List Nat := (st.flights.map (·.reg)).eraseDups

/-- Fold into the register file every register all of whose writes have landed by `t`; no read before `t` follows. -/
def Strand.settle (st : Strand) (t : Nat) : Strand :=
  (st.flying.filter fun r => st.regDone r t).foldl
    (fun a r => { a with regs := tset a.regs r (a.settledRow r t), flights := a.flights.filter (·.reg != r) }) st

/-- Set lane words at once, with nothing in flight left for them (R19, R60, R287, R296). -/
def Strand.poke (st : Strand) (reg : Nat) (lanes : Lanes) (w : Nat → Word) : Strand :=
  let r := st.row reg
  { st with
    regs := tset st.regs reg
      { vals := allLanes.map fun l => if lanes.getLsbD l then w l else laneW r.vals l
        poison := r.poison &&& ~~~lanes, ecc := r.ecc &&& ~~~lanes, tags := r.tags.filter fun e => !lanes.getLsbD e.1 }
    flights := st.flights.map fun f => if f.reg == reg then { f with lanes := f.lanes &&& ~~~lanes } else f }

/-- Set the lanes of a register with their poison and tags, as a row holds them. -/
def Strand.pokeRow (st : Strand) (reg : Nat) (lanes : Lanes) (r : Row) : Strand :=
  let st := st.poke reg lanes (laneW r.vals)
  { st with
    regs := tmod st.regs reg fun x =>
      { x with poison := x.poison ||| (r.poison &&& lanes), ecc := x.ecc ||| (r.ecc &&& lanes), tags := x.tags ++ r.tags.filter fun t => lanes.getLsbD t.1 } }

/-- Discard what is in flight to a fibre's lanes and has not landed, group by group, except to `keep` (R60, R82). -/
def Strand.discard (st : Strand) (lanes : Lanes) (p : Nat → Bool) (now : Nat) : Strand :=
  { st with
    flights := st.flights.map fun f =>
      if p f.reg then { f with lanes := f.lanes &&& ~~~(lanes &&& lanesOf fun l => !f.seen (l / 32) now) } else f }

/-- The last cycle at which a write in flight to these lanes lands; none while one of variable latency has not landed. -/
def Strand.lastLanding (st : Strand) (lanes : Lanes) (p : Nat → Bool) (now : Nat) : Option Nat :=
  st.flights.foldl
    (fun a f =>
      if p f.reg && f.lanes &&& lanes != 0 then
        match a, f.land with
        | some x, some ld => some (max x (max ld.1 (max ld.2.1 ld.2.2)))
        | _, _ => none
      else a) (some now)

/-- R62: every register of the publish list has landed in every lane. -/
def Strand.pubsLanded (st : Strand) (f : Fibre) (now : Nat) : Bool :=
  f.pubs.all fun r =>
    st.flights.all fun x => x.reg != r || x.lanes &&& f.laneSet == 0 || (x.seen 0 now && x.seen 1 now && x.seen 2 now)

/-- A deferred cause takes its place in issue order (R160). -/
def insertDeferred (e : Nat × Trap) : List (Nat × Trap) → List (Nat × Trap)
  | [] => [e]
  | x :: xs => if e.1 < x.1 then e :: x :: xs else x :: insertDeferred e xs

/-! ### Slots and fibre states -/

/-- Take a fibre out of its barrel slot. -/
def State.unslot (s : State) (k : Nat) : State :=
  match s.strand? (fibStrand k) with
  | none => s
  | some st =>
    s.modSpindle (fibCluster k) st.spindle fun sp =>
      { sp with slots := sp.slots.map fun x => if x == some k then none else x }

/-- Whether a fibre holds a slot. -/
def State.inSlot (s : State) (k : Nat) : Bool :=
  match s.strand? (fibStrand k) with
  | none => false
  | some st => (s.spindle (fibCluster k) st.spindle).slots.contains (some k)

/-- The waits at which a soft pre-emption saves a fibre (R328). -/
def Wait.taskBoundary : Wait → Bool
  | .tpop .. | .bar .. => true
  | _ => false

/-- Whether a soft request of pre-emption stands against a context (R328). -/
def Context.softAsked (c : Context) : Bool :=
  match c.pre with
  | .soft _ => true
  | _ => false

/-- Whether an instruction-level halt of pre-emption has begun in a context (R328). -/
def Context.halting (c : Context) : Bool :=
  match c.pre with
  | .halt _ => true
  | _ => false

/-- Whether a fibre takes one more deferred cause of the SFU or the function unit: 16 can be held (R160, R384); what a pre-emption
saves is not bounded (R385). -/
def State.deferRoom (s : State) (k : Nat) : Bool :=
  let c := s.ctx (s.strandCtx (fibStrand k))
  c.softAsked || c.halting || ((s.fib? k).map fun f => decide (f.deferred.length < 16)).getD true

/-- Hold a deferred cause for a fibre, in issue order. -/
def State.hold (s : State) (k seq : Nat) (t : Trap) : State :=
  s.modFib k fun f => { f with deferred := insertDeferred (seq, t) f.deferred }

/-- Park a fibre; it leaves its slot (R73, R75), a traced one writes PARK when it enters the state (R435), and a soft request
saves one that parks at a task boundary (R328). -/
def State.park (s : State) (k : Nat) (w : Wait) : State :=
  let was := (s.fib? k).map (·.state)
  let save := w.taskBoundary && (s.ctx (s.strandCtx (fibStrand k))).softAsked
  let s := (s.unslot k).modFib k fun f => { f with state := .parked, wait := w, beats := [], wsHeld := false, saved := f.saved || save }
  if was == some .parked then s else s.packet k 9 []

/-- A fibre whose instruction must wait in mid-run keeps its slot and issues the instruction again when the wait is over (R59). -/
def State.stall (s : State) (k : Nat) (w : Wait) : State := s.modFib k fun f => { f with wait := w, beats := [] }

/-- Whether a fibre stands stalled in its slot. -/
def Wait.inSlot : Wait → Bool
  | .bank _ | .unit => true
  | _ => false

/-- Whether a trap is being taken, once what the fibre issued has landed (R321). It issues nothing and is not PARKED for it. -/
def Wait.entering : Wait → Bool
  | .trap .. => true
  | _ => false

/-- The wait of a stalled fibre is over. -/
def State.unstall (s : State) (k : Nat) : State := s.modFib k fun f => if f.wait.inSlot then { f with wait := .none } else f

/-- A fibre becomes ready with a new stamp (R72), and a traced one that leaves PARKED or STOPPED writes WAKE (R435). -/
def State.ready (s : State) (k : Nat) : State :=
  let was := (s.fib? k).map (·.state)
  let s := (s.unslot k).modFib k fun f =>
    { f with state := .ready, wait := .none, pubs := [], stamp := s.cycle, beats := [], wsHeld := false }
  if was == some .parked || was == some .stopped then s.packet k 10 [] else s

/-- A parked fibre keeps only its publish list to wait for (R62). -/
def State.condMet (s : State) (k : Nat) : State :=
  s.modFib k fun f => { f with wait := .none }

/-- Whether a fibre stands inside a run under substitution, before its terminator: halts and stops wait for the
terminator (R415). -/
def Fibre.inBody (f : Fibre) : Bool :=
  match f.run.bind (·.use) with
  | some u => if u.cand then decide (u.next < u.body.length) else f.pc != u.term
  | none => false

/-! ### Trap entry -/

/-- The word of TFCAUSE (Table 12.3). -/
def causeWord (c : Cause) (park prevSup defer nest : Bool) : Word :=
  BitVec.ofNat 32 (c.code.toNat + (if park then 256 else 0) + (if prevSup then 1024 else 0) + (if defer then 2048 else 0) +
    (if nest then 4096 else 0))

/-- Delivery modes of Table 12.4. -/
inductive Mode where | handle | park | halt | record
  deriving DecidableEq, Repr

/-- The delivery mode of a cause (Table 12.4). LAUNCH_INVALID, ALLOT_EXCEEDS and the others that can also be recorded in a
completion record are delivered HANDLE where a fibre raises them. -/
def causeMode : Cause → Mode
  | .fetchXlate | .codeUnarrived | .ldXlate | .stXlate | .mxOperandXlate => .park
  | .frontierInvalid | .frontierOverflow | .roleInvalid | .preemptSoft | .preemptForced | .kill | .stopPath
  | .traceFull => .record
  | .mcHaltLine | .mcLink | .mcHbm | .mcInternal => .halt
  | _ => .handle

/-- The frame of a trap (R321, Table 12.3). -/
def mkFrame (f : Fibre) (tr : Trap) (resume : DWord) (act : Lanes) (park nest : Bool) : Frame where
  pc := resume
  cause := causeWord tr.cause park (f.level == .super) tr.defer nest
  addr := tr.addr
  mask := tr.mask.getD act
  word := tr.word.getD 0

/-- Trap entry for a cause delivered HANDLE, everything the fibre issued having landed by `t` (R321). `resume` is the
resume reference and `start` the run-start flag. -/
def State.enterHandler (s : State) (k : Nat) (tr : Trap) (resume : DWord) (start : Bool) (act : Lanes) (t : Nat) : State :=
  match s.fib? k, s.strand? (fibStrand k) with
  | some f, some st =>
    let qs := (List.range 8).map fun q => st.settledRow (240 + q) t
    let slot : TrapSlot :=
      { qs := qs, runPos := f.runPos, runStart := start, em := st.mask f.laneSet (tri1 t), level := f.level, resume := resume
        noPromise := tr.cause == .promiseMissed
        run := f.run.bind fun r => if start && !r.told then none else some { r with use := none, bad := none, num := none } }
    let s := s.modStrand (fibStrand k) fun st =>
      let st := (List.range 8).foldl (fun a q => a.poke (240 + q) f.laneSet fun _ => 0) st
      (List.range 3).foldl (fun a e => a.poke (253 + e) (f.laneSet &&& groupLanes e) fun _ => 1) st
    let s := s.modFib k fun f =>
      { f with
        slot := some slot, frame := mkFrame f tr resume act false false, fnFref := tr.fref, level := .super, base := none
        run := none, pc := (s.ctx (s.strandCtx (fibStrand k))).tvec, runPos := 0, walks := [], pubs := []
        bound := if tr.next then f.bound else (0, 0, 0)
        passStop := false, passBrk := false }
    (s.packet k 5 (BitVec.ofNat 8 2 :: bytesOfNat 8 f.pc.toNat ++ lanesBytes f.laneSet)).ready k
  | _, _ => s

/-- Begin to take a trap whose entry waits for landings: issue stops, and the fibre stays in its state (R321, Table 3.3). -/
def State.awaitEntry (s : State) (k : Nat) (tr : Trap) (resume : DWord) (start : Bool) (act : Lanes) : State :=
  s.modFib k fun f => { f with wait := .trap tr resume start act, beats := [], wsHeld := false }

/-- The key of a pool queue's limits (R457). -/
def poolKey (unit loc q : Nat) : Nat := (unit * 1000 + loc) * 1000 + q

/-- Entries of each pool (Table 22.4). -/
def poolSize (unit : Nat) : Nat := [256, 512, 64, 128, 128, 16384, 4096].getD unit 0

/-- MIN and CAP of a pool queue. -/
def State.poolLim (s : State) (unit loc q : Nat) : Nat × Nat := (tget? s.bpLim (poolKey unit loc q)).getD (0, poolSize unit)

/-- R292: whether queue `q` may take an entry, `count` giving the entries each of the pool's `queues` holds. -/
def State.poolTakes (s : State) (unit loc queues q : Nat) (count : Nat → Nat) : Bool :=
  let lim := s.poolLim unit loc
  let total := (List.range queues).foldl (fun a j => a + count j) 0
  let unmet := (List.range queues).foldl (fun a j => a + ((lim j).1 - count j)) 0
  decide (total < poolSize unit) &&
    (decide (count q < (lim q).1) || (decide (count q < (lim q).2) && decide (poolSize unit - total > unmet)))

/-- The causes that a page request reports (Table 7.5). -/
def isXlateCause : Cause → Bool
  | .ldXlate | .stXlate | .fetchXlate | .mxOperandXlate | .copyFault | .gatherFault | .collFault => true
  | _ => false

/-- R181: a request takes an entry of its die's page-request queue, or waits in order for one. -/
def State.pageRequest (s : State) (d : Nat) (e : PrqEntry) : State :=
  let key := ctxKey e.part e.ctx
  let e := { e with seq := (s.ctx key).prqSeq }
  let s := s.modCtx key fun c => { c with prqSeq := c.prqSeq + 1 }
  let s := if e.cluster < 192 && isXlateCause e.cause then s.count e.cluster 0x15 1 else s
  let die := s.die d
  if die.prqWait == [] && s.poolTakes 4 d 32 e.part (fun p => (die.prq.filter (·.part == p)).length) then
    s.modDie d fun x => { x with prq := x.prq ++ [e] }
  else s.modDie d fun x => { x with prqWait := x.prqWait ++ [e] }

/-- The flags of a record: bit 0 write, bit 1 fetch (Table 7.6). -/
def recFlags (c : Cause) : Nat :=
  match c with
  | .stXlate => 1
  | .fetchXlate => 2
  | _ => 0

/-- PARK delivery (R325, R322): the record enters the page-request queue of the die and the fibre its fault queue. With an
occupied trap slot the frame of the first trap is kept, and NEST is set in it. -/
def State.parkDeliver (s : State) (k : Nat) (tr : Trap) (resume : DWord) (act : Lanes) (nest : Bool) : State :=
  match s.fib? k with
  | none => s
  | some _ =>
    let key := s.strandCtx (fibStrand k)
    let seq := (s.ctx key).prqSeq
    let s := s.pageRequest (clusterDie (fibCluster k))
      { part := key / 16, ctx := key % 16, addr := tr.addr, seq := seq, cluster := fibCluster k,
        sid := strandSid (fibStrand k), path := fibPath k, cause := tr.cause, flags := recFlags tr.cause }
    let s := s.modFib k fun f =>
      { f with
        frame := if nest && f.slot.isSome then { f.frame with cause := f.frame.cause ||| 4096 } else mkFrame f tr resume act true nest
        fnFref := if nest && f.slot.isSome then f.fnFref else tr.fref, walks := [], passStop := false, passBrk := false }
    s.park k (.faultQ seq.toNat)

/-- Deliver a trap whose resume reference and run-start flag are known, once everything the fibre has in flight has landed
(R320 to R322). -/
def State.deliver (s : State) (k : Nat) (tr : Trap) (resume : DWord) (start : Bool) (act : Lanes) : State :=
  match s.fib? k, s.strand? (fibStrand k) with
  | some f, some st =>
    if causeMode tr.cause == .park then s.parkDeliver k tr resume act false
    else if f.slot.isSome || (s.ctx (s.strandCtx (fibStrand k))).tvec == 0 then s.parkDeliver k tr resume act true
    else
      match st.lastLanding f.laneSet (fun _ => true) s.cycle with
      | some t => if t ≤ s.cycle then s.enterHandler k tr resume start act t else s.awaitEntry k tr resume start act
      | none => s.awaitEntry k tr resume start act
  | _, _ => s

/-- The text offset `n` bytes after a code reference, in the same object (R83). -/
def pcAdd (pc : DWord) (n : Nat) : DWord :=
  BitVec.ofNat 64 (pc.toNat / 2 ^ 40 * 2 ^ 40 + (pc.toNat % 2 ^ 40 + n) % 2 ^ 40)

/-- Handle and offset of a code reference (R83). -/
def pcHandle (pc : DWord) : Nat := pc.toNat / 2 ^ 40
def pcOffset (pc : DWord) : Nat := pc.toNat % 2 ^ 40

/-- Take a trap at the fibre's next instruction (R319, R321): the trapping instruction has no effect. `len` is its length,
for the entries that resume at the next instruction. -/
def State.takeTrap (s : State) (k : Nat) (tr : Trap) (act : Lanes) (len : Nat) : State :=
  match s.fib? k with
  | none => s
  | some f =>
    if tr.next then s.deliver k tr (pcAdd f.pc len) true act
    else s.deliver k tr f.pc (f.runPos == 0) act

end Sys2Proof.Machine
end

