-- ==== Sys2Proof/Machine/Operands.lean ====
section
/-! DEFINITION. Every operand form: which registers an instruction names, the lanes it acts on (R32, R38, R67, R87), the
preparation of a source (R36, R37), the write of a destination (R99), and the checks of Table 2.7 that need the state. -/

namespace Sys2Proof

/-! ### The registers an instruction names -/

/-- Register fields by how they are read or written; each with the number of registers it spans. -/
structure RegUse where
  /-- A, read in each lane, or in the uniform lane of R38 when U = 1. -/
  a : List (Nat × Nat) := []
  /-- Other sources read in each lane: B, C and D, in the order of R416. -/
  lane : List (Nat × Nat) := []
  /-- Sources read in one uniform lane (R87). -/
  low : List (Nat × Nat) := []
  dst : List (Nat × Nat) := []
  deriving DecidableEq, Repr

def fld (v : BitVec 8) : Nat × Nat := (v.toNat, 1)
def fldPair (v : BitVec 8) : Nat × Nat := (v.toNat, 2)

/-- A register field under the use its entry gives it. -/
def useFld (u : Use) (v : BitVec 8) : List (Nat × Nat) :=
  match u with
  | .reg => [fld v]
  | .pair => [fldPair v]
  | _ => []

/-- Registers of a data field by SZ (R197). -/
def szSpan (sz : BitVec 3) : Nat := if sz.toNat ≤ 2 then 1 else if sz.toNat = 3 then 2 else 4

/-- Whether an X64 instruction reads D because its write leaves part of it unchanged (R99). -/
def mergesD : Instr → X64 → XUse → Bool
  | .icmp _ _, _, _ | .fcmp _ _, _, _ | .bfi _, _, _ | .cvtq _, _, _ => true
  | _, f, u => u.dm != 0 && f.dmask u.dm != BitVec.ofNat 8 (2 ^ u.dm - 1)

/-- The registers an instruction reads and writes. -/
def Instr.regs (i : Instr) : RegUse :=
  match i with
  -- one uniform lane, or the low lane of act
  | .copy _ f => { low := [fldPair f.a, fldPair f.b, fld f.c], dst := [fld f.d] }
  | .gather f => { low := [fldPair f.a, fld f.b, fld f.c, fldPair f.d] }
  | .coll _ f => { low := [fldPair f.a, fld f.b, fldPair f.d] }
  | .bara f => { low := if f.b == 248 then [] else [fld f.b], dst := [fld f.d] }
  | .semv _ => {}
  | .fetchw f => { low := [fld f.a, fldPair f.b] }
  | .scrcfg clr f => { low := if clr then [] else [fld f.a, fld f.b] }
  | .mma _ f => { low := [fldPair f.a, fldPair f.b, fld f.c] }
  | .mmas _ f => { low := [fldPair f.a, fldPair f.b, (f.c.toNat, 2)] }
  | .mcomp f => { low := [fldPair f.a, (f.c.toNat, 2), fldPair f.d] }
  | .msacc f => { low := [fld f.b, fld f.c] }
  | .mbatch f => { dst := [fld f.d] }
  | .mrel _ | .mzero _ => {}
  | .mrda f | .mwra f => { low := [fld f.a, fld f.b] }
  | .msta f | .mlda f => { low := [fldPair f.a, fld f.b] }
  | .mstat f => { low := [fld f.a], dst := [fld f.d] }
  | .fnld f => { low := [fldPair f.a, fld f.b, fldPair f.c] }
  | .fnst f => { low := [fldPair f.a, fld f.c], dst := [fld f.d] }
  | .fnfit f => { lane := [fld f.a], low := [fldPair f.c] }
  | .fneval f => { lane := [fld f.b], dst := [fld f.d] }
  | .fnaff f | .fndom f => { low := [fld f.b, fld f.c] }
  | .fnadd _ | .fnsub _ | .fnmul _ | .fncomp _ | .fndiff _ | .fnint _ | .fnrel _ => {}
  | .fnquad f => { dst := [fld f.d] }
  | .fninfo f => { dst := [(f.d.toNat, 3)] }
  | .fnroot f => { dst := [fld f.d, fld f.b] }
  | .tspawn f => { low := [fldPair f.a] }
  | .tdone f => { low := [fldPair f.a, fldPair f.b] }
  | .launch f => { low := [fldPair f.a], dst := [fld f.d] }
  | .sbrd f | .escrd f => { low := [fld f.a], dst := [fld f.d] }
  | .sbwd f => { low := [fld f.a] }
  | .sbclr f => { low := if f.imm8 == 1 then [] else [fld f.a] }
  | .trmark f => { low := [fld f.a] }
  | .vote .ballot f => { a := [fld f.a], dst := [(f.d.toNat, 3)] }
  | .matchLanes f => { a := [fld f.a], dst := [(f.d.toNat, 3)] }
  | .ftwosum f => { a := [fld f.a], lane := [fld f.b], dst := [fldPair f.d] }
  -- I64
  | .icmpi _ f => { a := [fld f.a], lane := [fld f.d], dst := [fld f.d] }
  | .iaddi _ f | .andi f | .ori f | .xori f | .shli f | .shrli f | .shrai f => { a := [fld f.a], dst := [fld f.d] }
  | .movi f | .srrd f => { dst := [fld f.d] }
  | .srwr f => { low := [fld f.a] }
  -- T96
  | .brc _ f | .brany _ f | .brall _ f => { a := [fld f.a] }
  | .bru _ f => { low := [fld f.a] }
  | .jmpi f | .ret f => { low := [fldPair f.a] }
  | .call f => { dst := [fldPair f.a] }
  | .calli f => { low := [fldPair f.b], dst := [fldPair f.a] }
  | .sleept f => { low := [fld f.a] }
  | .bar f => { low := if f.b == 248 then [] else [fld f.b] }
  | .barw f => { low := [fld f.b] }
  | .mwait f => { low := [fld f.a], dst := [fld f.b] }
  | .tpop f => { dst := [(f.a.toNat, 8)] }
  -- A96
  | .ld f => { a := [fldPair f.a], lane := if f.b == 248 then [] else [fld f.b], dst := [(f.d.toNat, szSpan f.sz)] }
  | .st f => { a := [fldPair f.a], lane := (if f.b == 248 then [] else [fld f.b]) ++ [(f.d.toNat, szSpan f.sz)] }
  | .lds f | .ldt f =>
    { a := [fld f.a], lane := if f.b == 248 then [] else [fld f.b], dst := [(f.d.toNat, szSpan f.sz)] }
  | .sts f | .stt f => { a := [fld f.a], lane := (if f.b == 248 then [] else [fld f.b]) ++ [(f.d.toNat, szSpan f.sz)] }
  | .pf f | .cctl _ f => { a := [fldPair f.a], lane := if f.b == 248 then [] else [fld f.b] }
  | .fpush f => { lane := [fld f.d] }
  | .fpop f => { dst := [fld f.d] }
  | .atom _ f => { a := [fldPair f.a], lane := [(f.b.toNat, szSpan f.sz)], dst := [(f.d.toNat, szSpan f.sz)] }
  | .atomc f =>
    { a := [fldPair f.a], lane := [(f.b.toNat, szSpan f.sz), (f.d.toNat, szSpan f.sz)], dst := [(f.d.toNat, szSpan f.sz)] }
  | .atomsc op f =>
    { a := [fldPair f.a]
      lane := (f.b.toNat, szSpan f.sz) :: (if op = .cas then [(f.d.toNat, szSpan f.sz)] else [])
      dst := [(f.d.toNat, szSpan f.sz)] }
  | .red _ f => { a := [fldPair f.a], lane := [(f.b.toNat, szSpan f.sz)] }
  | .atoms _ f => { a := [fld f.a], lane := [(f.b.toNat, szSpan f.sz)], dst := [(f.d.toNat, szSpan f.sz)] }
  | .waiteq _ f => { a := [fldPair f.a], lane := [(f.b.toNat, szSpan f.sz)], dst := [(f.d.toNat, szSpan f.sz)] }
  -- every other X64 instruction: as its field uses say
  | _ =>
    match i.xuse with
    | some (f, u, _, _, _) =>
      { a := useFld u.a f.a
        lane := useFld u.b f.b ++ useFld u.c f.c ++ (if mergesD i f u then [fld f.d] else [])
        dst := useFld u.d f.d }
    | none => {}

/-- The guard word (R32). -/
def Instr.guardWord (i : Instr) : Option (BitVec 32) :=
  match i.fields with
  | .x f => f.ext.guard
  | .i f => f.ext.guard
  | .t f => f.guard
  | .a f => f.guard
  | .event => none

/-- GREG where GON = 1 (R32). -/
def Instr.greg (i : Instr) : List (Nat × Nat) :=
  match i.guardWord with
  | some g => if g.getLsbD 14 then [((g.extractLsb' 0 8).toNat, 1)] else []
  | none => []

/-- The publish list (R61): the registers named by P0 to P2. -/
def Instr.pubs (i : Instr) : List Nat :=
  match i.fields with
  | .t f => [f.p0.toNat, f.p1.toNat, f.p2.toNat].filter (· != 248)
  | _ => []

/-- Whether an instruction ends its run (R57: exactly the T96 instructions). -/
def Instr.isTerminator (i : Instr) : Bool :=
  match i.fields with
  | .t _ => true
  | _ => false

/-- The U bit (R38). -/
def Instr.uBit (i : Instr) : Bool :=
  match i.fields with
  | .x f => f.u == 1
  | .i f => f.u == 1
  | .a f => f.u == 1
  | _ => false

/-- STALL (R64). -/
def Instr.stall (i : Instr) : Nat :=
  match i.fields with
  | .x f => f.stall.toNat
  | .i f => f.stall.toNat
  | .t f => f.stall.toNat
  | .a f => f.stall.toNat
  | .event => 0

/-- Cross-lane instructions, which read and write at beat 2 (R163). -/
def Instr.crossLane : Instr → Bool
  | .shfl .. | .bcast _ | .vote .. | .lred .. | .lscan .. | .matchLanes _ | .leader _ => true
  | _ => false

/-- Instructions marked SUPER in Table 2.8. -/
def Instr.superOnly : Instr → Bool
  | .bankmode .. | .sbrd _ | .escrd _ | .sbwd _ | .sbclr _ | .rte _ | .ckpt _ => true
  | _ => false

/-- The fields whose registers are checked against the allotment, in the order A, B, C, D, GREG, P0 to P2 (R15, R40). -/
def Instr.named (i : Instr) : List (Nat × Nat) :=
  let r := i.regs
  r.a ++ r.lane ++ r.low ++ r.dst ++ i.greg ++ i.pubs.map fun p => (p, 1)

end Sys2Proof

namespace Sys2Proof.Machine

/-! ### The context of an issue -/

/-- What an instruction sees at its issue: its fibre, the cycles at which each beat group reads, mask and act. -/
structure Ctx where
  k : Nat
  i : Instr
  f : Fibre
  st : Strand
  is : Issue
  /-- The read cycle of each beat group (R66; R163 for a cross-lane instruction). -/
  t : Nat × Nat × Nat
  mask : Lanes
  act : Lanes
  deriving Repr

def Ctx.strand (c : Ctx) : Nat := fibStrand c.k
def Ctx.cluster (c : Ctx) : Nat := fibCluster c.k
def Ctx.skein (c : Ctx) : Nat := fibSkein c.k

/-- A source register in lane `l`, as that lane's beat sees it (R66). -/
def Ctx.rv (c : Ctx) (v l : Nat) : LaneVal := c.st.read c.f.laneSet v l (l / 32) (tri c.t (l / 32))
def Ctx.rd (c : Ctx) (v l : Nat) : Word := (c.rv v l).w

/-- A pair in lane `l` (R83). -/
def Ctx.rdPair (c : Ctx) (v l : Nat) : DWord := cat32 (c.rd (v + 1) l) (c.rd v l)

/-- The lane that lane `l` reads A from (R38). -/
def Ctx.laneA (c : Ctx) (l : Nat) : Nat := if c.i.uBit then (lowLane? c.mask).getD l else l

/-- A in lane `l`: its own lane's, or the uniform lane's as lane `l`'s beat sees it (R38). -/
def Ctx.rvA (c : Ctx) (v l : Nat) : LaneVal := c.st.read c.f.laneSet v (c.laneA l) (l / 32) (tri c.t (l / 32))
def Ctx.rdA (c : Ctx) (v l : Nat) : Word := (c.rvA v l).w
def Ctx.rdPairA (c : Ctx) (v l : Nat) : DWord := cat32 (c.rdA (v + 1) l) (c.rdA v l)

/-- The uniform lane of R87. -/
def Ctx.low (c : Ctx) : Nat := ((lowLane? c.act).orElse fun _ => lowLane? c.f.laneSet).getD 0

/-- The uniform lane's words. -/
def Ctx.rdLow (c : Ctx) (v : Nat) : Word := c.rd v c.low
def Ctx.rdPairLow (c : Ctx) (v : Nat) : DWord := c.rdPair v c.low

/-- Lanes of the mask whose guard bit passes (R32). A GREG above the allotment names no register, so it excludes no
lane (DESIGN CHOICE, log 33): such an instruction traps with REG_RANGE (Table 2.7). -/
def guardLanes (st : Strand) (laneSet mask : Lanes) (t : Nat × Nat × Nat) (g : Option (BitVec 32)) : Lanes :=
  match g with
  | none => mask
  | some g =>
    let r := (g.extractLsb' 0 8).toNat
    if g.getLsbD 14 && (decide (240 ≤ r) || decide (r < st.blocks * 8)) then
      mask &&& lanesOf fun l =>
        ((st.read laneSet r l (l / 32) (tri t (l / 32))).w.getLsbD (g.extractLsb' 8 5).toNat) !=
          g.getLsbD 13
    else mask

/-- The run mask, for an instruction of a candidate after its first: the candidate's outputs are written in its lanes (R409). -/
def Fibre.runMask (f : Fibre) : Option Lanes :=
  f.run.bind fun r => r.use.bind fun u => if u.cand && decide (0 < u.next) && decide (u.next < u.body.length) then some r.lanes else none

/-- The context of an issue of `i`; none when its fibre is not there. -/
def mkCtx (i : Instr) (s : State) (is : Issue) : Option Ctx :=
  match s.strand? (fibStrand is.fib), s.fib? is.fib with
  | some st, some f =>
    let t := if i.crossLane then tri1 is.r2 else (is.r0, is.r1, is.r2)
    let mask := f.runMask.getD (st.mask f.laneSet t)
    some { k := is.fib, i := i, f := f, st := st, is := is, t := t, mask := mask, act := guardLanes st f.laneSet mask t i.guardWord }
  | _, _ => none

/-! ### Checks of Table 2.7 that need the state, and R68, R332 -/

/-- Step 12: the 25th instruction of a run is a terminator (R58). -/
def Ctx.runLong (c : Ctx) : Bool := decide (24 ≤ c.f.runPos) && !c.i.isTerminator

/-- Step 13: the level an instruction needs (Table 2.8, R343), with the TFADDR of PRIV. -/
def Ctx.privBad (c : Ctx) : Option DWord :=
  let need : Level × DWord :=
    match c.i with
    | .srrd f => (((srInfo f.sr).map (·.rd)).getD .user, BitVec.ofNat 64 f.sr)
    | .srwr f => (((srInfo f.sr).map (·.wr)).getD .user, BitVec.ofNat 64 f.sr)
    | i => (if i.superOnly then .super else .user, 0)
  if c.f.level.rank < need.1.rank then some need.2 else none

/-- R164: the D, D+1, D+2 of VOTE.ballot and MATCH do not all lie within the allotment. -/
def Ctx.tripleBad (c : Ctx) : Bool :=
  match c.i with
  | .vote .ballot f | .matchLanes f => decide (c.st.blocks * 8 ≤ f.d.toNat + 2)
  | _ => false

/-- Steps 14 and 15: the checks of the fields, with the one of R164 that needs the allotment. -/
def Ctx.fieldBad (c : Ctx) : Option Cause := if c.tripleBad then some .illField else c.i.fieldCheck

/-- Step 16: the first field that names a v-register at or above the allotment. -/
def Ctx.rangeBad (c : Ctx) : Option Nat :=
  (c.i.named.find? fun x => x.1 < 240 && decide (c.st.blocks * 8 < x.1 + x.2)).map (·.1)

/-- Step 17: a write to vlane or vrole. -/
def Ctx.roBad (c : Ctx) : Option Nat := (c.i.regs.dst.find? fun x => x.1 == 249 || x.1 == 250).map (·.1)

/-- The registers behind a field that can be stale or poisoned, with em_k for 253 to 255. -/
def spanRegs (x : Nat × Nat) : List Nat := (List.range x.2).map (x.1 + ·)

/-- Whether lane `l`, reading lane `src` of register `r`, would read it stale (R66, R68). -/
def Ctx.staleIn (c : Ctx) (r src l : Nat) : Bool :=
  let g := l / 32
  let t := tri c.t g
  if 253 ≤ r then
    (List.range 32).any fun j => c.f.laneSet.getLsbD (32 * (r - 253) + j) && c.st.staleAt r (32 * (r - 253) + j) g t
  else c.st.staleAt r src g t

/-- The sources of an instruction with the lane read for each reading lane, and the lanes that read it, in the order of R416. -/
def Ctx.sources (c : Ctx) : List ((Nat × Nat) × (Nat → Nat) × Lanes) :=
  let r := c.i.regs
  r.a.map (fun x => (x, c.laneA, c.f.laneSet)) ++ r.lane.map (fun x => (x, id, c.f.laneSet)) ++
    r.low.map (fun x => (x, fun _ => c.low, lanesOf (· == c.low))) ++ c.i.greg.map fun x => (x, id, c.f.laneSet)

/-- The lanes whose sources R68 covers: every lane of the fibre, but those of act alone for a memory instruction, outside which
no lane raises a cause (R196), and for a cross-lane instruction, which reads no other (R163). -/
def Ctx.staleLanes (c : Ctx) : Lanes :=
  match c.i.fields with
  | .a _ => c.act
  | _ => if c.i.crossLane then c.act else c.f.laneSet

/-- R68: the execution mask that some beat would read stale, with the lanes concerned: a memory instruction with act empty
raises no such cause (R196). -/
def Ctx.staleMask (c : Ctx) : Option (Nat × Lanes) :=
  let idle := match c.i.fields with
    | .a _ => c.act == 0
    | _ => false
  if idle then none
  else
    (List.range 3).findSome? fun b =>
      let m := lanesOf fun l => c.f.laneSet.getLsbD l && l / 32 == b && c.st.staleAt (253 + b) l b (tri c.t b)
      if m == 0 then none else some (253 + b, m)

/-- R68: the first field that some beat would read stale, the execution mask first, with the lanes concerned. CVTQ reads vamax
(R155). -/
def Ctx.stale (c : Ctx) : Option (Nat × Lanes) :=
  let amax := match c.i with
    | .cvtq _ => [((251, 1), id, c.f.laneSet)]
    | _ => []
  c.staleMask.orElse fun _ =>
    (c.sources ++ amax).findSome? fun x =>
      let m := lanesOf fun l =>
        c.staleLanes.getLsbD l && x.2.2.getLsbD l && (spanRegs x.1).any fun r => c.staleIn r (x.2.1 l) l
      if m == 0 then none else some (x.1.1, m)

/-- R332: the first field of which a lane in act reads a poisoned word, or one behind an error, with the lanes concerned. -/
def Ctx.poisoned (c : Ctx) : Option (Nat × Lanes) :=
  c.sources.findSome? fun x =>
    let m := lanesOf fun l =>
      x.2.2.getLsbD l && c.act.getLsbD l &&
        (spanRegs x.1).any fun r =>
          let v := c.st.read c.f.laneSet r (x.2.1 l) (l / 32) (tri c.t (l / 32))
          v.poison || v.ecc
    if m == 0 then none else some (x.1.1, m)

/-- Words that an instruction's beats read in lanes outside act and find behind an uncorrectable error (R332). -/
def Ctx.foundErrs (c : Ctx) : List (Nat × Lanes) :=
  (((c.sources.flatMap fun x => spanRegs x.1).eraseDups.filter fun r => (c.st.row r).ecc != 0).map fun r =>
    (r, lanesOf fun l => !c.act.getLsbD l && (c.st.view r l (l / 32) (tri c.t (l / 32))).ecc)).filter fun e => e.2 != 0

/-- Mark those words poisoned, and count the errors (R332). -/
def State.noteErrs (s : State) (is : Issue) (i : Instr) : State :=
  match mkCtx i s is with
  | none => s
  | some c =>
    c.foundErrs.foldl
      (fun a e =>
        (a.modStrand c.strand fun st =>
          { st with regs := tmod st.regs e.1 fun r => { r with poison := r.poison ||| e.2, ecc := r.ecc &&& ~~~e.2 } }).modCluster
            c.cluster fun x => { x with regErrs := x.regErrs + laneCount e.2 }) s

/-- Length of the instruction in bytes. -/
def Ctx.len (c : Ctx) : Nat := c.i.bytes

/-- Steps 12 to 17 of Table 2.7, then R85 for the fall-through, R68 and R332. -/
def Ctx.check (c : Ctx) : Option Trap :=
  if c.runLong then some { cause := .runLong }
  else
    match c.privBad with
    | some a => some { cause := .priv, addr := a }
    | none =>
      match c.fieldBad with
      | some e => some { cause := e }
      | none =>
        match c.rangeBad, c.roBad with
        | some v, _ => some { cause := .regRange, addr := BitVec.ofNat 64 v }
        | none, some v => some { cause := .regRoWrite, addr := BitVec.ofNat 64 v }
        | none, none =>
          if !c.i.isTerminator && decide (2 ^ 40 ≤ pcOffset c.f.pc + c.len) then some { cause := .pcWrap }
          else
            match (if c.st.ctl.getLsbD 0 then c.stale else none), c.poisoned with
            | some (v, m), _ => some { cause := .stallShort, addr := BitVec.ofNat 64 v, mask := some m }
            | none, some (v, m) => some { cause := .regPoison, addr := BitVec.ofNat 64 v, mask := some m }
            | none, none => none

/-! ### Operand preparation (R36, R37) -/

/-- Element `i` of a word, `w` bits wide (R98). -/
def el (w : Nat) (x : Word) (i : Nat) : Nat := x.toNat / 2 ^ (w * i) % 2 ^ w

/-- The elements of a word. -/
def elems (w : Nat) (x : Word) : List Nat := (List.range (32 / w)).map (el w x)

/-- A word from its elements. -/
def fromElems (w : Nat) (es : List Nat) : Word :=
  BitVec.ofNat 32 (es.foldr (fun e a => e % 2 ^ w + 2 ^ w * a) 0)

/-- Select and swizzle of a modifier byte (R36). -/
def swizzle (m : BitVec 8) (es : List Nat) : List Nat :=
  let n := es.length
  if m.getLsbD 3 then
    match (m.extractLsb' 4 2).toNat with
    | 0 => es.map fun _ => es.getD (m.extractLsb' 0 3).toNat 0
    | 1 => (List.range n).map fun i => es.getD ((i + n / 2) % n) 0
    | 2 => es.reverse
    | _ => (List.range n).map fun i => es.getD ((i + 1) % n) 0
  else es

/-- Modifier classes of R37. -/
inductive ModKind where | int | flt | raw
  deriving DecidableEq, Repr

/-- |e| of a `w`-bit element (R37). -/
def absElem (k : ModKind) (w e : Nat) : Nat :=
  match k with
  | .int => if e < 2 ^ (w - 1) then e else (2 ^ w - e) % 2 ^ w
  | .flt => e % 2 ^ (w - 1)
  | .raw => e

/-- −e of a `w`-bit element (R37). -/
def negElem (k : ModKind) (w e : Nat) : Nat :=
  match k with
  | .int => (2 ^ w - e) % 2 ^ w
  | .flt => if e < 2 ^ (w - 1) then e + 2 ^ (w - 1) else e - 2 ^ (w - 1)
  | .raw => e

/-- `prepare` of R36 on a word already read, elements `w` bits wide. -/
def prepWord (k : ModKind) (w : Nat) (m : BitVec 8) (x : Word) : Word :=
  let es := swizzle m (elems w x)
  let es := if m.getLsbD 7 then es.map (absElem k w) else es
  let es := if m.getLsbD 6 then es.map (negElem k w) else es
  fromElems w es

/-- The prepared sources of an X64 instruction (R36), elements `w` bits wide. -/
def Ctx.srcA (c : Ctx) (k : ModKind) (w : Nat) (f : X64) (l : Nat) : Word := prepWord k w f.moda (c.rdA f.a.toNat l)
def Ctx.srcB (c : Ctx) (k : ModKind) (w : Nat) (f : X64) (l : Nat) : Word := prepWord k w f.modb (c.rd f.b.toNat l)
def Ctx.srcC (c : Ctx) (k : ModKind) (w : Nat) (f : X64) (l : Nat) : Word := prepWord k w f.modc (c.rd f.c.toNat l)

/-! ### Destinations (R99) -/

/-- The word bits that DMASK enables, elements `w` bits wide (R39). -/
def dmaskBits (w : Nat) (dm : BitVec 8) : Word :=
  fromElems w ((List.range (32 / w)).map fun i => if dm.getLsbD i then 2 ^ w - 1 else 0)

/-- The taint tag of a write in lane `l`: that of the first tagged source the lane read (R416). -/
def Ctx.laneTag (c : Ctx) (l : Nat) : Option Tag :=
  (c.sources.findSome? fun x =>
    (spanRegs x.1).findSome? fun r =>
      (c.st.read c.f.laneSet r (x.2.1 l) (l / 32) (tri c.t (l / 32))).tag).map
    fun g => { g with direct := false }

/-- The tags of a write in some lanes. -/
def Ctx.tagsIn (c : Ctx) (lanes : Lanes) : List (Nat × Tag) := (lanesIn lanes).filterMap fun l => (c.laneTag l).map fun t => (l, t)

/-- The tag of a candidate-mode write to one of the run's outputs (R413). -/
def Ctx.candTag (c : Ctx) (reg : Nat) : Option Tag :=
  (c.f.run.bind (·.use)).bind fun u =>
    if u.cand && u.outs.contains reg then some { entry := u.entry, serial := u.serial, direct := true } else none

/-- The flight of a write of `val` into the bits `cov` of a register in `lanes` (R99): a partial write reads the register at
issue, em_k takes bit j of the word of lane 32k + j, and vz takes nothing. -/
def Ctx.flight (c : Ctx) (reg : Nat) (lanes : Lanes) (val : Nat → Word) (cov : Word) (tag : Nat → Option Tag)
    (ld : Option (Nat × Nat × Nat)) : Option Flight :=
  let merged : Nat → Word := fun l => if cov == 0xFFFFFFFF then val l else (c.rd reg l &&& ~~~cov) ||| (val l &&& cov)
  if reg < 248 ∨ reg = 251 ∨ reg = 252 then
    some { seq := 0, reg := reg, lanes := lanes, cov := cov, land := ld
           vals := laneVec fun l => if lanes.getLsbD l then merged l else 0
           tags :=
             match c.candTag reg with
             | some g => (lanesIn lanes).map fun l => (l, g)
             | none => if reg < 248 then (lanesIn lanes).filterMap fun l => (tag l).map fun g => (l, g) else [] }
  else if 253 ≤ reg then
    some { seq := 0, reg := reg, lanes := lanes &&& c.f.laneSet &&& groupLanes (reg - 253), cov := cov, land := ld
           vals := laneVec fun l => if lanes.getLsbD l && (merged l).getLsbD (l % 32) then 1 else 0 }
  else none

/-- The landing of a fixed-latency write of latency `lat` periods (R66; from beat 2 for a cross-lane instruction, R163). -/
def Ctx.landing (c : Ctx) (lat : Nat) : Nat × Nat × Nat := triMap (· + 3 * lat) c.t

/-- Issue a write that lands at `ld` into the bits `cov` of `reg`, in `lanes`. -/
def Ctx.putAt (c : Ctx) (s : State) (reg : Nat) (lanes : Lanes) (val : Nat → Word) (cov : Word) (ld : Nat × Nat × Nat)
    (tag : Nat → Option Tag) : State :=
  s.modStrand c.strand fun st =>
    match c.flight reg lanes val cov tag (some ld) with
    | some fl => st.launchWrite fl
    | none => st

/-- The landing of a write of latency `lat` to the registers `regs`, which land together, in issue order (R99). -/
def Ctx.landSpan (c : Ctx) (s : State) (regs : List Nat) (lanes : Lanes) (lat : Nat) : Nat × Nat × Nat :=
  match s.strand? c.strand with
  | some st => regs.foldl (fun a r => st.landAfter r lanes a) (c.landing lat)
  | none => c.landing lat

/-- Issue a write of fixed latency `lat` into the bits `cov` of `reg`, in `lanes`. -/
def Ctx.putBits (c : Ctx) (s : State) (reg : Nat) (lanes : Lanes) (val : Nat → Word) (cov : Word) (lat : Nat)
    (tag : Nat → Option Tag) : State :=
  c.putAt s reg lanes val cov (c.landSpan s [reg] lanes lat) tag

/-- Write whole words to the `n` registers from `reg`, in the lanes of act; they land together. -/
def Ctx.putSpan (c : Ctx) (s : State) (reg n : Nat) (val : Nat → Nat → Word) (lat : Nat) (tag : Nat → Option Tag) : State :=
  let ld := c.landSpan s ((List.range n).map (reg + ·)) c.act lat
  (List.range n).foldl (fun a r => c.putAt a (reg + r) c.act (val r) 0xFFFFFFFF ld tag) s

/-- Write whole words to `reg` in the lanes of act. -/
def Ctx.put (c : Ctx) (s : State) (reg : BitVec 8) (val : Nat → Word) (lat : Nat) : State :=
  c.putBits s reg.toNat c.act val 0xFFFFFFFF lat c.laneTag

/-- Write the elements DMASK enables (R39, R99), elements `w` bits wide. -/
def Ctx.putElems (c : Ctx) (s : State) (f : X64) (w : Nat) (val : Nat → Word) (lat : Nat) : State :=
  c.putBits s f.d.toNat c.act val (dmaskBits w (f.dmask (32 / w))) lat c.laneTag

/-- Write a pair in the lanes of act; both members land together (R108). -/
def Ctx.putPair (c : Ctx) (s : State) (reg : BitVec 8) (val : Nat → DWord) (lat : Nat) : State :=
  c.putSpan s reg.toNat 2 (fun r l => if r = 0 then lo32 (val l) else hi32 (val l)) lat c.laneTag

end Sys2Proof.Machine
end

