-- ==== Sys2Proof/Machine/Alu.lean ====
section
/-! DEFINITION. The integer, logical, bit-field and byte computations of chapter 4, element by element: numbers in, the
element and whether saturation changed it out. -/

namespace Sys2Proof.Machine

/-- `val(e)` of R98: the number a `w`-bit element stands for. -/
def val (sg : Bool) (w e : Nat) : Int := if sg ∧ 2 ^ (w - 1) ≤ e then (e : Int) - 2 ^ w else e

/-- The low `w` bits of a number. -/
def wrapW (w : Nat) (x : Int) : Nat := (x % 2 ^ w).toNat

/-- MINw and MAXw (R98). -/
def minW (sg : Bool) (w : Nat) : Int := if sg then -(2 ^ (w - 1)) else 0
def maxW (sg : Bool) (w : Nat) : Int := if sg then 2 ^ (w - 1) - 1 else 2 ^ w - 1

/-- satw of R100: the clamped element and whether the clamp changed the number. -/
def satW (sg : Bool) (w : Nat) (x : Int) : Nat × Bool :=
  if x < minW sg w then (wrapW w (minW sg w), true)
  else if maxW sg w < x then (wrapW w (maxW sg w), true)
  else (wrapW w x, false)

/-- The exact result reduced or saturated. -/
def fit (sat sg : Bool) (w : Nat) (x : Int) : Nat × Bool := if sat then satW sg w x else (wrapW w x, false)

/-- IADD, ISUB, IADDI (R105). -/
def eAdd (sub sat sg : Bool) (w a b : Nat) : Nat × Bool :=
  fit sat sg w (if sub then val sg w a - val sg w b else val sg w a + val sg w b)

/-- IMUL, IMULH (R106). -/
def eMul (high sg : Bool) (w a b : Nat) : Nat × Bool :=
  let p := val sg w a * val sg w b
  (if high then wrapW (2 * w) p / 2 ^ w else wrapW w p, false)

/-- IMAD (R107). -/
def eMad (sat sg : Bool) (w a b c : Nat) : Nat × Bool := fit sat sg w (val sg w a * val sg w b + val sg w c)

/-- IDIV, IREM (R109), for a nonzero divisor. -/
def eDiv (rem sg : Bool) (w a b : Nat) : Nat × Bool :=
  let x := val sg w a
  let y := val sg w b
  (wrapW w (if rem then x.tmod y else x.tdiv y), false)

/-- IMIN, IMAX (R110). -/
def eMinMax (max_ sg : Bool) (w a b : Nat) : Nat × Bool :=
  let x := val sg w a
  let y := val sg w b
  (wrapW w (if max_ then max x y else min x y), false)

/-- IABS, INEG (R110). -/
def eAbsNeg (neg sat sg : Bool) (w a : Nat) : Nat × Bool :=
  let x := val sg w a
  fit sat sg w (if neg then -x else if x < 0 then -x else x)

/-- The logical operations of R111 in SUB order. -/
inductive LogicOp where | and | or | xor | andn | orn | xnor
  deriving DecidableEq, Repr

/-- R111 on whole words: no operation crosses a bit. -/
def logicWord (op : LogicOp) (a b : Word) : Word :=
  match op with
  | .and => a &&& b
  | .or => a ||| b
  | .xor => a ^^^ b
  | .andn => a &&& ~~~b
  | .orn => a ||| ~~~b
  | .xnor => ~~~(a ^^^ b)

/-- The shifts of R112. -/
inductive ShiftOp where | shl | shrl | shra
  deriving DecidableEq, Repr

/-- R112 on an element and an amount. -/
def eShift (op : ShiftOp) (w a k : Nat) : Nat :=
  match op with
  | .shl => if k < w then a * 2 ^ k % 2 ^ w else 0
  | .shrl => if k < w then a / 2 ^ k else 0
  | .shra => wrapW w (val true w a / 2 ^ (if k < w then k else w))

/-- FSHR (R113). -/
def eFshr (w a b c : Nat) : Nat := (a * 2 ^ w + b) / 2 ^ (c % w) % 2 ^ w

/-- Position, length and mask of R114. -/
def bfPos (w b : Nat) : Nat := min b w
def bfLen (w b c : Nat) : Nat := min c (w - bfPos w b)

/-- BFX (R114). -/
def eBfx (sg : Bool) (w a b c : Nat) : Nat :=
  let k := bfLen w b c
  let f := a / 2 ^ bfPos w b % 2 ^ k
  if sg ∧ 0 < k then wrapW w (val true k f) else f

/-- BFI (R114). -/
def eBfi (w a b c d : Nat) : Nat :=
  let p := bfPos w b
  let k := bfLen w b c
  d % 2 ^ p + a % 2 ^ k * 2 ^ p + d / 2 ^ (p + k) * 2 ^ (p + k)

/-- The set bits of an element, lowest first. -/
def bitsOf (w e : Nat) : List Bool := (List.range w).map fun i => e.testBit i

/-- POPC, CLZ, CTZ, BREV (R115). -/
def ePopc (w e : Nat) : Nat := ((bitsOf w e).filter id).length
def eClz (w e : Nat) : Nat := ((bitsOf w e).reverse.takeWhile (!·)).length
def eCtz (w e : Nat) : Nat := ((bitsOf w e).takeWhile (!·)).length
def eBrev (w e : Nat) : Nat := (bitsOf w e).foldl (fun a b => 2 * a + b.toNat) 0

/-- Integer comparison (R116). -/
def cmpInt (c : Cmp) (x y : Int) : Bool :=
  match c with
  | .eq => x == y
  | .ne => x != y
  | .lt => decide (x < y)
  | .le => decide (x ≤ y)
  | .gt => decide (y < x)
  | .ge => decide (y ≤ x)

/-- Predicate bits at `b` and above (R116, R143): the word and the bits it covers. -/
def predBits (b : Nat) (ts : List Bool) : Word × Word :=
  (BitVec.ofNat 32 ((ts.foldr (fun t a => t.toNat + 2 * a) 0) * 2 ^ b), BitVec.ofNat 32 ((2 ^ ts.length - 1) * 2 ^ b))

/-- SEL (R117) on whole words. -/
def selWord (w b : Nat) (a bb c : Word) : Word :=
  fromElems w ((List.range (32 / w)).map fun i => if c.getLsbD (b + i) then el w a i else el w bb i)

/-- immw of R101 in every element. -/
def immWord (w : Nat) (x : Int) : Word := fromElems w (List.replicate (32 / w) (wrapW w x))

/-- PERMB (R123). -/
def permbWord (a b c : Word) : Word :=
  fromElems 8 ((List.range 4).map fun j =>
    if c.getLsbD (4 * j + 3) then 0
    else
      let s := (c.extractLsb' (4 * j) 3).toNat
      if 4 ≤ s then el 8 b (s - 4) else el 8 a s)

/-- PACK (R124): elements with their saturation. -/
def packElems (sat sg : Bool) (w : Nat) (a b : Word) : List (Nat × Bool) :=
  let n := 32 / w
  (List.range n).map fun i =>
    fit sat sg w (val sg (2 * w) (if i < n / 2 then el (2 * w) a i else el (2 * w) b (i - n / 2)))

/-- UNPACK (R124). -/
def unpackWord (sg : Bool) (w h : Nat) (a : Word) : Word :=
  let n := 32 / w
  fromElems (2 * w) ((List.range (n / 2)).map fun j => wrapW (2 * w) (val sg w (el w a (h * (n / 2) + j))))

/-- The window class of a generic address (Table 1.6, CVTA.class): 0 global, 1 scratch, 2 private, 3 malformed. -/
def addrClass (a : DWord) : Nat :=
  let top := (a.extractLsb' 56 8).toNat
  if top = 0 ∨ top = 0xFF then 0
  else if top = 0xFE then (if a.extractLsb' 32 24 == 0 then 1 else 3)
  else if top = 0xFD then (if a.extractLsb' 40 16 == 0 then 2 else 3)
  else 3

end Sys2Proof.Machine
end

