-- ==== Sys2Proof/Machine/Issue.lean ====
section
/-! DEFINITION. One whole instruction: the checks before any effect, the effect, and what every instruction does to its
fibre's run (R56 to R64), shared by all meanings. -/

namespace Sys2Proof.Machine

/-- What the effect of an instruction comes to. -/
inductive Res where
  /-- It took effect; the run goes on at the next instruction, or, for a fibre that parked, will. -/
  | next (s : State)
  /-- It has not taken effect: the fibre parked and issues it again. -/
  | again (s : State)
  /-- It took effect and placed the fibre itself: a terminator. -/
  | fin (s : State)
  | trap (t : Trap)
  /-- A trap with effects that stay (R340, R403, R412). -/
  | trapIn (s : State) (t : Trap)
  deriving Repr

/-- R64: the first cycles at which the beats of the next instruction may issue. -/
def Ctx.boundAfter (c : Ctx) : Nat × Nat × Nat :=
  let p := 3 * (1 + c.i.stall)
  let b := if c.i.crossLane then tri1 c.is.r2 else (c.is.r0, c.is.r1, c.is.r2)
  (max (b.1 + p) (c.is.r2 + 1), b.2.1 + p, b.2.2 + p)

/-- The instruction after this one (R83). -/
def Ctx.nextPc (c : Ctx) : DWord := pcAdd c.f.pc c.len

/-- Registers an instruction reads before the run has written them, with the words its lanes read (R402, R404). vz never
counts. -/
def Ctx.newInputs (c : Ctx) (r : RunRec) : List (Nat × List Word) :=
  let regs := c.sources.flatMap fun x => (spanRegs x.1).map fun v => (v, x.2.1)
  regs.foldl
    (fun a v =>
      if v.1 = 248 ∨ r.written.contains v.1 ∨ (r.inputs ++ a).any (·.1 == v.1) then a
      else a ++ [(v.1, laneVec fun l => (c.st.read c.f.laneSet v.1 (v.2 l) (l / 32) (tri c.t (l / 32))).w)]) []

/-- Observe an instruction of the original text. -/
def Ctx.obs (c : Ctx) (r : RunRec) : RunRec :=
  { r with
    inputs := r.inputs ++ c.newInputs r
    written := (r.written ++ (c.i.regs.dst.flatMap spanRegs)).eraseDups
    instrs := r.instrs ++ [{ pc := c.f.pc, instr := c.i }] }

/-- The run mask is that of the first instruction the execution issues (R409); in candidate mode its inputs are read there too
(R417). -/
def Ctx.noteMask (c : Ctx) (r : RunRec) : RunRec :=
  if r.instrs.isEmpty && (r.use.map (·.next)).getD 0 == 0 then
    { r with
      lanes := c.mask
      inputs := match r.use with
        | some u => if u.cand then u.ins.map fun v => (v, laneVec fun l => (c.st.read c.f.laneSet v l (l / 32) (tri c.t (l / 32))).w)
          else r.inputs
        | none => r.inputs }
  else r

/-- Observe an instruction of a run whose launch has substitution enabled (R403, R404, R409). -/
def Ctx.observe (c : Ctx) (r : RunRec) : RunRec :=
  let r := c.noteMask r
  match r.use with
  | some u => if u.cand then { r with use := some { u with next := u.next + 1 } } else c.obs r
  | none => c.obs r

/-- Observe the terminator: its guard is read in the run too (R402, R404). -/
def Ctx.observeEnd (c : Ctx) (r : RunRec) : RunRec :=
  let r := c.noteMask r
  if (r.use.map (·.cand)).getD false then r else { r with inputs := r.inputs ++ c.newInputs r }

/-- Where the run goes on: the next instruction, or in candidate mode the next of the candidate and then the terminator
(R413). -/
def Ctx.goesOn (c : Ctx) (r : Option RunRec) : DWord :=
  match r.bind (·.use) with
  | some u => if u.cand then (if u.body.length ≤ u.next then u.term else c.f.pc) else c.nextPc
  | none => c.nextPc

/-- The run goes on at the next instruction. -/
def Ctx.advance (c : Ctx) (s : State) : State :=
  s.modFib c.k fun f =>
    let run := f.run.map c.observe
    { f with pc := c.goesOn run, run := run, runPos := f.runPos + 1, bound := c.boundAfter, beats := [], issued := true
             walks := [], noPromise := false, passStop := false, passBrk := false }

/-- An instruction that parks at its own place, and goes on without issuing again: the bounds it leaves, and its place in the
observed run. -/
def Ctx.noteParked (c : Ctx) (s : State) : State :=
  s.modFib c.k fun f => { f with word := c.i.word0, bound := c.boundAfter, run := f.run.map c.observe }

/-- The end of a run (R56, R60): the next run begins at `pc` with q0 to q7 zero. -/
def State.endRun (s : State) (k : Nat) (pc : DWord) : State :=
  match s.fib? k with
  | none => s
  | some f =>
    let s := s.modStrand (fibStrand k) fun st => (List.range 8).foldl (fun a q => a.poke (240 + q) f.laneSet fun _ => 0) st
    s.modFib k fun f => { f with pc := pc, runPos := 0, after := none, run := none, walks := [], noPromise := false }

/-- The wait of a terminator, or of a run's end, is over but for the publish list (R62). -/
def State.toReady (s : State) (k : Nat) : State :=
  match s.fib? k, s.strand? (fibStrand k) with
  | some f, some st => if st.pubsLanded f s.cycle then s.ready k else s.park k .none
  | _, _ => s

/-- A terminator's own condition is met: its run ends. -/
def State.waitDone (s : State) (k : Nat) : State :=
  match s.fib? k with
  | some f =>
    match f.after with
    | some pc => (s.endRun k pc).toReady k
    | none => s.ready k
  | none => s

/-- What every terminator does to its fibre first: publish list, bounds and YL (R61, R62, R74). -/
def Ctx.closeRun (c : Ctx) (s : State) : State :=
  let yl := match c.i.fields with
    | .t f => f.yl == 1
    | _ => false
  s.modFib c.k fun f =>
    { f with word := c.i.word0, pubs := c.i.pubs, bound := c.boundAfter, beats := [], issued := true, last3 := f.last3 || yl
             passStop := false, passBrk := false }

/-- Whether the fall-through address leaves the 40 bits of an offset (R85). -/
def Ctx.fallsOff (c : Ctx) : Bool := decide (2 ^ 40 ≤ pcOffset c.f.pc + c.len)

/-- End the run and continue at `pc`, with no condition but the publish list. -/
def Ctx.goto (c : Ctx) (s : State) (pc : DWord) : Res := .fin (((c.closeRun s).endRun c.k pc).toReady c.k)

/-- End the run and continue at the next instruction (R85). -/
def Ctx.gotoNext (c : Ctx) (s : State) : Res := if c.fallsOff then .trap { cause := .pcWrap } else c.goto s c.nextPc

/-- End the run and park until `w` is met; the fibre then continues at the next instruction (R85). -/
def Ctx.await (c : Ctx) (s : State) (w : Wait) : Res :=
  if c.fallsOff then .trap { cause := .pcWrap }
  else .fin (((c.closeRun s).modFib c.k fun f => { f with after := some c.nextPc }).park c.k w)

/-- The outcome of an instruction (R7, R45, R319): the checks, then the effect. A trap leaves no effect and is taken. -/
def issue (i : Instr) (s : State) (body : Ctx → State → Res) : Host.Outcome State Fault Refusal :=
  match s.cur with
  | none => .fault .noFibre
  | some is =>
    match mkCtx i s is with
    | none => .fault .noFibre
    | some c =>
      let fill := fun (t : Trap) => { t with word := some i.word0 }
      match c.check with
      | some t => .next (s.takeTrap c.k (fill t) c.act c.len)
      | none =>
        match body c s with
        | .next s' => .next (c.advance s')
        | .again s' => .next s'
        | .fin s' => .next s'
        | .trap t => .next (s.takeTrap c.k (fill t) c.act c.len)
        | .trapIn s' t => .next (s'.takeTrap c.k (fill t) c.act c.len)

end Sys2Proof.Machine
end

