-- ==== Sys2Proof/Machine/Flags.lean ====
section
/-! DEFINITION. The sticky status bits of vfst (Table 5.6), how an instruction sets them (R100, R137) and the traps STRAND_CTL
enables (R138, Table 12.2). -/

namespace Sys2Proof.Machine

/-- Flags of one operation, by the bit numbers of Table 5.6: NV 0, DZ 1, OF 2, UF 3, NX 4, SAT 5, AMAXNAN 6, FN_CAP 7,
FN_OUT 8. -/
abbrev Flags := Word

def fNV : Flags := 1
def fDZ : Flags := 2
def fOF : Flags := 4
def fUF : Flags := 8
def fNX : Flags := 16
def fSAT : Flags := 32
def fAMAXNAN : Flags := 64
def fFNCAP : Flags := 128
def fFNOUT : Flags := 256

/-- OR flags into vfst in the lanes of act, after the instruction's other writes, at its latency and in issue order with the
other writes of vfst (R99, R100, R137). -/
def Ctx.orFlags (c : Ctx) (s : State) (fl : Nat → Flags) (lat : Nat) : State :=
  let m := c.act &&& lanesOf fun l => fl l != 0
  if m == 0 then s
  else
    s.modStrand c.strand fun st =>
      st.launchWrite
        { seq := 0, reg := 252, lanes := m, orIn := true, land := some (st.landAfter 252 m (c.landing lat))
          vals := laneVec fun l => if m.getLsbD l then fl l else 0 }

/-- The enable bit of STRAND_CTL and the flag of each floating-point cause (R138, Table 12.2). -/
def fpEnable (c : Cause) : Nat × Flags :=
  match c with
  | .fpInvalid => (1, fNV)
  | .fpDivzero => (2, fDZ)
  | .fpOverflow => (3, fOF)
  | .fpUnderflow => (4, fUF)
  | .fpInexact => (5, fNX)
  | .quantSat => (6, fSAT)
  | .amaxNan => (7, fAMAXNAN)
  | _ => (9, 0)

/-- The causes of the arithmetic flags in code order (R138, R160). -/
def fpCauses : List Cause := [.fpInvalid, .fpDivzero, .fpOverflow, .fpUnderflow, .fpInexact]

/-- R138: the first enabled cause, in the entry's order, that some lane of act would set, with those lanes. -/
def fpTrap (ctl : Word) (order : List Cause) (act : Lanes) (fl : Nat → Flags) : Option Trap :=
  order.findSome? fun e =>
    let m := act &&& lanesOf fun l => fl l &&& (fpEnable e).2 != 0
    if ctl.getLsbD (fpEnable e).1 && m != 0 then some { cause := e, mask := some m } else none

end Sys2Proof.Machine
end

