-- ==== Sys2Proof/Machine/Float.lean ====
section
/-! DEFINITION. The floating-point formats (R125 to R130), exact values as rationals, the one rounding rnd_T (R131, R132,
Table 5.5), and exact sums and products with the special values and zero signs of R133. -/

namespace Sys2Proof.Machine

/-- What an operand stands for: a NaN, an infinity or a real number, with its sign bit. -/
inductive Val where
  | nan (sig : Bool)
  | inf (neg : Bool)
  /-- The number `q`; `neg` is the sign of a zero. -/
  | fin (neg : Bool) (q : ℚ)
  deriving DecidableEq, Repr

/-- How a format treats signs, infinities and NaNs: IEEE 754, or the eight-bit formats of R127 and R128. -/
inductive FKind where
  | ieee
  | k8 (signed ext : Bool)
  deriving DecidableEq, Repr

/-- A format: width, precision P, exponent of the smallest normal, and the magnitude code of the largest finite value. In
every format the magnitude code of a value above another's is the greater, and codes rise by one between neighbours. -/
structure Fmt where
  bits : Nat
  p : Nat
  emin : Int
  maxCode : Nat
  kind : FKind
  deriving DecidableEq, Repr

def fmt32 : Fmt := { bits := 32, p := 24, emin := -126, maxCode := 0x7F7FFFFF, kind := .ieee }
def fmt16 : Fmt := { bits := 16, p := 11, emin := -14, maxCode := 0x7BFF, kind := .ieee }
def fmtBf : Fmt := { bits := 16, p := 8, emin := -126, maxCode := 0x7F7F, kind := .ieee }

end Sys2Proof.Machine

namespace Sys2Proof

/-- The formats of a type selector (R140). -/
def FType.fmt : FType → Machine.Fmt
  | .f32 => Machine.fmt32
  | .f16 => Machine.fmt16
  | .bf16 => Machine.fmtBf

end Sys2Proof

namespace Sys2Proof.Machine

/-- The signed eight-bit format of precision `p` (R127). -/
def fmtK8 (p : Nat) (ext : Bool) : Fmt :=
  { bits := 8, p := p, emin := 1 - 2 ^ (8 - p - 1), maxCode := if ext then 0x7E else 0x7F, kind := .k8 true ext }

/-- The unsigned eight-bit format of precision `p` (R128). -/
def fmtK8n (p : Nat) (ext : Bool) : Fmt :=
  { bits := 8, p := p, emin := 1 - 2 ^ (9 - p - 1), maxCode := if ext then 0xFD else 0xFE, kind := .k8 false ext }

/-- What a type code names (Table 5.4). -/
inductive QType where
  | flt (f : Fmt)
  | int (signed : Bool) (w : Nat)
  deriving DecidableEq, Repr

/-- Table 5.4. -/
def qType? (code : Nat) : Option QType :=
  let p := code % 16
  if 1 ≤ p ∧ p ≤ 7 ∧ code < 0x40 then
    some (.flt (match code / 16 with
      | 0 => fmtK8 p false
      | 1 => fmtK8 p true
      | 2 => fmtK8n p false
      | _ => fmtK8n p true))
  else if code = 0x40 then some (.flt fmt16)
  else if code = 0x41 then some (.flt fmtBf)
  else if code = 0x50 then some (.int true 8)
  else if code = 0x51 then some (.int false 8)
  else if code = 0x52 then some (.int true 4)
  else if code = 0x53 then some (.int false 4)
  else none

/-- Bits of an element of a type. -/
def QType.bits : QType → Nat
  | .flt f => f.bits
  | .int _ w => w

/-- 2^e. -/
def pow2 (e : Int) : ℚ := if 0 ≤ e then mkRat (2 ^ e.toNat) 1 else mkRat 1 (2 ^ (-e).toNat)

/-- Whether a format has sign bits. -/
def Fmt.signed (f : Fmt) : Bool := f.kind != .k8 false true && f.kind != .k8 false false

/-- The canonical NaN (R126, R127, R128). -/
def Fmt.nan (f : Fmt) : Nat :=
  match f.kind with
  | .ieee => f.maxCode + 1 + 2 ^ (f.p - 2)
  | .k8 true _ => 0x80
  | .k8 false _ => 0xFF

/-- The value of a magnitude code of a finite number (R125, R127). -/
def Fmt.magVal (f : Fmt) (c : Nat) : ℚ :=
  let h := 2 ^ (f.p - 1)
  if c / h = 0 then mkRat c 1 * pow2 (f.emin - (f.p - 1))
  else mkRat (h + c % h) 1 * pow2 (f.emin + (c / h : Nat) - 1 - (f.p - 1))

/-- The value of a code (R125 to R128). -/
def Fmt.val (f : Fmt) (code : Nat) : Val :=
  let s := 2 ^ (f.bits - 1)
  let c := if f.signed then code % s else code
  let neg := f.signed && decide (s ≤ code % (2 * s))
  let q := f.magVal c
  let num := Val.fin neg (if neg then -q else q)
  match f.kind with
  | .ieee =>
    if c ≤ f.maxCode then num
    else if c = f.maxCode + 1 then .inf neg
    else .nan (!c.testBit (f.p - 2))
  | .k8 _ ext =>
    if code = f.nan then .nan false
    else if c = f.maxCode + 1 ∧ ext then .inf neg
    else num

/-- The value of an element of a type: a format's value, or an integer (R150). R133 does not say what sign an integer brings to a product
of zeros: every integer brings + (DESIGN CHOICE, log entry 112). -/
def QType.val (t : QType) (code : Nat) : Val :=
  match t with
  | .flt f => f.val code
  | .int sg w => .fin false (mkRat (Machine.val sg w code) 1)

/-- The value of an FP32 word. -/
def val32 (w : Word) : Val := fmt32.val w.toNat

/-! ### Rounding -/

/-- Rounding modes in the order of FLG[1:0] (R131). -/
inductive RMode where | rne | rtz | rdn | rup
  deriving DecidableEq, Repr

def RMode.of (n : Nat) : RMode :=
  match n % 4 with
  | 0 => .rne
  | 1 => .rtz
  | 2 => .rdn
  | _ => .rup

/-- Whether a magnitude that lies a fraction `r` of the way from an integral `c` to `c + 1` is rounded up (R131 steps 1, 2);
`odd` says that `c` has bit 0 set. -/
def roundsUp (m : RMode) (neg odd : Bool) (r : ℚ) : Bool :=
  if r = 0 then false
  else
    match m with
    | .rne => decide (mkRat 1 2 < r) || (decide (r = mkRat 1 2) && odd)
    | .rtz => false
    | .rdn => neg
    | .rup => !neg

/-- ⌊log₂ x⌋ for x > 0. -/
def floorLog2 (x : ℚ) : Int :=
  let k : Int := (Nat.log2 x.num.natAbs : Int) - (Nat.log2 x.den : Int)
  if pow2 k ≤ x then k else k - 1

/-- The magnitude code at or below x > 0 with the exponent unbounded above, and how far towards the next code x lies. -/
def Fmt.codeBelow (f : Fmt) (x : ℚ) : Nat × ℚ :=
  let e := max (floorLog2 x) f.emin
  let q := x * pow2 ((f.p : Int) - 1 - e)
  let n := q.floor
  ((e - f.emin).toNat * 2 ^ (f.p - 1) + n.toNat, q - mkRat n 1)

/-- A code with a sign. -/
def Fmt.code (f : Fmt) (neg : Bool) (c : Nat) : Nat := if neg && f.signed then 2 ^ (f.bits - 1) + c else c

/-- A zero of the sign `neg` where the format has it (R131 step 4). -/
def Fmt.zero (f : Fmt) (neg : Bool) : Nat := if f.kind = .ieee then f.code neg 0 else 0

/-- The overflow result and its flags (Table 5.5); `sat` is saturation requested. -/
def Fmt.overflow (f : Fmt) (neg : Bool) (m : RMode) (sat : Bool) : Nat × Flags :=
  let inf := f.code neg (f.maxCode + 1)
  let lim := f.code neg f.maxCode
  match f.kind with
  | .ieee => (if m = .rtz ∨ m = .rdn ∧ !neg ∨ m = .rup ∧ neg then lim else inf, fOF ||| fNX)
  | .k8 _ ext => if ext && !sat then (if m = .rtz then lim else inf, fOF ||| fNX) else (lim, fSAT ||| fNX)

/-- The rounding of a number whose magnitude lies a fraction `r` above magnitude code `c` (R131 steps 1 to 4, R132, R135). -/
def Fmt.roundCode (f : Fmt) (neg : Bool) (c : Nat) (r : ℚ) (m : RMode) (sat : Bool) : Nat × Flags :=
  let m := if f.kind ≠ .ieee ∧ (m = .rdn ∨ m = .rup) then .rne else m
  let c := if roundsUp m neg (c % 2 == 1) r then c + 1 else c
  let nx := if r = 0 then 0 else fNX
  if c = 0 then (f.zero neg, nx)
  else if neg && !f.signed then (0, fSAT ||| fNX ||| (if c < 2 ^ (f.p - 1) then fUF else 0))
  else if f.maxCode < c then f.overflow neg m sat
  else (f.code neg c, nx ||| (if r ≠ 0 ∧ c < 2 ^ (f.p - 1) then fUF else 0))

/-- rnd_T (R131) of a nonzero real number. -/
def Fmt.rndQ (f : Fmt) (q : ℚ) (m : RMode) (sat : Bool) : Nat × Flags :=
  let b := f.codeBelow |q|
  f.roundCode (decide (q < 0)) b.1 b.2 m sat

/-- rnd_T of a value: numbers by R131, infinities and NaNs by R126 and R132. -/
def Fmt.rnd (f : Fmt) (v : Val) (m : RMode) (sat : Bool) : Nat × Flags :=
  match v with
  | .nan _ => (f.nan, 0)
  | .inf neg =>
    if f.kind = .ieee then (f.code neg (f.maxCode + 1), 0)
    else if neg && !f.signed then (0, fSAT ||| fNX)
    else f.overflow neg m sat
  | .fin neg q => if q = 0 then (f.zero neg, 0) else f.rndQ q m sat

/-! ### Exact arithmetic (R133, R134) -/

/-- NV of the signalling NaNs among the operands (R134). -/
def sigNV (vs : List Val) : Flags := if vs.any (· == .nan true) then fNV else 0

def Val.isNan : Val → Bool
  | .nan _ => true
  | _ => false

def Val.neg : Val → Val
  | .nan s => .nan s
  | .inf n => .inf !n
  | .fin n q => .fin (!n) (-q)

/-- The sign bit of a value that is no NaN. -/
def Val.sign : Val → Bool
  | .nan _ => false
  | .inf n => n
  | .fin n _ => n

/-- A product with its NV (R133): ∞ · 0 is invalid. -/
def Val.mul (a b : Val) : Val × Flags :=
  let n := a.sign != b.sign
  match a, b with
  | .nan _, _ => (.nan false, 0)
  | _, .nan _ => (.nan false, 0)
  | .inf _, .inf _ => (.inf n, 0)
  | .inf _, .fin _ q => if q = 0 then (.nan false, fNV) else (.inf n, 0)
  | .fin _ q, .inf _ => if q = 0 then (.nan false, fNV) else (.inf n, 0)
  | .fin _ p, .fin _ q => (.fin n (p * q), 0)

/-- A sum of terms with its NV (R133): infinities of both signs are invalid, also beside a NaN. The sign of a sum whose exact value is zero is −0 in RDN, and in every mode when every
term is −0. -/
def sumVals (ts : List Val) (m : RMode) : Val × Flags :=
  let pos := ts.contains (.inf false)
  let neg := ts.contains (.inf true)
  if pos && neg then (.nan false, fNV)
  else if ts.any Val.isNan then (.nan false, 0)
  else
    match pos, neg with
    | true, _ => (.inf false, 0)
    | false, true => (.inf true, 0)
    | false, false =>
      let q : ℚ := ts.foldl (fun (a : ℚ) t => match t with
        | .fin _ x => a + x
        | _ => a) 0
      let allNegZero := ts.all fun t => match t with
        | .fin n x => n && x == 0
        | _ => false
      if q = 0 then (.fin (m == .rdn || allNegZero) 0, 0) else (.fin (decide (q < 0)) q, 0)

/-- A sum of products and a further term, rounded once: value and flags. NV comes from any signalling operand (R134), any
product ∞ · 0, also beside a NaN (R141; log entry 21), and opposite infinities. -/
def dotRnd (f : Fmt) (ps : List (Val × Val)) (ts : List Val) (m : RMode) : Nat × Flags :=
  let prods := ps.map fun p => p.1.mul p.2
  let nvp := prods.foldl (fun a p => a ||| p.2) 0
  let sum := sumVals (prods.map (·.1) ++ ts) m
  let r := f.rnd sum.1 m false
  (r.1, r.2 ||| sum.2 ||| nvp ||| sigNV (ps.flatMap (fun p => [p.1, p.2]) ++ ts))

/-- One product rounded (R133: a product of zeros carries the exclusive-OR of the signs). -/
def mulRnd (f : Fmt) (a b : Val) (m : RMode) : Nat × Flags :=
  let p := a.mul b
  let r := f.rnd p.1 m false
  (r.1, r.2 ||| p.2 ||| sigNV [a, b])

/-- A value converted to a format (R153). -/
def cvtRnd (f : Fmt) (a : Val) (m : RMode) : Nat × Flags :=
  let r := f.rnd a m false
  (r.1, r.2 ||| sigNV [a])

/-- The integral value of a number in a mode, and whether it differs from the number (R146, R151). -/
def roundInt (q : ℚ) (m : RMode) : Int × Bool :=
  let x := |q|
  let n := x.floor.toNat
  let r := x - mkRat n 1
  let k : Nat := if roundsUp m (decide (q < 0)) (n % 2 == 1) r then n + 1 else n
  (if q < 0 then -k else k, r != 0)

/-! ### Comparison (R142, R143) -/

/-- A key that orders the values that are no NaN, −0 below +0 (R142). -/
def Val.le (a b : Val) : Bool :=
  match a, b with
  | .inf true, _ => true
  | _, .inf false => true
  | .inf false, _ => false
  | _, .inf true => false
  | .fin n p, .fin k q => decide (p < q) || (p == q && (p != 0 || n || !k))
  | _, _ => false

/-- The numeric order of values that are no NaN, +0 equal to −0 (R143). -/
def Val.cmp (a b : Val) : Ordering :=
  match a, b with
  | .inf n, .inf k => if n == k then .eq else if n then .lt else .gt
  | .inf n, _ => if n then .lt else .gt
  | _, .inf k => if k then .gt else .lt
  | .fin _ p, .fin _ q => if p < q then .lt else if p = q then .eq else .gt
  | _, _ => .eq

/-- minimum, maximum, minimumNumber, maximumNumber on codes of a format (R142). -/
def Fmt.minMax (f : Fmt) (max_ num : Bool) (a b : Nat) : Nat × Flags :=
  let x := f.val a
  let y := f.val b
  let nv := sigNV [x, y]
  if x.isNan || y.isNan then
    (if num && !(x.isNan && y.isNan) then (if x.isNan then b else a) else f.nan, nv)
  else (if (if max_ then y.le x else x.le y) then a else b, nv)

end Sys2Proof.Machine
end

