-- ==== Sys2Proof/Machine/Trans.lean ====
section
/-! DEFINITION. The real functions of the special-function unit (Table 6.2), rounded once (R162). A result that is a rational
number is rounded exactly; any other lies strictly between two rationals that round alike, found in fixed point with outward
rounding at rising precision. -/

namespace Sys2Proof.Machine

/-- Fixed-point bounds of a number x ≥ 0: `lo ≤ x · 2^n ≤ hi`. -/
structure Fix where
  lo : Nat
  hi : Nat
  deriving DecidableEq, Repr

def cdiv (a b : Nat) : Nat := (a + b - 1) / b

/-- A rational q ≥ 0 in fixed point. -/
def Fix.ofRat (n : Nat) (q : ℚ) : Fix :=
  { lo := q.num.toNat * 2 ^ n / q.den, hi := cdiv (q.num.toNat * 2 ^ n) q.den }

def Fix.mul (n : Nat) (a b : Fix) : Fix := { lo := a.lo * b.lo / 2 ^ n, hi := cdiv (a.hi * b.hi) (2 ^ n) }
def Fix.add (a b : Fix) : Fix := { lo := a.lo + b.lo, hi := a.hi + b.hi }
def Fix.sub (a b : Fix) : Fix := { lo := a.lo - b.hi, hi := a.hi - b.lo }
def Fix.divNat (a : Fix) (k : Nat) : Fix := { lo := a.lo / k, hi := cdiv a.hi k }
def Fix.div (n : Nat) (a b : Fix) : Fix := { lo := a.lo * 2 ^ n / b.hi, hi := cdiv (a.hi * 2 ^ n) b.lo }
def Fix.one (n : Nat) : Fix := { lo := 2 ^ n, hi := 2 ^ n }

/-- Widen the upper bound, for a remainder of a series. -/
def Fix.widen (a : Fix) (k : Nat) : Fix := { a with hi := a.hi + k }

/-- ∑ t^k / k! with the remainder, for 0 ≤ t ≤ 1. -/
def Fix.exp (n : Nat) (t : Fix) : Fix :=
  let r := (List.range (n / 4 + 20)).foldl
    (fun (a : Fix × Fix) k =>
      let term := (a.1.mul n t).divNat (k + 1)
      (term, a.2.add term)) (Fix.one n, Fix.one n)
  r.2.widen (2 * r.1.hi + 2)

/-- artanh z = ∑ z^(2k+1) / (2k+1), for 0 ≤ z ≤ 1/3. -/
def Fix.artanh (n : Nat) (z : Fix) : Fix :=
  let z2 := z.mul n z
  let r := (List.range (n / 3 + 10)).foldl
    (fun (a : Fix × Fix) k => (a.1.mul n z2, a.2.add (a.1.divNat (2 * k + 1)))) (z, { lo := 0, hi := 0 })
  r.2.widen (2 * r.1.hi + 2)

/-- Sums of the even-numbered and odd-numbered terms of an alternating series, and the first term left out. -/
def altSum (terms : Nat) (first : Fix) (next : Nat → Fix → Fix) (val : Nat → Fix → Fix) : Fix :=
  let z : Fix := { lo := 0, hi := 0 }
  let r := (List.range terms).foldl
    (fun (a : Fix × Fix × Fix) k =>
      let v := val k a.1
      (next k a.1, if k % 2 = 0 then a.2.1.add v else a.2.1, if k % 2 = 1 then a.2.2.add v else a.2.2)) (first, z, z)
  let d := r.2.1.sub r.2.2
  { lo := d.lo - (r.1.hi + 1), hi := d.hi + r.1.hi + 1 }

/-- arctan (1/k) = ∑ (−1)^i / ((2i+1) k^(2i+1)). -/
def arctanInv (n k : Nat) : Fix :=
  altSum (n / 4 + 10) (Fix.ofRat n (mkRat 1 k)) (fun _ t => t.divNat (k * k)) fun i t => t.divNat (2 * i + 1)

/-- π = 16 arctan (1/5) − 4 arctan (1/239). -/
def Fix.pi (n : Nat) : Fix :=
  let a := arctanInv n 5
  let b := arctanInv n 239
  Fix.sub { lo := 16 * a.lo, hi := 16 * a.hi } { lo := 4 * b.lo, hi := 4 * b.hi }

/-- ln 2 = 2 artanh (1/3). -/
def Fix.ln2 (n : Nat) : Fix :=
  let a := Fix.artanh n (Fix.ofRat n (mkRat 1 3))
  { lo := 2 * a.lo, hi := 2 * a.hi }

/-- sin t for 0 ≤ t ≤ 2. -/
def Fix.sin (n : Nat) (t : Fix) : Fix :=
  let t2 := t.mul n t
  altSum (n / 8 + 20) t (fun i x => (x.mul n t2).divNat ((2 * i + 2) * (2 * i + 3))) fun _ x => x

/-- e^(−y) for a rational 0 ≤ y ≤ 256: (e^(y/256))^(−256). -/
def Fix.expNeg (n : Nat) (y : ℚ) : Fix :=
  let e := (Fix.one n).div n (Fix.exp n (Fix.ofRat n (y / 256)))
  (List.range 8).foldl (fun a _ => a.mul n a) e

/-- The bounds as rationals. -/
def Fix.bounds (n : Nat) (a : Fix) : ℚ × ℚ := (mkRat a.lo (2 ^ n), mkRat a.hi (2 ^ n))

/-- A rounding that every number strictly between two positive bounds shares: the same code below, and the same side of the
midpoint. -/
def Fmt.rndBetween (f : Fmt) (neg : Bool) (b : ℚ × ℚ) : Option (Nat × Flags) :=
  if b.1 ≤ 0 then none
  else
    let x := f.codeBelow b.1
    let y := f.codeBelow b.2
    let half := mkRat 1 2
    if x.1 = y.1 ∧ 0 < y.2 ∧ (half ≤ x.2 ∧ half < y.2 ∨ y.2 ≤ half ∧ x.2 < half) then
      some (f.roundCode neg x.1 (if half ≤ x.2 then mkRat 3 4 else mkRat 1 4) .rne false)
    else none

/-- The rounding of an irrational number by bounds of rising precision. What a number rounds to that 960 bits do not decide is a free value;
no such number is known (log entry 22). -/
def Fmt.rndFix (f : Fmt) (neg : Bool) (x : Nat → Fix) : Nat × Flags :=
  ([96, 320, 960].findSome? fun n => f.rndBetween neg ((x n).bounds n)).getD (Config.undecided % 2 ^ f.bits, fNX)

/-- The rounding of a number just below or above a rational, in whose rounding cell `q` lies. -/
def Fmt.rndNear (f : Fmt) (neg : Bool) (q : ℚ) : Nat × Flags := f.rndQ (if neg then -q else q) .rne false

/-- The result of a function at a number. -/
abbrev FRes := Nat × Flags

/-- An exact number, with the sign of its zero. -/
def Fmt.exact (f : Fmt) (neg : Bool) (q : ℚ) : FRes := f.rnd (.fin neg q) .rne false

def Fmt.infRes (f : Fmt) (neg : Bool) (fl : Flags) : FRes := (f.code neg (f.maxCode + 1), fl)
def Fmt.nanRes (f : Fmt) (fl : Flags) : FRes := (f.nan, fl)

/-- RCP (Table 6.2). -/
def sfuRcp (f : Fmt) (a : Val) : FRes :=
  match a with
  | .nan s => f.nanRes (if s then fNV else 0)
  | .inf n => f.exact n 0
  | .fin n q => if q = 0 then f.infRes n fDZ else f.exact n (1 / q)

/-- DIV (Table 6.2). -/
def sfuDiv (f : Fmt) (a b : Val) : FRes :=
  let n := a.sign != b.sign
  match a, b with
  | .nan _, _ => f.nanRes (sigNV [a, b])
  | _, .nan _ => f.nanRes (sigNV [a, b])
  | .inf _, .inf _ => f.nanRes fNV
  | .inf _, .fin _ _ => f.infRes n 0
  | .fin _ _, .inf _ => f.exact n 0
  | .fin _ p, .fin _ q =>
    if q = 0 then (if p = 0 then f.nanRes fNV else f.infRes n fDZ) else f.exact n (p / q)

/-- √q for q > 0. -/
def sqrtRnd (f : Fmt) (q : ℚ) : FRes :=
  let a := Nat.sqrt q.num.toNat
  let b := Nat.sqrt q.den
  if a * a = q.num.toNat ∧ b * b = q.den then f.exact false (mkRat a b)
  else
    f.rndFix false fun n =>
      let r := Nat.sqrt (q.num.toNat * 2 ^ (2 * n) / q.den)
      { lo := r, hi := r + 1 }

/-- SQRT (Table 6.2). -/
def sfuSqrt (f : Fmt) (a : Val) : FRes :=
  match a with
  | .nan s => f.nanRes (if s then fNV else 0)
  | .inf n => if n then f.nanRes fNV else f.infRes false 0
  | .fin n q => if q = 0 then f.exact n 0 else if q < 0 then f.nanRes fNV else sqrtRnd f q

/-- RSQ (Table 6.2). -/
def sfuRsq (f : Fmt) (a : Val) : FRes :=
  match a with
  | .nan s => f.nanRes (if s then fNV else 0)
  | .inf n => if n then f.nanRes fNV else f.exact false 0
  | .fin n q => if q = 0 then f.infRes n fDZ else if q < 0 then f.nanRes fNV else sqrtRnd f (1 / q)

/-- EXP2 (Table 6.2). Beyond ±400 the result lies in the rounding cell of 2^±400. -/
def sfuExp2 (f : Fmt) (a : Val) : FRes :=
  match a with
  | .nan s => f.nanRes (if s then fNV else 0)
  | .inf n => if n then f.exact false 0 else f.infRes false 0
  | .fin _ q =>
    if q < -400 then f.rndNear false (pow2 (-400))
    else if 400 < q then f.rndNear false (pow2 400)
    else
      let k := q.floor
      let r := q - mkRat k 1
      if r = 0 then f.exact false (pow2 k)
      else
        f.rndFix false fun n =>
          let e := Fix.exp n ((Fix.ofRat n r).mul n (Fix.ln2 n))
          if 0 ≤ k then { lo := e.lo * 2 ^ k.toNat, hi := e.hi * 2 ^ k.toNat } else e.divNat (2 ^ (-k).toNat)

/-- |log₂ q| for q > 0 that is no power of two, with its sign. -/
def log2Rnd (f : Fmt) (q : ℚ) : FRes :=
  let e := floorLog2 q
  let m := q * pow2 (-e)
  let z := (m - 1) / (m + 1)
  let frac := fun n => (Fix.artanh n (Fix.ofRat n z)).div n (Fix.artanh n (Fix.ofRat n (mkRat 1 3)))
  if 0 ≤ e then f.rndFix false fun n => (frac n).add { lo := e.toNat * 2 ^ n, hi := e.toNat * 2 ^ n }
  else f.rndFix true fun n => Fix.sub { lo := (-e).toNat * 2 ^ n, hi := (-e).toNat * 2 ^ n } (frac n)

/-- LOG2 (Table 6.2). -/
def sfuLog2 (f : Fmt) (a : Val) : FRes :=
  match a with
  | .nan s => f.nanRes (if s then fNV else 0)
  | .inf n => if n then f.nanRes fNV else f.infRes false 0
  | .fin _ q =>
    if q = 0 then f.infRes true fDZ
    else if q < 0 then f.nanRes fNV
    else
      let e := floorLog2 q
      if q = pow2 e then f.exact false (mkRat e 1) else log2Rnd f q

/-- sin(πq) for a q that is no integer. -/
def sinpiRnd (f : Fmt) (q : ℚ) : FRes :=
  let r := q - 2 * mkRat (q / 2).floor 1
  let neg := decide (1 < r)
  let x := if 1 < r then r - 1 else r
  let y := if mkRat 1 2 < x then 1 - x else x
  if y = mkRat 1 2 then f.exact false (if neg then -1 else 1)
  else f.rndFix neg fun n => Fix.sin n ((Fix.ofRat n y).mul n (Fix.pi n))

/-- SINPI (Table 6.2). -/
def sfuSinpi (f : Fmt) (a : Val) : FRes :=
  match a with
  | .nan s => f.nanRes (if s then fNV else 0)
  | .inf _ => f.nanRes fNV
  | .fin n q => if q.den = 1 then f.exact n 0 else sinpiRnd f q

/-- COSPI (Table 6.2): cos(πa) = sin(π(a + ½)). -/
def sfuCospi (f : Fmt) (a : Val) : FRes :=
  match a with
  | .nan s => f.nanRes (if s then fNV else 0)
  | .inf _ => f.nanRes fNV
  | .fin _ q =>
    let r := q + mkRat 1 2
    if r.den = 1 then f.exact false 0 else sinpiRnd f r

/-- TANH (Table 6.2): (1 − u)/(1 + u) with u = e^(−2|a|); from 64 on in the rounding cell of 1 − 2^(−100). -/
def sfuTanh (f : Fmt) (a : Val) : FRes :=
  match a with
  | .nan s => f.nanRes (if s then fNV else 0)
  | .inf n => f.exact n (if n then -1 else 1)
  | .fin n q =>
    if q = 0 then f.exact n 0
    else if 64 ≤ |q| then f.rndNear n (1 - pow2 (-100))
    else
      f.rndFix n fun k =>
        let u := Fix.expNeg k (2 * |q|)
        ((Fix.one k).sub u).div k ((Fix.one k).add u)

/-- SIGM (Table 6.2); from 200 on in the rounding cell of 1 − 2^(−100) or of 2^(−280). -/
def sfuSigm (f : Fmt) (a : Val) : FRes :=
  match a with
  | .nan s => f.nanRes (if s then fNV else 0)
  | .inf n => f.exact false (if n then 0 else 1)
  | .fin n q =>
    if q = 0 then f.exact false (mkRat 1 2)
    else if 200 ≤ |q| then f.rndNear false (if n then pow2 (-280) else 1 - pow2 (-100))
    else
      f.rndFix false fun k =>
        let u := Fix.expNeg k |q|
        let d := (Fix.one k).add u
        if n then u.div k d else (Fix.one k).div k d

end Sys2Proof.Machine
end

