-- ==== Sys2Proof/Machine/Cheb.lean ====
section
/-! DEFINITION. Exact algebra of polynomials in the Chebyshev basis (R379, R392 to R400): coefficient lists over the rationals, c_0
first; and roots by Sturm sequences, each rounded once (R399). -/

namespace Sys2Proof.Machine

/-! ### Coefficient lists -/

/-- Termwise sum, missing terms being zero. -/
def qadd : List ℚ → List ℚ → List ℚ
  | [], b => b
  | a, [] => a
  | x :: a, y :: b => (x + y) :: qadd a b

def qscale (k : ℚ) (a : List ℚ) : List ℚ := a.map (k * ·)

def qsub (a b : List ℚ) : List ℚ := qadd a (qscale (-1) b)

/-- Term `k`, zero where missing. -/
def qget (a : List ℚ) (k : Nat) : ℚ := a.getD k 0

def qsum (a : List ℚ) : ℚ := a.foldl (· + ·) 0

/-- Add `v` to term `k`. -/
def qbump : List ℚ → Nat → ℚ → List ℚ
  | [], 0, v => [v]
  | x :: a, 0, v => (x + v) :: a
  | [], n + 1, v => 0 :: qbump [] n v
  | x :: a, n + 1, v => x :: qbump a n v

/-- Without trailing zeros. -/
def qtrim (a : List ℚ) : List ℚ := (a.reverse.dropWhile (· == 0)).reverse

/-! ### The Chebyshev basis (R379) -/

/-- Products by T_i T_j = (T_(i+j) + T_|i−j|)/2 (R394). -/
def chebMul (a b : List ℚ) : List ℚ :=
  (a.zipIdx).foldl
    (fun r x => (b.zipIdx).foldl
      (fun r y =>
        let h := x.1 * y.1 / 2
        qbump (qbump r (x.2 + y.2) h) (if x.2 ≤ y.2 then y.2 - x.2 else x.2 - y.2) h) r)
    (List.replicate (a.length + b.length - 1) 0)

/-- Clenshaw's recurrence over any algebra: Σ c_k T_k(t). -/
def clenshaw {α : Type} (zero : α) (add sub : α → α → α) (twice mul : α → α) (lift : ℚ → α) (c : List ℚ) : α :=
  let r := c.tail.reverse.foldl (fun (a : α × α) k => (sub (add (lift k) (twice (mul a.1))) a.2, a.1)) (zero, zero)
  sub (add (lift (c.headD 0)) (mul r.1)) r.2

/-- The value of Σ c_k T_k at t. -/
def chebAt (c : List ℚ) (t : ℚ) : ℚ := clenshaw 0 (· + ·) (· - ·) (2 * ·) (t * ·) id c

/-- The value of a function on [lo, hi] at x (R379). -/
def chebEval (c : List ℚ) (lo hi x : ℚ) : ℚ := chebAt c ((2 * x - lo - hi) / (hi - lo))

/-- A polynomial in the Chebyshev basis times α·u + β. -/
def chebLin (α β : ℚ) (p : List ℚ) : List ℚ := qadd (chebMul p [0, α]) (qscale β p)

/-- The polynomial re-expanded on [a, b] (R400), with the length of the source. -/
def chebRebase (c : List ℚ) (lo hi a b : ℚ) : List ℚ :=
  let α := (b - a) / (hi - lo)
  let β := (a + b - lo - hi) / (hi - lo)
  let r := clenshaw [] qadd qsub (qscale 2) (chebLin α β) (fun q => [q]) c
  (List.range c.length).map (qget r)

/-- FNDIFF (R397), s the half width. -/
def chebDiff (c : List ℚ) (s : ℚ) : List ℚ :=
  let n := c.length
  if n ≤ 1 then [0]
  else
    -- d_(k−1) = d_(k+1) + 2k c_k, k from n − 1 down to 1: the list holds d_(k−1) first
    let d := ((List.range (n - 1)).reverse).foldl
      (fun (d : List ℚ) j => (d.getD 1 0 + 2 * (j + 1 : Nat) * qget c (j + 1)) :: d) ([] : List ℚ)
    (d.zipIdx).map fun x => if x.2 = 0 then x.1 / (2 * s) else x.1 / s

/-- FNINT (R397). -/
def chebInt (c : List ℚ) (s : ℚ) : List ℚ :=
  let n := c.length
  let e := (List.range n).map fun j =>
    if j = 0 then s * (qget c 0 - qget c 2 / 2) else s * (qget c j - qget c (j + 2)) / (2 * (j + 1 : Nat))
  let e0 := qsum ((e.zipIdx).map fun x => if x.2 % 2 = 0 then x.1 else -x.1)
  e0 :: e

/-- FNQUAD (R398). -/
def chebQuad (c : List ℚ) (s : ℚ) : ℚ :=
  s * qsum ((c.zipIdx).map fun x => if x.2 % 2 = 0 then x.1 * 2 / (1 - (x.2 : ℚ) * x.2) else 0)

/-- rne32(cos(π q)) as a number (R392): exact at the multiples of 1/2 and 1/3. -/
def cosPi (q : ℚ) : ℚ :=
  if (3 * q).den = 1 then [1, mkRat 1 2, -mkRat 1 2, -1, -mkRat 1 2, mkRat 1 2].getD ((3 * q).num % 6).toNat 0
  else
    match fmt32.val (sfuCospi fmt32 (.fin (decide (q < 0)) q)).1 with
    | .fin _ x => x
    | _ => 0

/-- The exact coefficients of FNFIT from samples (R392). -/
def chebFit (ys : List ℚ) : List ℚ :=
  let n := ys.length
  (List.range n).map fun k =>
    if k = 0 then qsum ys / n
    else 2 * qsum ((ys.zipIdx).map fun y => y.1 * cosPi (mkRat (k * (2 * y.2 + 1)) (2 * n))) / n

/-- The samples of FNCOMP (R396): f, with its interval, at g(t_j), N points. -/
def compSamples (f : List ℚ) (flo fhi : ℚ) (g : List ℚ) (n : Nat) : List ℚ :=
  (List.range n).map fun j => chebEval f flo fhi (chebAt g (cosPi (mkRat (2 * j + 1) (2 * n))))

/-! ### Roots (R399) -/

/-- The polynomial in powers of t. -/
def monomial (c : List ℚ) : List ℚ := qtrim (clenshaw [] qadd qsub (qscale 2) (fun p => 0 :: p) (fun q => [q]) c)

def polyAt (p : List ℚ) (x : ℚ) : ℚ := p.foldr (fun v r => r * x + v) 0

def polyDeriv (p : List ℚ) : List ℚ := (p.zipIdx.map fun x => x.1 * (x.2 : ℚ)).tail

/-- Quotient and remainder; `b` is trimmed and not empty. -/
def polyDivMod (b : List ℚ) : Nat → List ℚ → List ℚ → List ℚ × List ℚ
  | 0, q, a => (q, a)
  | fuel + 1, q, a =>
    let a := qtrim a
    if a.length < b.length then (q, a)
    else
      let d := a.length - b.length
      let k := a.getLastD 0 / b.getLastD 1
      polyDivMod b fuel (qbump q d k) (qtrim ((qsub a (List.replicate d 0 ++ qscale k b)).take (a.length - 1)))

def polyMod (a b : List ℚ) : List ℚ := (polyDivMod b (a.length + 1) [] a).2
def polyDiv (a b : List ℚ) : List ℚ := (polyDivMod b (a.length + 1) [] a).1

/-- A greatest common divisor. -/
def polyGcd : Nat → List ℚ → List ℚ → List ℚ
  | 0, a, _ => a
  | fuel + 1, a, b => if b.isEmpty then a else polyGcd fuel b (qscale (1 / b.getLastD 1) (polyMod a b))

/-- The Sturm sequence that begins with two polynomials, scaled by positive numbers. -/
def sturmSeq : Nat → List ℚ → List ℚ → List (List ℚ)
  | 0, a, _ => [a]
  | fuel + 1, a, b =>
    if b.isEmpty then [a]
    else
      let r := qscale (-1) (polyMod a b)
      a :: sturmSeq fuel b (qscale (1 / |r.getLastD 1|) r)

/-- Sign changes of a sequence of values, zeros left out. -/
def signChanges (vs : List ℚ) : Nat :=
  let nz := vs.filter (· != 0)
  ((nz.zip nz.tail).filter fun p => decide (0 < p.1) != decide (0 < p.2)).length

/-- The distinct roots in an interval with or without its ends, by a Sturm sequence of a polynomial without multiple roots. -/
def rootCount (seq : List (List ℚ)) (u : ℚ) (uIn : Bool) (w : ℚ) (wIn : Bool) : Nat :=
  let zero := fun (x : ℚ) => polyAt (seq.headD []) x == 0
  let ch := fun (x : ℚ) => signChanges (seq.map fun p => polyAt p x)
  if w < u then 0
  else if u = w then (if uIn && wIn && zero u then 1 else 0)
  else (ch u - ch w) + (if uIn && zero u then 1 else 0) - (if !wIn && zero w then 1 else 0)

/-- FP32 codes in the order of their values, −0 just below +0, as integers. -/
def keyOf (c : Nat) : Int := if 2 ^ 31 ≤ c then -((c % 2 ^ 31 : Nat) : Int) - 1 else c
def codeOf (k : Int) : Nat := if 0 ≤ k then k.toNat else 2 ^ 31 + (-k - 1).toNat

/-- The number of a finite code. -/
def codeQ (c : Nat) : ℚ :=
  match fmt32.val c with
  | .fin _ q => q
  | _ => 0

/-- The boundary below key `k`, and whether it rounds to `k` (R131): ties go to the even code, and 0 to +0. -/
def keyBound (k : Int) : ℚ × Bool :=
  ((codeQ (codeOf (k - 1)) + codeQ (codeOf k)) / 2, k == 0 || codeOf k % 2 == 0)

/-- The keys in [k1, k2] to which a root in [lo, hi] rounds, ascending; `tOf` takes x to t. -/
def rootKeys (seq : List (List ℚ)) (tOf : ℚ → ℚ) (lo hi : ℚ) (klo khi : Int) : Nat → Int → Int → List Int
  | 0, _, _ => []
  | fuel + 1, k1, k2 =>
    let u := if k1 = klo then (lo, true) else keyBound k1
    let w := if k2 = khi then (hi, true) else ((keyBound (k2 + 1)).1, !(keyBound (k2 + 1)).2)
    if rootCount seq (tOf u.1) u.2 (tOf w.1) w.2 = 0 then []
    else if k1 = k2 then [k1]
    else
      let mid := (k1 + k2) / 2
      rootKeys seq tOf lo hi klo khi fuel k1 mid ++ rootKeys seq tOf lo hi klo khi fuel (mid + 1) k2

/-- The set R of R399 as FP32 codes in ascending order; none for the zero function. -/
def chebRoots (c : List ℚ) (lo hi : ℚ) : Option (List Nat) :=
  let p := monomial c
  if p.isEmpty then none
  else if p.length = 1 then some []
  else
    let g := polyGcd (p.length + 1) p (polyDeriv p)
    let q := qtrim (polyDiv p g)
    let seq := sturmSeq (q.length + 1) q (polyDeriv q)
    let rne := fun (x : ℚ) => (fmt32.rnd (.fin (decide (x < 0)) x) .rne false).1
    let klo := keyOf (rne lo)
    let khi := keyOf (rne hi)
    some ((rootKeys seq (fun x => (2 * x - lo - hi) / (hi - lo)) lo hi klo khi 70 klo khi).map codeOf)

end Sys2Proof.Machine
end

