-- ==== Sys2Proof/Machine/Int.lean ====
section
/-! DEFINITION. The meanings of the integer, logical, move and address instructions, opcodes 0x20 to 0x3B (chapter 4). -/

namespace Sys2Proof.Machine

/-- Width of the elements of an instruction (R98). -/
def X64.w (f : X64) : Nat := elemBits f.esz
def I64.w (f : I64) : Nat := elemBits f.esz

/-- Signedness, FLG0 (R98). -/
def X64.sg (f : X64) : Bool := f.flg.getLsbD 0
def I64.sg (f : I64) : Bool := f.flg.getLsbD 0

/-- Write an element-wise result of `lat` periods and set SAT in the lanes where saturation changed an element that is
written (R99, R100). -/
def Ctx.putSat (c : Ctx) (s : State) (reg : BitVec 8) (w : Nat) (dm : BitVec 8) (res : Nat → List (Nat × Bool)) (lat : Nat) :
    State :=
  let s := c.putBits s reg.toNat c.act (fun l => fromElems w ((res l).map (·.1))) (dmaskBits w dm) lat c.laneTag
  c.orFlags s (fun l => if (((res l).zipIdx).any fun e => e.1.2 && dm.getLsbD e.2) then fSAT else 0) lat

/-- DMASK of an X64 instruction whose elements are `w` bits wide. -/
def X64.dm (f : X64) (w : Nat) : BitVec 8 := f.dmask (32 / w)

/-- An element-wise instruction of two sources. -/
def intBin (i : Instr) (f : X64) (k : ModKind) (lat : Nat) (op : Nat → Nat → Nat × Bool) (s : State) :
    Host.Outcome State Fault Refusal :=
  issue i s fun c s =>
    .next (c.putSat s f.d (X64.w f) (X64.dm f (X64.w f))
      (fun l => List.zipWith op (elems (X64.w f) (c.srcA k (X64.w f) f l)) (elems (X64.w f) (c.srcB k (X64.w f) f l))) lat)

/-- An element-wise instruction of one source. -/
def intUn (i : Instr) (f : X64) (k : ModKind) (lat : Nat) (op : Nat → Nat × Bool) (s : State) :
    Host.Outcome State Fault Refusal :=
  issue i s fun c s =>
    .next (c.putSat s f.d (X64.w f) (X64.dm f (X64.w f)) (fun l => (elems (X64.w f) (c.srcA k (X64.w f) f l)).map op) lat)

/-- An element-wise instruction of three sources; `d` is the old D word. -/
def intTer (i : Instr) (f : X64) (k : ModKind) (lat : Nat) (op : Nat → Nat → Nat → Nat → Nat × Bool) (s : State) :
    Host.Outcome State Fault Refusal :=
  issue i s fun c s =>
    let w := X64.w f
    .next (c.putSat s f.d w (X64.dm f w)
      (fun l =>
        let a := c.srcA k w f l
        let b := c.srcB k w f l
        let cc := c.srcC k w f l
        let d := c.rd f.d.toNat l
        (List.range (32 / w)).map fun i => op (el w a i) (el w b i) (el w cc i) (el w d i)) lat)

/-- An element-wise I64 instruction with an immediate element. -/
def intImm (i : Instr) (f : I64) (lat : Nat) (op : Nat → Nat × Bool) (s : State) : Host.Outcome State Fault Refusal :=
  issue i s fun c s =>
    .next (c.putSat s f.d (I64.w f) 0xFF (fun l => (elems (I64.w f) (c.rdA f.a.toNat l)).map op) lat)

/-- The immediate element of R101. -/
def I64.imm (f : I64) : Nat := wrapW (I64.w f) f.imm26.toInt

/-- IADD (R105). -/
def execIadd (sat : Bool) (f : X64) (s : State) : Host.Outcome State Fault Refusal :=
  intBin (.iadd sat f) f .int 2 (eAdd false sat (X64.sg f) (X64.w f)) s

/-- ISUB (R105). -/
def execIsub (sat : Bool) (f : X64) (s : State) : Host.Outcome State Fault Refusal :=
  intBin (.isub sat f) f .int 2 (eAdd true sat (X64.sg f) (X64.w f)) s

/-- IADDI (R105). -/
def execIaddi (sat : Bool) (f : I64) (s : State) : Host.Outcome State Fault Refusal :=
  intImm (.iaddi sat f) f 2 (fun a => eAdd false sat (I64.sg f) (I64.w f) a (I64.imm f)) s

/-- IMUL (R106). -/
def execImul (f : X64) (s : State) : Host.Outcome State Fault Refusal :=
  intBin (.imul f) f .int 3 (eMul false (X64.sg f) (X64.w f)) s

/-- IMULH (R106). -/
def execImulh (f : X64) (s : State) : Host.Outcome State Fault Refusal :=
  intBin (.imulh f) f .int 3 (eMul true (X64.sg f) (X64.w f)) s

/-- IMAD (R107). -/
def execImad (sat : Bool) (f : X64) (s : State) : Host.Outcome State Fault Refusal :=
  intTer (.imad sat f) f .int 3 (fun a b c _ => eMad sat (X64.sg f) (X64.w f) a b c) s

/-- IMADW (R108). -/
def execImadw (f : X64) (s : State) : Host.Outcome State Fault Refusal :=
  issue (.imadw f) s fun c s =>
    .next (c.putPair s f.d
      (fun l =>
        let a := val (X64.sg f) 32 (c.srcA .int 32 f l).toNat
        let b := val (X64.sg f) 32 (c.srcB .int 32 f l).toNat
        BitVec.ofInt 64 (a * b + val (X64.sg f) 64 (c.rdPair f.c.toNat l).toNat)) 3)

/-- Lanes of act with a zero divisor in an element DMASK enables (R109). -/
def Ctx.zeroDivLanes (c : Ctx) (f : X64) : Lanes :=
  c.act &&& lanesOf fun l =>
    ((elems (X64.w f) (c.srcB .int (X64.w f) f l)).zipIdx).any fun e => e.1 == 0 && (X64.dm f (X64.w f)).getLsbD e.2

/-- The division body of R109: the check of every enabled element first, then the results. -/
def divBody (rem : Bool) (f : X64) (c : Ctx) (s : State) : Res :=
  let z := c.zeroDivLanes f
  if z != 0 then .trap { cause := .intDivzero, mask := some z }
  else
    let w := X64.w f
    .next (c.putSat s f.d w (X64.dm f w)
      (fun l => List.zipWith (eDiv rem (X64.sg f) w) (elems w (c.srcA .int w f l)) (elems w (c.srcB .int w f l))) 12)

/-- IDIV (R109). -/
def execIdiv (f : X64) (s : State) : Host.Outcome State Fault Refusal := issue (.idiv f) s (divBody false f)

/-- IREM (R109). -/
def execIrem (f : X64) (s : State) : Host.Outcome State Fault Refusal := issue (.irem f) s (divBody true f)

/-- IMIN (R110). -/
def execImin (f : X64) (s : State) : Host.Outcome State Fault Refusal :=
  intBin (.imin f) f .int 2 (eMinMax false (X64.sg f) (X64.w f)) s

/-- IMAX (R110). -/
def execImax (f : X64) (s : State) : Host.Outcome State Fault Refusal :=
  intBin (.imax f) f .int 2 (eMinMax true (X64.sg f) (X64.w f)) s

/-- IABS (R110); FLG1 saturates. -/
def execIabs (f : X64) (s : State) : Host.Outcome State Fault Refusal :=
  intUn (.iabs f) f .int 2 (eAbsNeg false (f.flg.getLsbD 1) (X64.sg f) (X64.w f)) s

/-- INEG (R110); FLG1 saturates. -/
def execIneg (f : X64) (s : State) : Host.Outcome State Fault Refusal :=
  intUn (.ineg f) f .int 2 (eAbsNeg true (f.flg.getLsbD 1) (X64.sg f) (X64.w f)) s

/-- A word-wise instruction of two raw sources under DMASK (R37, R111). -/
def rawBin (i : Instr) (f : X64) (op : Word → Word → Word) (s : State) : Host.Outcome State Fault Refusal :=
  issue i s fun c s =>
    .next (c.putElems s f (X64.w f) (fun l => op (c.srcA .raw (X64.w f) f l) (c.srcB .raw (X64.w f) f l)) 2)

/-- AND (R111). -/
def execAnd (f : X64) (s : State) : Host.Outcome State Fault Refusal := rawBin (.and f) f (logicWord .and) s

/-- OR (R111). -/
def execOr (f : X64) (s : State) : Host.Outcome State Fault Refusal := rawBin (.or f) f (logicWord .or) s

/-- XOR (R111). -/
def execXor (f : X64) (s : State) : Host.Outcome State Fault Refusal := rawBin (.xor f) f (logicWord .xor) s

/-- ANDN (R111). -/
def execAndn (f : X64) (s : State) : Host.Outcome State Fault Refusal := rawBin (.andn f) f (logicWord .andn) s

/-- ORN (R111). -/
def execOrn (f : X64) (s : State) : Host.Outcome State Fault Refusal := rawBin (.orn f) f (logicWord .orn) s

/-- XNOR (R111). -/
def execXnor (f : X64) (s : State) : Host.Outcome State Fault Refusal := rawBin (.xnor f) f (logicWord .xnor) s

/-- A logical instruction with an immediate (R101, R111). -/
def logicImm (i : Instr) (f : I64) (op : LogicOp) (s : State) : Host.Outcome State Fault Refusal :=
  issue i s fun c s =>
    .next (c.put s f.d (fun l => logicWord op (c.rdA f.a.toNat l) (immWord (I64.w f) f.imm26.toInt)) 2)

/-- ANDI (R111). -/
def execAndi (f : I64) (s : State) : Host.Outcome State Fault Refusal := logicImm (.andi f) f .and s

/-- ORI (R111). -/
def execOri (f : I64) (s : State) : Host.Outcome State Fault Refusal := logicImm (.ori f) f .or s

/-- XORI (R111). -/
def execXori (f : I64) (s : State) : Host.Outcome State Fault Refusal := logicImm (.xori f) f .xor s

/-- SHL (R112). -/
def execShl (f : X64) (s : State) : Host.Outcome State Fault Refusal :=
  intBin (.shl f) f .raw 2 (fun a k => (eShift .shl (X64.w f) a k, false)) s

/-- SHRL (R112). -/
def execShrl (f : X64) (s : State) : Host.Outcome State Fault Refusal :=
  intBin (.shrl f) f .raw 2 (fun a k => (eShift .shrl (X64.w f) a k, false)) s

/-- SHRA (R112). -/
def execShra (f : X64) (s : State) : Host.Outcome State Fault Refusal :=
  intBin (.shra f) f .raw 2 (fun a k => (eShift .shra (X64.w f) a k, false)) s

/-- The shift amount of the immediate forms, IMM26[4:0] (R112). -/
def I64.amount (f : I64) : Nat := (f.imm26.extractLsb' 0 5).toNat

/-- SHLI (R112). -/
def execShli (f : I64) (s : State) : Host.Outcome State Fault Refusal :=
  intImm (.shli f) f 2 (fun a => (eShift .shl (I64.w f) a (I64.amount f), false)) s

/-- SHRLI (R112). -/
def execShrli (f : I64) (s : State) : Host.Outcome State Fault Refusal :=
  intImm (.shrli f) f 2 (fun a => (eShift .shrl (I64.w f) a (I64.amount f), false)) s

/-- SHRAI (R112). -/
def execShrai (f : I64) (s : State) : Host.Outcome State Fault Refusal :=
  intImm (.shrai f) f 2 (fun a => (eShift .shra (I64.w f) a (I64.amount f), false)) s

/-- FSHR (R113). -/
def execFshr (f : X64) (s : State) : Host.Outcome State Fault Refusal :=
  intTer (.fshr f) f .raw 2 (fun a b c _ => (eFshr (X64.w f) a b c, false)) s

/-- BFX (R114). -/
def execBfx (f : X64) (s : State) : Host.Outcome State Fault Refusal :=
  intTer (.bfx f) f .raw 2 (fun a b c _ => (eBfx (X64.sg f) (X64.w f) a b c, false)) s

/-- BFI (R114); D is read at issue (R99). -/
def execBfi (f : X64) (s : State) : Host.Outcome State Fault Refusal :=
  intTer (.bfi f) f .raw 2 (fun a b c d => (eBfi (X64.w f) a b c d, false)) s

/-- POPC (R115). -/
def execPopc (f : X64) (s : State) : Host.Outcome State Fault Refusal :=
  intUn (.popc f) f .raw 2 (fun a => (ePopc (X64.w f) a, false)) s

/-- CLZ (R115). -/
def execClz (f : X64) (s : State) : Host.Outcome State Fault Refusal :=
  intUn (.clz f) f .raw 2 (fun a => (eClz (X64.w f) a, false)) s

/-- CTZ (R115). -/
def execCtz (f : X64) (s : State) : Host.Outcome State Fault Refusal :=
  intUn (.ctz f) f .raw 2 (fun a => (eCtz (X64.w f) a, false)) s

/-- BREV (R115). -/
def execBrev (f : X64) (s : State) : Host.Outcome State Fault Refusal :=
  intUn (.brev f) f .raw 2 (fun a => (eBrev (X64.w f) a, false)) s

/-- Write predicate bits at `b` and above of D; the other bits keep their values (R116, R143). Against a result of variable
latency the write covers the whole word (DEDUCED, log entry 15). -/
def Ctx.putPred (c : Ctx) (s : State) (d : BitVec 8) (b : Nat) (ts : Nat → List Bool) (lat : Nat) : State :=
  c.put s d (fun l =>
    let p := predBits b (ts l)
    (c.rd d.toNat l &&& ~~~p.2) ||| p.1) lat

/-- ICMP (R116). -/
def execIcmp (cc : Cmp) (f : X64) (s : State) : Host.Outcome State Fault Refusal :=
  issue (.icmp cc f) s fun c s =>
    let w := X64.w f
    .next (c.putPred s f.d f.imm8.toNat
      (fun l => List.zipWith (fun a b => cmpInt cc (val (X64.sg f) w a) (val (X64.sg f) w b)) (elems w (c.srcA .int w f l))
        (elems w (c.srcB .int w f l))) 2)

/-- The immediate of ICMPI: IMM26[20:0] extended by FLG0 (R116), then reduced (R101). -/
def I64.cmpImm (f : I64) : Nat := wrapW (I64.w f) (val (I64.sg f) 21 (f.imm26.extractLsb' 0 21).toNat)

/-- ICMPI (R116). -/
def execIcmpi (cc : Cmp) (f : I64) (s : State) : Host.Outcome State Fault Refusal :=
  issue (.icmpi cc f) s fun c s =>
    let w := I64.w f
    .next (c.putPred s f.d (f.imm26.extractLsb' 21 5).toNat
      (fun l => (elems w (c.rdA f.a.toNat l)).map fun a => cmpInt cc (val (I64.sg f) w a) (val (I64.sg f) w (I64.cmpImm f)))
      2)

/-- SEL (R117): C is read as a whole word. -/
def execSel (f : X64) (s : State) : Host.Outcome State Fault Refusal :=
  issue (.sel f) s fun c s =>
    let w := X64.w f
    .next (c.putElems s f w (fun l => selWord w f.imm8.toNat (c.srcA .raw w f l) (c.srcB .raw w f l) (c.rd f.c.toNat l)) 2)

/-- MOV (R118). -/
def execMov (f : X64) (s : State) : Host.Outcome State Fault Refusal :=
  issue (.mov f) s fun c s => .next (c.putElems s f (X64.w f) (fun l => c.srcA .raw (X64.w f) f l) 2)

/-- The word MOVI writes (R119): immw in every element, or word 1. -/
def moviWord (f : I64) : Word :=
  match f.ext with
  | .l64 => immWord (I64.w f) f.imm26.toInt
  | e => e.w1

/-- MOVI (R119). -/
def execMovi (f : I64) (s : State) : Host.Outcome State Fault Refusal :=
  issue (.movi f) s fun c s => .next (c.put s f.d (fun _ => moviWord f) 2)

/-- A pair with MODB-prepared index extended by FLG0 (R120). -/
def leaVal (sg : Bool) (a : DWord) (b : Word) (k : Nat) : DWord :=
  a + (if sg then b.signExtend 64 else b.zeroExtend 64) <<< k

/-- LEA (R120). -/
def execLea (f : X64) (s : State) : Host.Outcome State Fault Refusal :=
  issue (.lea f) s fun c s =>
    .next (c.putPair s f.d
      (fun l => leaVal (X64.sg f) (c.rdPairA f.a.toNat l) (c.srcB .int 32 f l) (f.imm8.extractLsb' 0 3).toNat) 2)

/-- IADD64 (R121). -/
def execIadd64 (f : X64) (s : State) : Host.Outcome State Fault Refusal :=
  issue (.iadd64 f) s fun c s => .next (c.putPair s f.d (fun l => c.rdPairA f.a.toNat l + c.rdPair f.b.toNat l) 2)

/-- ISUB64 (R121). -/
def execIsub64 (f : X64) (s : State) : Host.Outcome State Fault Refusal :=
  issue (.isub64 f) s fun c s => .next (c.putPair s f.d (fun l => c.rdPairA f.a.toNat l - c.rdPair f.b.toNat l) 2)

/-- Lanes of act whose A pair a predicate refuses, with the trap of R122. -/
def Ctx.cvtaTrap (c : Ctx) (f : X64) (bad : DWord → Bool) : Option Trap :=
  let m := c.act &&& lanesOf fun l => bad (c.rdPairA f.a.toNat l)
  (lowLane? m).map fun l => { cause := .winRange, addr := c.rdPairA f.a.toNat l, mask := some m }

/-- CVTA (R122). -/
def execCvta (k : CvtaKind) (f : X64) (s : State) : Host.Outcome State Fault Refusal :=
  issue (.cvta k f) s fun c s =>
    match k with
    | .scr => .next (c.putPair s f.d (fun l => cat32 0xFE000000 (c.rdA f.a.toNat l)) 2)
    | .prv =>
      match c.cvtaTrap f fun a => a.extractLsb' 40 24 != 0 with
      | some t => .trap t
      | none =>
        .next (c.putPair s f.d
          (fun l => cat32 (0xFD000000 ||| (hi32 (c.rdPairA f.a.toNat l) &&& 0xFF)) (lo32 (c.rdPairA f.a.toNat l))) 2)
    | .toscr =>
      match c.cvtaTrap f fun a => a.extractLsb' 56 8 != 0xFE || a.extractLsb' 32 24 != 0 with
      | some t => .trap t
      | none => .next (c.put s f.d (fun l => lo32 (c.rdPairA f.a.toNat l)) 2)
    | .cls => .next (c.put s f.d (fun l => BitVec.ofNat 32 (addrClass (c.rdPairA f.a.toNat l))) 2)

/-- PERMB (R123). -/
def execPermb (f : X64) (s : State) : Host.Outcome State Fault Refusal :=
  issue (.permb f) s fun c s =>
    .next (c.putBits s f.d.toNat c.act
      (fun l => permbWord (c.rdA f.a.toNat l) (c.rd f.b.toNat l) (c.rd f.c.toNat l)) (dmaskBits 8 (f.dmask 4)) 2 c.laneTag)

/-- PACK (R124). -/
def execPack (f : X64) (s : State) : Host.Outcome State Fault Refusal :=
  issue (.pack f) s fun c s =>
    .next (c.putSat s f.d (X64.w f) (X64.dm f (X64.w f))
      (fun l => packElems (f.flg.getLsbD 1) (X64.sg f) (X64.w f) (c.rdA f.a.toNat l) (c.rd f.b.toNat l)) 2)

/-- UNPACK (R124): the whole of D. -/
def execUnpack (f : X64) (s : State) : Host.Outcome State Fault Refusal :=
  issue (.unpack f) s fun c s =>
    .next (c.put s f.d (fun l => unpackWord (X64.sg f) (X64.w f) (f.imm8.extractLsb' 0 1).toNat (c.rdA f.a.toNat l)) 2)

end Sys2Proof.Machine
end

