-- ==== Sys2Proof/Machine/View.lean ====
section
/-! DEFINITION. What a fibre may read (R227 to R231): the writes that have replaced a byte's values, numbered in the order of
performance, which is every byte's coherence order; what each fibre knows of them; and what a release hands to an acquire. A read takes
the newest value, or an older one that no write it knows has replaced (log entry 116). -/

namespace Sys2Proof.Machine

/-- The number up to which a view knows the writes to a location. -/
def View.num (v : View) (l : Loc) : Nat := max v.base (((v.locs.find? fun x => x.1 == l).map (·.2)).getD 0)

/-- The view that also knows the writes to a location up to `n`. -/
def View.add (v : View) (l : Loc) (n : Nat) : View :=
  if n ≤ v.num l then v else { v with locs := (l, n) :: v.locs.filter (·.1 != l) }

def View.adds (v : View) (xs : List (Loc × Nat)) : View := xs.foldl (fun a x => a.add x.1 x.2) v

/-- What either of two views knows. -/
def View.join (v w : View) : View := { v with base := max v.base w.base }.adds w.locs

/-- Whether an agent of strand `b` lies in the scope instance of one of strand `a` (Table 9.1). -/
def inScope (scope a b : Nat) : Bool :=
  match scope with
  | 0 => a == b
  | 1 => strandSkein a == strandSkein b
  | 2 => strandCluster a / 12 == strandCluster b / 12
  | 3 => clusterDie (strandCluster a) == clusterDie (strandCluster b)
  | _ => true

/-- Whether a release and an acquire at `scope` by a fibre of `strand` lie in each other's scope instance (R228). -/
def Rel.meets (r : Rel) (scope strand : Nat) : Bool :=
  match r.strand with
  | none => true
  | some a => inScope r.scope a strand && inScope scope strand a

/-- What the releases that an acquire meets hand over. -/
def View.meet (v : View) (scope strand : Nat) (rs : List Rel) : View :=
  (rs.filter fun r => r.meets scope strand).foldl (fun a r => a.join r.view) v

/-- A write of one agent begins: what is written until the next one begins is one single-copy atomic write, and carries the releases
`rels` (R220, R228). -/
def State.beginWrite (s : State) (rels : List Rel) : State := { s with writeNo := s.writeNo + 1, writeRels := rels }

/-- A write of an agent other than a fibre begins. It hands over all that has been performed, at every scope (log entry 116). -/
def State.beginOther (s : State) : State :=
  s.beginWrite [{ scope := 5, strand := none, view := { base := s.writeNo } }]

/-- The write under way replaces the value of a byte. -/
def State.replaced (s : State) (l : Loc) (old : Byte) : List Write :=
  if Config.keepsHistory then { loc := l, num := s.writeNo, old := old, rels := s.writeRels } :: s.hist else []

/-- The value of a byte after the writes numbered up to `t`; `now` is the newest. -/
def State.valueAt (s : State) (t : Nat) (l : Loc) (now : Byte) : Byte :=
  s.hist.foldl (fun a w => if w.loc == l && decide (t < w.num) then w.old else a) now

/-- The releases that the value of a byte after the writes numbered up to `t` carries (R228). -/
def State.relsAt (s : State) (t : Nat) (l : Loc) : List Rel :=
  ((s.hist.find? fun w => w.loc == l && decide (w.num ≤ t)).map (·.rels)).getD []

/-- The older moments as of which an access with a view may read bytes at once: none of the writes to them after that moment is known
(R220, R231). -/
def State.moments (s : State) (v : View) (ls : List Loc) : List Nat :=
  let ws := s.hist.filter fun w => ls.contains w.loc
  ((ws.map fun w => w.num - 1).eraseDups).filter fun t => ws.all fun w => decide (w.num ≤ t) || decide (v.num w.loc < w.num)

/-- Fibres learn what an access of theirs has seen or written: its locations with the numbers, and the releases read. -/
def State.learn (s : State) (ks : List Nat) (seen : List (Loc × Nat)) (rels : List Rel) : State :=
  ks.foldl
    (fun a k => a.modFib k fun f =>
      { f with
        view := if s.hist.isEmpty then f.view else f.view.adds seen
        pend := if s.hist.isEmpty then f.pend else (f.pend ++ rels).eraseDups }) s

/-- An access to an SO page takes its place in the total order S (R224): it knows what the earlier ones of all agents knew, and the later
ones know what it knows. -/
def State.soPlace (s : State) (v : View) (seen : List (Loc × Nat)) : State :=
  { s with soView := if s.hist.isEmpty then s.soView else (s.soView.join v).adds seen }

/-- What an SO access hands to its fibre's later acquires and fences: S is a part of happens-before (R230). -/
def State.soRel (s : State) : Rel := { scope := 5, strand := none, view := s.soView }

/-- A view as it stands now: every write performed so far is known. -/
def State.viewNow (s : State) : View := { base := s.writeNo }

/-- The view of a fibre. -/
def State.viewOf (s : State) (k : Nat) : View := ((s.fib? k).map (·.view)).getD {}

/-- An acquire of a fibre at a scope takes what the releases it has read hand over (R221 case 1, R228). -/
def State.acquire (s : State) (k scope : Nat) (rels : List Rel) : State :=
  s.modFib k fun f => { f with view := f.view.meet scope (fibStrand k) rels }

/-- A FENCE of a fibre at a scope (R221 cases 3 to 5, R228): with `acq` the reads before it acquire, with `rel` the writes after it
release. -/
def State.fenceView (s : State) (k scope : Nat) (acq rel : Bool) : State :=
  s.modFib k fun f =>
    let v := if acq then f.view.meet scope (fibStrand k) f.pend else f.view
    { f with
      view := v
      fences := if rel then { scope := scope, strand := some (fibStrand k), view := v } :: f.fences.filter (·.scope != scope)
        else f.fences }

end Sys2Proof.Machine
end

