-- ==== Sys2Proof/Machine/MemSys.lean ====
section
/-! DEFINITION. Memory: the cells of the physical address spaces in one canonical form, scratch (R187, R188, R217), page walks
and the TLB (R174 to R183), the checks of an access (R198) and the bytes it reaches, caches and UO lines (R178, R225). -/

namespace Sys2Proof.Machine

/-! ### Cells -/

/-- What an unlisted address reads as. The specification gives HBM, host and peer memory no contents at reset; zero is the
model's choice (DESIGN CHOICE, log entry 3). -/
def unlisted : Byte := 0

/-- The byte at a cell key. -/
def cellRead : List Host.Cell → Nat → Byte
  | [], _ => unlisted
  | (k, b) :: t, a => if k = a then b else if a < k then unlisted else cellRead t a

/-- Write one byte, keeping the canonical form: rising keys and no entry equal to an unlisted byte. -/
def cellWrite : List Host.Cell → Nat → Byte → List Host.Cell
  | [], a, b => if b = unlisted then [] else [(a, b)]
  | (k, x) :: t, a, b =>
    if a < k then (if b = unlisted then (k, x) :: t else (a, b) :: (k, x) :: t)
    else if a = k then (if b = unlisted then t else (a, b) :: t)
    else (k, x) :: cellWrite t a b

/-- Keys strictly rising and all above `lo`, no entry that reads as an unlisted byte. -/
def memWfFrom : Nat → List Host.Cell → Bool
  | _, [] => true
  | lo, (k, b) :: t => decide (lo ≤ k) && b != unlisted && memWfFrom (k + 1) t

/-- The canonical form of a memory. -/
def memWf (m : List Host.Cell) : Bool := memWfFrom 0 m

/-- Write consecutive bytes. -/
def cellsWrite (m : List Host.Cell) (a : Nat) : List Byte → List Host.Cell
  | [] => m
  | b :: bs => cellsWrite (cellWrite m a b) (a + 1) bs

/-- Read consecutive bytes. -/
def cellsRead (m : List Host.Cell) (a n : Nat) : List Byte := (List.range n).map fun i => cellRead m (a + i)

/-- The cell key of a physical address by LOC: HBM, host memory over CXL, peer (Table 7.1). -/
def physKey (loc a : Nat) : Nat := loc * 2 ^ 56 + a

/-- The line number of a cell key; lines are 128 bytes at every level (R184). -/
def lineOf (key : Nat) : Nat := key / 128

/-- Bytes of one undo-log entry, the line's address and its contents (R337; DEDUCED, log entry 16). -/
def undoEntryBytes : Nat := 136

/-- Where the `n`-th entry of a partition's undo log lies. -/
def Partition.undoAt (p : Partition) (n : Nat) : Nat := p.ckLog.toNat % 2 ^ 56 + undoEntryBytes * n

/-- R337: the first write of the epoch to an HBM line of the partition appends the line's address and its old contents to the log in
memory at CK_LOG, whose own region is not logged. -/
def State.logLine (s : State) (part : Option Nat) (key : Nat) : State :=
  match part with
  | none => s
  | some p =>
    let pt := s.part p
    let line := lineOf key
    if pt.ckSize == 0 || pt.ckFull || decide (2 ^ 56 ≤ key) || pt.undo.contains line ||
        (decide (pt.undoAt 0 ≤ key) && decide (key < pt.undoAt 0 + pt.ckSize.toNat * 2 ^ 20)) then s
    else if pt.ckSize.toNat * 2 ^ 20 < (pt.undo.length + 1) * undoEntryBytes then s.modPart p fun x => { x with ckFull := true }
    else
      let entry := bytesOfNat 8 (line * 128) ++ cellsRead s.mem (line * 128) 128
      { s.modPart p fun x => { x with undo := x.undo ++ [line] } with mem := cellsWrite s.mem (pt.undoAt pt.undo.length) entry }

/-- Whether a cell key lies in host memory. -/
def hostKey (key : Nat) : Bool := key / 2 ^ 56 == 1

/-- A byte of the write under way, at its home (R184), for the partition on whose behalf it is written; nothing reaches host memory once
its link is lost (R476). -/
def State.memPut (s : State) (part : Option Nat) (key : Nat) (b : Byte) : State :=
  if s.linkDown && hostKey key then s
  else
    let s := s.logLine part key
    { s with mem := cellWrite s.mem key b, hist := s.replaced (.mem key) (cellRead s.mem key) }

def State.memPuts (s : State) (part : Option Nat) (key : Nat) : List Byte → State
  | [] => s
  | b :: bs => (s.memPut part key b).memPuts part (key + 1) bs

/-- Write a byte of memory for an agent other than a fibre. -/
def State.memWrite (s : State) (part : Option Nat) (key : Nat) (b : Byte) : State := s.beginOther.memPut part key b

/-- Write consecutive bytes of memory for an agent other than a fibre. -/
def State.memWriteBytes (s : State) (part : Option Nat) (key : Nat) (bs : List Byte) : State := s.beginOther.memPuts part key bs

def State.hostPuts (s : State) (a : Nat) : List Byte → State
  | [] => s
  | b :: bs => (s.memPut (some (Config.memOwner (lineOf a) % 32)) a b).hostPuts (a + 1) bs

/-- Write bytes of the host at their home (R232, R337): a logged line belongs to a partition, which is not stated (log entry 31). -/
def State.hostWrite (s : State) (a : Nat) (bs : List Byte) : State := s.beginOther.hostPuts a bs

def State.memRead (s : State) (key : Nat) : Byte := cellRead s.mem key
def State.memReadBytes (s : State) (key n : Nat) : List Byte := cellsRead s.mem key n

/-! ### Scratch -/

/-- Bytes of a skein's scratch allotment, rounded up to 4 KiB (R187). -/
def Skein.scratchBytes (k : Skein) : Nat :=
  let kib := if k.granted then k.full.2.1 else k.pro.2.1
  (kib * 1024 + 4095) / 4096 * 4096

/-- Whether an offset lies in the swizzled area, the union of the slots (R216). -/
def Skein.swizzled (k : Skein) (o : Nat) : Bool := k.scrcfg.any fun e => decide (e.2.1 ≤ o) && decide (o < e.2.1 + e.2.2)

/-- The physical byte of a scratch offset: the XOR rule of R188 inside the swizzled area. -/
def Skein.physOfs (k : Skein) (o : Nat) : Nat :=
  if k.swizzled o then o / 128 * 128 + 4 * ((o / 4 % 32) ^^^ (o / 128 % 32)) + o % 4 else o

/-! ### Locations -/

/-- Read a byte where it lies, apart from UO copies and store queues. -/
def State.locRead (s : State) (l : Loc) : Byte :=
  match l with
  | .mem k => s.memRead k
  | .scr sk o =>
    match s.skein? sk with
    | some k => cellRead k.scratch (k.physOfs o)
    | none => 0

/-- A byte of the write under way, where it lies. -/
def State.locPut (s : State) (part : Option Nat) (l : Loc) (b : Byte) : State :=
  match l with
  | .mem k => s.memPut part k b
  | .scr sk o =>
    { s.modSkein sk fun k => { k with scratch := cellWrite k.scratch (k.physOfs o) b } with hist := s.replaced l (s.locRead l) }

/-- Write a byte where it lies for an agent other than a fibre. -/
def State.locWrite (s : State) (part : Option Nat) (l : Loc) (b : Byte) : State := s.beginOther.locPut part l b

/-- Write bytes where they lie, as one write of an agent other than a fibre. -/
def State.locWrites (s : State) (part : Option Nat) (bs : List (Loc × Byte)) : State :=
  bs.foldl (fun a b => a.locPut part b.1 b.2) s.beginOther

/-! ### Page walks -/

/-- How a walk ends (R180). -/
inductive WalkRes where
  | ok (x : Xlat)
  | invalid
  | error
  deriving DecidableEq, Repr

/-- The size exponent of a leaf PSZ (Table 7.1). -/
def pszExp (p : Nat) : Nat := [12, 16, 21, 25, 30].getD p 12

/-- Whether a PSZ is allowed at a level (Table 7.2). -/
def pszAllowed (level psz : Nat) : Bool :=
  if psz = 5 then decide (2 ≤ level)
  else if level = 3 then psz == 4
  else if level = 2 then psz == 2 || psz == 3
  else if level = 1 then psz == 0 || psz == 1
  else false

/-- The fields of a 64-bit page table entry (Table 7.1). -/
def pteField (e : Nat) (lo n : Nat) : Nat := e / 2 ^ lo % 2 ^ n

/-- What a page table entry stands for. -/
inductive Pte where
  | invalid
  | error
  /-- The table of the next level, by the cell key of its first entry. -/
  | table (key : Nat)
  | leaf (x : Xlat)
  deriving DecidableEq, Repr

/-- The entry for an address in a table of a level with an index shift (R174, R175, Tables 7.1 and 7.2). V is tested first, and a
table that lies at a peer is an error (log entries 99 and 100). -/
def pteAt (mem : List Host.Cell) (bad : List Nat) (part ctx va lv sh table : Nat) : Pte :=
  let a := table + 8 * (va / 2 ^ sh % 512)
  let e := natOfBytes (cellsRead mem a 8)
  let psz := pteField e 7 3
  let loc := pteField e 10 2
  let frame := pteField e 12 44 * 4096
  if bad.any (fun k => lineOf k == lineOf a) then .error
  else if pteField e 0 1 = 0 then .invalid
  else if pteField e 56 8 ≠ 0 ∨ loc = 3 ∨ !pszAllowed lv psz then .error
  else if psz = 5 then (if loc = 2 then .error else .table (physKey loc frame))
  else if frame % 2 ^ pszExp psz ≠ 0 then .error
  else
    .leaf
      { part := part, ctx := ctx, vbase := va / 2 ^ pszExp psz * 2 ^ pszExp psz, size := pszExp psz, frame := frame, loc := loc
        ord := pteField e 5 2, code := pteField e 4 1 == 1, spriv := pteField e 3 1 == 1, x := pteField e 2 1 == 1
        w := pteField e 1 1 == 1 }

/-- One level of the walk and those below it (R175): `levels` lists level and index shift. -/
def walkFrom (mem : List Host.Cell) (bad : List Nat) (part ctx va : Nat) : List (Nat × Nat) → Nat → WalkRes
  | [], _ => .error
  | (lv, sh) :: rest, table =>
    match pteAt mem bad part ctx va lv sh table with
    | .invalid => .invalid
    | .error => .error
    | .table t => walkFrom mem bad part ctx va rest t
    | .leaf x => .ok x

/-- The cell keys of the entries that a walk reads (R175, R180). -/
def walkKeys (mem : List Host.Cell) (bad : List Nat) (part ctx va : Nat) : List (Nat × Nat) → Nat → List Nat
  | [], _ => []
  | (lv, sh) :: rest, table =>
    (table + 8 * (va / 2 ^ sh % 512)) ::
      (match pteAt mem bad part ctx va lv sh table with
      | .table t => walkKeys mem bad part ctx va rest t
      | _ => [])

/-- The leaf pages below a table whose first address is `va` that meet the addresses from `lo` below `hi`. -/
def leavesIn (mem : List Host.Cell) (bad : List Nat) (part ctx lo hi : Nat) : List (Nat × Nat) → Nat → Nat → List Xlat
  | [], _, _ => []
  | (lv, sh) :: rest, table, va =>
    (List.range 512).flatMap fun i =>
      let v := va + i * 2 ^ sh
      if v + 2 ^ sh ≤ lo ∨ hi ≤ v then []
      else
        match pteAt mem bad part ctx v lv sh table with
        | .table t => leavesIn mem bad part ctx lo hi rest t v
        | .leaf x => [x]
        | _ => []

/-- The levels of a walk with their index shifts (R175). -/
def walkLevels : List (Nat × Nat) := [(5, 48), (4, 39), (3, 30), (2, 21), (1, 12)]

/-- Where a context's walks begin. -/
def Context.root (c : Context) : Nat := c.xlRoot.toNat % 2 ^ 56 / 4096 * 4096

/-- The walk of R175 for a context. -/
def State.walk (s : State) (key va : Nat) : WalkRes :=
  walkFrom s.mem s.poison (key / 16) (key % 16) (va % 2 ^ 57) walkLevels (s.ctx key).root

/-- The leaf pages of a context that meet a range of addresses. -/
def State.leaves (s : State) (key lo n : Nat) : List Xlat :=
  leavesIn s.mem s.poison (key / 16) (key % 16) (lo % 2 ^ 57) (lo % 2 ^ 57 + n) walkLevels (s.ctx key).root 0

/-- Whether a translation covers an address. -/
def Xlat.covers (x : Xlat) (va : Nat) : Bool := va % 2 ^ 57 / 2 ^ x.size * 2 ^ x.size == x.vbase

/-- The cell key an address has under a translation that covers it. -/
def Xlat.key (x : Xlat) (va : Nat) : Nat := physKey x.loc (x.frame + va % 2 ^ x.size)

/-- TLB lookup, never of another partition's or context's entry (R179). -/
def State.tlbFind (s : State) (cluster key va : Nat) : Option Xlat :=
  (s.cluster cluster).tlb.find? fun x => x.part == key / 16 && x.ctx == key % 16 && x.covers va

/-- Fill the TLB of 2,048 entries, an earlier entry for the page giving way; the oldest goes when it is full. -/
def State.tlbFill (s : State) (cluster : Nat) (x : Xlat) : State :=
  s.modCluster cluster fun c =>
    { c with tlb := (x :: c.tlb.filter fun y => !(y.part == x.part && y.ctx == x.ctx && y.covers x.vbase)).take 2048 }

/-- The page of an address, by which misses merge (R179). -/
def pageOf (va : Nat) : Nat := va % 2 ^ 57 / 4096

/-- Whether the miss table of 64 entries takes another: a page request that waits for an entry of the queue keeps its own (R179,
R181). -/
def State.missRoom (s : State) (cluster : Nat) : Bool :=
  decide ((s.cluster cluster).misses.length + ((s.die (clusterDie cluster)).prqWait.filter (·.cluster == cluster)).length < 64)

/-- Enter a miss: merged into the walk of its 4 KiB page, or a new entry while fewer than 64 are held; a full table makes the
requester retry (R179). -/
def State.enterMiss (s : State) (cluster key va k : Nat) : State :=
  s.modCluster cluster fun c =>
    let same := fun (m : Miss) => m.part == key / 16 && m.ctx == key % 16 && m.page == pageOf va && !m.stale
    if c.misses.any same then
      { c with misses := c.misses.map fun m => if same m then { m with fibs := m.fibs ++ [k] } else m }
    else if s.missRoom cluster then
      { c with misses := c.misses ++ [{ part := key / 16, ctx := key % 16, page := pageOf va, fibs := [k] }] }
    else c

/-- Enter a PF's miss, merged like a fibre's; none where the table is full (R179, R192). -/
def State.enterPf (s : State) (cluster key va : Nat) (r : PfReq) : Option State :=
  let c := s.cluster cluster
  let same := fun (m : Miss) => m.part == key / 16 && m.ctx == key % 16 && m.page == pageOf va && !m.stale
  if c.misses.any same then
    some (s.modCluster cluster fun c =>
      { c with misses := c.misses.map fun m => if same m then { m with pfs := m.pfs ++ [r] } else m })
  else if s.missRoom cluster then
    some (s.modCluster cluster fun c =>
      { c with misses := c.misses ++ [{ part := key / 16, ctx := key % 16, page := pageOf va, fibs := [], pfs := [r] }] })
  else none

/-- Enter an engine's miss, merged like a fibre's; where the table is full the engine tries again (R179). -/
def State.enterUnit (s : State) (cluster key va : Nat) (r : UnitReq) : State :=
  let c := s.cluster cluster
  let same := fun (m : Miss) => m.part == key / 16 && m.ctx == key % 16 && m.page == pageOf va && !m.stale
  if c.misses.any same then
    if c.misses.any fun m => same m && m.units.contains r then s
    else s.modCluster cluster fun c =>
      { c with misses := c.misses.map fun m => if same m then { m with units := m.units ++ [r] } else m }
  else if s.missRoom cluster then
    s.modCluster cluster fun c =>
      { c with misses := c.misses ++ [{ part := key / 16, ctx := key % 16, page := pageOf va, fibs := [], units := [r] }] }
  else s

/-- How an engine translates: through its cluster's TLB, with the failures its walks have come to; a page it has not asked for is
walked at once. -/
def State.unitXlate (s : State) (cluster key : Nat) (walks : List (Nat × Cause)) (va : Nat) : WalkRes :=
  match s.tlbFind cluster key va with
  | some x => .ok x
  | none =>
    match walks.find? fun w => w.1 == pageOf va with
    | some (_, .walkError) => .error
    | some _ => .invalid
    | none => s.walk key va

/-- Whether an engine has still to ask for the translation of an address (R179). -/
def State.unitMiss (s : State) (cluster key : Nat) (walks : List (Nat × Cause)) (va : Nat) : Bool :=
  (s.tlbFind cluster key va).isNone && !walks.any fun w => w.1 == pageOf va

/-- How an agent other than a fibre translates: through its cluster's TLB, else by a walk of its own (R180). -/
def State.engineXlate (s : State) (cluster : Option Nat) (key va : Nat) : WalkRes :=
  match cluster.bind fun c => s.tlbFind c key va with
  | some x => .ok x
  | none => s.walk key va

/-! ### Access checks (R173, R177, R198, R237) -/

/-- What an access is for; `atomicSc` is an ATOMSC. -/
inductive Acc where | load | store | atomic | atomicSc | waiteq | cctlInv
  deriving DecidableEq, Repr

/-- Where one lane's access goes, before translation. -/
inductive Place where
  /-- Global bytes by virtual address; `own` marks the private window, which SPRIV does not check. -/
  | global (vas : List Nat) (own : Bool)
  | scratch (ofs : List Nat)
  deriving DecidableEq, Repr

/-- Whether a 64-bit address is canonical (R20). -/
def canonical (a : Nat) : Bool := a / 2 ^ 56 == 0 || a / 2 ^ 56 == 0xFF

/-- The private region of a strand: base and size (R172). -/
def State.privBase (s : State) (strand : Nat) : Nat × Nat :=
  let c := s.ctx (s.strandCtx strand)
  let size := 96 * 2 ^ c.privLane.toNat
  (c.privRoot.toNat + strand * size, size)

/-- Step 1 of R198 for one lane: the window decode of Table 1.6 and R172 of an access of `n` bytes. -/
def State.place (s : State) (strand lane : Nat) (a : DWord) (n : Nat) : Except Cause Place :=
  let top := a.toNat / 2 ^ 56
  if top = 0xFE then
    let o := a.toNat % 2 ^ 32
    if a.toNat / 2 ^ 32 % 2 ^ 24 ≠ 0 then .error .winRange
    else
      match s.skein? (strandSkein strand) with
      | some k => if o + n ≤ k.scratchBytes then .ok (.scratch ((List.range n).map (o + ·))) else .error .scratchRange
      | none => .error .scratchRange
  else if top = 0xFD then
    let o := a.toNat % 2 ^ 40
    let lim := 2 ^ (s.ctx (s.strandCtx strand)).privLane.toNat
    if a.toNat / 2 ^ 40 % 2 ^ 16 ≠ 0 then .error .winRange
    else if lim < o + n then .error .winRange
    else
      let base := (s.privBase strand).1
      let vas := (List.range n).map fun i => base + (o + i) / 4 * 384 + 4 * lane + (o + i) % 4
      if vas.all fun v => decide (v < 2 ^ 64) && canonical v then .ok (.global vas true) else .error .winRange
  else if canonical a.toNat && decide (a.toNat + n ≤ 2 ^ 64) && canonical (a.toNat + (n - 1)) then
    .ok (.global ((List.range n).map (a.toNat + ·)) false)
  else .error .noncanon

/-- The translation cause of an access (Table 7.5). -/
def Acc.xlateCause : Acc → Cause
  | .load | .waiteq => .ldXlate
  | _ => .stXlate

/-- The permission check of Table 7.3 on one translation, in the table's order. -/
def Acc.permCause (a : Acc) (x : Xlat) : Option Cause :=
  let at_ := a == .atomic || a == .atomicSc
  let st := a == .store || at_ || a == .cctlInv
  if !st && x.loc == 2 then some .ldPerm
  else if st && (!x.w || x.loc == 2) then some .stPerm
  else if x.ord == 3 then some .ordReserved
  else if (at_ || a == .waiteq) && x.ord == 2 then some .atomKind
  else none

/-- The kind of a translation (R226). -/
def Xlat.kind (x : Xlat) : Kind := if x.ord = 1 then .so else if x.ord = 2 then .uo else .rc

/-- What the checks of R198 come to. -/
inductive Checked where
  /-- Every lane may access: its bytes. -/
  | ok (lanes : List LaneAcc)
  | trap (t : Trap)
  /-- A page needs a walk. -/
  | walk (va : Nat)
  deriving DecidableEq, Repr

/-- The first cause of a list, in the order of `order`, that some lane raises, with those lanes and the lowest one's address
(R198). -/
def firstCause (order : List Cause) (raised : List (Nat × DWord × Option Cause)) : Option Trap :=
  order.findSome? fun e =>
    let ls := raised.filter fun r => r.2.2 == some e
    match ls.head? with
    | none => none
    | some r => some { cause := e, addr := r.2.1, mask := some (lanesOf fun l => ls.any (·.1 == l)) }

/-- The checks of R198 (and R237 with `atom`) on the addresses of the lanes of act: `n` bytes each, aligned to `al`, where
`line` asks that an access lie within one 128-byte line. -/
def State.checkAccess (s : State) (k : Nat) (acc : Acc) (n al : Nat) (line : Bool) (addrs : List (Nat × DWord))
    (walks : List (Nat × Cause)) : Checked :=
  let strand := fibStrand k
  let key := s.strandCtx strand
  let cl := fibCluster k
  let places := addrs.map fun a => (a.1, a.2, s.place strand a.1 a.2 n)
  let err1 := places.map fun p => (p.1, p.2.1, match p.2.2 with | .error e => some e | .ok _ => none)
  match firstCause [.noncanon, .winRange, .scratchRange] err1 with
  | some t => .trap t
  | none =>
    match firstCause [.align] (addrs.map fun a => (a.1, a.2, if a.2.toNat % al ≠ 0 then some .align else none)) with
    | some t => .trap t
    | none =>
      let straddles := fun (p : Except Cause Place) => match p with
        | .ok (.global vas _) => vas.any fun v => v / 128 != vas.headD 0 / 128
        | .ok (.scratch os) => os.any fun o => o / 128 != os.headD 0 / 128
        | .error _ => false
      match if line then
          firstCause [.atomStraddle] (places.map fun p => (p.1, p.2.1, if straddles p.2.2 then some .atomStraddle else none))
        else none with
      | some t => .trap t
      | none =>
        let vas := fun (p : Except Cause Place) => match p with
          | .ok (.global vs _) => vs
          | _ => []
        let failed := fun (v : Nat) => (walks.find? fun w => w.1 == pageOf v).map (·.2)
        let pages := (places.flatMap fun p => vas p.2.2)
        match pages.find? fun v => (s.tlbFind cl key v).isNone && (failed v).isNone with
        | some v => .walk v
        | none =>
          let xl := places.flatMap fun p => (vas p.2.2).map fun v => (p.1, p.2.1,
            match s.tlbFind cl key v, failed v with
            | some _, _ => none
            | none, some Cause.walkError => some Cause.walkError
            | none, _ => some acc.xlateCause)
          match firstCause [acc.xlateCause, .walkError] xl with
          | some t => .trap t
          | none =>
            let perm := places.flatMap fun p =>
              match p.2.2 with
              | .ok (.scratch _) => [(p.1, p.2.1, if acc == .atomicSc then some Cause.atomKind else none)]
              | _ => (vas p.2.2).map fun v => (p.1, p.2.1, (s.tlbFind cl key v).bind fun x => acc.permCause x)
            match firstCause [.ldPerm, .stPerm, .ordReserved, .atomKind] perm with
            | some t => .trap t
            | none =>
              let own := s.privBase strand
              let foreign := places.map fun p => (p.1, p.2.1,
                match p.2.2 with
                | .ok (.global vs false) =>
                  if vs.any (fun v => ((s.tlbFind cl key v).map (·.spriv)).getD false) &&
                      !(vs.all fun v => decide (own.1 ≤ v) && decide (v < own.1 + own.2)) then some Cause.privateForeign
                  else none
                | _ => none)
              match firstCause [.privateForeign] foreign with
              | some t => .trap t
              | none =>
                .ok (places.map fun p =>
                  { lane := p.1, addr := p.2.1
                    bytes := match p.2.2 with
                      | .ok (.global vs _) => vs.filterMap fun v =>
                        (s.tlbFind cl key v).map fun x => { loc := .mem (x.key v), kind := x.kind }
                      | .ok (.scratch os) => os.map fun o => { loc := .scr (strandSkein strand) o, kind := .scr }
                      | .error _ => []
                    shared := match p.2.2 with
                      | .ok (.global vs false) => !(vs.any fun v => ((s.tlbFind cl key v).map (·.spriv)).getD false)
                      | _ => false })

/-! ### Homes and colours (R184, R185) -/

/-- The HBM stack in which a physical address lies (R184). -/
def hbmStack (a : Nat) : Nat := a / 4096 % 12

/-- The die of the home slice of a cell: that of its stack for HBM, by the frame's number for host memory (R184). -/
def homeDie (key : Nat) : Nat := if key < 2 ^ 56 then hbmStack key / 3 else key % 2 ^ 56 / 4096 % 4

/-- The colour of a line (R185). -/
def lineColour (key : Nat) : Nat := bits key 12 6 ^^^ bits key 24 6

/-- Whether the home slice allocates a line for a partition (R185). -/
def State.allocates (s : State) (p key : Nat) : Bool := (s.part p).colours.getLsbD (lineColour key)

/-- The home slice of a line among the 64 of its die (R9, R184); which one it is is not stated (log entry 106). -/
def homeSlice (line : Nat) : Nat := homeDie (line * 128) * 64 + Config.l2Slice line % 64

/-- Lines of a colour group of a slice of 768 KiB (R9, R185). -/
def l2Group : Nat := 96

/-- Lines leave the L2 (R338, R454). A line that a PF had brought there and that was not referenced is counted useless (R192). -/
def State.l2Drop (s : State) (p : Nat → L2Line → Bool) : State :=
  let gone := (s.l2.filter fun e => p e.1 e.2).map (·.1)
  if gone.isEmpty then s
  else
    let lost := fun (x : Prefetch) => x.l2 && decide (x.due ≤ s.cycle) && gone.contains x.line
    let s := s.clusters.foldl
      (fun a c =>
        let n := (c.2.pf.filter lost).length
        if n = 0 then a else (a.modCluster c.1 fun c => { c with pf := c.pf.filter fun x => !lost x }).count c.1 0x1C n) s
    { s with l2 := s.l2.filter fun e => !p e.1 e.2 }

/-- Room for a line in its slice, in the group of its colour: one of the lines that the group holds leaves (R185; log entry 106). -/
def State.l2Room (s : State) (line : Nat) : State :=
  if s.l2.length < l2Group then s
  else
    let ls := (s.l2.filter fun e => e.2.slice == homeSlice line && lineColour (e.1 * 128) == lineColour (line * 128)).map (·.1)
    if ls.length < l2Group then s
    else
      let out := ls.getD (Config.victim s.freeCtr % ls.length) 0
      { s with freeCtr := s.freeCtr + 1 }.l2Drop fun n _ => n == out

/-- A partition's access to a line at its home slice: the slice allocates the line, in the group of its colour, where the colour is in
the partition's mask, and else performs the access alone (R185, R430). -/
def State.atHome (s : State) (cl p line : Nat) : State :=
  let hit := (tget? s.l2 line).isSome
  let s := s.count cl (if hit then 0x16 else 0x17) 1
  if !s.allocates p (line * 128) then s.count cl 0x1D 1
  else if hit then s
  else
    let s := s.l2Room line
    { s with l2 := tset s.l2 line { part := p, slice := homeSlice line } }

/-- An access of the cluster's partition goes to the home slice. -/
def State.goHome (s : State) (cl key : Nat) : State :=
  match s.owner cl with
  | some p => s.atHome cl p (lineOf key)
  | none => s

/-- The access of a whole range of addresses of memory, line by line. -/
def State.goHomeBytes (s : State) (cl : Nat) (bs : List ByteAt) : State :=
  (bs.foldl
    (fun (a : List Nat) b => match b.loc with
      | .mem k => if a.head? == some (lineOf k) then a else lineOf k :: a
      | .scr .. => a) []).reverse.eraseDups.foldl (fun a n => a.goHome cl (n * 128)) s

/-! ### The L1 (R178, R186, R225) -/

/-- A line's bytes as its home holds them, read in one pass. -/
def cellsFrom : List Host.Cell → Nat → Nat → List Byte
  | [], _, n => List.replicate n unlisted
  | (k, b) :: t, a, n =>
    if n = 0 then []
    else if k < a then cellsFrom t a n
    else if k < a + n then List.replicate (k - a) unlisted ++ b :: cellsFrom t (k + 1) (a + n - (k + 1))
    else List.replicate n unlisted

def State.homeLine (s : State) (line : Nat) : List Byte := cellsFrom s.mem (line * 128) 128

/-- The CACHE banks of a cluster that are in no change (R186). -/
def Cluster.cacheBanks (c : Cluster) : List Nat :=
  (List.range 16).filter fun n => ((c.banks[n]?).map fun b => b.mode == .cache && b.next.isNone).getD false

/-- The bank that holds a line. -/
def Cluster.bankOf (c : Cluster) (line : Nat) : Option Nat :=
  match tget? c.l1 line with
  | some x => some x.bank
  | none => (tget? c.uo line).bind (·.bank)

/-- The bank among those an access uses that is changing its mode (R186): SO accesses use none. -/
def Cluster.busyBank (c : Cluster) (bs : List ByteAt) : Option Nat :=
  if c.banks.all (·.next.isNone) then none
  else
    bs.findSome? fun b =>
      match b.kind, b.loc with
      | .so, _ => none
      | _, .mem k => (c.bankOf (lineOf k)).filter fun n => ((c.banks[n]?).map (·.next.isSome)).getD false
      | _, .scr .. => none

/-- A prefetched line that leaves unreferenced is counted useless (R192). -/
def State.pfGone (s : State) (cl line : Nat) : State :=
  let gone := fun (p : Prefetch) => p.line == line && !p.l2 && decide (p.due ≤ s.cycle)
  let n := ((s.cluster cl).pf.filter gone).length
  if n = 0 then s
  else (s.modCluster cl fun c => { c with pf := c.pf.filter fun p => !gone p }).count cl 0x1C n

/-- Write the dirty stores of a UO line to its home, in order (R213, R225), with the releases they and the writing CCTL's fences carry.
The cluster's RC copy of the line follows. -/
def State.uoWriteBack (s : State) (cl : Nat) (part : Option Nat) (line : Nat) (fences : List Rel := []) : State :=
  match tget? (s.cluster cl).uo line with
  | none => s
  | some u =>
    let ds := u.stores.filter (·.dirty)
    if ds.isEmpty then s
    else
      let s := ds.foldl (fun a x => a.memPut part (line * 128 + x.ofs) x.val)
        ((s.goHome cl (line * 128)).beginWrite (ds.flatMap (·.rels) ++ fences))
      s.modCluster cl fun c =>
        { c with
          uo := tmod c.uo line fun u => { u with stores := u.stores.map fun x => { x with dirty := false } }
          l1 := tmod c.l1 line fun x => { x with bytes := ds.foldl (fun a d => lset a d.ofs d.val) x.bytes } }

/-- Remove a UO line, dropping what is dirty (R213). -/
def State.uoDrop (s : State) (cl line : Nat) : State :=
  if (tget? (s.cluster cl).uo line).isSome then (s.modCluster cl fun c => { c with uo := terase c.uo line }).pfGone cl line else s

/-- Evict a UO line: write it back and remove it (R225). -/
def State.uoEvict (s : State) (cl : Nat) (part : Option Nat) (line : Nat) : State := (s.uoWriteBack cl part line).uoDrop cl line

/-- Remove an RC line. -/
def State.rcDrop (s : State) (cl line : Nat) : State :=
  if (tget? (s.cluster cl).l1 line).isSome then (s.modCluster cl fun c => { c with l1 := terase c.l1 line }).pfGone cl line else s

/-- A line leaves the cluster's L1. -/
def State.evict (s : State) (cl line : Nat) : State := (s.uoEvict cl (s.owner cl) line).rcDrop cl line

/-- Whether a line was filled as the next victim of its set (R204). -/
def Cluster.nextVictim (c : Cluster) (line : Nat) : Bool :=
  match tget? c.l1 line with
  | some x => x.next
  | none => ((tget? c.uo line).map (·.next)).getD false

/-- Room for a line in a bank of 2,048 lines: one of those it holds leaves, one filled by `.stream` before the others (R186, R204; log
entry 4). -/
def State.makeRoom (s : State) (cl b : Nat) : State :=
  let c := s.cluster cl
  if c.l1.length + c.uo.length < 2048 then s
  else
    let ls := (c.l1.map (·.1) ++ c.uo.map (·.1)).filter fun n => c.bankOf n == some b
    let first := ls.filter c.nextVictim
    let vs := if first.isEmpty then ls else first
    if ls.length < 2048 then s else { s with freeCtr := s.freeCtr + 1 }.evict cl (vs.getD (Config.victim s.freeCtr % vs.length) 0)

/-- The CACHE bank a line is filled into; none where the cluster has none. -/
def State.bankFor (s : State) (cl line : Nat) : Option Nat :=
  let bs := (s.cluster cl).cacheBanks
  if bs.isEmpty then none else some (bs.getD (Config.lineBank cl line % bs.length) 0)

/-- Fill an RC line into the L1 if it is not there and the cluster has a CACHE bank (R178, R186), with `next` as the next victim. -/
def State.rcFill (s : State) (cl line : Nat) (next : Bool := false) : State :=
  if (tget? (s.cluster cl).l1 line).isSome then s
  else
    match s.bankFor cl line with
    | none => s
    | some b => (s.makeRoom cl b).modCluster cl fun c => { c with l1 := tset c.l1 line { bytes := s.homeLine line, bank := b, next := next } }

/-- Fill a UO line if it is not there (R225). Where the cluster has no CACHE bank the line is still kept for its stores, in no bank
(DESIGN CHOICE, log entry 4). -/
def State.uoFill (s : State) (cl line : Nat) (next : Bool := false) : State :=
  if (tget? (s.cluster cl).uo line).isSome then s
  else
    let b := s.bankFor cl line
    let s' := match b with
      | some b => s.makeRoom cl b
      | none => s
    s'.modCluster cl fun c => { c with uo := tset c.uo line { bytes := s.homeLine line, bank := b, next := next } }

/-- The RC copies of a cluster follow their homes: what an acquire and every other synchronisation does (R230, R231). -/
def State.refresh (s : State) (cl : Nat) : State :=
  if (s.cluster cl).l1.isEmpty then s
  else s.modCluster cl fun c => { c with l1 := c.l1.map fun e => (e.1, { e.2 with bytes := s.homeLine e.1 }) }

/-- The RC copy of one line follows its home. -/
def State.refreshLine (s : State) (cl line : Nat) : State :=
  if (tget? (s.cluster cl).l1 line).isSome then
    s.modCluster cl fun c => { c with l1 := tmod c.l1 line fun x => { x with bytes := s.homeLine line } }
  else s

/-- A synchronisation point of the fibre's skein (R444): its cluster's RC copies are as new as what it synchronises with (R231). -/
def State.syncLines (s : State) (k : Nat) : State :=
  (s.modSkein (fibSkein k) fun sk => { sk with logged := [] }).refresh (fibCluster k)

/-- A synchronisation other than an acquire of its own: the fibre knows all that has been performed (R230; log entry 116). -/
def State.syncPoint (s : State) (k : Nat) : State :=
  (s.syncLines k).modFib k fun f => { f with view := s.viewNow, pend := [] }

/-! ### Reading and writing as a fibre sees memory -/

/-- The bytes of an entry still to be written, in order. -/
def StoreEntry.bytes (e : StoreEntry) : List (ByteAt × Byte) := e.pieces.flatten

/-- The youngest queued store of the fibre to a byte, for forwarding (R202). -/
def forwarded (q : List StoreEntry) (k : Nat) (l : Loc) : Option Byte :=
  q.foldl (fun a e => if e.owners.contains k then e.bytes.foldl (fun a b => if b.1.loc == l then some b.2 else a) a else a) none

/-- The spindle of a fibre. -/
def State.spindleOf (s : State) (k : Nat) : Nat := ((s.strand? (fibStrand k)).map (·.spindle)).getD 0

/-- Change the owners of the stores of a fibre's cluster: queued ones and those in UO lines. -/
def State.mapOwners (s : State) (k : Nat) (f : List Nat → List Nat) : State :=
  let s := s.modSpindle (fibCluster k) (s.spindleOf k) fun x =>
    { x with stores := x.stores.map fun e => { e with owners := f e.owners } }
  if (s.cluster (fibCluster k)).uo.isEmpty then s
  else s.modCluster (fibCluster k) fun c =>
    { c with uo := c.uo.map fun e => (e.1, { e.2 with stores := e.2.stores.map fun x => { x with owners := f x.owners } }) }

/-- Split and merge hand a fibre's earlier stores on to another (R219). -/
def State.shareStores (s : State) (k other : Nat) : State :=
  s.mapOwners k fun o => if o.contains k then o ++ [other] else o

/-- A fibre that has ended owns no store; the order among its stores stays (R219). -/
def State.disownStores (s : State) (k : Nat) : State := s.mapOwners k (·.filter (· != k))

/-- The fibre's latest store in a UO line to a byte (R202, R225). -/
def UoLine.own (u : UoLine) (k ofs : Nat) : Option Byte :=
  u.stores.foldl (fun a x => if x.ofs == ofs && x.owners.contains k then some x.val else a) none

/-- A byte as a fibre sees it, apart from its queued stores: an RC byte from the L1 copy where there is one and no history is kept, from
which a read takes older values then, a UO byte from the fibre's own stores in the line and else as the line was filled (R178, R225),
any other at its home or in its bank. -/
def State.byteRead (s : State) (k : Nat) (b : ByteAt) : Byte :=
  match b.kind, b.loc with
  | .uo, .mem a =>
    match tget? (s.cluster (fibCluster k)).uo (lineOf a) with
    | some u => (u.own k (a % 128)).getD (u.bytes.getD (a % 128) 0)
    | none => s.memRead a
  | .rc, .mem a =>
    match tget? (s.cluster (fibCluster k)).l1 (lineOf a) with
    | some x => if s.hist.isEmpty then x.bytes.getD (a % 128) 0 else s.memRead a
    | none => s.memRead a
  | _, l => s.locRead l

/-- A byte of the write under way, at the home slice, by a fibre of a cluster: a present RC copy follows (R200), and a UO line that holds
the byte leaves first, so that its stores come before it in coherence order (R202, R226). -/
def State.homeWrite (s : State) (cl : Nat) (part : Option Nat) (a : Nat) (v : Byte) : State :=
  let line := lineOf a
  let s := if (tget? (s.cluster cl).uo line).isSome then s.uoEvict cl part line else s
  let s := s.memPut part a v
  if (tget? (s.cluster cl).l1 line).isSome then
    s.modCluster cl fun c => { c with l1 := tmod c.l1 line fun x => { x with bytes := lset x.bytes (a % 128) v } }
  else s

/-- Perform the write of a byte at the place its kind gives (Table 7.4, R200), for the fibres to which it is an earlier store. A UO store
that misses goes to the home slice with `.noalloc` (R204). -/
def State.byteWrite (s : State) (cl : Nat) (part : Option Nat) (owners : List Nat) (b : ByteAt) (v : Byte) (hint : BitVec 2 := 0) :
    State :=
  match b.kind, b.loc with
  | .uo, .mem a =>
    if hint.getLsbD 1 && (tget? (s.cluster cl).uo (lineOf a)).isNone then s.homeWrite cl part a v
    else
    let new : UoStore := { ofs := a % 128, owners := owners, val := v, dirty := true, rels := s.writeRels }
    (s.uoFill cl (lineOf a) (hint == 1)).modCluster cl fun c =>
      { c with uo := tmod c.uo (lineOf a) fun u =>
          { u with stores := (u.stores.filter fun x => !(x.ofs == a % 128 && x.owners.all owners.contains)) ++ [new] } }
  | _, .mem a => s.homeWrite cl part a v
  | _, l => s.locPut part l v

/-- A read of an RC or SO byte finds the fibre's own store to the byte that a UO line still keeps at its home (R202, R226). -/
def State.uoYield (s : State) (k : Nat) (bs : List ByteAt) : State :=
  if (s.cluster (fibCluster k)).uo.isEmpty then s
  else
    bs.foldl
      (fun a b =>
        match b.kind, b.loc with
        | .uo, _ => a
        | _, .mem x =>
          match tget? (a.cluster (fibCluster k)).uo (lineOf x) with
          | some u =>
            if u.stores.any fun y => y.ofs == x % 128 && y.dirty && y.owners.contains k
            then a.uoEvict (fibCluster k) (a.owner (fibCluster k)) (lineOf x) else a
          | none => a
        | _, .scr .. => a) s

end Sys2Proof.Machine
end

