-- ==== Sys2Proof/Machine/Code.lean ====
section
/-! DEFINITION. Code objects: base-table entries (R460, Table 22.7), what a quadrant's instruction cache holds (R461), and the
checks of code references (R83 to R86). -/

namespace Sys2Proof.Machine

/-- A base-table entry (Table 22.7) as bytes. -/
abbrev BaseEntry := List Byte

def beBase (e : BaseEntry) : DWord := BitVec.ofNat 64 (recField e 0 8)
def beLen (e : BaseEntry) : Nat := recField e 8 4
def beValid (e : BaseEntry) : Bool := (recField e 0xC 4).testBit 0
def beStreamed (e : BaseEntry) : Bool := (recField e 0xC 4).testBit 1
def bePriv (e : BaseEntry) : Bool := (recField e 0xC 4).testBit 2
def beBitmap (e : BaseEntry) : Nat := recField e 0x10 8
def beLaunch (e : BaseEntry) : Nat × Nat := (recField e 0x18 8, recField e 0x20 4)
def beManifest (e : BaseEntry) : Nat × Nat := (recField e 0x28 8, recField e 0x24 4)
def bePattern (e : BaseEntry) : Nat × Nat := (recField e 0x30 8, recField e 0x38 4)

/-- The instruction cache of a quadrant. -/
def State.ic (s : State) (q : Nat) : ICache := (tget? s.ics q).getD {}
def State.modIc (s : State) (q : Nat) (f : ICache → ICache) : State := { s with ics := tset s.ics q (f (s.ic q)) }

/-- What the cache holds of a partition under a number. -/
def ICache.find (c : ICache) (part : Nat) (entry : Bool) (num : Nat) : Option (List Byte) :=
  (c.items.find? fun e => e.part == part && e.entry == entry && e.num == num).map (·.bytes)

/-- The ways of the instruction caches that a partition may use (R454). -/
def Partition.ways (p : Partition) : List Nat := (List.range 16).filter fun w => p.icWays.getLsbD w

/-- A quadrant's cache takes what was fetched from a line, into a way of the partition's: a free one of the line's set, or one whose
item leaves (R9, R454, R461; log entry 101). -/
def State.icKeep (s : State) (q line : Nat) (x : IcItem) : State :=
  let ways := (s.part x.part).ways
  if ways.isEmpty || ((s.ic q).find x.part x.entry x.num).isSome then s
  else
    let set := Config.icSet line % 1024
    let full := fun (w : Nat) => (s.ic q).items.any fun e => e.set == set && e.way == w
    match ways.find? fun w => !full w with
    | some w => s.modIc q fun c => { items := { x with set := set, way := w } :: c.items }
    | none =>
      let w := ways.getD (Config.victim s.freeCtr % ways.length) 0
      { s with freeCtr := s.freeCtr + 1 }.modIc q fun c =>
        { items := { x with set := set, way := w } :: c.items.filter fun e => !(e.set == set && e.way == w) }

/-- Remove what a predicate holds for from every instruction cache of a list of quadrants. -/
def State.icDrop (s : State) (qs : List Nat) (p : IcItem → Bool) : State :=
  qs.foldl (fun a q => a.modIc q fun c => { items := c.items.filter fun e => !p e }) s

/-- Where an entry of the base table lies in memory: BASE_TBL + 64h (R460). -/
def State.entryKey (s : State) (part h : Nat) : Nat := (s.part part).baseTbl.toNat % 2 ^ 56 + 64 * h

/-- The entry in memory (R460). -/
def State.entryMem (s : State) (part h : Nat) : BaseEntry := s.memReadBytes (s.entryKey part h) 64

/-- The entry as a quadrant's cache holds it, or else as memory does (R461). -/
def State.entry (s : State) (q part h : Nat) : BaseEntry :=
  ((s.ic q).find part true h).getD (s.entryMem part h)

/-- Resolve through the cache, which then holds the entry (R461). -/
def State.holdEntry (s : State) (q part h : Nat) : State :=
  s.icKeep q (lineOf (s.entryKey part h)) { part := part, entry := true, num := h, bytes := s.entryMem part h }

/-- The checks of R84 on a reference, through the cache of a cluster's quadrant. -/
def State.refCheck (s : State) (cl part : Nat) (ref : DWord) : Option Cause :=
  let e := s.entry (clusterQuad cl) part (pcHandle ref)
  if 4096 ≤ pcHandle ref ∨ !beValid e then some .fetchText
  else if pcOffset ref % 4 ≠ 0 then some .pcAlign
  else if beLen e ≤ pcOffset ref then some .fetchText
  else none

/-- A PC-relative target (R85): none where it leaves the 40 bits of an offset. -/
def pcTarget (pc : DWord) (imm : Int) : Option DWord :=
  let o := (pcOffset pc : Int) + 4 * imm
  if o < 0 ∨ 2 ^ 40 ≤ o then none else some (BitVec.ofNat 64 (pcHandle pc * 2 ^ 40 + o.toNat))

/-- Set a fibre's code reference to one just resolved: its text base is that of the entry (R460, R467). -/
def State.setRef (s : State) (k : Nat) (ref : DWord) : State :=
  let q := clusterQuad (fibCluster k)
  let part := s.strandPart (fibStrand k)
  let s := s.holdEntry q part (pcHandle ref)
  s.modFib k fun f => { f with pc := ref, base := some (beBase (s.entry q part (pcHandle ref))) }

end Sys2Proof.Machine
end

