-- ==== Sys2Proof/Machine/Work.lean ====
section
/-! DEFINITION. Launch records (R277 to R285), the end of strands, skeins and launches (R82, R260, R290, R291), task queues
(R299, R300, R316) and the firing of frontier points (R306 to R308). -/

namespace Sys2Proof.Machine

/-! ### Launch records -/

def Launch.f (l : Launch) (ofs n : Nat) : Nat := recField l.rec_ ofs n
def Launch.cls (l : Launch) : Nat := l.flags % 4
def Launch.code (l : Launch) : Nat := l.f 8 4 % 2 ^ 24
def Launch.entryOfs (l : Launch) : Nat := l.f 0xC 4
def Launch.args (l : Launch) : DWord := BitVec.ofNat 64 (l.f 0x10 8)
def Launch.done (l : Launch) : Nat := l.f 0x18 8
def Launch.levels (l : Launch) : Nat := l.f 0x20 1
def Launch.nStrands (l : Launch) : Nat := l.f 0x21 1
def Launch.role (l : Launch) (s : Nat) : Nat := bits (l.f 0x24 4) (2 * s) 2

/-- The entry of level k (R281). -/
def Launch.level (l : Launch) (k : Nat) : Nat := l.f (0x28 + 8 * (k - 3)) 8

/-- Blocks per strand, scratch KiB, accumulator slots and pool units of an allotment (R282). -/
def allotOf (a : Nat) : Nat × Nat × Nat × Nat := (bits a 0 8, bits a 16 16, bits a 8 8, bits a 32 16)

def Launch.proA (l : Launch) : Nat × Nat × Nat × Nat := allotOf (l.f 0x50 8)
def Launch.fullA (l : Launch) : Nat × Nat × Nat × Nat := allotOf (l.f 0x58 8)

/-- Extents of level k. -/
def levelExt (e : Nat) : Nat × Nat × Nat := (bits e 0 16, bits e 16 16, bits e 32 16)

/-- Products of the extents over the levels (R285). -/
def Launch.extents (l : Launch) : Nat × Nat × Nat :=
  (List.range (l.levels - 3)).foldl
    (fun a k =>
      let e := levelExt (l.level (3 + k))
      (a.1 * e.1, a.2.1 * e.2.1, a.2.2 * e.2.2)) (1, 1, 1)

/-- Skeins of a launch that is no frontier launch (R285). -/
def Launch.total (l : Launch) : Nat := l.extents.1 * l.extents.2.1 * l.extents.2.2

/-- Coordinates of the skein with an index (R285). -/
def Launch.coords (l : Launch) (i : Nat) : Nat × Nat × Nat :=
  let e := l.extents
  (i % e.1, i / e.1 % e.2.1, i / e.1 / e.2.1)

/-- The key of a launch's context. -/
def Launch.ctxKey (l : Launch) : Nat := Machine.ctxKey l.part l.ctx

def State.modLaunch (s : State) (n : Nat) (f : Launch → Launch) : State := { s with launches := tmod s.launches n f }

/-! ### Page access of agents that are no fibres -/

/-- Translate `n` bytes for an agent of a context, with store rights where `st`: the cell keys. -/
def State.agentBytes (s : State) (cl : Option Nat) (key va n : Nat) (st : Bool) : Option (List ByteAt) :=
  (List.range n).mapM fun i =>
    match s.engineXlate cl key (va + i) with
    | .ok x =>
      let acc := if st then Acc.store else Acc.load
      if canonical (va + i) && (acc.permCause x).isNone then some { loc := .mem (x.key (va + i)), kind := x.kind } else none
    | _ => none

/-- Whether a byte range touches a SPRIV page, which fails as a permission fault of an engine (R173). -/
def State.agentSpriv (s : State) (cl : Option Nat) (key va n : Nat) : Bool :=
  (List.range n).any fun i =>
    match s.engineXlate cl key (va + i) with
    | .ok x => x.spriv
    | _ => false

/-- Bytes an agent of a context reads, none where translation or permission fails. -/
def State.agentRead (s : State) (cl : Option Nat) (key va n : Nat) : Option (List Byte) :=
  (s.agentBytes cl key va n false).map fun bs => bs.map fun b => s.locRead b.loc

/-- Write bytes for an agent of a context, at home. -/
def State.agentWrite (s : State) (cl : Option Nat) (key va : Nat) (v : List Byte) : Option State :=
  (s.agentBytes cl key va v.length true).map fun bs =>
    s.locWrites (some (key / 16)) ((bs.zip v).map fun b => (b.1.loc, b.2))

/-! ### Frontier launches -/

/-- Reads and writes of a frontier engine, which fail on a SPRIV page (R173). -/
def State.frontierRead (s : State) (key va n : Nat) : Option (List Byte) :=
  if s.agentSpriv none key va n then none else s.agentRead none key va n
def State.frontierWrite (s : State) (key va : Nat) (v : List Byte) : Option State :=
  if s.agentSpriv none key va v.length then none else s.agentWrite none key va v

/-- The die whose frontier engine runs the partition's frontier launches (R308). -/
def State.frontierDie (s : State) (p : Nat) : Nat := clusterDie ((s.clustersOf p).headD 0)

/-- The height of a line (R306, R308). A backing page that has lost its permission since the launch was accepted reads as height 0, and
writes to it are dropped: no rule names a cause for the engine (DESIGN CHOICE, log entry 113). -/
def State.height (s : State) (l : Launch) (fr : Frontier) (line : Nat) : Nat :=
  if line < 65536 then (tget? fr.heights line).getD 0
  else ((s.frontierRead l.ctxKey (fr.backing.toNat + 4 * line) 4).map natOfBytes).getD 0

/-- Set the height of a line. -/
def State.setHeight (s : State) (n line h : Nat) : State :=
  match tget? s.launches n with
  | some l =>
    match l.frontier with
    | some fr =>
      if line < 65536 then s.modLaunch n fun l => { l with frontier := some { fr with heights := tset fr.heights line h } }
      else (s.frontierWrite l.ctxKey (fr.backing.toNat + 4 * line) (bytesOfNat 4 h)).getD s
    | none => s
  | none => s

/-- Whether the predecessor of a point by a vector has completed, or lies outside the space (R306). -/
def State.predDone (s : State) (l : Launch) (fr : Frontier) (p : FPoint) (d : Int × Int × Int) : Bool :=
  let q0 := (p.p0 : Int) - d.1
  let q1 := ((p.line % fr.d1 : Nat) : Int) - d.2.1
  let q2 := ((p.line / fr.d1 : Nat) : Int) - d.2.2
  if q0 < 0 ∨ (fr.d0 : Int) ≤ q0 ∨ q1 < 0 ∨ (fr.d1 : Int) ≤ q1 ∨ q2 < 0 ∨ (fr.d2 : Int) ≤ q2 then true
  else decide (q0 < s.height l fr (q1.toNat + fr.d1 * q2.toNat))

/-- Points in flight for a partition's frontier launches. -/
def State.inflightOf (s : State) (p : Nat) : Nat :=
  s.launches.foldl (fun a e => if e.2.part == p then a + ((e.2.frontier.map (·.inflight.length)).getD 0) else a) 0

/-- Insert a point in ascending p0 and then ascending line. -/
def insertPoint (p : FPoint) : List FPoint → List FPoint
  | [] => [p]
  | x :: xs => if p.p0 < x.p0 ∨ p.p0 = x.p0 ∧ p.line < x.line then p :: x :: xs else x :: insertPoint p xs

/-- The points of a launch that can fire but for an entry of the list, in ascending p0 and then line (R306). -/
def State.canFire (s : State) (l : Launch) (fr : Frontier) : List FPoint :=
  if fr.stopped || (s.ctx l.ctxKey).pre != .in_ then []
  else
    ((List.range (fr.d1 * fr.d2)).filterMap fun line =>
      let h := s.height l fr line
      let p : FPoint := { p0 := h, line := line }
      if h < fr.d0 ∧ !(fr.inflight.any fun x => x.p0 == h && x.line == line) ∧ fr.vecs.all (s.predDone l fr p) then some p
      else none).foldl (fun a p => insertPoint p a) []

/-- The points of a launch that ask for an entry are those that can fire: one that asked before keeps its place (R292). -/
def State.askPoints (s : State) (n : Nat) : State :=
  match tget? s.launches n with
  | some l =>
    match l.frontier with
    | some fr =>
      let ps := s.canFire l fr
      let old := fr.asking.filter fun e => ps.contains e.2
      let new := (ps.filter fun p => !old.any fun e => e.2 == p).map fun p => (s.cycle, p)
      if old ++ new == fr.asking then s else s.modLaunch n fun l => { l with frontier := l.frontier.map fun f => { f with asking := old ++ new } }
    | none => s
  | none => s

/-- The points in flight that count for a partition in a die's pool (R308, R457). -/
def State.inflightOn (s : State) (d p : Nat) : Nat := if s.frontierDie p = d then s.inflightOf p else 0

/-- The point of a die that has asked longest among those whose partition's queue takes an entry (R292): its launch and the point. -/
def State.nextPoint (s : State) (d : Nat) : Option (Nat × FPoint) :=
  (s.launches.foldl
    (fun (a : Option (Nat × Nat × FPoint)) e =>
      if s.frontierDie e.2.part = d ∧ s.poolTakes 6 d 32 e.2.part (s.inflightOn d) then
        (((e.2.frontier.map (·.asking)).getD []).foldl
          (fun a x =>
            match a with
            | some y => if x.1 < y.1 then some (x.1, e.1, x.2) else a
            | none => some (x.1, e.1, x.2)) a)
      else a) none).map (·.2)

/-- Points of a die fire, the one that has asked longest first, while its in-flight list takes entries (R292, R306). -/
def State.firePoints (s : State) (d : Nat) : Nat → State
  | 0 => s
  | fuel + 1 =>
    match s.nextPoint d with
    | some (n, p) =>
      let part := ((tget? s.launches n).map (·.part)).getD 0
      (State.firePoints
        ((s.modLaunch n fun l =>
          { l with frontier := l.frontier.map fun f =>
              { f with inflight := f.inflight ++ [p], asking := f.asking.filter fun e => e.2 != p } }).count
                ((s.clustersOf part).headD 0) 0x35 1) d fuel)
    | none => s

/-- Fire what can fire, after something of a launch has changed (R306). -/
def State.fire (s : State) (n : Nat) : State :=
  match tget? s.launches n with
  | some l => if l.frontier.isNone then s else (s.askPoints n).firePoints (s.frontierDie l.part) 4097
  | none => s

/-! ### Completion -/

/-- Whether every skein of a launch has ended (R290). -/
def State.launchDone (s : State) (l : Launch) : Bool :=
  match l.frontier with
  | none => decide (l.total ≤ l.ended)
  | some fr => (List.range (fr.d1 * fr.d2)).all fun line => s.height l fr line == fr.d0

/-- The completion record (R290). -/
def completionBytes (status count : Word) (seq : DWord) : List Byte :=
  bytesOfNat 4 status.toNat ++ bytesOfNat 4 count.toNat ++ bytesOfNat 8 seq.toNat

/-- A page request of the front end for a completion address (R291). -/
def doneRequest (l : Launch) (c : Cause) (seq : Word) : PrqEntry :=
  { part := l.part, ctx := l.ctx, addr := BitVec.ofNat 64 l.done, seq := seq, cluster := 0xFFFF, sid := 0xFFFF, path := 0xFF
    cause := c, flags := recFlags c }

/-- Write a launch's completion record and forget the launch, or hold the record behind a page request (R290, R291). -/
def State.writeCompletion (s : State) (n : Nat) (status count : Word) : State :=
  match tget? s.launches n with
  | none => s
  | some l =>
    match s.agentWrite none l.ctxKey l.done (completionBytes status count l.seq) with
    | some s' =>
      let s' := { s' with launches := terase s'.launches n }
      if l.flags.testBit 7 then s'.raise (4 * l.part) else s'
    | none =>
      let seq := (s.ctx l.ctxKey).prqSeq
      (s.pageRequest (s.frontierDie l.part) (doneRequest l .stXlate seq)).modLaunch n fun l =>
        { l with held := some (seq, status, count) }

/-- The status word of a completed launch (R290). -/
def Launch.status (l : Launch) (cause : Nat) : Word :=
  BitVec.ofNat 32 (cause + (if l.engFail then 256 else 0) + (if l.killed then 512 else 0))

/-- Complete a launch all of whose skeins have ended; a measured launch waits for the end of its pass (R447). -/
def State.tryComplete (s : State) (n : Nat) : State :=
  match tget? s.launches n with
  | none => s
  | some l =>
    if l.held.isNone && s.launchDone l && (s.part l.part).mrLaunch != some n then
      s.writeCompletion n (l.status (if l.killed then Cause.kill.code.toNat else 0)) (BitVec.ofNat 32 l.ended)
    else s

/-- Unbind an accumulator name (R351): its slot goes to the tail of the cluster's free list. -/
def State.unbind (s : State) (sk a : Nat) : State :=
  match (s.skein? sk).bind fun k => tget? k.accs a with
  | some n =>
    (s.modSkein sk fun k => { k with accs := terase k.accs a }).modCluster (sk / 4096) fun c =>
      { c with accFree := c.accFree ++ [n], accMem := terase c.accMem n }
  | none => s

/-- Unbind every name of a skein (R351). -/
def State.unbindAll (s : State) (sk : Nat) : State :=
  (((s.skein? sk).map (·.accs)).getD []).foldl (fun a e => a.unbind sk e.1) s

/-- A skein whose strands have all ended (R82, R290, R306): its space is free, and its launch, or the point it was, goes on. -/
def State.endSkein (s : State) (sk : Nat) : State :=
  match s.skein? sk with
  | none => s
  | some k =>
    let s := s.unbindAll sk
    let s := { s with skeins := terase s.skeins sk }
    let s := k.withdrew.foldl
      (fun a n => (a.modLaunch n fun l => { l with ended := l.ended + 1 }).tryComplete n) s
    match k.point with
    | none => (s.modLaunch k.launch fun l => { l with ended := l.ended + 1 }).tryComplete k.launch
    | some _ =>
      s.modLaunch k.launch fun l =>
        { l with frontier := l.frontier.map fun f =>
            { f with inflight := f.inflight.map fun p => if p.at_ == .placed sk then { p with at_ := .ended sk } else p } }

/-- With its last fibre ended while a batch is stopped, a strand's aborted and held operations are discarded and its closed
batches reported (R366). -/
def State.mxAbandon (s : State) (k : Nat) : State :=
  match s.strand? k with
  | none => s
  | some st =>
    if st.paths.isEmpty && (st.mxOpen.stopped || st.batches.any (·.stopped)) then
      let s := s.modStrand k fun st =>
        { st with
          ops := st.ops.filter fun o => o.cls != .m
          batches := st.batches.map fun b => { b with stopped := false, left := 0, reported := true }
          mxOpen := { num := st.mxOpen.num } }
      let s := s.modCluster (strandCluster k) fun c => { c with mxq := c.mxq.filter fun o => o.strand != k }
      match s.skein? (strandSkein k) with
      | some x => s.modLaunch x.launch fun l => { l with engFail := true }
      | none => s
    else s

/-- Whether a strand has ended: no fibre, no operation that has not been reported, no matrix or function operation in a queue, and every
store performed (R260, R290). -/
def State.strandOver (s : State) (k : Nat) : Bool :=
  match s.strand? k with
  | none => false
  | some st =>
    st.paths.isEmpty && st.ops.isEmpty && ((s.cluster (strandCluster k)).mxq.all fun o => o.strand != k) &&
      ((s.cluster (strandCluster k)).fnq.all fun o => o.strand != k) &&
      (s.spindle (strandCluster k) st.spindle).stores.all fun e => e.strand != k

/-- End a strand that is over, and its skein after the last one. -/
def State.tryEndStrand (s : State) (k : Nat) : State :=
  let s := s.mxAbandon k
  if s.strandOver k then
    let sk := strandSkein k
    let failed := ((s.strand? k).map fun st => !st.fails.isEmpty).getD false
    let s := { s with strands := terase s.strands k }
    let s := match s.skein? sk with
      | some x => if failed then s.modLaunch x.launch fun l => { l with engFail := true } else s
      | none => s
    if s.strands.any fun e => strandSkein e.1 == sk then s else s.endSkein sk
  else s

/-! ### Task queues -/

def State.tq (s : State) (d q : Nat) : TaskQ := (tget? (s.die d).tqs q).getD {}
def State.modTq (s : State) (d q : Nat) (f : TaskQ → TaskQ) : State :=
  s.modDie d fun x => { x with tqs := tset x.tqs q (f ((tget? x.tqs q).getD {})) }

/-- Every fibre of the device with its key. -/
def State.allFibs (s : State) : List (Nat × Fibre) :=
  s.strands.flatMap fun st => st.2.paths.map fun p => (mkFib st.1 p.1, p.2)

/-- Whether some fibre holds a task popped from a queue (R316). -/
def State.taskHeld (s : State) (d q : Nat) : Bool :=
  s.allFibs.any fun f => (f.2.task.map fun t => t.die == d && t.queue == q).getD false

/-- Give a popper its eight words, the task with them when there is one, and make it ready (R316). -/
def State.popTo (s : State) (d q k : Nat) (words : List Word) (task : Option (List Word)) : State :=
  match s.fib? k with
  | some f =>
    match f.wait with
    | .tpop _ _ reg tags =>
      let s := s.modStrand (fibStrand k) fun st =>
        (List.range 8).foldl
          (fun a i => a.pokeRow (reg + i) f.laneSet { vals := allLanes.map fun _ => words.getD i 0, tags := tags }) st
      let s := s.modFib k fun f => { f with task := task.map fun w => { die := d, queue := q, words := w } }
      (s.syncPoint k).waitDone k
    | _ => s
  | none => s

/-- Whether a fibre waiting in TPOP may pop: its context takes no task while it is asked to leave or out (R328). -/
def State.mayPop (s : State) (k : Nat) : Bool :=
  (s.ctx (s.strandCtx (fibStrand k))).pre == .in_ && ((s.fib? k).map fun f => !f.saved).getD false

/-- Records to waiting poppers in order (R316). -/
def State.tqDeliver (s : State) (d q : Nat) : Nat → State
  | 0 => s
  | n + 1 =>
    match (s.tq d q).recs, (s.tq d q).poppers.find? s.mayPop with
    | r :: rs, some p =>
      let words := (List.range 8).map fun i => if i = 5 then 0 else r.getD i 0
      (((s.modTq d q fun t => { t with recs := rs, poppers := t.poppers.filter (· != p) }).popTo d q p words (some r)).count (fibCluster p) 0x37 1).tqDeliver
        d q n
    | _, _ => s

/-- Serve a queue: its poppers, the fibres that wait for its low watermark, and the idle test (R300, R316). -/
def State.tqServe (s : State) (d q : Nat) : State :=
  let s := s.tqDeliver d q ((s.tq d q).recs.length)
  let t := s.tq d q
  let s := if t.raised && decide (t.recs.length < t.low) then
      (s.modTq d q fun t => { t with raised := false }).allFibs.foldl
        (fun a f => if f.2.wait == .high d q then a.ready f.1 else a) (s.modTq d q fun t => { t with raised := false })
    else s
  if t.recs.isEmpty && !t.poppers.isEmpty && !s.taskHeld d q && !((s.die d).pushes.any fun p => p.queue == q) then
    ((t.poppers.filter s.mayPop).foldl (fun a k => a.popTo d q k ((List.range 8).map fun i => if i = 5 then 1 else 0) none)
      s).modTq d q fun t => { t with poppers := t.poppers.filter fun k => !s.mayPop k }
  else s

end Sys2Proof.Machine
end

