-- ==== Sys2Proof/Machine/Text.lean ====
section
/-! DEFINITION. Fetching a fibre's next instruction: steps 1 to 11 of Table 2.7 (R26, R45, R86, R177, R461, R463), and the text that lies
before a fibre in its run. -/

namespace Sys2Proof.Machine

/-- What a fetch comes to: an instruction, a trap before it, a page to be walked, or code that has not arrived. -/
inductive Fetched where
  | instr (i : Instr)
  | trap (t : Trap)
  | walk (va : Nat)
  | code
  deriving DecidableEq, Repr

/-- The base-table entry by which a fibre fetches, as its quadrant's cache holds it. -/
def State.fibEntry (s : State) (k : Nat) (pc : DWord) : BaseEntry :=
  s.entry (clusterQuad (fibCluster k)) (s.strandPart (fibStrand k)) (pcHandle pc)

/-- The virtual address a fibre fetches from (R460, R467). -/
def State.fetchAddr (s : State) (k : Nat) (f : Fibre) : Nat :=
  ((f.base.getD (beBase (s.fibEntry k f.pc))).toNat + pcOffset f.pc) % 2 ^ 64

/-- The line of text at a line number, as the quadrant's cache holds it or else as memory does. -/
def State.icLine (s : State) (q part line : Nat) : List Byte :=
  ((s.ic q).find part false line).getD (s.memReadBytes (line * 128) 128)

/-- The cache holds a line that was fetched (R461). -/
def State.icHold (s : State) (q part line : Nat) : State :=
  s.icKeep q line { part := part, entry := false, num := line, bytes := s.memReadBytes (line * 128) 128 }

/-- The cell key a fibre fetches from, where its page is translated. -/
def State.fetchKey (s : State) (k : Nat) (f : Fibre) : Option Nat :=
  let va := s.fetchAddr k f
  (s.tlbFind (fibCluster k) (s.strandCtx (fibStrand k)) va).map fun x => x.key va

/-- What fetching leaves behind: the entry and the line in the quadrant's cache, and the text base of the fibre's reference. The fetch of
a line that the cache does not hold from a STREAMED entry has read an arrival bit that is set, an acquire at .sys (R463). -/
def State.fetchHold (s : State) (k : Nat) : State :=
  match s.fib? k with
  | none => s
  | some f =>
    let q := clusterQuad (fibCluster k)
    let part := s.strandPart (fibStrand k)
    let base := beBase (s.fibEntry k f.pc)
    let s := match s.fetchKey k f with
      | some key =>
        let s := if beStreamed (s.fibEntry k f.pc) && ((s.ic q).find part false (lineOf key)).isNone then s.syncPoint k else s
        s.icHold q part (lineOf key)
      | none => s
    (s.holdEntry q part (pcHandle f.pc)).modFib k fun f => { f with base := some (f.base.getD base) }

/-- Whether the page of a reference has arrived (R463): the bit of the bitmap, read as the context reads its memory; a page whose
bit cannot be read has not. -/
def State.arrived (s : State) (k : Nat) (pc : DWord) : Bool :=
  let e := s.fibEntry k pc
  let page := pcOffset pc / 4096
  !beStreamed e ||
    (((s.agentRead (some (fibCluster k)) (s.strandCtx (fibStrand k)) (beBitmap e + page / 8) 1).map fun b =>
      (b.headD 0).getLsbD (page % 8)).getD false)

/-- The bytes of the fetch block from the PC on (R26): at most the 16 of the longest instruction. -/
def State.fetchBytes (s : State) (k : Nat) (f : Fibre) (key : Nat) : List Byte :=
  let q := clusterQuad (fibCluster k)
  let part := s.strandPart (fibStrand k)
  (List.range (min 16 (32 - pcOffset f.pc % 32))).map fun i => (s.icLine q part (lineOf (key + i))).getD ((key + i) % 128) 0

/-- Steps 6 to 11 of Table 2.7 on the bytes of the block; `room` is what the registered text holds from the PC on. -/
def decodeBlock (bs : List Byte) (pc : DWord) (room : Nat) : Fetched :=
  let w0 := BitVec.ofNat 32 (natOfBytes (bs.take 4))
  let trap := fun (c : Cause) (a : DWord) => Fetched.trap { cause := c, addr := a, word := some w0 }
  match decode bs with
  | .error .illLen =>
    if (w0.extractLsb' 0 2).toNat ≠ 3 ∧ room < lenBytes (w0.extractLsb' 0 2) then trap .fetchText pc else trap .illLen 0
  | .error .fetchStraddle => trap .fetchStraddle 0
  | .error c => if room < lenBytes (w0.extractLsb' 0 2) then trap .fetchText pc else trap c 0
  | .ok (i, n) => if room < n then trap .fetchText pc else .instr i

/-- Fetch and decode at a fibre's PC. TFWORD is zero for the causes of rows 1 to 5. -/
def State.fetchAt (s : State) (k : Nat) (f : Fibre) : Fetched :=
  let trap := fun (c : Cause) (a : DWord) => Fetched.trap { cause := c, addr := a, word := some 0 }
  let e := s.fibEntry k f.pc
  let va := s.fetchAddr k f
  let a := BitVec.ofNat 64 va
  if pcOffset f.pc % 4 ≠ 0 then trap .pcAlign f.pc
  else if 4096 ≤ pcHandle f.pc ∨ !beValid e ∨ beLen e ≤ pcOffset f.pc then trap .fetchText f.pc
  else
    match s.tlbFind (fibCluster k) (s.strandCtx (fibStrand k)) va with
    | none =>
      match f.walks.find? fun w => w.1 == pageOf va with
      | some (_, .walkError) => trap .walkError a
      | some _ => trap .fetchXlate a
      | none => .walk va
    | some x =>
      if !x.x || !x.code || x.loc != 0 || x.ord == 3 then trap .fetchPerm a
      else if !s.arrived k f.pc then .code
      else decodeBlock (s.fetchBytes k f (x.key va)) f.pc (beLen e - pcOffset f.pc)

/-- The next instruction of a fibre: of its text, or in candidate mode of the candidate (R413). -/
def State.fetch (s : State) (k : Nat) (f : Fibre) : Fetched :=
  match f.run.bind (·.use) with
  | some u =>
    match if u.cand then u.body[u.next]? else none with
    | some i => .instr i
    | none => s.fetchAt k f
  | none => s.fetchAt k f

/-- The address a fetch trap reports at a fibre's PC. -/
def State.fetchTfaddr (s : State) (k : Nat) : DWord := ((s.fib? k).map fun f => BitVec.ofNat 64 (s.fetchAddr k f)).getD 0

/-- The body and the terminator of the run that lies at a fibre's PC, as the fibre would fetch them; none where some of it cannot be
fetched now. -/
def State.runAhead (s : State) (k : Nat) (f : Fibre) : Nat → Option (List Instr × Instr)
  | 0 => none
  | n + 1 =>
    match s.fetchAt k f with
    | .instr i =>
      if i.isTerminator then some ([], i)
      else (s.runAhead k { f with pc := pcAdd f.pc i.bytes } n).map fun r => (i :: r.1, r.2)
    | _ => none

end Sys2Proof.Machine
end

