-- ==== Sys2Proof/Machine/Subst.lean ====
section
/-! DEFINITION. The carding engine and substitution (chapter 18): eligible runs, counting and sampling, the substitution table,
and what an eligible run's terminator does first. -/

namespace Sys2Proof.Machine

/-! ### Texts run apart from the machine (R408, R412) -/

/-- The meaning of an instruction of opcodes 0x20 to 0x3B; others leave the state as it is. -/
def candExec (i : Instr) (s : State) : Host.Outcome State Fault Refusal :=
  match i with
  | .iadd sat f => execIadd sat f s
  | .isub sat f => execIsub sat f s
  | .iaddi sat f => execIaddi sat f s
  | .imul f => execImul f s
  | .imulh f => execImulh f s
  | .imad sat f => execImad sat f s
  | .imadw f => execImadw f s
  | .idiv f => execIdiv f s
  | .irem f => execIrem f s
  | .imin f => execImin f s
  | .imax f => execImax f s
  | .iabs f => execIabs f s
  | .ineg f => execIneg f s
  | .and f => execAnd f s
  | .or f => execOr f s
  | .xor f => execXor f s
  | .andn f => execAndn f s
  | .orn f => execOrn f s
  | .xnor f => execXnor f s
  | .andi f => execAndi f s
  | .ori f => execOri f s
  | .xori f => execXori f s
  | .shl f => execShl f s
  | .shrl f => execShrl f s
  | .shra f => execShra f s
  | .shli f => execShli f s
  | .shrli f => execShrli f s
  | .shrai f => execShrai f s
  | .fshr f => execFshr f s
  | .bfx f => execBfx f s
  | .bfi f => execBfi f s
  | .popc f => execPopc f s
  | .clz f => execClz f s
  | .ctz f => execCtz f s
  | .brev f => execBrev f s
  | .icmp c f => execIcmp c f s
  | .icmpi c f => execIcmpi c f s
  | .sel f => execSel f s
  | .mov f => execMov f s
  | .movi f => execMovi f s
  | .lea f => execLea f s
  | .iadd64 f => execIadd64 f s
  | .isub64 f => execIsub64 f s
  | .cvta k f => execCvta k f s
  | .permb f => execPermb f s
  | .pack f => execPack f s
  | .unpack f => execUnpack f s
  | _ => .next s

/-- A strand alone, holding the inputs in the lanes of a run mask. -/
def trialState (ins : List (Nat × List Word)) (lanes : Lanes) : State :=
  let role := ((ins.find? (·.1 == 250)).map fun i => laneW i.2 ((lowLane? lanes).getD 0)).getD 0
  let st : Strand := { blocks := 30, role := role.toNat, ctl := 0, paths := [(0, { laneSet := lanes, pc := 0 })] }
  let st := (List.range 3).foldl (fun a k => a.poke (253 + k) (lanes &&& groupLanes k) fun _ => 1) st
  { strands := [(0, ins.foldl (fun a i => if i.1 < 248 then a.poke i.1 allOnes (laneW i.2) else a) st)] }
where
  /-- Every lane. -/
  allOnes : Lanes := lanesOf fun _ => true

/-- Run a text on inputs; the instructions issue so far apart that every read sees every earlier write. -/
def runText (text : List Instr) (ins : List (Nat × List Word)) (lanes : Lanes) : State :=
  text.zipIdx.foldl
    (fun s i =>
      let t := 100 * (i.2 + 1)
      match candExec i.1 { s with cur := some { fib := 0, r0 := t, r1 := t, r2 := t } } with
      | .next s' => s'
      | _ => s) (trialState ins lanes)

/-- The final words of the outputs of a text. -/
def textOuts (text : List Instr) (ins : List (Nat × List Word)) (lanes : Lanes) (outs : List Nat) : List (List Word) :=
  let s := runText text ins lanes
  outs.map fun o => laneVec fun l => ((s.strand? 0).map fun st => (st.view o l (l / 32) 1000000).w).getD 0

/-! ### Eligibility (R402, R407) -/

/-- Instructions R402 allows in an eligible run. -/
def substOk (i : Instr) : Bool :=
  match i with
  | .nop _ => true
  | .idiv _ | .irem _ => false
  | .cvta k _ => k != .prv && k != .toscr
  | .iadd s _ | .isub s _ | .iaddi s _ | .imad s _ => !s
  | .iabs f | .ineg f | .pack f => !f.flg.getLsbD 1
  | i => decide (0x20 ≤ i.opcSub.1) && decide (i.opcSub.1 ≤ 0x3B) && !i.isEvent

/-- Whether some register field names vamax, vfst or em0 to em2. -/
def namesSpecial (i : Instr) : Bool := i.named.any fun x => (spanRegs x).any fun r => decide (251 ≤ r)

/-- Registers a text reads before it writes them, and those it has written, in the order of R404. -/
def textUses (text : List Instr) : List Nat × List Nat :=
  text.foldl
    (fun a i =>
      let r := i.regs
      let reads := (r.a ++ r.lane ++ r.low ++ i.greg).flatMap spanRegs
      let ins := reads.foldl (fun b v => if v = 248 ∨ a.2.contains v ∨ b.contains v then b else b ++ [v]) a.1
      (ins, (a.2 ++ (r.dst.flatMap spanRegs)).eraseDups)) ([], [])

/-- Output registers, in ascending order (R402, R404). -/
def outputsOf (written : List Nat) : List Nat := (List.range 240).filter written.contains

/-- R402 on the instructions a run issued and its terminator. -/
def runEligible (body : List Instr) (term : Instr) : Bool :=
  let u := textUses (body ++ [term])
  body.all substOk && !((body ++ [term]).any namesSpecial) && decide (u.1.length ≤ 4) &&
    decide ((outputsOf u.2).length ≤ 2) &&
    match term with
    | .runend _ | .bra _ => true
    | _ => false

/-- Periods of a body: the sum of 1 + STALL (R407). -/
def bodyCost (body : List Instr) : Nat := (body.map fun i => 1 + i.stall).foldl (· + ·) 0

/-- R407: latencies are met by the stall counts alone, one period a turn, every read being of a register written at least L
periods before. -/
def stallsOk (text : List Instr) : Bool :=
  let latency := fun (i : Instr) => match i with
    | .imul _ | .imulh _ | .imad .. | .imadw _ => 3
    | _ => 2
  (text.foldl
    (fun (a : Bool × Nat × List (Nat × Nat)) i =>
      let reads := (i.regs.a ++ i.regs.lane ++ i.regs.low).flatMap spanRegs
      let ok := a.2.2.all fun w => !reads.contains w.1 || decide (w.2 ≤ a.2.1)
      (a.1 && ok, a.2.1 + 1 + i.stall, (i.regs.dst.flatMap spanRegs).map (fun r => (r, a.2.1 + latency i)) ++ a.2.2))
    (true, 0, [])).1

/-- R407: what a candidate for a run must be. -/
def candOk (cand body : List Instr) (ins outs : List Nat) : Bool :=
  let u := textUses cand
  let reads := (cand.foldl
    (fun (a : Bool × List Nat) i =>
      let rs := (i.regs.a ++ i.regs.lane ++ i.regs.low).flatMap spanRegs
      (a.1 && rs.all (fun r => r == 248 || ins.contains r || (decide (240 ≤ r) && a.2.contains r)),
       a.2 ++ i.regs.dst.flatMap spanRegs)) (true, [])).1
  decide (1 ≤ cand.length) && decide (cand.length ≤ 8) && cand.all (fun i => i.bytes == 8 && substOk i && i.fieldCheck.isNone) &&
    reads && u.2.all (fun r => outs.contains r || decide (240 ≤ r ∧ r ≤ 248)) && stallsOk cand &&
    !cand.any namesSpecial && decide (bodyCost cand < bodyCost body)

/-! ### Looking a run up (R409 to R411) -/

/-- SUBST_CTL fields (Table 18.7). -/
def substEn (w : Word) : Bool := w.getLsbD 0
def substField (w : Word) (lo : Nat) : Nat := (w.extractLsb' lo 4).toNat

/-- An entry id: table index and installation count (Table 18.4). -/
def SubEntry.id (e : SubEntry) (idx : Nat) : Nat := idx + 64 * (e.installs % 1024)

/-- The code reference of the terminator of a run that starts at `start` with this body. -/
def termRef (start : DWord) (body : List Instr) : DWord := pcAdd start ((body.map (·.bytes)).foldl (· + ·) 0)

/-- Whether an enabled breakpoint of a context matches a code reference (R440): its number. -/
def Context.bpMatch (c : Context) (pc : DWord) : Option Nat :=
  (List.range 4).find? fun n =>
    let w := c.bpOfs.getD n 0
    let h := bits (c.bpHdl.getD (n / 2) 0).toNat (16 * (n % 2)) 12
    w.getLsbD 0 && h == pcHandle pc && decide (pcOffset pc < 2 ^ 32) && (w.toNat / 4 == pcOffset pc / 4)

/-- References of the instructions of a run, the terminator's included. -/
def runRefs (start : DWord) (body : List Instr) : List DWord :=
  (List.range (body.length + 1)).map fun i => termRef start (body.take i)

/-- The index of the table entry of a run on a cluster. -/
def State.subFind (s : State) (cl part : Nat) (start : DWord) : Option (Nat × SubEntry) :=
  ((s.cluster cl).subst.zipIdx.find? fun e => e.1.state != .free && e.1.part == part && e.1.start == start).map fun e => (e.2, e.1)

def State.modSub (s : State) (cl idx : Nat) (f : SubEntry → SubEntry) : State :=
  s.modCluster cl fun c => { c with subst := lset c.subst idx (f (c.subst.getD idx {})) }

/-- The sampler entry of a run on a cluster. -/
def Cluster.samplerFind (c : Cluster) (part : Nat) (start : DWord) : Option Nat :=
  c.sampler.findIdx? fun e => (e.map fun x => x.part == part && x.start == start).getD false

/-- Whether a run of this body ends in an eligible terminator (R402). -/
def eligibleEnd (body : List Instr) (term : Instr) : Bool :=
  (match term.fields with
    | .t f => f.el == 1
    | _ => false) && runEligible body term

/-- The text of a run for its sampler entry, which keeps the one it has. -/
def Sampler.learn (x : Sampler) (body : List Instr) (term : Instr) : Sampler :=
  if x.endI.isSome then x
  else
    let u := textUses (body ++ [term])
    { x with ins := u.1, outs := outputsOf u.2, text := body, endI := some term }

/-- Change the sampler entry of a run. -/
def State.modSampler (s : State) (cl part : Nat) (start : DWord) (f : Sampler → Option Sampler) : State :=
  match (s.cluster cl).samplerFind part start with
  | some i => s.modCluster cl fun c => { c with sampler := lset c.sampler i ((c.sampler.getD i none).bind f) }
  | none => s

/-- A run turns out not to be eligible: an entry taken for it before its text was known is free again (log entry 49). -/
def State.samplerDrop (s : State) (cl part : Nat) (start : DWord) : State :=
  s.modSampler cl part start fun x => if x.endI.isSome then some x else none

/-- An execution of a run without a table entry takes a sampler entry, or is counted by the one its run has: the state, and
the number of an execution that is to give samples (R406). `text` is the run's body and terminator where they can be fetched now. -/
def State.samplerCount (s : State) (cl part : Nat) (start : DWord) (text : Option (List Instr × Instr)) : State × Option Nat :=
  let c := s.cluster cl
  let hot := substField (s.part part).substCtl 16
  let learn := fun (x : Sampler) => match text with
    | some t => x.learn t.1 t.2
    | none => x
  match c.samplerFind part start with
  | some i =>
    match c.sampler.getD i none with
    | some x =>
      if x.done || decide (64 ≤ x.samples.length) then (s, none)
      else
        (s.modCluster cl fun c => { c with sampler := lset c.sampler i (some (learn { x with count := x.count + 1 })) },
         if 2 ^ hot < x.count + 1 then some (x.count + 1) else none)
    | none => (s, none)
  | none =>
    match c.sampler.findIdx? (·.isNone) with
    | some i =>
      (s.modCluster cl fun c =>
        { c with sampler := lset c.sampler i (some (learn { part := part, start := start, count := 1 })) }, none)
    | none => (s, none)

/-- The beginning of an execution, at the beat 0 of a run's first instruction (R405, R406, R410, R411, R415). An eligible run is
counted when it begins; where some of its text cannot be fetched yet it counts as eligible until that is known (log entry 49). -/
def State.substStart (s : State) (k : Nat) : State :=
  match s.fib? k with
  | none => s
  | some f =>
    let part := s.strandPart (fibStrand k)
    let cl := fibCluster k
    let r : RunRec := { start := f.pc }
    let set := fun (s : State) (r : RunRec) => s.modFib k fun f => { f with run := some r }
    if f.runPos ≠ 0 ∨ !s.launchFlag k 3 ∨ (f.run.map (·.told)).getD false then s
    else if !substEn (s.part part).substCtl then set s r
    else
      match s.subFind cl part f.pc with
      | none =>
        match s.runAhead k f 25 with
        | some (body, term) =>
          if eligibleEnd body term then
            let x := s.samplerCount cl part f.pc (some (body, term))
            set x.1 { r with num := x.2 }
          else set (s.samplerDrop cl part f.pc) r
        | none =>
          let x := s.samplerCount cl part f.pc none
          set x.1 { r with num := x.2 }
      | some (idx, e) =>
        if e.state = .rejected ∨ e.state = .withdrawn then set s r
        else if (runRefs f.pc e.text).any fun p => ((s.ctx (s.strandCtx (fibStrand k))).bpMatch p).isSome then set s r
        else if e.bad then
          set (s.modSub cl idx fun e => { e with state := .withdrawn }) { r with bad := some (e.id idx) }
        else
          let spot := e.spot + 1
          let prom := decide (e.state = .promoted)
          let cand := prom && decide (spot % 2 ^ substField (s.part part).substCtl 8 ≠ 0)
          let e' := { e with serial := (e.serial + 1) % 2 ^ 32, spot := if prom then spot else e.spot }
          let u : SubstUse :=
            { idx := idx, entry := e.id idx, serial := e'.serial, cand := cand, body := e.cand, text := e.text
              endI := e.endI, term := termRef f.pc e.text, ins := e.ins, outs := e.outs }
          set ((s.modSub cl idx fun _ => e').count cl (if cand then 0x3A else 0x39) 1) { r with use := some u }

/-! ### The terminator (R403, R406, R412 to R417) -/

/-- The four bits of cover() for the inputs of an execution in the lanes of its run mask (R412): a bit is set when every input
shows its property. -/
def coverBits (ins : List (List Word)) (lanes : Lanes) : List (List Bool) :=
  ins.map fun v =>
    let ws := (lanesIn lanes).map (laneW v)
    [ws.any (·.getLsbD 31), ws.any fun w => !w.getLsbD 31, ws.any (· == 0), ws.any (fun w => decide (65536 ≤ w.toInt.natAbs)),
     ws.any (fun w => !w.getLsbD 0), ws.any (·.getLsbD 0)]

/-- Cover state of an entry: six bits for each input, kept as a number. -/
def coverOr (old : Nat) (b : List (List Bool)) : Nat :=
  old ||| (b.flatten.zipIdx.foldl (fun a x => if x.1 then a + 2 ^ x.2 else a) 0)

/-- The four coverage bits (Table 18.9) of a cover state over `n` inputs. -/
def coverWord (st n : Nat) : Nat :=
  let has := fun (j : Nat) => (List.range n).all fun i => st.testBit (6 * i + j)
  (if has 0 && has 1 then 1 else 0) + (if has 2 then 2 else 0) + (if has 3 then 4 else 0) + (if has 4 && has 5 then 8 else 0)

/-- Put samples of an execution among those held, in the order of R405; only the first 64 in that order stay, so that a later execution
that ends first takes no place of an earlier one. -/
def insertSamples (n : Nat) (new : List (Nat × List Word)) (held : List (Nat × Nat × List Word)) : List (Nat × Nat × List Word) :=
  ((held.takeWhile fun x => decide (x.1 ≤ n)) ++ (new.map fun x => (n, x.1, x.2)) ++
    held.dropWhile fun x => decide (x.1 ≤ n)).take 64

/-- Whether an entry passes its samples to the carding controller: 64 are held, and no execution before the last of theirs has its
own still to give (R405, R406). -/
def State.sampled (s : State) (cl : Nat) (x : Sampler) : Bool :=
  decide (64 ≤ x.samples.length) &&
    s.allFibs.all fun f =>
      !(fibCluster f.1 == cl && s.strandPart (fibStrand f.1) == x.part &&
        (f.2.run.map fun r => r.start == x.start && (r.num.map fun n => decide (n < ((x.samples.getLast?.map (·.1)).getD 0))).getD false).getD
          false)

/-- An execution numbered above 2^HOT gives one sample for each lane of its run mask, in ascending lane order (R406). -/
def State.sample (s : State) (cl part : Nat) (r : RunRec) (n : Nat) : State :=
  let c := s.cluster cl
  match (c.samplerFind part r.start).bind fun i => (c.sampler.getD i none).map fun x => (i, x) with
  | some (i, x) =>
    if x.done then s
    else
      let new := (lanesIn r.lanes).map fun l => (l, r.inputs.map fun v => laneW v.2 l)
      let held := insertSamples n new x.samples
      (s.modCluster cl fun c => { c with sampler := lset c.sampler i (some { x with samples := held }) }).count cl 0x38
        (held.length - x.samples.length)
  | none => s

/-- A candidate-mode execution ends: outputs that the candidate left as they were are written too, so they carry the direct tag in the
lanes of the run mask (R409, R413). -/
def Ctx.tagOutputs (c : Ctx) (s : State) (r : RunRec) (u : SubstUse) : State :=
  let tag : Tag := { entry := u.entry, serial := u.serial, direct := true }
  let kept := u.outs.filter fun o => !((u.body.flatMap fun i => i.regs.dst).flatMap spanRegs).contains o
  s.modStrand c.strand fun st =>
    kept.foldl
      (fun a o =>
        let row := a.row o
        let tags := row.tags.filter (fun e => !r.lanes.getLsbD e.1) ++ (lanesIn r.lanes).map fun l => (l, tag)
        { a with regs := tset a.regs o { row with tags := tags } }) st

/-- The final words of registers of the strand, everything in flight of fixed latency included. -/
def Ctx.finalWords (c : Ctx) (r : Nat) : List Word := laneVec fun l => (c.st.view r l (l / 32) (c.is.r2 + 1000)).w

/-- Provenance of a candidate-mode execution in the lanes of its run mask (R417). -/
def Ctx.provenance (c : Ctx) (s : State) (r : RunRec) (u : SubstUse) : State :=
  let pad := fun (n : Nat) (v : List (List Word)) (l : Nat) => (List.range n).map fun i => ((v[i]?).map fun w => laneW w l).getD 0
  let outs := u.outs.map c.finalWords
  s.modStrand c.strand fun st =>
    let one := fun (l : Nat) =>
      ({ entry := u.entry, serial := u.serial, ins := pad 4 (r.inputs.map (·.2)) l, outs := pad 2 outs l } : Provenance)
    { st with prov := (lanesIn r.lanes).foldl (fun t l => tset t l (one l)) st.prov }

/-- The end of a checked execution (R412, R414, R415): the new state and the trap its terminator delivers. -/
def Ctx.checkedEnd (c : Ctx) (s : State) (r : RunRec) (u : SubstUse) : State × Option Trap :=
  let cl := c.cluster
  let part := s.strandPart c.strand
  let e := (s.cluster cl).subst.getD u.idx {}
  let live := e.id u.idx == u.entry && e.state != .free
  if r.instrs.map (·.instr) ≠ u.text ∨ u.endI ≠ some c.i then
    (if live then s.modSub cl u.idx fun e => { e with state := .withdrawn } else s,
     some { cause := .substTextFault, addr := r.start })
  else
    let got := textOuts u.body r.inputs r.lanes u.outs
    let clean := (u.outs.zip got).all fun o => (lanesIn r.lanes).all fun l => laneW (c.finalWords o.1) l == laneW o.2 l
    if !live then (s, none)
    else if clean then
      if e.state = .probation then
        let ctl := (s.part part).substCtl
        let cover := coverOr e.cover (coverBits (r.inputs.map (·.2)) r.lanes)
        let need := substField ctl 12
        let ok := decide (2 ^ (3 + substField ctl 4) ≤ e.clean + 1) && (coverWord cover u.ins.length &&& need) == need
        (s.modSub cl u.idx fun e =>
          { e with clean := e.clean + 1, cover := cover, state := if ok then .promoted else e.state
                   spot := if ok then 0 else e.spot }, none)
      else (s, none)
    else if e.state = .probation then (s.modSub cl u.idx fun e => { e with state := .rejected }, none)
    else if e.state = .promoted then
      (s.modSub cl u.idx fun e => { e with state := .withdrawn },
       some { cause := .substWithdrawn, addr := BitVec.ofNat 64 u.entry })
    else (s, none)

/-- What the terminator of a run does before it takes effect (R403, R406, R412, R415): the state to go on from, or a trap with
the state it leaves. After a trap of R414 or R415 the tests are not made again (R429). -/
def Ctx.substEnd (c : Ctx) (s : State) : State × Option Trap :=
  let el := match c.i.fields with
    | .t f => f.el == 1
    | _ => false
  match c.f.run with
  | none => (s, none)
  | some r =>
    let r := c.observeEnd r
    let part := s.strandPart c.strand
    let forget := fun (s : State) => s.modFib c.k fun f =>
      { f with run := f.run.map fun r => { r with use := none, bad := none, num := none, told := true } }
    let body := r.instrs.map (·.instr)
    if r.told then (s, none)
    else
      match r.use with
      | some u =>
        if u.cand then (c.tagOutputs (c.provenance s r u) r u, none)
        else
          let e := c.checkedEnd s r u
          (if e.2.isSome then forget e.1 else e.1, e.2)
      | none =>
        match r.bad with
        | some id => (forget s, some { cause := .substTableError, addr := BitVec.ofNat 64 id })
        | none =>
          if !el then (s.samplerDrop c.cluster part r.start, none)
          else if !runEligible body c.i then
            (s.samplerDrop c.cluster part r.start, some { cause := .substIneligible, addr := r.start })
          else
            let s := s.modSampler c.cluster part r.start fun x => some (x.learn body c.i)
            (match r.num with
              | some n => s.sample c.cluster part r n
              | none => s, none)

/-- The outcome of a terminator: the checks of every instruction, the tests of its run (R403, R412, R415), then its effect. A trap
that the terminator itself raises leaves the tests to its next execution, but for one that is its effect. -/
def endRunWith (i : Instr) (s : State) (body : Ctx → State → Res) : Host.Outcome State Fault Refusal :=
  issue i s fun c s =>
    match c.substEnd s with
    | (s', some t) => .trapIn s' t
    | (s', none) =>
      match body c s' with
      | .trap t => if t.next then .trapIn s' t else .trap t
      | r => r

end Sys2Proof.Machine
end

