-- ==== Sys2Proof/Machine/Ctl.lean ====
section
/-! DEFINITION. Control instructions, opcodes 0x00 to 0x0D, and the splitting, merging and ending of fibres (chapter 3). -/

namespace Sys2Proof.Machine

/-- NOP (R89). -/
def execNop (f : X64) (s : State) : Host.Outcome State Fault Refusal := issue (.nop f) s fun _ s => .next s

/-- RUNEND (R90). -/
def execRunend (f : T96) (s : State) : Host.Outcome State Fault Refusal :=
  endRunWith (.runend f) s fun c s => c.gotoNext s

/-- The target of a PC-relative transfer (R85). -/
def Ctx.target (c : Ctx) (f : T96) : Option DWord := pcTarget c.f.pc f.imm26.toInt

/-- BRA (R91). -/
def execBra (f : T96) (s : State) : Host.Outcome State Fault Refusal :=
  endRunWith (.bra f) s fun c s =>
    match c.target f with
    | none => .trap { cause := .pcWrap }
    | some t => c.goto s t

/-- cond(l) of R92 on the word of A. -/
def condHolds (k : Cond) (b : Nat) (w : Word) : Bool :=
  match k with
  | .nz => w != 0
  | .z => w == 0
  | .bset => w.getLsbD b
  | .bclr => !w.getLsbD b

/-- Lanes of act in which the condition of a branch holds. -/
def Ctx.condLanes (c : Ctx) (k : Cond) (f : T96) : Lanes :=
  c.act &&& lanesOf fun l => condHolds k f.b.toNat (c.rd f.a.toNat l)

/-- The BRANCH packet of a conditional branch (R435). -/
def Ctx.branchPacket (c : Ctx) (s : State) (taken : Lanes) : State :=
  s.packet c.k 2 (bytesOfNat 4 (pcOffset c.f.pc) ++ lanesBytes taken)

/-- CRC-64 (ECMA-182) of bytes (R447). -/
def crc64 (bs : List Byte) : DWord :=
  bs.foldl
    (fun (r : DWord) (b : Byte) =>
      (List.range 8).foldl (fun (r : DWord) _ => if r.getLsbD 63 then (r <<< 1) ^^^ 0x42F0E1EBA9EA3693#64 else r <<< 1)
        (r ^^^ (b.setWidth 64 <<< 56))) 0

/-- Add a branch to the path signature of a launch under measurement (R447). -/
def Ctx.mrBranch (c : Ctx) (s : State) (taken : Lanes) : State :=
  match s.skein? c.skein with
  | none => s
  | some sk =>
    if (s.part sk.part).mrLaunch == some sk.launch then
      let bs := bytesOfNat 4 sk.index ++ [BitVec.ofNat 8 (strandSid c.strand % 16)] ++ bytesOfNat 4 (pcOffset c.f.pc) ++
        lanesBytes taken
      s.modPart sk.part fun p => { p with mrSig := p.mrSig + crc64 bs }
    else s

/-- What a conditional branch records before it transfers (R435, R447). -/
def Ctx.branchNote (c : Ctx) (s : State) (taken : Lanes) : State := c.mrBranch (c.branchPacket s taken) taken

/-- FIBRE_SPLIT (R79, R80): the set `d` is detached and goes on at `pcD`, the parent at `pcP`; both carry the token. -/
def Ctx.split (c : Ctx) (s : State) (f : T96) (d : Lanes) (pcD pcP : DWord) : Res :=
  let s := c.closeRun s
  match s.strand? c.strand, s.fib? c.k with
  | some st, some p =>
    let path := tfree st.paths 0 97
    let tok : BitVec 16 := if f.flg = 0 then p.tokens else p.tokens ||| BitVec.ofNat 16 (2 ^ f.flg.toNat)
    let child : Fibre :=
      { laneSet := d, pc := pcD, base := p.base, tokens := tok, pubs := p.pubs, stamp := p.stamp, bound := p.bound
        state := .running, wb0 := p.wb0, wb1 := p.wb1, fills := p.fills, level := p.level, last3 := p.last3, issued := true
        view := p.view, pend := p.pend, fences := p.fences }
    let s := s.modStrand c.strand fun st =>
      let st := (List.range 3).foldl (fun a e => a.poke (253 + e) (d &&& groupLanes e) fun _ => 1) st
      { st with paths := tset (tmod st.paths (fibPath c.k) fun q => { q with laneSet := q.laneSet &&& ~~~d, tokens := tok }) path child }
    let s := s.packet c.k 3 (BitVec.ofNat 8 path :: lanesBytes d)
    let kc := mkFib c.strand path
    let s := s.shareStores c.k kc
    let parent := ((s.endRun c.k pcP).toReady c.k)
    let s := (parent.endRun kc pcD).toReady kc
    .fin (s.modFib kc fun q => { q with stamp := if q.state == .ready then p.stamp else q.stamp })
  | _, _ => .fin s

/-- BRC (R79, R80, R92). -/
def execBrc (k : Cond) (f : T96) (s : State) : Host.Outcome State Fault Refusal :=
  endRunWith (.brc k f) s fun c s =>
    match c.target f with
    | none => .trap { cause := .pcWrap }
    | some t =>
      let tl := c.condLanes k f
      let fl := c.mask &&& ~~~tl
      let s' := c.branchNote s tl
      if tl == 0 then c.gotoNext s'
      else if fl == 0 then c.goto s' t
      else if c.fallsOff then .trap { cause := .pcWrap }
      else if laneCount tl ≤ laneCount fl then c.split s' f tl t c.nextPc
      else c.split s' f fl c.nextPc t

/-- A branch of the whole fibre (R92). -/
def wholeBranch (i : Instr) (f : T96) (taken : Ctx → Bool) (s : State) : Host.Outcome State Fault Refusal :=
  endRunWith i s fun c s =>
    match c.target f with
    | none => .trap { cause := .pcWrap }
    | some t =>
      let s' := c.branchNote s (if taken c then c.f.laneSet else 0)
      if taken c then c.goto s' t else c.gotoNext s'

/-- BRU (R92). -/
def execBru (k : Cond) (f : T96) (s : State) : Host.Outcome State Fault Refusal :=
  wholeBranch (.bru k f) f (fun c => condHolds k f.b.toNat (c.rdLow f.a.toNat)) s

/-- BRANY (R92). -/
def execBrany (k : Cond) (f : T96) (s : State) : Host.Outcome State Fault Refusal :=
  wholeBranch (.brany k f) f (fun c => c.condLanes k f != 0) s

/-- BRALL (R92). -/
def execBrall (k : Cond) (f : T96) (s : State) : Host.Outcome State Fault Refusal :=
  wholeBranch (.brall k f) f (fun c => c.act != 0 && c.condLanes k f == c.act) s

/-- Transfer to a checked code reference (R84, R437 reason 1). -/
def Ctx.gotoRef (c : Ctx) (s : State) (ref : DWord) : Res :=
  .fin ((((c.closeRun s).endRun c.k ref).setRef c.k ref).packet c.k 5
    (BitVec.ofNat 8 1 :: bytesOfNat 8 ref.toNat ++ lanesBytes c.mask) |>.toReady c.k)

/-- The trap of R84 for a reference, if a check fails. -/
def Ctx.refTrap (c : Ctx) (s : State) (ref : DWord) : Option Trap :=
  (s.refCheck c.cluster (s.strandPart c.strand) ref).map fun e => { cause := e, addr := ref }

/-- A jump through a pair (R93). -/
def jumpPair (i : Instr) (f : T96) (s : State) : Host.Outcome State Fault Refusal :=
  endRunWith i s fun c s =>
    let ref := c.rdPairLow f.a.toNat
    match c.refTrap s ref with
    | some t => .trap t
    | none => c.gotoRef s ref

/-- JMPI (R93). -/
def execJmpi (f : T96) (s : State) : Host.Outcome State Fault Refusal := jumpPair (.jmpi f) f s

/-- RET (R93). -/
def execRet (f : T96) (s : State) : Host.Outcome State Fault Refusal := jumpPair (.ret f) f s

/-- The link of CALL and CALLI (R93). -/
def Ctx.link (c : Ctx) : DWord := BitVec.ofNat 64 (pcHandle c.f.pc * 2 ^ 40 + (pcOffset c.f.pc + c.len) % 2 ^ 40)

/-- CALL (R93). A link that would leave the 40 bits of an offset is the fall-through case of R85. -/
def execCall (f : T96) (s : State) : Host.Outcome State Fault Refusal :=
  endRunWith (.call f) s fun c s =>
    match c.target f with
    | none => .trap { cause := .pcWrap }
    | some t => if c.fallsOff then .trap { cause := .pcWrap } else c.goto (c.putPair s f.a (fun _ => c.link) 2) t

/-- CALLI (R93). -/
def execCalli (f : T96) (s : State) : Host.Outcome State Fault Refusal :=
  endRunWith (.calli f) s fun c s =>
    let ref := c.rdPairLow f.b.toNat
    match c.refTrap s ref with
    | some t => .trap t
    | none => if c.fallsOff then .trap { cause := .pcWrap } else c.gotoRef (c.putPair s f.a (fun _ => c.link) 2) ref

/-! ### Merging and ending (R81, R82) -/

/-- A fibre that ended, by ENDK or by a merge, has no deferred trap to come from the SFU or the function unit, and its pending SFU
writes are discarded in its lanes (R159, R384); a withheld one stays withheld in every lane (R160, log entry 68). -/
def State.forsake (s : State) (k : Nat) : State :=
  let seqs := ((s.spindle (fibCluster k) (s.spindleOf k)).sfu.filter (·.fib == k)).flatMap (·.seqs)
  let lanes := ((s.fib? k).map (·.laneSet)).getD 0
  let s := s.modStrand (fibStrand k) fun st =>
    { st with flights := st.flights.map fun x => if seqs.contains x.seq then { x with lanes := x.lanes &&& ~~~lanes } else x }
  let s := s.modSpindle (fibCluster k) (s.spindleOf k) fun x =>
    { x with sfu := (x.sfu.filter fun e => e.fib != k || !e.held).map fun e => if e.fib == k then { e with live := false } else e }
  s.modCluster (fibCluster k) fun c =>
    { c with fnq := (c.fnq.filter fun o => o.fib != k || o.held.isNone).map fun o => if o.fib == k then { o with live := false } else o }

/-- The members of a merge group joined in the one with the lowest path index; `ms` is in ascending path index (R81, R302). -/
def State.mergeGroup (s : State) (strand k : Nat) (ms : List (Nat × Fibre)) : State :=
  match ms with
  | [] => s
  | (p0, f0) :: rest =>
    let holders := ms.filter fun m => m.2.task.isSome
    match holders with
    | _ :: _ :: _ =>
      -- R302: members that hold tasks, but for the lowest of them, take TASK_QUEUE_INVALID at their RCVG.
      holders.tail.foldl
        (fun a m =>
          let q := (m.2.task.map (·.queue)).getD 0
          let key := mkFib strand m.1
          let a := a.modFib key fun f => { f with after := none, pubs := [] }
          a.takeTrap key { cause := .taskQueueInvalid, addr := BitVec.ofNat 64 q } m.2.laneSet 0) s
    | _ =>
      let key := mkFib strand p0
      let s := rest.foldl
        (fun a m =>
          let a := a.packet key 4 [BitVec.ofNat 8 m.1]
          let a := ((a.shareStores (mkFib strand m.1) key).disownStores (mkFib strand m.1)).forsake (mkFib strand m.1)
          a.modStrand strand fun st =>
            let st := st.discard m.2.laneSet (fun r => !m.2.pubs.contains r) a.cycle
            { st with paths := terase st.paths m.1 }) s
      let s := s.modFib key fun f =>
        { f with
          laneSet := ms.foldl (fun a m => a ||| m.2.laneSet) 0
          tokens := ms.foldl (fun a m => a ||| m.2.tokens) 0 &&& ~~~BitVec.ofNat 16 (2 ^ k)
          pubs := (ms.flatMap (·.2.pubs)).eraseDups
          bound := ms.foldl (fun a m => triMax a m.2.bound) f0.bound
          view := ms.foldl (fun a m => a.join m.2.view) f.view
          pend := (ms.flatMap (·.2.pend)).eraseDups
          fences := (ms.flatMap (·.2.fences)).eraseDups
          task := (holders.head?.bind (·.2.task)) }
      s.waitDone key

/-- The merge test for token k of a strand (R81): every carrier has parked at an RCVG k. -/
def State.tryMerge (s : State) (strand k : Nat) : State :=
  match s.strand? strand with
  | none => s
  | some st =>
    let carriers := st.paths.filter fun p => p.2.tokens.getLsbD k
    if !carriers.isEmpty && carriers.all fun p => p.2.wait == .rcvg k then
      let pcs := (carriers.map (·.2.pc)).eraseDups
      pcs.foldl (fun a pc => a.mergeGroup strand k (carriers.filter fun p => p.2.pc == pc)) s
    else s

/-- The merge tests of every token of a set (R81: when a carrier ends). -/
def State.tryMerges (s : State) (strand : Nat) (tokens : BitVec 16) : State :=
  (List.range 15).foldl (fun a j => if tokens.getLsbD (j + 1) then a.tryMerge strand (j + 1) else a) s

/-- Whether every other carrier of a token has parked at an RCVG that names it. -/
def Ctx.othersAt (c : Ctx) (k : Nat) : Bool :=
  c.st.paths.all fun p => p.1 == fibPath c.k || !p.2.tokens.getLsbD k || p.2.wait == .rcvg k

/-- A carrier that the merge test has left at its RCVG parks there (R81). -/
def State.parkLeft (s : State) (k n : Nat) : State :=
  match s.fib? k with
  | some f => if f.state == .running && f.wait == .rcvg n then s.park k (.rcvg n) else s
  | none => s

/-- RCVG (R94): the last carrier to come does not park before the merge (Table 21.5). -/
def execRcvg (f : T96) (s : State) : Host.Outcome State Fault Refusal :=
  endRunWith (.rcvg f) s fun c s =>
    let k := f.flg.toNat
    if !c.f.tokens.getLsbD k then c.gotoNext s
    else if c.othersAt k && !c.fallsOff then
      .fin (((((c.closeRun s).modFib c.k fun f => { f with after := some c.nextPc, wait := .rcvg k }).unslot c.k).tryMerge c.strand k).parkLeft
        c.k k)
    else c.await s (.rcvg k)

/-- End a fibre (R82): its writes in flight are discarded, its path entry is free, and it carries no token. -/
def State.endFibre (s : State) (k : Nat) : State :=
  match s.fib? k with
  | none => s
  | some f =>
    let s := (((s.unslot k).packet k 6 []).disownStores k).forsake k
    let s := s.modStrand (fibStrand k) fun st =>
      { st.discard f.laneSet (fun _ => true) s.cycle with paths := terase st.paths (fibPath k) }
    (s.tryMerges (fibStrand k) f.tokens).tryEndStrand (fibStrand k)

/-- ENDK (R95, R302). -/
def execEndk (f : T96) (s : State) : Host.Outcome State Fault Refusal :=
  endRunWith (.endk f) s fun c s =>
    match c.f.task with
    | some t => .trap { cause := .taskQueueInvalid, addr := BitVec.ofNat 64 t.queue }
    | none => .fin (s.endFibre c.k)

/-- YIELD (R96). -/
def execYield (f : T96) (s : State) : Host.Outcome State Fault Refusal :=
  endRunWith (.yield f) s fun c s =>
    match c.await s (.yield (c.is.r2 + 3 * f.imm26.toNat)) with
    | .fin s => .fin (s.modFib c.k fun f => { f with last3 := true })
    | r => r

/-- YIELD_WAKE (R96). -/
def execYieldWake (k : Nat) (s : State) : Host.Outcome State Fault Refusal :=
  match s.fib? k with
  | some f =>
    match f.wait with
    | .yield t => .next (if f.state == .parked && decide (t ≤ s.cycle) then s.waitDone k else s)
    | _ => .next s
  | none => .next s

end Sys2Proof.Machine
end

