-- ==== Sys2Proof/Machine/Fp.lean ====
section
/-! DEFINITION. The meanings of the floating-point and quantisation instructions, opcodes 0x40 to 0x51 (chapter 5). -/

namespace Sys2Proof.Machine

/-- The flags of a list of results, of the elements that `dm` enables (R135). -/
def flagsOf (dm : BitVec 8) (rs : List (Nat × Flags)) : Flags :=
  rs.zipIdx.foldl (fun a e => if dm.getLsbD e.2 then a ||| e.1.2 else a) 0

/-- Deliver element-wise results of latency 3: the enabled trap first (R138), then D under DMASK and the flags (R139, R137). -/
def Ctx.fpPut (c : Ctx) (s : State) (d : BitVec 8) (w : Nat) (dm : BitVec 8) (order : List Cause)
    (res : Nat → List (Nat × Flags)) : Res :=
  let fl := fun l => flagsOf dm (res l)
  match fpTrap c.st.ctl order c.act fl with
  | some t => .trap t
  | none =>
    let s := c.putBits s d.toNat c.act (fun l => fromElems w ((res l).map (·.1))) (dmaskBits w dm) 3 c.laneTag
    .next (c.orFlags s fl 3)

/-- The causes of an FADD-class entry, in its order (R141). -/
def ordArith : List Cause := [.fpInvalid, .fpOverflow, .fpUnderflow, .fpInexact]

/-- FLG[1:0] as a rounding mode, and as a type selector (R140). -/
def X64.mode (f : X64) : RMode := .of f.flg.toNat
def X64.ftype (f : X64) : FType := if f.flg.toNat % 4 = 0 then .f32 else if f.flg.toNat % 4 = 1 then .f16 else .bf16

/-- An element-wise floating-point instruction; `op` takes the elements of A, B and C. -/
def fpElem (i : Instr) (f : X64) (order : List Cause) (op : Nat → Nat → Nat → Nat × Flags) (s : State) :
    Host.Outcome State Fault Refusal :=
  issue i s fun c s =>
    let w := X64.w f
    c.fpPut s f.d w (X64.dm f w) order fun l =>
      let a := c.srcA .flt w f l
      let b := c.srcB .flt w f l
      let cc := c.srcC .flt w f l
      (List.range (32 / w)).map fun i => op (el w a i) (el w b i) (el w cc i)

/-- A sum of two elements, rounded once (R141). -/
def addRnd (t : Fmt) (a b : Val) (m : RMode) : Nat × Flags := dotRnd t [] [a, b] m

/-- FADD (R141). -/
def execFadd (t : FType) (f : X64) (s : State) : Host.Outcome State Fault Refusal :=
  fpElem (.fadd t f) f ordArith (fun a b _ => addRnd t.fmt (t.fmt.val a) (t.fmt.val b) (X64.mode f)) s

/-- FSUB (R141). -/
def execFsub (t : FType) (f : X64) (s : State) : Host.Outcome State Fault Refusal :=
  fpElem (.fsub t f) f ordArith (fun a b _ => addRnd t.fmt (t.fmt.val a) (t.fmt.val b).neg (X64.mode f)) s

/-- FMUL (R141). -/
def execFmul (t : FType) (f : X64) (s : State) : Host.Outcome State Fault Refusal :=
  fpElem (.fmul t f) f ordArith (fun a b _ => mulRnd t.fmt (t.fmt.val a) (t.fmt.val b) (X64.mode f)) s

/-- FFMA (R141). -/
def execFfma (t : FType) (f : X64) (s : State) : Host.Outcome State Fault Refusal :=
  fpElem (.ffma t f) f ordArith
    (fun a b c => dotRnd t.fmt [(t.fmt.val a, t.fmt.val b)] [t.fmt.val c] (X64.mode f)) s

/-- FMIN (R142). -/
def execFmin (f : X64) (s : State) : Host.Outcome State Fault Refusal :=
  fpElem (.fmin f) f [.fpInvalid] (fun a b _ => (X64.ftype f).fmt.minMax false false a b) s

/-- FMAX (R142). -/
def execFmax (f : X64) (s : State) : Host.Outcome State Fault Refusal :=
  fpElem (.fmax f) f [.fpInvalid] (fun a b _ => (X64.ftype f).fmt.minMax true false a b) s

/-- FMINN (R142). -/
def execFminn (f : X64) (s : State) : Host.Outcome State Fault Refusal :=
  fpElem (.fminn f) f [.fpInvalid] (fun a b _ => (X64.ftype f).fmt.minMax false true a b) s

/-- FMAXN (R142). -/
def execFmaxn (f : X64) (s : State) : Host.Outcome State Fault Refusal :=
  fpElem (.fmaxn f) f [.fpInvalid] (fun a b _ => (X64.ftype f).fmt.minMax true true a b) s

/-- A predicate of R143 on two values: the truth value and NV. -/
def fcmpVal (c : FCmp) (a b : Val) : Bool × Flags :=
  let u := a.isNan || b.isNan
  let o := a.cmp b
  let quiet := c = .eq ∨ c = .ne ∨ c = .un ∨ c = .ord
  let nv := if sigNV [a, b] ≠ 0 ∨ u ∧ ¬quiet then fNV else 0
  (match c with
    | .eq => !u && o == .eq
    | .ne => u || o != .eq
    | .lt => !u && o == .lt
    | .le => !u && o != .gt
    | .gt => !u && o == .gt
    | .ge => !u && o != .lt
    | .un => u
    | .ord => !u, nv)

/-- FCMP (R143). -/
def execFcmp (cc : FCmp) (f : X64) (s : State) : Host.Outcome State Fault Refusal :=
  issue (.fcmp cc f) s fun c s =>
    let w := X64.w f
    let t := (X64.ftype f).fmt
    let res := fun l => List.zipWith (fun a b => fcmpVal cc (t.val a) (t.val b)) (elems w (c.srcA .flt w f l))
      (elems w (c.srcB .flt w f l))
    let fl := fun l => (res l).foldl (fun a r => a ||| r.2) 0
    match fpTrap c.st.ctl [.fpInvalid] c.act fl with
    | some t => .trap t
    | none => .next (c.orFlags (c.putPred s f.d f.imm8.toNat (fun l => (res l).map (·.1)) 3) fl 3)

/-- The class bit of a code (R144). -/
def fclassBit (t : Fmt) (code : Nat) : Nat :=
  match t.val code with
  | .nan sig => if sig then 8 else 9
  | .inf neg => if neg then 0 else 7
  | .fin neg q =>
    if q = 0 then (if neg then 3 else 4)
    else if code % 2 ^ (t.bits - 1) < 2 ^ (t.p - 1) then (if neg then 2 else 5)
    else if neg then 1 else 6

/-- FCLASS (R144). -/
def execFclass (f : X64) (s : State) : Host.Outcome State Fault Refusal :=
  fpElem (.fclass f) f [] (fun a _ _ => (2 ^ fclassBit (X64.ftype f).fmt a, 0)) s

/-- FABS (R145). -/
def execFabs (f : X64) (s : State) : Host.Outcome State Fault Refusal :=
  fpElem (.fabs f) f [] (fun a _ _ => (absElem .flt (X64.w f) a, 0)) s

/-- FNEG (R145). -/
def execFneg (f : X64) (s : State) : Host.Outcome State Fault Refusal :=
  fpElem (.fneg f) f [] (fun a _ _ => (negElem .flt (X64.w f) a, 0)) s

/-- FCOPYSIGN (R145). -/
def execFcopysign (f : X64) (s : State) : Host.Outcome State Fault Refusal :=
  fpElem (.fcopysign f) f []
    (fun a b _ =>
      let h := 2 ^ (X64.w f - 1)
      (a % h + b / h * h, 0)) s

/-- FRND on a code (R146). -/
def frndCode (t : Fmt) (m : RMode) (exact : Bool) (code : Nat) : Nat × Flags :=
  match t.val code with
  | .nan sig => (t.nan, if sig then fNV else 0)
  | .inf _ => (code, 0)
  | .fin neg q =>
    let r := roundInt q m
    ((t.rnd (.fin neg (mkRat r.1 1)) .rne false).1, if exact && r.2 then fNX else 0)

/-- FRND (R146). -/
def execFrnd (t : FType) (f : X64) (s : State) : Host.Outcome State Fault Refusal :=
  fpElem (.frnd t f) f [.fpInvalid, .fpInexact] (fun a _ _ => frndCode t.fmt (X64.mode f) (f.flg.getLsbD 2) a) s

/-- FSCALB on a value (R147). -/
def scalbRnd (t : Fmt) (a : Val) (k : Int) (m : RMode) : Nat × Flags :=
  cvtRnd t (match a with
    | .fin n q => .fin n (q * pow2 k)
    | v => v) m

/-- FSCALB (R147). Beyond ±1,000 the rounded result no longer depends on the count, every format's range being smaller. -/
def execFscalb (t : FType) (f : X64) (s : State) : Host.Outcome State Fault Refusal :=
  issue (.fscalb t f) s fun c s =>
    let w := X64.w f
    c.fpPut s f.d w (X64.dm f w) ordArith fun l =>
      List.zipWith (fun a b => scalbRnd t.fmt (t.fmt.val a) (max (-1000) (min 1000 (val true w b))) (X64.mode f))
        (elems w (c.srcA .flt w f l)) (elems w (c.srcB .raw w f l))

/-- FTWOSUM on two words: sum, error and the flags of the sum (R148). -/
def twoSum (a b : Val) : Nat × Nat × Flags :=
  let s := addRnd fmt32 a b .rne
  let e := match fmt32.val s.1, a, b with
    | .fin _ r, .fin _ p, .fin _ q => (fmt32.rnd (.fin false (p + q - r)) .rne false).1
    | _, _, _ => fmt32.nan
  (s.1, e, s.2)

/-- FTWOSUM (R148). -/
def execFtwosum (f : X64) (s : State) : Host.Outcome State Fault Refusal :=
  issue (.ftwosum f) s fun c s =>
    let res := fun l => twoSum (val32 (c.srcA .flt 32 f l)) (val32 (c.srcB .flt 32 f l))
    let fl := fun l => (res l).2.2
    match fpTrap c.st.ctl ordArith c.act fl with
    | some t => .trap t
    | none =>
      .next (c.orFlags
        (c.putPair s f.d (fun l => cat32 (BitVec.ofNat 32 (res l).2.1) (BitVec.ofNat 32 (res l).1)) 3) fl 3)

/-- A dot product into an FP32 word (R149, R150): the elements are `w` bits wide and C is one FP32 word. -/
def dotInstr (i : Instr) (f : X64) (w : Nat) (ev : Nat → Val) (s : State) : Host.Outcome State Fault Refusal :=
  issue i s fun c s =>
    c.fpPut s f.d 32 0xFF ordArith fun l =>
      [dotRnd fmt32
        (List.zipWith (fun a b => (ev a, ev b)) (elems w (c.srcA .flt w f l)) (elems w (c.srcB .flt w f l)))
        [val32 (c.srcC .flt 32 f l)] (X64.mode f)]

/-- FDOT2 (R149). -/
def execFdot2 (bf : Bool) (f : X64) (s : State) : Host.Outcome State Fault Refusal :=
  dotInstr (.fdot2 bf f) f 16 (if bf then fmtBf.val else fmt16.val) s

/-- FDOT4Q (R150). -/
def execFdot4q (f : X64) (s : State) : Host.Outcome State Fault Refusal :=
  dotInstr (.fdot4q f) f 8 (fun e => ((qType? f.imm8.toNat).map fun t => t.val e).getD (.nan false)) s

/-- Conversion to a `w`-bit integer (R151): the element, whether it was NaN or out of range, and the flags. -/
def cvtToInt (sg : Bool) (w : Nat) (v : Val) (m : RMode) : Nat × Bool × Flags :=
  match v with
  | .nan _ => (0, true, fNV)
  | .inf neg => (wrapW w (if neg then minW sg w else maxW sg w), true, fNV)
  | .fin _ q =>
    let r := roundInt q m
    if r.1 < minW sg w then (wrapW w (minW sg w), true, fNV)
    else if maxW sg w < r.1 then (wrapW w (maxW sg w), true, fNV)
    else (wrapW w r.1, false, if r.2 then fNX else 0)

/-- CVTFI (R151). -/
def execCvtfi (t : FType) (f : X64) (s : State) : Host.Outcome State Fault Refusal :=
  issue (.cvtfi t f) s fun c s =>
    let w := X64.w f
    let dm := X64.dm f w
    let res := fun l => (elems w (c.srcA .flt w f l)).map fun a => cvtToInt (f.flg.getLsbD 2) w (t.fmt.val a) (X64.mode f)
    let bad := c.act &&& lanesOf fun l => (res l).zipIdx.any fun e => dm.getLsbD e.2 && e.1.2.1
    if f.flg.getLsbD 3 && bad != 0 then .trap { cause := .cvtRange, mask := some bad }
    else c.fpPut s f.d w dm [.fpInvalid, .fpInexact] fun l => (res l).map fun r => (r.1, r.2.2)

/-- CVTIF (R152). -/
def execCvtif (t : FType) (f : X64) (s : State) : Host.Outcome State Fault Refusal :=
  issue (.cvtif t f) s fun c s =>
    let w := X64.w f
    c.fpPut s f.d w (X64.dm f w) [.fpOverflow, .fpInexact] fun l =>
      (elems w (c.srcA .int w f l)).map fun a =>
        cvtRnd t.fmt (.fin false (mkRat (val (f.flg.getLsbD 2) w a) 1)) (X64.mode f)

/-- CVTFF (R153). -/
def execCvtff (k : CvtffKind) (f : X64) (s : State) : Host.Outcome State Fault Refusal :=
  issue (.cvtff k f) s fun c s =>
    let narrow := fun (t : Fmt) => c.fpPut s f.d 16 (f.dmask 2) ordArith fun l =>
      [cvtRnd t (val32 (c.srcA .flt 32 f l)) (X64.mode f), cvtRnd t (val32 (c.srcB .flt 32 f l)) (X64.mode f)]
    let half := fun (l : Nat) => el 16 (prepWord .flt 16 f.moda (c.rdA f.a.toNat l)) (f.imm8.toNat % 2)
    let widen := fun (t : Fmt) => c.fpPut s f.d 32 0xFF ordArith fun l => [cvtRnd fmt32 (t.val (half l)) .rne]
    let cross := fun (t u : Fmt) => c.fpPut s f.d 16 (f.dmask 2) ordArith fun l =>
      (elems 16 (c.srcA .flt 16 f l)).map fun a => cvtRnd u (t.val a) (X64.mode f)
    match k with
    | .toF16 => narrow fmt16
    | .toBf16 => narrow fmtBf
    | .fromF16 => widen fmt16
    | .fromBf16 => widen fmtBf
    | .f16ToBf16 => cross fmt16 fmtBf
    | .bf16ToF16 => cross fmtBf fmt16

/-- R154: lanes of act whose scale is NaN, infinite, zero or negative. -/
def Ctx.badScale (c : Ctx) (f : X64) : Lanes :=
  c.act &&& lanesOf fun l =>
    match val32 (c.rd f.b.toNat l) with
    | .fin _ q => decide (q ≤ 0)
    | _ => true

/-- CVTQ on a value already multiplied by its scale (R155): the byte and its flags. `nan` says that the operand is NaN. -/
def quantByte (t : QType) (x : Val) (rtz satReq : Bool) : Nat × Flags :=
  let m : RMode := if rtz then .rtz else .rne
  match t with
  | .flt u => u.rnd x m satReq
  | .int sg w =>
    match x with
    | .nan _ => (0, fNV)
    | .inf neg => (wrapW w (if neg then minW sg w else maxW sg w), fSAT ||| fNX)
    | .fin _ q =>
      let r := roundInt q m
      let b := satW sg w r.1
      (b.1, if b.2 then fSAT ||| fNX else if r.2 then fNX else 0)

/-- CVTQ (R155). A signalling NaN sets NV by R134 also for a float type (log entry 91); AMAX_NAN traps only where the byte is
written (R138), though AMAXNAN is set in every lane of act (log entry 25). -/
def execCvtq (f : X64) (s : State) : Host.Outcome State Fault Refusal :=
  issue (.cvtq f) s fun c s =>
    let bad := c.badScale f
    if bad != 0 then .trap { cause := .scaleInvalid, mask := some bad }
    else
      let k := (f.moda.extractLsb' 0 3).toNat
      let t := (qType? f.imm8.toNat).getD (.int true 8)
      let a := fun l => prepWord .flt 32 (f.moda &&& 0xC0) (c.rdA f.a.toNat l)
      let on := (f.dmask 4).getLsbD k
      let res := fun l =>
        let q := quantByte t ((val32 (a l)).mul (val32 (c.rd f.b.toNat l))).1 (f.flg.getLsbD 0) (f.flg.getLsbD 1)
        (q.1, q.2 ||| sigNV [val32 (a l)])
      let fl := fun l => (if (val32 (a l)).isNan then fAMAXNAN else 0) ||| (if on then (res l).2 else 0)
      match fpTrap c.st.ctl [.amaxNan, .quantSat, .fpInvalid, .fpOverflow, .fpUnderflow, .fpInexact] c.act
          (fun l => if on then fl l else 0) with
      | some t => .trap t
      | none =>
        let mag := fun l => a l &&& 0x7FFFFFFF
        let up := c.act &&& lanesOf fun l =>
          !(val32 (a l)).isNan && ((val32 (c.rd 251 l)).isNan || (val32 (mag l)).cmp (val32 (c.rd 251 l)) == .gt)
        let s := c.putBits s 251 up mag 0xFFFFFFFF 3 fun _ => none
        let s := if on then
            c.putBits s f.d.toNat c.act (fun l => BitVec.ofNat 32 ((res l).1 * 2 ^ (8 * k))) (BitVec.ofNat 32 (255 * 2 ^ (8 * k)))
              3 c.laneTag
          else s
        .next (c.orFlags s fl 3)

/-- CVTDQ (R156). -/
def execCvtdq (f : X64) (s : State) : Host.Outcome State Fault Refusal :=
  issue (.cvtdq f) s fun c s =>
    let bad := c.badScale f
    if bad != 0 then .trap { cause := .scaleInvalid, mask := some bad }
    else
      let k := (f.moda.extractLsb' 0 3).toNat
      let t := (qType? f.imm8.toNat).getD (.int true 8)
      c.fpPut s f.d 32 0xFF [.fpOverflow, .fpUnderflow, .fpInexact] fun l =>
        [mulRnd fmt32 (t.val (el 8 (c.rdA f.a.toNat l) k)) (val32 (c.rd f.b.toNat l)) (X64.mode f)]

end Sys2Proof.Machine
end

