-- ==== Sys2Proof/Machine/MemOps.lean ====
section
/-! DEFINITION. Performing loads, stores and atomic operations (R200 to R202, R236 to R240), the order in which a fibre's stores
are performed (R221), poisoned lines (R199, R240), the escape log (R418 to R420) and the replay log (R444, R445). -/

namespace Sys2Proof.Machine

/-! ### Escape records -/

/-- A record to be: lane, tag, flags [1:0], address and value (Table 18.3). -/
structure Escape where
  lane : Nat
  tag : Tag
  data : Bool
  addrT : Bool
  addr : DWord
  value : Word
  deriving DecidableEq, Repr

/-- The 64 bytes of a record (Table 18.4). -/
def Escape.bytes (e : Escape) (start : Nat) (p : Option Provenance) : List Byte :=
  let known := match p with
    | some v => v.entry == e.tag.entry && v.serial == e.tag.serial
    | none => false
  let flags := (if e.data then 1 else 0) + (if e.addrT then 2 else 0) + (if e.data && e.tag.direct then 4 else 0) +
    (if known then 0 else 8)
  let words := if known then ((p.map (·.ins)).getD []) ++ ((p.map (·.outs)).getD []) else List.replicate 6 0
  bytesOfNat 2 e.tag.entry ++ [BitVec.ofNat 8 e.lane, BitVec.ofNat 8 flags] ++ bytesOfNat 4 start ++ bytesOfNat 8 e.addr.toNat ++
    bytesOfNat 4 e.value.toNat ++ bytesOfNat 4 e.tag.serial ++ (words.flatMap fun w => bytesOfNat 4 w.toNat) ++
    List.replicate 16 0

/-- The tag of a register as lane `l` reads it (R416). -/
def Ctx.tagOf (c : Ctx) (v l : Nat) : Option Tag := (c.rv v l).tag

/-- The first tag of registers read in lane `l`. -/
def Ctx.tagIn (c : Ctx) (rs : List (Nat × Nat)) : Option Tag := rs.findSome? fun r => c.tagOf r.1 r.2

/-- Append the records of an instruction, or trap with ESCAPE_OVERFLOW (R418, R420). -/
def Ctx.escape (c : Ctx) (s : State) (es : List Escape) : Except Trap State :=
  if es.isEmpty then .ok s
  else
    let key := s.strandCtx c.strand
    let x := s.ctx key
    if 4096 < x.escCount.toNat + es.length then .error { cause := .escapeOverflow }
    else
      let s' := es.zipIdx.foldl
        (fun a e =>
          let start := (tget? (a.cluster c.cluster).subRuns e.1.tag.entry).getD 0
          a.memWriteBytes (some (key / 16)) (x.escBase.toNat % 2 ^ 56 + 64 * (x.escCount.toNat + e.2))
            (e.1.bytes start (tget? c.st.prov e.1.lane))) s
      .ok ((s'.modCtx key fun y => { y with escCount := y.escCount + BitVec.ofNat 32 es.length }).count c.cluster 0x3B es.length)

/-- The records of a storing instruction: `data` and `addr` are the registers that hold them in each lane, with the address and
the value (Table 18.3). -/
def Ctx.escapes (c : Ctx) (lanes : List LaneAcc) (data addr : Nat → List (Nat × Nat)) (value : Nat → Word) : List Escape :=
  lanes.filterMap fun a =>
    let d := c.tagIn (data a.lane)
    let b := c.tagIn (addr a.lane)
    (d.orElse fun _ => b).map fun t =>
      { lane := a.lane, tag := t, data := d.isSome, addrT := b.isSome, addr := a.addr, value := value a.lane }

/-- The record of an engine, task, launch or matrix instruction: any register operand of the uniform lane (Table 18.3). -/
def Ctx.escapeLow (c : Ctx) (s : State) (dst : DWord) : Except Trap State :=
  let rs := (c.i.regs.low.flatMap spanRegs).map fun r => (r, c.low)
  match c.tagIn rs with
  | some t => c.escape s [{ lane := c.low, tag := t, data := false, addrT := true, addr := dst, value := 0 }]
  | none => .ok s

/-! ### Replay log -/

/-- Append a record of 160 bytes to the partition's log (R444, Table 20.8). A record that does not fit sets FULL, and the launch logs
no more (R445). -/
def State.replayRecord (s : State) (k : Nat) (addr : Nat) (kind lane : Nat) (body : List Byte) : State :=
  match s.skein? (fibSkein k) with
  | none => s
  | some sk =>
    let p := s.part sk.part
    if ((tget? s.launches sk.launch).map (·.logFull)).getD false then s
    else if 2 ^ p.rpSize < p.rpHead.toNat + 160 then
      { s with launches := tmod s.launches sk.launch fun l => { l with logFull := true } }.modPart sk.part fun x => { x with rpFull := true }
    else
      let r := bytesOfNat 8 addr ++ bytesOfNat 4 sk.replay ++ bytesOfNat 2 (fibCluster k) ++
        bytesOfNat 2 (strandSid (fibStrand k)) ++ [BitVec.ofNat 8 kind, BitVec.ofNat 8 lane] ++ List.replicate 14 0 ++ body
      let s := s.memWriteBytes (some sk.part) (p.rpBase.toNat % 2 ^ 56 + p.rpHead.toNat) r
      let s := s.modPart sk.part fun x => { x with rpHead := x.rpHead + 160 }
      (s.modSkein (fibSkein k) fun x => { x with replay := x.replay + 1 }).count (fibCluster k) 0x3F 1

/-! ### Poison -/

/-- Whether a byte's cell is behind an uncorrectable error or a CXL error response, and the cause (R199). -/
def State.badByte (s : State) (b : ByteAt) : Option Cause :=
  match b.loc with
  | .mem k =>
    if s.poison.any (fun p => lineOf p == lineOf k) then some .memPoison
    else if s.hostErr.contains (lineOf k) || (s.linkDown && hostKey k) then some .hostError
    else none
  | .scr sk o => if ((s.skein? sk).map fun k => k.scrPoison.contains (k.physOfs o / 128)).getD false then some .memPoison else none

/-- The cause of a lane's bytes. -/
def State.badLane (s : State) (a : LaneAcc) : Option Cause := a.bytes.findSome? s.badByte

/-! ### Atomic operations (Table 9.11) -/

/-- Width, signedness and float element format of a type (Table 9.10). -/
def atypeBits : AType → Nat
  | .s64 | .n64 => 64
  | _ => 32

def atypeSigned : AType → Bool
  | .s32 | .s64 => true
  | _ => false

def atypeFmt : AType → Option Fmt
  | .f32 => some fmt32
  | .f16 => some fmt16
  | .bf16 => some fmtBf
  | _ => none

/-- A float operation element by element (R236). -/
def atomFloat (f : Fmt) (op : AtomOp) (old b : Nat) : Nat :=
  match op with
  | .add => (addRnd f (f.val old) (f.val b) .rne).1
  | .min => (f.minMax false true old b).1
  | .max => (f.minMax true true old b).1
  | _ => old

/-- The new value from the old one, the operand and the expected value (Table 9.11). -/
def atomNew (op : AtomOp) (t : AType) (old b expd : Nat) : Nat :=
  let n := atypeBits t
  match atypeFmt t with
  | some f =>
    (List.range (n / f.bits)).foldl
      (fun a i => a + atomFloat f op (bits old (f.bits * i) f.bits) (bits b (f.bits * i) f.bits) % 2 ^ f.bits * 2 ^ (f.bits * i)) 0
  | none =>
    match op with
    | .add => (old + b) % 2 ^ n
    | .and => old &&& b
    | .or => old ||| b
    | .xor => old ^^^ b
    | .min => (eMinMax false (atypeSigned t) n old b).1
    | .max => (eMinMax true (atypeSigned t) n old b).1
    | .exch => b
    | .incw => if b ≤ old then 0 else old + 1
    | .decw => if old = 0 ∨ b < old then b else old - 1
    | .cas => if old = expd then b else old

/-- Mark the line of a byte poisoned at its home slice (R199, R240). -/
def State.poisonLine (s : State) (l : Loc) : State :=
  match l with
  | .mem k =>
    if s.poison.any fun p => lineOf p == lineOf k then s
    else { s with poison := lineOf k * 128 :: s.poison, hostErr := s.hostErr.filter (· != lineOf k) }
  | .scr sk o => s.modSkein sk fun k =>
    if k.scrPoison.contains (k.physOfs o / 128) then k else { k with scrPoison := k.physOfs o / 128 :: k.scrPoison }

/-- The bytes of an access at their homes and in their banks. -/
def State.homeBytes (s : State) (a : LaneAcc) : List Byte := a.bytes.map fun b => s.locRead b.loc

/-- UO lines of the cluster that hold a byte leave it: what follows is performed at the home slice (R226, R238). -/
def State.uoLeave (s : State) (cl : Nat) (bs : List ByteAt) : State :=
  bs.foldl
    (fun a b =>
      match b.loc with
      | .mem k => if (tget? (a.cluster cl).uo (lineOf k)).isSome then a.uoEvict cl (a.owner cl) (lineOf k) else a
      | .scr .. => a) s

/-- The releases that the newest values of bytes carry (R228). -/
def State.newestRels (s : State) (bs : List ByteAt) : List Rel :=
  if s.hist.isEmpty then [] else (bs.flatMap fun b => s.relsAt s.writeNo b.loc).eraseDups

/-- Perform one lane operation at its home, as one write that carries `rels` and the releases of the write it reads: the old value, and
the cause that left memory as it was (R228, R238, R240). -/
def State.atomPerform (s : State) (cl : Nat) (part : Option Nat) (op : AtomOp) (t : AType) (a : AtomLane) (rels : List Rel) :
    State × Nat × Option Cause :=
  match s.badLane a.acc with
  | some e => (s, 0, some e)
  | none =>
    let s := s.uoLeave cl a.acc.bytes
    let old := natOfBytes (s.homeBytes a.acc)
    let s := s.beginWrite (rels ++ s.newestRels a.acc.bytes)
    let new := atomNew op t old a.operand.toNat a.expected.toNat
    ((a.acc.bytes.zip (bytesOfNat a.acc.bytes.length new)).foldl (fun x b => x.byteWrite cl part [] b.1 b.2) s, old, none)

/-! ### The pieces of an access (R218, R220, R226) -/

/-- Whether bytes lie in one 128-byte line or row. -/
def oneLine (bs : List ByteAt) : Bool :=
  let line := fun (b : ByteAt) => match b.loc with
    | .mem k => lineOf k
    | .scr _ o => o / 128
  bs.all fun b => line b == ((bs.head?).map line).getD 0

/-- The pieces in which a lane's access is performed, by first byte and length: 8 bytes aligned to 8 within a line are one piece, other
8 bytes are two, and each element of LDT and STT is one (R208, R220). A piece lies in one page (R226). -/
def LaneAcc.pieces (a : LaneAcc) : List (Nat × Nat) :=
  let n := a.bytes.length
  if 0 < a.el then (List.range (n / a.el)).map fun i => (a.el * i, a.el)
  else if n ≤ 4 then [(0, n)]
  else
    (List.range (n / 8)).flatMap fun i =>
      if (a.addr.toNat + 8 * i) % 8 = 0 && oneLine ((a.bytes.drop (8 * i)).take 8) then [(8 * i, 8)]
      else [(8 * i, 4), (8 * i + 4, 4)]

/-- Which of several parts that may be performed are performed now: all of them in order, or the one among `single` that a free
value names (R218, R220: parts are not ordered with each other; log entry 81). -/
def State.pick (s : State) (ready single : List Nat) : List Nat × State :=
  if ready.length ≤ 1 then (ready, s)
  else
    ((match Config.pieceChoice s.freeCtr with
      | 0 => ready
      | n + 1 => [single.getD (n % single.length) (ready.headD 0)]), { s with freeCtr := s.freeCtr + 1 })

/-- The parts among `n` that may be performed: those that nothing holds back, and that share no byte with an earlier part that may not
(R201, R238). -/
def readyParts (n : Nat) (may : Nat → Bool) (share : Nat → Nat → Bool) : List Nat :=
  (List.range n).foldl (fun a i => if may i && !(List.range i).any (fun m => !a.contains m && share m i) then a ++ [i] else a) []

/-- The cycle from which an access that issues now may be performed (R200: the moment is open; log entry 81). -/
def State.dueAt (s : State) : Nat × State := (s.cycle + Config.perfDelay s.freeCtr, { s with freeCtr := s.freeCtr + 1 })

/-! ### Stores -/

/-- The bytes of a line of the L1. -/
def lineBytes (n : Nat) : List ByteAt := (List.range 128).map fun i => { loc := .mem (n * 128 + i), kind := .uo }

/-- The bytes an entry has still to touch: of a CCTL all those of its lines (R221, R225). -/
def StoreEntry.locs (e : StoreEntry) : List ByteAt :=
  match e.red with
  | some r => r.lanes.flatMap fun a => a.acc.bytes
  | none => e.bytes.map (·.1) ++ e.lines.flatMap lineBytes

/-- Parts of an entry still to be performed. -/
def StoreEntry.size (e : StoreEntry) : Nat :=
  match e.red with
  | some r => r.lanes.length
  | none => if e.cctl.isSome then e.lines.length else e.pieces.length

/-- The bytes of a part. -/
def StoreEntry.partLocs (e : StoreEntry) (i : Nat) : List ByteAt :=
  match e.red with
  | some r => ((r.lanes[i]?).map fun a => a.acc.bytes).getD []
  | none => if e.cctl.isSome then ((e.lines[i]?).map lineBytes).getD [] else (e.pieces.getD i []).map (·.1)

/-- The releases that what an entry writes carries (R228): its own, and those of the fences before it. -/
def StoreEntry.rels (e : StoreEntry) : List Rel :=
  (if e.release then [{ scope := e.scope, strand := some e.strand, view := e.view }] else []) ++ e.fences

/-- Whether an entry counts as a read (R221, R225): a RED, and a CCTL that removes lines. -/
def StoreEntry.reads (e : StoreEntry) : Bool := e.red.isSome || e.cctl == some .inv || e.cctl == some .wbinv

/-- Whether two accesses touch a common byte (R221 case 6). -/
def shareByte (xs ys : List ByteAt) : Bool := xs.any fun b => ys.any fun d => b.loc == d.loc

/-- Whether an entry is a scratch atomic that acquires, which comes before every later access (R221 case 1). -/
def StoreEntry.acq (e : StoreEntry) : Bool := (e.red.map fun r => r.acq && r.late.isSome).getD false

/-- Whether a later access of the fibre, a release with `rel`, is ordered after an earlier entry (R221 cases 1, 2, 6 and 7). -/
def StoreEntry.before (e : StoreEntry) (bs : List ByteAt) (rel : Bool) : Bool :=
  rel || e.acq || shareByte bs e.locs || ((bs.any fun b => b.kind == .so) && e.locs.any fun b => b.kind == .so)

/-- Whether part `i` of an entry may be performed while the entries `q` stand in the queue. -/
def StoreEntry.partMay (e : StoreEntry) (q : List StoreEntry) (i : Nat) : Bool :=
  !q.any fun x => e.po.contains x.id && x.before (e.partLocs i) e.release

/-- A list without the elements at some places. -/
def without {α : Type} (l : List α) (is : List Nat) : List α := (l.zipIdx.filter fun x => !is.contains x.2).map (·.1)

/-- The entry with some parts performed. -/
def StoreEntry.without (e : StoreEntry) (is : List Nat) : StoreEntry :=
  { e with
    pieces := Machine.without e.pieces is, lines := Machine.without e.lines is
    red := e.red.map fun r => { r with lanes := Machine.without r.lanes is } }

/-- Locations of bytes, but for those in UO lines, with the number of a write or the moment of a read. -/
def seenAt (bs : List ByteAt) (n : Nat) : List (Loc × Nat) :=
  bs.filterMap fun b => if b.kind == .uo then none else some (b.loc, n)

/-- A part of an entry has been written: its fibres know it, and so do the later entries of the queue; an SO access has taken its place
in S (R224, R230). -/
def State.wrote (s : State) (cl : Nat) (e : StoreEntry) (bs : List ByteAt) (rels : List Rel) : State :=
  let seen := seenAt bs s.writeNo
  let s := if bs.any (·.kind == .so) then s.soPlace e.view seen else s
  (s.learn e.owners seen rels).modSpindle cl (((s.strand? e.strand).map (·.spindle)).getD 0) fun x =>
    { x with stores := x.stores.map fun y =>
        { y with view := if y.po.contains e.id && !s.hist.isEmpty then y.view.adds seen else y.view } }

/-- Perform a part of an entry (R200, R225, R244). A write into a line with an uncorrectable error marks the line poisoned and raises
nothing (R199, R240). -/
def State.performPart (s : State) (cl : Nat) (part : Option Nat) (e : StoreEntry) (i : Nat) : State :=
  match e.red, e.cctl with
  | some r, _ =>
    match r.lanes[i]? with
    | some a =>
      let y := s.atomPerform cl part r.op r.type a e.rels
      if y.2.2.isSome then a.acc.bytes.foldl (fun z b => z.poisonLine b.loc) s
      else y.1.wrote cl e a.acc.bytes (s.newestRels a.acc.bytes)
    | none => s
  | none, some op =>
    match e.lines[i]? with
    | some line =>
      let a := if op = .inv then s else s.uoWriteBack cl part line e.fences
      if op = .wb then a else (a.uoDrop cl line).rcDrop cl line
    | none => s
  | none, none =>
    let bs := e.pieces.getD i []
    (bs.foldl
      (fun x b => if (x.badByte b.1).isSome then x.poisonLine b.1.loc else x.byteWrite cl part e.owners b.1 b.2 e.hint)
      ((s.uoLeave cl ((bs.map (·.1)).filter (·.kind != .uo))).beginWrite e.rels)).wrote cl e (bs.map (·.1)) []

/-- The lines of parts that are performed at a home slice are counted there (R185). -/
def State.goHomes (s : State) (cl : Nat) (bs : List ByteAt) : State :=
  ((bs.filterMap fun b => match b.kind, b.loc with
    | .uo, _ => none
    | _, .mem k => some (lineOf k)
    | _, .scr .. => none).eraseDups).foldl (fun a n => a.goHome cl (n * 128)) s

/-- Perform parts of an entry in the given order. -/
def State.performParts (s : State) (cl : Nat) (part : Option Nat) (e : StoreEntry) (is : List Nat) : State :=
  is.foldl (fun a i => a.performPart cl part e i) (s.goHomes cl (is.filterMap fun i => (e.partLocs i).head?))

/-- The store queue of a fibre's spindle. -/
def State.storesOf (s : State) (k : Nat) : List StoreEntry := (s.spindle (fibCluster k) (s.spindleOf k)).stores

/-- The entries of a fibre. -/
def State.myStores (s : State) (k : Nat) : List StoreEntry := (s.storesOf k).filter fun e => e.owners.contains k

/-- The partition on whose behalf a strand writes. -/
def State.partOf (s : State) (strand : Nat) : Option Nat := (s.skein? (strandSkein strand)).map (·.part)

/-! ### Lane operations of atomics (R238 to R240) -/

/-- The flight of a word of variable latency that lands at `ld` (R73, R239): em_k takes bit j of the word of lane 32k + j, for
the lanes of `set` (R99), and vz, vlane and vrole take nothing. -/
def landFlight (reg seq : Nat) (set lanes poisoned : Lanes) (val : Nat → Word) (tags : List (Nat × Tag))
    (ld : Nat × Nat × Nat) : Option Flight :=
  if reg < 248 ∨ reg = 251 ∨ reg = 252 then
    some { seq := seq, reg := reg, lanes := lanes, vals := laneVec val, land := some ld, poison := poisoned, tags := tags }
  else if 253 ≤ reg then
    some { seq := seq, reg := reg, lanes := lanes &&& set &&& groupLanes (reg - 253), land := some ld, poison := poisoned
           vals := laneVec fun l => if (val l).getLsbD (l % 32) then 1 else 0 }
  else none

/-- Write words of variable latency that have just landed: `val r l` is word r of lane l (R73, R239). -/
def State.landWords (s : State) (k dst n seq : Nat) (lanes poisoned : Lanes) (val : Nat → Nat → Word) (tags : List (Nat × Tag))
    (land : Nat × Nat × Nat) : State :=
  let set := ((s.fib? k).map (·.laneSet)).getD 0
  s.modStrand (fibStrand k) fun st =>
    let ld := (List.range n).foldl (fun a r => st.landAfter (dst + r) lanes a) land
    (List.range n).foldl
      (fun a r =>
        match landFlight (dst + r) seq set lanes poisoned (val r) tags ld with
        | some x => { a with flights := a.flights ++ [x] }
        | none => a) st

/-- Take the issue number of a write whose data comes later (R99). -/
def State.takeSeq (s : State) (k : Nat) : State × Nat :=
  match s.strand? (fibStrand k) with
  | some st => (s.modStrand (fibStrand k) fun st => { st with seq := st.seq + 1 }, st.seq)
  | none => (s, 0)

/-- The deferred trap of lanes whose data came back bad (R199): the first cause in code order, with the address of the lowest failing
lane. -/
def badTrap (bad : List (LaneAcc × Cause)) (word : Word) : Option Trap :=
  let e := if bad.any (·.2 == .memPoison) then Cause.memPoison else Cause.hostError
  let ls := bad.filter (·.2 == e)
  (ls.find? fun x => ls.all fun y => decide (x.1.lane ≤ y.1.lane)).map fun x =>
    { cause := e, addr := x.1.addr, mask := some (lanesOf fun l => ls.any (·.1.lane == l)), defer := true, word := some word }

/-- Hold the deferred trap of lanes whose data lands bad at `land`, if there are any (R199). -/
def State.holdBad (s : State) (k seq : Nat) (bad : List (LaneAcc × Cause)) (word : Word) (land : Nat × Nat × Nat) : State :=
  match badTrap bad word with
  | some t => { s with freeCtr := s.freeCtr + 96 }.hold k seq { t with since := max land.1 (max land.2.1 land.2.2) }
  | none => s

/-- Words for the failing lanes (R199: poisoned; their value is open). -/
def State.freeLoadWord (s : State) (l : Nat) : Word := Config.poisonWord (s.freeCtr + l)

/-- Whether a lane operation is performed in scratch. -/
def AtomLane.inScratch (a : AtomLane) : Bool := a.acc.bytes.all fun b => b.kind == .scr

/-- Perform one lane operation of a request, whose accesses know `view` and come after the releases `fences` (R238): what it writes
carries the request's release, which knows what the operation acquires, and an ATOMSC's takes its place in T (R228 to R230). -/
def State.atomOne (s : State) (k : Nat) (r : AtomReq) (x : AtomLane) (view : View) (fences : List Rel) :
    State × Nat × Option Cause × List Rel :=
  let so := x.acc.bytes.any (·.kind == .so)
  let prior := s.newestRels x.acc.bytes ++ (if so then [s.soRel] else []) ++
    (if r.ticket.isSome then [{ scope := 5, strand := none, view := s.scView }] else [])
  let v := if r.acq then view.meet r.scope (fibStrand k) prior else view
  let own := if r.rel then [{ scope := r.scope, strand := some (fibStrand k), view := v }] else []
  let y := s.atomPerform (fibCluster k) (s.partOf (fibStrand k)) r.op r.type x (own ++ fences)
  if y.2.2.isSome then (y.1, y.2.1, y.2.2, [])
  else
    let seen := seenAt x.acc.bytes y.1.writeNo
    let s := if so then y.1.soPlace v seen else y.1
    let s := if r.ticket.isSome then { s with scView := if s.hist.isEmpty then s.scView else (s.scView.join v).adds seen } else s
    (s, y.2.1, y.2.2, prior)

/-- Perform the lane operations at some places of a request, in the given order (R238); those of an entry of the store queue as that
knows. -/
def State.atomLanes (s : State) (k : Nat) (r : AtomReq) (is : List Nat) (e : Option StoreEntry := none) : State × AtomReq :=
  let cl := fibCluster k
  let xs := is.filterMap fun i => r.lanes[i]?
  let p := xs.foldl
    (fun (a : State × AtomReq) x =>
      let y := match e with
        | some e => a.1.atomOne k r x e.view e.fences
        | none => a.1.atomOne k r x (a.1.viewOf k) (((a.1.fib? k).map Fibre.fences).getD [])
      let s := if y.2.2.1.isSome then y.1
        else match e with
          | some e => y.1.wrote cl e x.acc.bytes y.2.2.2
          | none => y.1.learn [k] (seenAt x.acc.bytes y.1.writeNo) y.2.2.2
      (s, { a.2 with done := a.2.done ++ [(x.acc, y.2.1, y.2.2.1)], rels := a.2.rels ++ y.2.2.2 }))
    (s.goHomes cl (xs.flatMap fun x => x.acc.bytes.take 1), r)
  let n := (xs.filter fun x => !x.inScratch).length
  (if n = 0 then p.1 else p.1.count cl 0x2F n, { p.2 with lanes := without r.lanes is })

/-- Lanes of a request that has been performed whose access came back bad. -/
def AtomReq.bad (r : AtomReq) : List (LaneAcc × Cause) := r.done.filterMap fun x => x.2.2.map fun e => (x.1, e)

/-- The words that a request writes: `n` registers, word `j` of lane `l`; a lane that came back bad gets free values (R199, R240). -/
def State.atomWord (s : State) (r : AtomReq) (j l : Nat) : Word :=
  if r.bad.any (·.1.lane == l) then s.freeLoadWord l
  else BitVec.ofNat 32 ((((r.done.find? fun x => x.1.lane == l).map (·.2.1)).getD 0) / 2 ^ (32 * j))

/-- The replay records of an atomic whose lanes have all been performed (R444). -/
def State.atomLog (s : State) (k : Nat) (r : AtomReq) : State :=
  if s.launchFlag k 5 && r.dst.isSome then
    r.done.foldl (fun a x => a.replayRecord k x.1.addr.toNat 1 x.1.lane (bytesOfNat 8 x.2.1 ++ List.replicate 120 0)) s
  else s

/-- The lanes of a request. -/
def AtomReq.act (r : AtomReq) : Lanes := lanesOf fun l => (r.done.any fun x => x.1.lane == l) || r.lanes.any fun x => x.acc.lane == l

/-- The old values of an atomic all of whose lanes have been performed: registers, poison and deferred trap (R239, R240), landing at
`land` in each group. -/
def State.atomFinish (s : State) (k : Nat) (r : AtomReq) (land : Nat × Nat × Nat) : State :=
  let s := (if r.acq then (s.syncLines k).acquire k r.scope r.rels else s).atomLog k r
  let badL := lanesOf fun l => r.bad.any (·.1.lane == l)
  let s' := match r.dst with
    | some d => s.landWords k d (if r.type.is64 then 2 else 1) r.seq r.act badL (s.atomWord r) r.tags land
    | none => s
  s'.holdBad k r.seq r.bad r.word land

/-- The old values of a scratch atomic some of whose lanes were performed after its issue go into its writes, which are in flight since then
(R238, R239). An acquire hands on to the entries that come after it. -/
def State.atomLate (s : State) (e : StoreEntry) (r : AtomReq) : State :=
  let d := r.dst.getD 248
  let n := if r.type.is64 then 2 else 1
  let s := if r.acq then
      (e.owners.foldl (fun a k => (a.syncLines k).acquire k r.scope r.rels) s).modSpindle (strandCluster e.strand) (((s.strand? e.strand).map (·.spindle)).getD 0) fun x =>
        { x with stores := x.stores.map fun y =>
            if y.po.contains e.id then { y with view := y.view.meet r.scope e.strand r.rels } else y }
    else s
  let s := s.atomLog (mkFib e.strand 0) r
  let badL := lanesOf fun l => r.bad.any (·.1.lane == l)
  let s := s.modStrand e.strand fun st =>
    { st with flights := st.flights.map fun x =>
        if x.seq == r.seq && decide (d ≤ x.reg) && decide (x.reg < d + n) then
          (match landFlight x.reg 0 0 0 badL (s.atomWord r (x.reg - d)) [] (0, 0, 0) with
            | some y => { x with vals := y.vals, poison := y.poison }
            | none => x)
        else x }
  match e.owners with
  | k :: _ => s.holdBad k r.seq r.bad r.word (r.late.getD (0, 0, 0))
  | [] => s

/-- The request of an entry that is a scratch atomic with lanes still to be performed. -/
def StoreEntry.late (e : StoreEntry) : Option AtomReq := e.red.bind fun r => if r.late.isSome then some r else none

/-- Perform parts of an entry in the given order; what is left of it. -/
def State.performSome (s : State) (cl : Nat) (part : Option Nat) (e : StoreEntry) (is : List Nat) : State × StoreEntry :=
  match e.late with
  | some r =>
    let k := e.owners.headD (mkFib e.strand 0)
    let q := s.atomLanes k r is (some e)
    (if q.2.lanes.isEmpty then q.1.atomLate e q.2 else q.1, { e with red := some q.2 })
  | none => (s.performParts cl part e is, e.without is)

/-- Perform all that is left of an entry (R200, R201): parts in lane order, the lane operations of a RED in ascending lane order. -/
def State.performEntry (s : State) (cl : Nat) (part : Option Nat) (e : StoreEntry) : State :=
  (s.performSome cl part e (List.range e.size)).1

/-- Whether the accesses that a FENCE orders have been performed: for an acquire those in the queue that count as reads, else all
of the queue (R221 cases 3 to 5, R246). The fibre's other reads were performed before the FENCE issued (R73). -/
def State.fenceMet (s : State) (k : Nat) (kind : FenceKind) : Bool :=
  (s.myStores k).all fun e => kind == .acq && !e.reads

/-- The effect of a FENCE at a scope whose accesses have been performed: an acquire is a synchronisation point. -/
def State.fenceSync (s : State) (k : Nat) (kind : FenceKind) (scope : Nat) : State :=
  (if kind = .rel then s else s.syncLines k).fenceView k scope (kind != .rel) (kind != .acq)

/-- Fibres parked in a FENCE whose accesses have been performed become ready (R246). -/
def State.wakeFences (s : State) (cl sp : Nat) : State :=
  s.allFibs.foldl
    (fun a f =>
      match f.2.wait with
      | .fence kind scope =>
        if fibCluster f.1 == cl && a.spindleOf f.1 == sp && a.fenceMet f.1 kind then (a.fenceSync f.1 kind scope).ready f.1 else a
      | _ => a) s

/-- Put an entry into a fibre's store queue, with its number and the entries that are program-order earlier (R200, R219). -/
def State.enqueueStore (s : State) (k : Nat) (e : StoreEntry) : State :=
  let po := (s.myStores k).map (·.id)
  let d := s.dueAt
  let fences := ((s.fib? k).map (·.fences)).getD []
  d.2.modSpindle (fibCluster k) (s.spindleOf k) fun x =>
    { x with
      stores := x.stores ++ [{ e with id := x.storeCtr, po := po, due := d.1, view := s.viewOf k, fences := fences }]
      storeCtr := x.storeCtr + 1 }

/-- Take entries out of a spindle's queue: fences may end, and so may the strands (R82, R200). -/
def State.dropStores (s : State) (cl sp : Nat) (p : StoreEntry → Bool) : State :=
  let gone := ((s.spindle cl sp).stores.filter p).map (·.strand)
  let s := s.modSpindle cl sp fun x => { x with stores := x.stores.filter fun e => !p e }
  (gone.eraseDups).foldl (fun a n => a.tryEndStrand n) (s.wakeFences cl sp)

/-- Entries of a fibre that must be performed before an access to bytes `bs`, a release with `rel`: those ordered before it and those
ordered before them (R221, R230). -/
def State.storesBefore (s : State) (k : Nat) (bs : List ByteAt) (rel : Bool) : List StoreEntry :=
  (s.myStores k).foldr
    (fun e a => if e.before bs rel || a.any fun x => x.po.contains e.id && e.before x.locs x.release then e :: a else a) []

/-- Perform the stores of a fibre that come before an access now. -/
def State.drainFor (s : State) (k : Nat) (bs : List ByteAt) (rel : Bool) : State :=
  let es := s.storesBefore k bs rel
  if es.isEmpty then s
  else
    (es.foldl
      (fun a e =>
        let e := ((a.storesOf k).find? fun x => x.id == e.id).getD e
        a.performEntry (fibCluster k) (a.partOf e.strand) e) s).dropStores (fibCluster k) (s.spindleOf k) fun e =>
      es.any fun x => x.id == e.id

/-- The bank in change that a fibre's queued stores use (R186). -/
def State.drainBusy (s : State) (k : Nat) : Option Nat :=
  let c := s.cluster (fibCluster k)
  if c.banks.all (·.next.isNone) then none else c.busyBank ((s.myStores k).flatMap (·.locs))

/-- Perform every store of a fibre now, in order: one of the moments R200 leaves open. -/
def State.drainStores (s : State) (k : Nat) : State := s.drainFor k [] true

/-- The fibre's scratch atomics that an access to bytes `bs` must follow are performed before it. -/
def State.lateFirst (s : State) (k : Nat) (bs : List ByteAt) : State :=
  if (s.myStores k).any fun e => e.late.isSome && e.before bs false then s.drainFor k bs false else s

/-- The scratch atomics of a cluster whose old values land in the next cycle are performed (R239). -/
def State.keepLate (s : State) (cl : Nat) : State :=
  (List.range 4).foldl
    (fun a i =>
      let es := (a.spindle cl i).stores.filter fun e => ((e.late.bind (·.late)).map fun t => decide (t.1 ≤ a.cycle + 1)).getD false
      if es.isEmpty then a
      else
        (es.foldl (fun b e => b.performEntry cl (b.partOf e.strand) (((b.spindle cl i).stores.find? fun x => x.id == e.id).getD e)) a).dropStores
          cl i fun e => es.any fun x => x.id == e.id) s

/-- STORE_PERFORMED (R200, R218, R221): parts of entry `i` that nothing holds back are performed; the entry leaves with its last. -/
def execStorePerformed (cl sp i : Nat) (s : State) : Host.Outcome State Fault Refusal :=
  let q := (s.spindle cl sp).stores
  match q[i]? with
  | none => .next s
  | some e =>
    let may := fun n => e.partMay q n && ((s.cluster cl).busyBank (e.partLocs n)).isNone
    let share := fun m n => shareByte (e.partLocs m) (e.partLocs n)
    let ready := readyParts e.size may share
    if s.cycle < e.due ∨ (ready.isEmpty ∧ e.size ≠ 0) then .next s
    else
      let single := ready.filter fun n => !(List.range n).any fun m => share m n
      let p := s.pick ready single
      let r := p.2.performSome cl (s.partOf e.strand) e p.1
      if p.1.length < e.size then
        .next (r.1.modSpindle cl sp fun x =>
          { x with stores := x.stores.map fun y => if y.id == e.id then { r.2 with due := s.cycle + 1 } else y })
      else .next (r.1.dropStores cl sp fun y => y.id == e.id)

/-! ### Loads -/

/-- Bytes of a lane as its fibre reads them: its own queued stores first (R202). -/
def State.laneBytes (s : State) (k : Nat) (a : LaneAcc) : List Byte :=
  let q := s.storesOf k
  a.bytes.map fun b => (forwarded q k b.loc).getD (s.byteRead k b)

/-- What one read of bytes at once finds: the bytes, the locations with the moment as of which they were read, and the releases read. -/
structure Look where
  bytes : List Byte
  seen : List (Loc × Nat) := []
  rels : List Rel := []
  so : Bool := false
  deriving DecidableEq, Repr

/-- A fibre reads bytes at once (R220, R225, R231): the newest values, or those as of an older moment that what the fibre knows admits,
as the free value `n` says. A byte of an own queued store, and one of a UO line, is read as it is (R202, R225). -/
def State.look (s : State) (k n : Nat) (bs : List ByteAt) : Look :=
  let now := s.laneBytes k { lane := 0, addr := 0, bytes := bs }
  if s.hist.isEmpty then { bytes := now }
  else
    let own := fun (b : ByteAt) => (forwarded (s.storesOf k) k b.loc).isSome
    let so := bs.any (·.kind == .so)
    let v := if so then (s.viewOf k).join s.soView else s.viewOf k
    let old := if bs.any fun b => b.kind == .uo || own b then [] else s.moments v (bs.map (·.loc))
    let t := match n with
      | 0 => s.writeNo
      | m + 1 => old.getD (m % (old.length + 1)) s.writeNo
    { bytes := if t = s.writeNo then now else bs.map fun b => s.valueAt t b.loc (s.locRead b.loc)
      seen := seenAt (bs.filter fun b => !own b) t
      rels := (bs.flatMap fun b =>
        if own b then [] else if b.kind == .uo then [{ scope := 5, strand := none, view := s.viewNow }] else s.relsAt t b.loc).eraseDups ++
        (if so then [s.soRel] else [])
      so := so }

/-- The reads of lanes, each piece apart, with a free value for each (R218, R220). -/
def State.lookLanes (s : State) (k : Nat) (free : Nat → Nat) (lanes : List LaneAcc) : List (LaneAcc × List Look) :=
  lanes.zipIdx.map fun x =>
    (x.1, x.1.pieces.zipIdx.map fun p => s.look k (free (16 * x.2 + p.2)) ((x.1.bytes.drop p.1.1).take p.1.2))

/-- The releases that reads have read. -/
def looksRels (ls : List (LaneAcc × List Look)) : List Rel := ls.flatMap fun x => x.2.flatMap fun y => y.rels

/-- The fibre has made reads: it knows what they saw, and an SO read has taken its place in S. -/
def State.looked (s : State) (k : Nat) (xs : List (LaneAcc × List Look)) : State :=
  let ls := xs.flatMap (·.2)
  let s := if ls.any (·.so) then s.soPlace (s.viewOf k) (ls.flatMap (·.seen)) else s
  s.learn [k] (ls.flatMap (·.seen)) (ls.flatMap (·.rels))

/-- Bring the lines of a load's bytes as its page kinds say (R178, R204, R224, R225): RC and UO lines into the L1, but for `.noalloc`;
an SO read passes the L1, whose RC copy is then no older. A line that was not there is read at the home slice. -/
def State.bringLines (s : State) (k : Nat) (hint : BitVec 2) (bs : List ByteAt) : State :=
  let cl := fibCluster k
  let noalloc := hint.getLsbD 1
  let next := hint == 1
  bs.foldl
    (fun a b =>
      match b.kind, b.loc with
      | .rc, .mem x =>
        if (tget? (a.cluster cl).l1 (lineOf x)).isSome then a
        else if noalloc then a else a.rcFill cl (lineOf x) next
      | .uo, .mem x =>
        if (tget? (a.cluster cl).uo (lineOf x)).isSome then a
        else if noalloc then a else (a.refreshLine cl (lineOf x)).uoFill cl (lineOf x) next
      | .so, .mem x => a.refreshLine cl (lineOf x)
      | _, _ => a) (s.uoYield k bs)

/-- Whether a load's bytes are read at the home slice. -/
def State.awayBytes (s : State) (cl : Nat) (bs : List ByteAt) : List ByteAt :=
  bs.filter fun b =>
    match b.kind, b.loc with
    | .rc, .mem x => (tget? (s.cluster cl).l1 (lineOf x)).isNone
    | .so, .mem _ => true
    | _, _ => false

/-- The words a load writes from its bytes (R197, R208): LDT packs elements of `sz`. -/
def LoadForm.words (f : LoadForm) (bs : List Byte) : List Word :=
  let n := natOfBytes bs
  if f.ldt then [BitVec.ofNat 32 n]
  else
    match f.sz with
    | 0 => [if f.sx then (BitVec.ofNat 8 n).signExtend 32 else BitVec.ofNat 32 n]
    | 1 => [if f.sx then (BitVec.ofNat 16 n).signExtend 32 else BitVec.ofNat 32 n]
    | 2 => [BitVec.ofNat 32 n]
    | 3 => [BitVec.ofNat 32 n, BitVec.ofNat 32 (n / 2 ^ 32)]
    | _ => (List.range 4).map fun j => BitVec.ofNat 32 (n / 2 ^ (32 * j))

/-- Registers a load writes. -/
def LoadForm.span (f : LoadForm) : Nat := if f.ldt then 1 else szSpan (BitVec.ofNat 3 f.sz)

/-- A line as the reads of an instruction found its bytes, and else as its fibre reads it now. -/
def State.lineRead (s : State) (k line : Nat) (kind : Kind) (got : List (LaneAcc × List Byte)) : List Byte :=
  let whole := s.laneBytes k { lane := 0, addr := 0, bytes := (List.range 128).map fun i => { loc := .mem (line * 128 + i), kind := kind } }
  (got.flatMap fun x => x.1.bytes.zip x.2).foldl
    (fun a b => match b.1.loc with
      | .mem x => if lineOf x = line then lset a (x % 128) b.2 else a
      | .scr .. => a) whole

/-- Log the shared lines of a load, with the bytes each lane read, for replay (R444 kind 0). -/
def State.replayLoad (s : State) (k : Nat) (lanes : List LaneAcc) (got : List (LaneAcc × List Byte)) : State :=
  if !s.launchFlag k 5 then s
  else
    lanes.foldl
      (fun a x =>
        if !x.shared then a
        else
          (x.bytes.zipIdx).foldl
            (fun a b =>
              match b.1.loc with
              | .mem key =>
                let done := ((a.skein? (fibSkein k)).map fun sk => sk.logged.contains (lineOf key)).getD true
                if done then a
                else
                  let va := (x.addr.toNat + b.2) / 128 * 128
                  let whole := a.lineRead k (lineOf key) b.1.kind got
                  (a.replayRecord k va 0 0 whole).modSkein (fibSkein k) fun sk => { sk with logged := lineOf key :: sk.logged }
              | .scr _ _ => a) a) s

/-- Land a load all of whose pieces have been performed: its registers, poison and deferred trap (R199, R73). -/
def State.finishLoad (s : State) (k : Nat) (m : MissLoad) : State :=
  let s := if m.acq then (s.syncLines k).acquire k m.scope m.rels else s
  let bytes := fun (x : LaneAcc) => x.pieces.flatMap fun p =>
    ((m.got.find? fun g => g.1 == x.lane && g.2.1 == p.1).map (·.2.2)).getD (List.replicate p.2 0)
  let s := s.replayLoad k m.lanes (m.lanes.map fun x => (x, bytes x))
  let words := m.lanes.map fun x => (x.lane, m.form.words (bytes x))
  let badL := lanesOf fun l => m.bad.any (·.1.lane == l)
  let val := fun r l =>
    if badL.getLsbD l then s.freeLoadWord l else ((words.find? (·.1 == l)).map fun w => w.2.getD r 0).getD 0
  let land := tri1 s.cycle
  ((s.landWords k m.form.dst m.form.span m.seq m.act badL val m.tags land).holdBad k m.seq m.bad m.word land).ready k

/-- Whether bytes may be read now: an SO access comes after the fibre's own SO stores (R221 case 7), and no access before the
fibre's own queued RED to the same byte or CCTL of its line (case 6). -/
def State.readMay (s : State) (k : Nat) (bs : List ByteAt) : Bool :=
  (s.myStores k).all fun e =>
    !((bs.any fun b => b.kind == .so) && e.locs.any fun b => b.kind == .so) && !((e.red.isSome || e.cctl.isSome) && shareByte bs e.locs)

/-- Whether a load may be served now. -/
def State.loadMay (s : State) (k : Nat) (lanes : List LaneAcc) : Bool := s.readMay k (lanes.flatMap (·.bytes))

/-- A lane's access of a load. -/
def MissLoad.lane (m : MissLoad) (l : Nat) : LaneAcc := (m.lanes.find? (·.lane == l)).getD { lane := l, addr := 0, bytes := [] }

/-- The bytes of a piece. -/
def MissLoad.pieceBytes (m : MissLoad) (p : Nat × Nat × Nat) : List ByteAt := ((m.lane p.1).bytes.drop p.2.1).take p.2.2

/-- Perform one piece of a load (R199, R202, R220). -/
def State.readPiece (s : State) (k : Nat) (m : MissLoad) (p : Nat × Nat × Nat) : State × MissLoad :=
  let x := { m.lane p.1 with bytes := m.pieceBytes p }
  let s := (s.goHomes (fibCluster k) (s.awayBytes (fibCluster k) (x.bytes.take 1))).bringLines k m.hint x.bytes
  let bad := if m.bad.any (·.1.lane == p.1) then [] else ((s.badLane x).map fun e => (m.lane p.1, e)).toList
  let r := s.look k (Config.olderValue s.freeCtr) x.bytes
  (({ s with freeCtr := s.freeCtr + 1 } : State).looked k [(x, [r])], { m with got := m.got ++ [(p.1, p.2.1, r.bytes)], bad := m.bad ++ bad, rels := m.rels ++ r.rels })

/-- MISS_DATA_LANDS (R73, R200, R218): pieces of a parked load are performed; with the last its data lands. -/
def execMissDataLands (k : Nat) (s : State) : Host.Outcome State Fault Refusal :=
  match s.fib? k with
  | some f =>
    match f.wait with
    | .miss m =>
      let may := fun p => s.readMay k (m.pieceBytes p) && ((s.cluster (fibCluster k)).busyBank (m.pieceBytes p)).isNone
      let ready := (List.range m.pend.length).filter fun n => ((m.pend[n]?).map may).getD false
      if f.state != .parked || decide (s.cycle < m.due) || (ready.isEmpty && !m.pend.isEmpty) then .next s
      else
        let p := s.pick ready ready
        let r := (p.1.filterMap fun n => m.pend[n]?).foldl (fun a q => a.1.readPiece k a.2 q) (p.2, m)
        let left := without m.pend p.1
        if left.isEmpty then .next (r.1.finishLoad k { r.2 with pend := [] })
        else .next (r.1.modFib k fun f => { f with wait := .miss { r.2 with pend := left, due := s.cycle + 1 } })
    | _ => .next s
  | none => .next s

/-- Whether a byte lies in host memory. -/
def ByteAt.atHost (b : ByteAt) : Bool :=
  match b.loc with
  | .mem k => hostKey k
  | .scr .. => false

/-- With the host link lost, the pieces of a parked load that go to host memory end, with HOST_ERROR (R199, R476). -/
def State.hostFailsLoad (s : State) (k : Nat) (m : MissLoad) : State :=
  let host := fun (p : Nat × Nat × Nat) => (m.pieceBytes p).any (·.atHost)
  let r := (m.pend.filter host).foldl (fun a q => a.1.readPiece k a.2 q) (s, m)
  let m := { r.2 with pend := m.pend.filter fun p => !host p }
  if m.pend.isEmpty then r.1.finishLoad k m else r.1.modFib k fun f => { f with wait := .miss m }

/-- Park a fibre for a load's data (R73). -/
def State.parkMiss (s : State) (k : Nat) (m : MissLoad) : State :=
  let d := s.dueAt
  d.2.park k (.miss { m with pend := m.lanes.flatMap fun x => x.pieces.map fun p => (x.lane, p.1, p.2), due := d.1 })

end Sys2Proof.Machine
end

