-- ==== Sys2Proof/Machine/Mem.lean ====
section
/-! DEFINITION. Loads, stores, scratch and FIFO instructions, cache control and bank modes, opcodes 0x80 to 0x8C (chapter 8). -/

namespace Sys2Proof.Machine

/-! ### Addresses (R193) -/

/-- OFS32 as a signed 64-bit number. -/
def A96.ofs64 (f : A96) : DWord := f.ofs.signExtend 64

/-- ea(l) of the global forms. -/
def Ctx.ea (c : Ctx) (f : A96) (l : Nat) : DWord :=
  let idx := if f.b = 248 then 0 else (c.rd f.b.toNat l).signExtend 64
  c.rdPairA f.a.toNat l + idx <<< f.xsc.toNat + A96.ofs64 f

/-- ea(l) of the scratch forms, as the 64-bit generic address of the offset. -/
def Ctx.eaScr (c : Ctx) (f : A96) (l : Nat) : DWord :=
  let idx := if f.b = 248 then 0 else (c.rd f.b.toNat l).signExtend 64
  cat32 0xFE000000 (lo32 ((c.rdA f.a.toNat l).zeroExtend 64 + idx <<< f.xsc.toNat + A96.ofs64 f))

/-- The lanes of act with their addresses. -/
def Ctx.addrs (c : Ctx) (ea : Nat → DWord) : List (Nat × DWord) := (lanesIn c.act).map fun l => (l, ea l)

/-- Bytes of an access by SZ (R197). -/
def szBytes (sz : BitVec 3) : Nat := 2 ^ sz.toNat

/-- Alignment of an access (R195). -/
def szAlign (sz : BitVec 3) : Nat := min (szBytes sz) 4

/-- Run the checks of R198, then the rest; a page that needs a walk parks the fibre at this instruction. -/
def Ctx.checked (c : Ctx) (s : State) (acc : Acc) (n al : Nat) (line : Bool) (ea : Nat → DWord)
    (k : State → List LaneAcc → Res) : Res :=
  match s.checkAccess c.k acc n al line (c.addrs ea) c.f.walks with
  | .trap t => .trap t
  | .walk va => .again (((s.enterMiss c.cluster (s.strandCtx c.strand) va c.k).count c.cluster 0x13 1).park c.k .walk)
  | .ok lanes => k s lanes

/-- Registers that form the address in lane `l`, with the lane each is read in. -/
def Ctx.addrRegs (c : Ctx) (f : A96) (pair : Bool) (l : Nat) : List (Nat × Nat) :=
  let a := c.laneA l
  (f.a.toNat, a) :: (if pair then [(f.a.toNat + 1, a)] else []) ++ (if f.b = 248 then [] else [(f.b.toNat, l)])

/-- The taint tags of a load's words: those of the address registers (R416). -/
def Ctx.loadTags (c : Ctx) (f : A96) (pair : Bool) : List (Nat × Tag) :=
  (lanesIn c.act).filterMap fun l =>
    (c.tagIn (c.addrRegs f pair l)).map fun t => (l, { t with direct := false })

/-! ### Loads -/

/-- Whether the cluster can serve every byte from its SRAM now (R186, R200, R225). -/
def State.present (s : State) (cl : Nat) (lanes : List LaneAcc) : Bool :=
  let c := s.cluster cl
  lanes.all fun x => x.bytes.all fun b =>
    match b.kind, b.loc with
    | .scr, _ => true
    | .so, _ => false
    | .rc, .mem k => (tget? c.l1 (lineOf k)).isSome && (s.badByte b).isNone
    | .uo, .mem k => (((tget? c.uo (lineOf k)).bind (·.bank)).isSome) && (s.badByte b).isNone
    | _, .scr _ _ => true

/-- The bank in change that an access of the fibre uses, for which it waits in its slot (R59, R186). -/
def Ctx.busy (c : Ctx) (s : State) (lanes : List LaneAcc) : Option Nat := (s.cluster c.cluster).busyBank (lanes.flatMap (·.bytes))

/-- Lines of global memory that lanes touch. -/
def linesOf (lanes : List LaneAcc) : List Nat :=
  (lanes.flatMap fun x => x.bytes.filterMap fun b => match b.loc with
    | .mem k => some (lineOf k)
    | .scr _ _ => none).eraseDups

/-- A demand access references prefetched lines (R192, Table 7.13): they were useful, timely where the line has arrived and else late. -/
def State.demand (s : State) (cl : Nat) (part : Nat) (lines : List Nat) : State :=
  let hits := (s.cluster cl).pf.filter fun p => p.part == part && lines.contains p.line
  if hits.isEmpty then s
  else
    let late := hits.filter fun p => decide (s.cycle < p.due)
    let s := s.modCluster cl fun c => { c with pf := c.pf.filter fun p => !(p.part == part && lines.contains p.line) }
    ((s.count cl 0x19 hits.length).count cl 0x1A (hits.length - late.length)).count cl 0x1B late.length

/-- Perform a load whose checks have passed (R200): from SRAM at its latency, or parked until its data lands. -/
def Ctx.load (c : Ctx) (s : State) (form : LoadForm) (lanes : List LaneAcc) (tags : List (Nat × Tag)) (acq : Option Nat)
    (hint : BitVec 2) : Res :=
  if lanes.isEmpty then .next s
  else if let some n := c.busy s lanes then .again (s.stall c.k (.bank n))
  else
    let scr := lanes.all fun x => x.bytes.all fun b => b.kind == .scr
    let s := ((s.lateFirst c.k (lanes.flatMap (·.bytes))).uoYield c.k (lanes.flatMap (·.bytes))).demand c.cluster (s.strandPart c.strand) (linesOf lanes)
    if s.loadMay c.k lanes && s.present c.cluster lanes then
      let s := s.count c.cluster (if scr then 0x12 else 0x10) 1
      let s := if acq.isSome then s.syncLines c.k else s
      let ls := s.lookLanes c.k (fun i => Config.olderValue (s.freeCtr + i)) lanes
      let s := ({ s with freeCtr := s.freeCtr + 1536 } : State).looked c.k ls
      let s := match acq with
        | some scope => s.acquire c.k scope (looksRels ls)
        | none => s
      let got := ls.map fun x => (x.1, x.2.flatMap (·.bytes))
      let s := s.replayLoad c.k lanes got
      let words := got.map fun x => (x.1.lane, form.words x.2)
      let val := fun r l => ((words.find? (·.1 == l)).map fun w => w.2.getD r 0).getD 0
      let tag := fun l => (tags.find? (·.1 == l)).map (·.2)
      let lat := if scr then 8 else 10
      let bad := lanes.filterMap fun x => (s.badLane x).map fun e => (x, e)
      if bad.isEmpty then .next (c.putSpan s form.dst form.span val lat tag)
      else
        let p := s.takeSeq c.k
        let badL := lanesOf fun l => bad.any (·.1.lane == l)
        let land := c.landing lat
        .next ((p.1.landWords c.k form.dst form.span p.2 c.act badL
          (fun r l => if badL.getLsbD l then p.1.freeLoadWord l else val r l) tags land).holdBad c.k p.2 bad c.i.word0 land)
    else
      let p := (s.count c.cluster 0x11 1).takeSeq c.k
      .next (p.1.parkMiss c.k
        { form := form, lanes := lanes, seq := p.2, word := c.i.word0, act := c.act, acq := acq.isSome, scope := acq.getD 0, hint := hint, tags := tags })

/-- The form of LD and LDS. -/
def A96.form (f : A96) : LoadForm := { dst := f.d.toNat, sz := f.sz.toNat, sx := f.hint.getLsbD 2 }

/-- Acquire and release as ORD states (Table 2.5), and the scope of either. -/
def A96.acq (f : A96) : Bool := f.ord.getLsbD 0
def A96.rel (f : A96) : Bool := f.ord.getLsbD 1
def A96.relAt (f : A96) : Option Nat := if A96.rel f then some f.scope.toNat else none
def A96.acqAt (f : A96) : Option Nat := if A96.acq f then some f.scope.toNat else none

/-- The cache hint, HINT[1:0] of LD, LDS, ST and STS (R204). -/
def A96.cacheHint (f : A96) : BitVec 2 := f.hint.extractLsb' 0 2

/-- LD (R206). -/
def execLd (f : A96) (s : State) : Host.Outcome State Fault Refusal :=
  issue (.ld f) s fun c s =>
    c.checked s .load (szBytes f.sz) (szAlign f.sz) false (c.ea f) fun s lanes =>
      c.load s (A96.form f) lanes (c.loadTags f true) (A96.acqAt f) (A96.cacheHint f)

/-- LDS (R207). -/
def execLds (f : A96) (s : State) : Host.Outcome State Fault Refusal :=
  issue (.lds f) s fun c s =>
    c.checked s .load (szBytes f.sz) (szAlign f.sz) false (c.eaScr f) fun s lanes =>
      c.load s (A96.form f) lanes (c.loadTags f false) (A96.acqAt f) (A96.cacheHint f)

/-- The bytes of a transposing access (R208): element i of m lies 128·i above the offset. -/
def transposed (sz : BitVec 3) (a : LaneAcc) : LaneAcc :=
  let n := szBytes sz
  { a with el := n, bytes := (List.range (4 / n)).flatMap fun i => (a.bytes.drop (128 * i)).take n }

/-- Bytes from the first to the last of a transposing access. -/
def transSpan (sz : BitVec 3) : Nat := 128 * (4 / szBytes sz - 1) + szBytes sz

/-- LDT (R208). -/
def execLdt (f : A96) (s : State) : Host.Outcome State Fault Refusal :=
  issue (.ldt f) s fun c s =>
    c.checked s .load (transSpan f.sz) (szBytes f.sz) false (c.eaScr f) fun s lanes =>
      c.load s { dst := f.d.toNat, sz := 2, sx := false, ldt := true } (lanes.map (transposed f.sz)) (c.loadTags f false) none 0

/-! ### Stores -/

/-- The bytes of D that a store writes in lane `l` (R197). -/
def Ctx.storeBytes (c : Ctx) (d n l : Nat) : List Byte :=
  (bytesOfNat n ((List.range ((n + 3) / 4)).foldl (fun a k => a + (c.rd (d + k) l).toNat * 2 ^ (32 * k)) 0))

/-- Perform a store whose checks have passed: escape records, then its place in the store queue (R200, R418). -/
def Ctx.store (c : Ctx) (s : State) (d n : Nat) (lanes : List LaneAcc) (addr : Nat → List (Nat × Nat)) (rel : Option Nat)
    (hint : BitVec 2) : Res :=
  if lanes.isEmpty then .next s
  else
    let data := fun l => (List.range ((n + 3) / 4)).map fun k => (d + k, l)
    let piece := fun (x : LaneAcc) =>
      let bs := x.bytes.zip (c.storeBytes d n x.lane)
      x.pieces.map fun p => (bs.drop p.1).take p.2
    match c.escape s (c.escapes lanes data addr fun l => c.rd d l) with
    | .error t => .trap t
    | .ok s =>
      let s := s.demand c.cluster (s.strandPart c.strand) (linesOf lanes)
      .next (s.enqueueStore c.k { strand := c.strand, owners := [c.k], release := rel.isSome, scope := rel.getD 0, hint := hint, pieces := lanes.flatMap piece })

/-- ST (R206). -/
def execSt (f : A96) (s : State) : Host.Outcome State Fault Refusal :=
  issue (.st f) s fun c s =>
    c.checked s .store (szBytes f.sz) (szAlign f.sz) false (c.ea f) fun s lanes =>
      c.store s f.d.toNat (szBytes f.sz) lanes (c.addrRegs f true) (A96.relAt f) (A96.cacheHint f)

/-- STS (R207). -/
def execSts (f : A96) (s : State) : Host.Outcome State Fault Refusal :=
  issue (.sts f) s fun c s =>
    c.checked s .store (szBytes f.sz) (szAlign f.sz) false (c.eaScr f) fun s lanes =>
      c.store s f.d.toNat (szBytes f.sz) lanes (c.addrRegs f false) (A96.relAt f) (A96.cacheHint f)

/-- STT (R208): the four bytes of D in element order. -/
def execStt (f : A96) (s : State) : Host.Outcome State Fault Refusal :=
  issue (.stt f) s fun c s =>
    c.checked s .store (transSpan f.sz) (szBytes f.sz) false (c.eaScr f) fun s lanes =>
      c.store s f.d.toNat 4 (lanes.map (transposed f.sz)) (c.addrRegs f false) none 0

/-! ### Prefetch, windows and cache control -/

/-- A PF's line request with its translation: dropped on a permission failure, on another strand's SPRIV page (R173), and on an SO page,
whose lines no cache holds (DESIGN CHOICE, log entry 47); useless where the line is already present; else under way (R192). A line
whose bank is changing its mode leaves with the change, for which the request waits (R186). -/
def State.pfGo (s : State) (cl : Nat) (r : PfReq) (x : Xlat) : State :=
  let own := s.privBase r.strand
  let foreign := x.spriv && !r.own && !(decide (own.1 ≤ r.va) && decide (r.va < own.1 + own.2))
  let line := lineOf (x.key r.va)
  let c := s.cluster cl
  let changing := (c.busyBank [{ loc := .mem (line * 128), kind := .rc }]).isSome
  if (Acc.load.permCause x).isSome || foreign || x.kind == .so ||
      (!changing && ((tget? c.l1 line).isSome || (tget? c.uo line).isSome)) then
    s.count cl 0x1C 1
  else
    (State.goHome { s with freeCtr := s.freeCtr + 1 } cl (line * 128)).modCluster cl fun y =>
      { y with pf := y.pf ++ [{ part := s.strandPart r.strand, line := line, kind := x.kind, l2 := r.l2
                                due := s.cycle + 1 + Config.pfDelay s.freeCtr }] }

/-- A line request of PF (R180, R192, R209): translated, waiting in the miss table for a walk, or dropped where the address is malformed,
lies in the scratch window, or finds no room in the table. -/
def State.pfAsk (s : State) (k lane : Nat) (a : DWord) (l2 : Bool) : State :=
  let cl := fibCluster k
  let s := s.count cl 0x18 1
  match s.place (fibStrand k) lane a 1 with
  | .ok (.global (v :: _) own) =>
    let key := s.strandCtx (fibStrand k)
    let r : PfReq := { strand := fibStrand k, va := v, own := own, l2 := l2 }
    match s.tlbFind cl key v with
    | some x => s.pfGo cl r x
    | none => (s.enterPf cl key v r).getD (s.count cl 0x1C 1)
  | _ => s.count cl 0x1C 1

/-- What makes two line requests of a PF duplicates (R209): the line of memory where the translation is at hand, else the line of the
virtual address that the window decode gives, else that of the malformed address. -/
def State.pfLine (s : State) (k lane : Nat) (a : DWord) : Nat × Nat :=
  match s.place (fibStrand k) lane a 1 with
  | .ok (.global (v :: _) _) =>
    match s.tlbFind (fibCluster k) (s.strandCtx (fibStrand k)) v with
    | some x => (0, lineOf (x.key v))
    | none => (1, v / 128)
  | _ => (2, a.toNat / 128)

/-- PF (R209): each line once. -/
def execPf (f : A96) (s : State) : Host.Outcome State Fault Refusal :=
  issue (.pf f) s fun c s =>
    let ls := (lanesIn c.act).foldl
      (fun (a : List ((Nat × Nat) × DWord × Nat)) l =>
        let n := s.pfLine c.k l (c.ea f l)
        if a.any fun x => x.1 == n then a else a ++ [(n, c.ea f l, l)]) []
    .next (ls.foldl (fun a x => a.pfAsk c.k x.2.2 x.2.1 (f.hint.getLsbD 0)) s)

/-- The line that the cluster evicts in this cycle, if it does (R225: the moment is unstated). -/
def State.l1Evict (s : State) (cl : Nat) : State :=
  let c := s.cluster cl
  if c.l1.isEmpty && c.uo.isEmpty then s
  else
    match Config.evictLine cl s.cycle with
    | some line => s.evict cl line
    | none => s

/-- Prefetched lines that arrive now are in the L1, but for those of `.l2` (R192, R209); one whose bank is changing its mode waits
(R186). -/
def State.pfArrive (s : State) (cl : Nat) : State :=
  let due := fun (p : Prefetch) => p.due == s.cycle && !p.l2
  let late := fun (p : Prefetch) => due p && ((s.cluster cl).busyBank [{ loc := .mem (p.line * 128), kind := .rc }]).isSome
  let ps := (s.cluster cl).pf
  let s := if ps.any late then
      s.modCluster cl fun c => { c with pf := c.pf.map fun p => if late p then { p with due := p.due + 1 } else p }
    else s
  (ps.filter fun p => due p && !late p).foldl
    (fun a p => if p.kind == .uo then a.uoFill cl p.line else a.rcFill cl p.line) s

/-- REGPF (R212). -/
def execRegpf (w1 : Bool) (f : A96) (s : State) : Host.Outcome State Fault Refusal :=
  issue (.regpf w1 f) s fun c s =>
    let b := f.ofs.toNat
    .next (s.modFib c.k fun x =>
      { x with wb0 := if w1 then x.wb0 else b, wb1 := if w1 then b else x.wb1, fills := (x.fills.filter fun e => decide (c.is.r2 < e.2)) ++ [(b, c.is.r2 + 6)] })

/-- CCTL (R213): its write-backs and removals stand in the store queue until they are performed, after the fibre's earlier stores to the
lines (R221 case 6, R225). A scratch-window address makes the checks of R198 and has no effect beyond them (DESIGN CHOICE, log entry 96). -/
def execCctl (op : CctlOp) (f : A96) (s : State) : Host.Outcome State Fault Refusal :=
  issue (.cctl op f) s fun c s =>
    c.checked s (if op = .wb then .load else .cctlInv) 1 1 false (c.ea f) fun s lanes =>
      let ls := linesOf lanes
      if let some n := (s.cluster c.cluster).busyBank (ls.flatMap lineBytes) then .again (s.stall c.k (.bank n))
      else if ls.isEmpty then .next s
      else .next (s.enqueueStore c.k { strand := c.strand, owners := [c.k], cctl := some op, lines := ls })

/-! ### FIFO banks (R189, R210, R211, R215) -/

/-- The bank a FIFO instruction names. -/
def A96.bank (f : A96) : Nat := (f.ofs.extractLsb' 0 4).toNat

def State.bank (s : State) (cl n : Nat) : Bank := (s.cluster cl).banks.getD n {}
def State.modBank (s : State) (cl n : Nat) (f : Bank → Bank) : State :=
  s.modCluster cl fun c => { c with banks := lset c.banks n (f (c.banks.getD n {})) }

/-- A parked FIFO instruction is done: the fibre goes on at the next instruction. -/
def State.fifoDone (s : State) (k : Nat) (nxt : DWord) : State :=
  ((s.modFib k fun f => { f with pc := nxt, runPos := f.runPos + 1, issued := true, passStop := false, passBrk := false }).ready k)

/-- Fibres parked on a bank, in the order of R189: beat-2 cycle, then skein id and path. -/
def State.fifoWaiters (s : State) (cl n : Nat) (push : Bool) : List (Nat × Nat) :=
  let ws := s.allFibs.filterMap fun f => match f.2.wait with
    | .fifo b _ beat2 p _ _ _ _ => if fibCluster f.1 == cl && b == n && p.isSome == push then some (beat2, f.1) else none
    | _ => none
  ws.foldl (fun a w => ins w a) []
where
  /-- Insert by cycle and then key. -/
  ins (w : Nat × Nat) : List (Nat × Nat) → List (Nat × Nat)
    | [] => [w]
    | x :: xs => if w.1 < x.1 ∨ w.1 = x.1 ∧ w.2 < x.2 then w :: x :: xs else x :: ins w xs

/-- Serve the fibres parked on a bank while they can proceed (R189). -/
def State.fifoServe (s : State) (cl n : Nat) : Nat → State
  | 0 => s
  | fuel + 1 =>
    let b := s.bank cl n
    match s.fifoWaiters cl n false, b.fifo with
    | (_, k) :: _, e :: rest =>
      match s.fib? k with
      | some f =>
        match f.wait with
        | .fifo _ _ _ _ dst act nxt tags =>
          let s := s.modBank cl n fun b => { b with fifo := rest }
          let q := s.takeSeq k
          let s := q.1.landWords k dst 1 q.2 act 0 (fun _ l => laneW e.vals l) tags (tri1 (s.cycle + 24))
          ((s.syncPoint k).fifoDone k nxt).fifoServe cl n fuel
        | _ => s
      | none => s
    | _, _ =>
      match s.fifoWaiters cl n true with
      | (_, k) :: _ =>
        if b.fifo.length < 512 && (s.drainBusy k).isNone then
          match s.fib? k with
          | some f =>
            match f.wait with
            | .fifo _ _ _ (some row) _ _ nxt _ =>
              (((s.modBank cl n fun b => { b with fifo := b.fifo ++ [row] }).drainStores k).fifoDone k nxt).fifoServe cl n fuel
            | _ => s
          | none => s
        else s
      | [] => s

/-- The trap of R210 for a bank that is no FIFO of the fibre's context, or a bank in a change. -/
def Ctx.fifoBad (c : Ctx) (s : State) (n : Nat) : Option Trap :=
  let b := s.bank c.cluster n
  if b.mode == .fifo && b.owner == some (s.strandCtx c.strand) then none
  else some { cause := .bankMode, addr := BitVec.ofNat 64 n }

/-- A FIFO instruction on a bank: wait out a change, check, then act (R186, R210). -/
def Ctx.fifo (c : Ctx) (s : State) (n : Nat) (push : Option Row) (dst : Nat) (k : State → Bank → Option State) : Res :=
  let b := s.bank c.cluster n
  if b.next.isSome then .again (s.stall c.k (.bank n))
  else
    match c.fifoBad s n with
    | some t => .trap t
    | none =>
      if c.act == 0 then .next s
      else
        match k s b with
        | some s => .next (s.fifoServe c.cluster n 1100)
        | none =>
          .again ((c.noteParked s).park c.k (.fifo n c.is.r2 c.is.r2 push dst c.act c.nextPc (c.tagsIn c.act)))

/-- FPUSH (R210): a release at .skein, so the fibre's earlier stores come first (R211). -/
def execFpush (f : A96) (s : State) : Host.Outcome State Fault Refusal :=
  issue (.fpush f) s fun c s =>
    let row : Row := { vals := laneVec fun l => if c.act.getLsbD l then c.rd f.d.toNat l else 0 }
    let n := A96.bank f
    let es : List Escape := (lanesIn c.act).filterMap fun l => (c.tagOf f.d.toNat l).map fun t =>
      { lane := l, tag := t, data := true, addrT := false, addr := BitVec.ofNat 64 (0xFE000000 * 2 ^ 32 + n)
        value := c.rd f.d.toNat l }
    match (if (c.fifoBad s n).isSome || (s.bank c.cluster n).next.isSome then .ok s else c.escape s es) with
    | .error t => .trap t
    | .ok s =>
      c.fifo s n (some row) 248 fun s b =>
        if b.fifo.length < 512 && (s.fifoWaiters c.cluster n true).isEmpty then
          some ((s.drainStores c.k).modBank c.cluster n fun b => { b with fifo := b.fifo ++ [row] })
        else none

/-- FPOP (R210): lands 8 periods after the pop; an acquire at .skein (R211). -/
def execFpop (f : A96) (s : State) : Host.Outcome State Fault Refusal :=
  issue (.fpop f) s fun c s =>
    let n := A96.bank f
    c.fifo s n none f.d.toNat fun s b =>
      match b.fifo with
      | e :: rest =>
        if (s.fifoWaiters c.cluster n false).isEmpty then
          let s := ((s.lateFirst c.k []).modBank c.cluster n fun b => { b with fifo := rest }).syncPoint c.k
          some (c.putBits s f.d.toNat c.act (laneW e.vals) 0xFFFFFFFF 8 c.laneTag)
        else none
      | [] => none

/-- FIFO_TIMEOUT (R189): a fibre parked on a bank for 2^24 cycles traps. -/
def execFifoTimeout (k : Nat) (s : State) : Host.Outcome State Fault Refusal :=
  match s.fib? k with
  | some f =>
    match f.wait with
    | .fifo n since _ _ _ act _ _ =>
      if since + 2 ^ 24 ≤ s.cycle then
        .next (s.takeTrap k { cause := .fifoTimeout, addr := BitVec.ofNat 64 n, word := some f.word } act 0)
      else .next s
    | _ => .next s
  | none => .next s

/-! ### Banks and swizzled regions -/

/-- Whether a unit of a resident or saved skein's scratch allotment lies in a bank (R187, Table 7.11). -/
def State.bankHeld (s : State) (cl n : Nat) : Bool :=
  s.skeins.any fun e => e.1 / 4096 == cl && (e.2.banks.take (e.2.scratchBytes / 4096)).contains n

/-- BANKMODE (R214, Table 7.11). -/
def execBankmode (m : BankMode) (f : X64) (s : State) : Host.Outcome State Fault Refusal :=
  issue (.bankmode m f) s fun c s =>
    let n := (f.imm8.extractLsb' 0 4).toNat
    let b := s.bank c.cluster n
    let key := s.strandCtx c.strand
    let bad : Res := .trap { cause := .bankMode, addr := BitVec.ofNat 64 n }
    if b.next.isSome then .again (s.stall c.k (.bank n))
    else if b.mode == .fifo && b.owner != some key then bad
    else if b.mode == m then .next s
    else if b.mode == .scratch && s.bankHeld c.cluster n then bad
    else if b.mode == .fifo && (!b.fifo.isEmpty || !(s.fifoWaiters c.cluster n true).isEmpty ||
        !(s.fifoWaiters c.cluster n false).isEmpty) then bad
    else .next (s.modBank c.cluster n fun b => { b with next := some m, owner := if m = .fifo then some key else b.owner })

/-- The lines that a bank holds leave the L1, dirty ones written back (R186, Table 7.11). -/
def State.bankLeaves (s : State) (cl n : Nat) : State :=
  let c := s.cluster cl
  ((c.l1.map (·.1) ++ c.uo.map (·.1)).filter fun line => c.bankOf line == some n).foldl (fun a line => a.evict cl line) s

/-- The fibres that wait for a bank issue their instructions again (R186). -/
def State.unstallBank (s : State) (cl n : Nat) : State :=
  s.allFibs.foldl (fun a f => if fibCluster f.1 == cl && f.2.wait == .bank n then a.unstall f.1 else a) s

/-- BANK_MODE_CHANGE_END (R186): the change takes effect, the fibres that wait for the bank issue again, and a push whose fibre's stores
used it goes on. -/
def execBankModeChangeEnd (cl n : Nat) (s : State) : Host.Outcome State Fault Refusal :=
  let b := s.bank cl n
  match b.next with
  | none => .next s
  | some m =>
    let s := if b.mode == .cache then s.bankLeaves cl n else s
    let s := s.modBank cl n fun b => { mode := m, next := none, owner := if m = .fifo then b.owner else none, fifo := [] }
    .next ((List.range 16).foldl (fun a b => a.fifoServe cl b 1100) (s.unstallBank cl n))

/-- SCRCFG (R216). -/
def execScrcfg (clear : Bool) (f : X64) (s : State) : Host.Outcome State Fault Refusal :=
  issue (.scrcfg clear f) s fun c s =>
    let slot := (f.imm8.extractLsb' 0 2).toNat
    if c.act == 0 then .next s
    else if clear then .next (s.modSkein c.skein fun k => { k with scrcfg := terase k.scrcfg slot })
    else
      let a := (c.rdLow f.a.toNat).toNat
      let n := (c.rdLow f.b.toNat).toNat
      let size := ((s.skein? c.skein).map (·.scratchBytes)).getD 0
      if a % 4096 ≠ 0 ∨ n % 4096 ≠ 0 ∨ n = 0 ∨ size < a + n then
        .trap { cause := .scratchRange, addr := BitVec.ofNat 64 (0xFE000000 * 2 ^ 32 + a) }
      else .next (s.modSkein c.skein fun k => { k with scrcfg := tset k.scrcfg slot (a, n) })

end Sys2Proof.Machine
end

