-- ==== Sys2Proof/Machine/Atom.lean ====
section
/-! DEFINITION. Atomic instructions, fences and WAITEQ, opcodes 0xA0 to 0xA6 (R234 to R247), with the return of old values
(R239, R240), the wake and the timeout of WAITEQ. -/

namespace Sys2Proof.Machine

/-! ### Operands -/

/-- ea(l) of the global atomic forms, which have no index (R234). -/
def Ctx.eaAtom (c : Ctx) (f : A96) (l : Nat) : DWord := c.rdPairA f.a.toNat l + A96.ofs64 f

/-- ea(l) of ATOMS, as the generic address of the scratch offset (R245). -/
def Ctx.eaAtomScr (c : Ctx) (f : A96) (l : Nat) : DWord :=
  cat32 0xFE000000 (lo32 ((c.rdA f.a.toNat l).zeroExtend 64 + A96.ofs64 f))

/-- A data operand of 32 or 64 bits in lane `l` (R235). -/
def Ctx.rdSz (c : Ctx) (sz : BitVec 3) (v l : Nat) : DWord :=
  if sz.toNat = 3 then c.rdPair v l else (c.rd v l).zeroExtend 64

/-- Registers of a base operand, with the lane each is read in. -/
def Ctx.baseRegs (c : Ctx) (f : A96) (pair : Bool) (l : Nat) : List (Nat × Nat) :=
  (f.a.toNat, c.laneA l) :: (if pair then [(f.a.toNat + 1, c.laneA l)] else [])

/-- Registers of a data operand. -/
def dataRegs (sz : BitVec 3) (v : BitVec 8) (l : Nat) : List (Nat × Nat) :=
  (List.range (szSpan sz)).map fun j => (v.toNat + j, l)

/-- The operation an atomic instruction makes of its operands, lanes in ascending order (R236, R238, R242). -/
def Ctx.atomReq (c : Ctx) (f : A96) (op : AtomOp) (ret : Bool) (lanes : List LaneAcc) (seq : Nat) (ticket : Option Nat) : AtomReq where
  op := op
  type := (aTypeOf f.type).getD .n32
  dst := if ret then some f.d.toNat else none
  lanes := lanes.map fun a => { acc := a, operand := c.rdSz f.sz f.b.toNat a.lane, expected := c.rdSz f.sz f.d.toNat a.lane }
  ticket := ticket
  word := c.i.word0
  seq := seq
  acq := A96.acq f
  rel := A96.rel f
  scope := f.scope.toNat
  tags := c.tagsIn c.act

/-- The escape records of an atomic instruction (Table 18.3). -/
def Ctx.atomEscape (c : Ctx) (s : State) (f : A96) (op : AtomOp) (pair : Bool) (lanes : List LaneAcc) : Except Trap State :=
  c.escape s (c.escapes lanes
    (fun l => dataRegs f.sz f.b l ++ (if op = .cas then dataRegs f.sz f.d l else []))
    (c.baseRegs f pair) fun l => c.rd f.b.toNat l)

/-! ### Performing (R238 to R240) -/

/-- The ticket of a fibre parked in an ATOMSC. -/
def Fibre.ticket (f : Fibre) : Option Nat :=
  match f.wait with
  | .atomic r => r.ticket
  | _ => none

/-- Whether a request's place in the ticket order has come (R229, R243). -/
def State.ticketTurn (s : State) (r : AtomReq) : Bool :=
  match r.ticket with
  | none => true
  | some t => s.allFibs.all fun f => (f.2.ticket.map fun u => decide (t ≤ u)).getD true

/-- The bytes of lane operation `n` of a request. -/
def AtomReq.locs (r : AtomReq) (n : Nat) : List ByteAt := ((r.lanes[n]?).map fun a => a.acc.bytes).getD []

/-- Whether lane operation `n` comes after an earlier one `m`: on one location, and for ATOMSC always (R229, R238). -/
def AtomReq.share (r : AtomReq) (m n : Nat) : Bool := r.ticket.isSome || shareByte (r.locs m) (r.locs n)

/-- The lane operations of a parked atomic that may be performed now: after the fibre's stores that R221 orders before them, and after
the earlier lanes that they follow, and in no bank that is changing its mode (R186). -/
def State.atomReady (s : State) (k : Nat) (r : AtomReq) : List Nat :=
  readyParts r.lanes.length
    (fun n => (s.storesBefore k (r.locs n) r.rel).isEmpty && ((s.cluster (fibCluster k)).busyBank (r.locs n)).isNone) r.share

/-- ATOMIC_RETURN (R238 to R240): lane operations of a parked atomic are performed; with the last its old values land. -/
def execAtomicReturn (k : Nat) (s : State) : Host.Outcome State Fault Refusal :=
  match s.fib? k with
  | some f =>
    match f.wait with
    | .atomic r =>
      let ready := s.atomReady k r
      if f.state != .parked || !s.ticketTurn r || decide (s.cycle < r.due) || (ready.isEmpty && !r.lanes.isEmpty) then .next s
      else
        let p := s.pick ready (ready.filter fun n => !(List.range n).any fun m => r.share m n)
        let q := p.2.atomLanes k r p.1
        if q.2.lanes.isEmpty then .next ((q.1.atomFinish k q.2 (tri1 s.cycle)).ready k)
        else .next (q.1.modFib k fun f => { f with wait := .atomic { q.2 with due := s.cycle + 1 } })
    | _ => .next s
  | none => .next s

/-- With the host link lost, what a fibre's access still has outstanding in host memory ends with HOST_ERROR (R476). -/
def State.hostFails (s : State) (k : Nat) : State :=
  match (s.fib? k).map Fibre.wait with
  | some (.miss m) => s.hostFailsLoad k m
  | some (.atomic r) =>
    let is := (List.range r.lanes.length).filter fun n => (r.locs n).any (·.atHost)
    let q := s.atomLanes k r is
    if is.isEmpty then s
    else if q.2.lanes.isEmpty then (q.1.atomFinish k q.2 (tri1 s.cycle)).ready k
    else q.1.modFib k fun f => { f with wait := .atomic q.2 }
  | _ => s

/-! ### The instructions -/

/-- Take the request up. In scratch its lanes are performed, after the fibre's stores that R221 orders before them, from now on and before
its old value lands 10 periods after each group's beat: at once, or, as a free value says, one of them now and the others from the queue that
performs a fibre's accesses (R218, R238, R239). Else the fibre parks. -/
def Ctx.atomGo (c : Ctx) (s : State) (f : A96) (op : AtomOp) (lanes : List LaneAcc) (sc : Bool) : Res :=
  let q := s.takeSeq c.k
  let ticket := if sc then some q.1.ticketCtr else none
  let r := c.atomReq f op true lanes q.2 ticket
  if r.lanes.all AtomLane.inScratch then
    let s := (q.1.drainFor c.k (lanes.flatMap (·.bytes)) r.rel).count c.cluster 0x12 1
    let all := List.range r.lanes.length
    let land := (c.is.r0 + 30, c.is.r1 + 30, c.is.r2 + 30)
    let p := s.pick all (all.filter fun n => !(List.range n).any fun m => r.share m n)
    let x := p.2.atomLanes c.k r p.1
    if x.2.lanes.isEmpty then .next (x.1.atomFinish c.k x.2 land)
    else
      .next ((x.1.landWords c.k f.d.toNat (if r.type.is64 then 2 else 1) r.seq r.act 0 (fun _ _ => 0) r.tags land).enqueueStore c.k
        { strand := c.strand, owners := [c.k], release := r.rel, scope := r.scope, red := some { x.2 with late := some land } })
  else
    let s := if sc then { q.1 with ticketCtr := q.1.ticketCtr + lanes.length }.count c.cluster 0x2E lanes.length else q.1
    let d := (s.demand c.cluster (s.strandPart c.strand) (linesOf lanes)).dueAt
    .next (d.2.park c.k (.atomic { r with due := d.1 }))

/-- A returning global atomic (R237, R239, R241). -/
def atomInstr (i : Instr) (op : AtomOp) (f : A96) (sc : Bool) (s : State) : Host.Outcome State Fault Refusal :=
  issue i s fun c s =>
    c.checked s (if sc then .atomicSc else .atomic) (szBytes f.sz) (szAlign f.sz) true (c.eaAtom f) fun s lanes =>
      if lanes.isEmpty then .next s
      else
        match c.atomEscape s f op true lanes with
        | .error t => .trap t
        | .ok s => c.atomGo s f op lanes sc

/-- ATOM (R241). -/
def execAtom (op : AtomOp) (f : A96) (s : State) : Host.Outcome State Fault Refusal := atomInstr (.atom op f) op f false s

/-- ATOMC (R242). -/
def execAtomc (f : A96) (s : State) : Host.Outcome State Fault Refusal := atomInstr (.atomc f) .cas f false s

/-- ATOMSC (R243). -/
def execAtomsc (op : AtomOp) (f : A96) (s : State) : Host.Outcome State Fault Refusal := atomInstr (.atomsc op f) op f true s

/-- RED (R244): into the store queue. -/
def execRed (op : AtomOp) (f : A96) (s : State) : Host.Outcome State Fault Refusal :=
  issue (.red op f) s fun c s =>
    c.checked s .atomic (szBytes f.sz) (szAlign f.sz) true (c.eaAtom f) fun s lanes =>
      if lanes.isEmpty then .next s
      else
        match c.atomEscape s f op true lanes with
        | .error t => .trap t
        | .ok s =>
          .next ((s.demand c.cluster (s.strandPart c.strand) (linesOf lanes)).enqueueStore c.k
            { strand := c.strand, owners := [c.k], release := A96.rel f, scope := f.scope.toNat, red := some (c.atomReq f op false lanes 0 none) })

/-- ATOMS (R245): performed in the bank; the old value lands 10 periods after issue (R239). -/
def execAtoms (op : AtomOp) (f : A96) (s : State) : Host.Outcome State Fault Refusal :=
  issue (.atoms op f) s fun c s =>
    c.checked s .atomic (szBytes f.sz) (szAlign f.sz) true (c.eaAtomScr f) fun s lanes =>
      if lanes.isEmpty then .next s
      else
        match c.atomEscape s f op false lanes with
        | .error t => .trap t
        | .ok s => c.atomGo s f op lanes false

/-- FENCE (R246): it parks until the fibre's earlier accesses that it orders have been performed. -/
def execFence (kind : FenceKind) (f : X64) (s : State) : Host.Outcome State Fault Refusal :=
  issue (.fence kind f) s fun c s =>
    let scope := bits f.imm8.toNat 0 3
    if s.fenceMet c.k kind then .next (s.fenceSync c.k kind scope) else .next (s.park c.k (.fence kind scope))

/-! ### WAITEQ (R247) -/

/-- The reads of one evaluation, which are not atomic with each other. -/
def State.waitEqLook (s : State) (k : Nat) (w : WaitEq) : List (LaneAcc × List Look) :=
  s.lookLanes k (fun i => Config.olderWait k (s.cycle * 1536 + i)) w.lanes

/-- One evaluation from its reads: each lane with its value and whether it meets the condition. -/
def WaitEq.eval (w : WaitEq) (ls : List (LaneAcc × List Look)) : List (LaneAcc × Nat × Bool) :=
  (ls.zip w.comparand).map fun x =>
    let v := natOfBytes (x.1.2.flatMap (·.bytes))
    (x.1.1, v, (decide (v = x.2.toNat)) != w.ne)

/-- The reads of an evaluation find the lines as their homes hold them, and the fibre's own stores that a UO line keeps (R202, R247). -/
def State.waitEqBring (s : State) (k : Nat) (w : WaitEq) : State :=
  ((w.lanes.flatMap (·.bytes)).filterMap fun b => match b.loc with
    | .mem a => some (lineOf a)
    | .scr .. => none).eraseDups.foldl (fun a n => a.refreshLine (fibCluster k) n) (s.uoYield k (w.lanes.flatMap (·.bytes)))

/-- Whether an evaluation lets the fibre go on: the fibre's own stores that come before its reads have been performed (R221), and every
lane holds, or data came back bad, which ends the wait as R199 has it for a load. -/
def State.waitEqHolds (s : State) (k : Nat) (w : WaitEq) (ls : List (LaneAcc × List Look)) : Bool :=
  s.loadMay k w.lanes && ((w.eval ls).all (·.2.2) || w.lanes.any fun a => (s.badLane a).isSome)

/-- Whether every watched location lies in scratch. -/
def WaitEq.inScratch (w : WaitEq) : Bool := w.lanes.all fun a => a.bytes.all fun b => b.kind == .scr

/-- The final evaluation: D, the replay record and a deferred trap; `land` is the landing cycle. -/
def State.waitEqFinish (s : State) (k : Nat) (w : WaitEq) (ls : List (LaneAcc × List Look)) (land : Nat × Nat × Nat) : State :=
  let s := if w.acq then (s.syncLines k).acquire k w.scope (looksRels ls) else s
  let s := s.replayLoad k w.lanes (ls.map fun x => (x.1, x.2.flatMap (·.bytes)))
  let ev := w.eval ls
  let bad := w.lanes.filterMap fun a => (s.badLane a).map fun e => (a, e)
  let badL := lanesOf fun l => bad.any (·.1.lane == l)
  let act := lanesOf fun l => w.lanes.any (·.lane == l)
  let val := fun j l =>
    if badL.getLsbD l then s.freeLoadWord l
    else BitVec.ofNat 32 ((((ev.find? fun e => e.1.lane == l).map (·.2.1)).getD 0) / 2 ^ (32 * j))
  let q := s.takeSeq k
  (q.1.landWords k w.dst (if w.sz = 3 then 2 else 1) q.2 act badL val w.tags land).holdBad k q.2 bad w.word land

/-- The lanes an evaluation leaves failing. -/
def WaitEq.fails (w : WaitEq) (ls : List (LaneAcc × List Look)) : Lanes :=
  let ev := w.eval ls
  lanesOf fun l => ev.any fun e => e.1.lane == l && !e.2.2

/-- WAITEQ (R247). Where the first evaluation holds, D lands in every group at 24 cycles after beat 2 for scratch and 30 for memory, as
the data of a load that hits does; no rule states the cycle (DESIGN CHOICE, log entry 114). -/
def execWaiteq (ne : Bool) (f : A96) (s : State) : Host.Outcome State Fault Refusal :=
  issue (.waiteq ne f) s fun c s =>
    if c.act == 0 then .next s
    else
      c.checked s .waiteq (szBytes f.sz) (szAlign f.sz) true (c.eaAtom f) fun s lanes =>
        let w : WaitEq :=
          { lanes := lanes, comparand := lanes.map fun a => c.rdSz f.sz f.b.toNat a.lane, ne := ne, sz := f.sz.toNat
            dst := f.d.toNat, failing := 0, acq := A96.acq f, scope := f.scope.toNat, word := c.i.word0, nxt := c.nextPc
            tags := (lanesIn c.act).filterMap fun l =>
              (c.tagIn (c.baseRegs f true l)).map fun t => (l, { t with direct := false }) }
        if let some n := c.busy s lanes then .again (s.stall c.k (.bank n))
        else
        let s := ((s.lateFirst c.k (lanes.flatMap (·.bytes))).demand c.cluster (s.strandPart c.strand) (linesOf lanes)).waitEqBring c.k w
        let ls := s.waitEqLook c.k w
        let s := s.looked c.k ls
        if s.waitEqHolds c.k w ls then .next (s.waitEqFinish c.k w ls (tri1 (c.is.r2 + (if w.inScratch then 24 else 30))))
        else
          .again ((c.noteParked s).park c.k (.waiteq { w with failing := w.fails ls } c.is.r2))

/-- WAITEQ_WAKE (R247): a parked WAITEQ evaluates again, and goes on when its condition holds. -/
def execWaiteqWake (k : Nat) (s : State) : Host.Outcome State Fault Refusal :=
  match s.fib? k with
  | some f =>
    match f.wait with
    | .waiteq w since =>
      if f.state != .parked || !s.loadMay k w.lanes || ((s.cluster (fibCluster k)).busyBank (w.lanes.flatMap (·.bytes))).isSome then .next s
      else
        let s := s.waitEqBring k w
        let ls := s.waitEqLook k w
        let s := s.looked k ls
        if s.waitEqHolds k w ls then .next ((s.waitEqFinish k w ls (tri1 s.cycle)).fifoDone k w.nxt)
        else .next (s.modFib k fun f => { f with wait := .waiteq { w with failing := w.fails ls } since })
    | _ => .next s
  | none => .next s

/-- WAITEQ_TIMEOUT (R247): after 2^24 cycles parked the fibre traps, D unchanged. -/
def execWaiteqTimeout (k : Nat) (s : State) : Host.Outcome State Fault Refusal :=
  match s.fib? k with
  | some f =>
    match f.wait with
    | .waiteq w since =>
      if f.state == .parked && decide (since + 2 ^ 24 ≤ s.cycle) then
        let addr := ((w.lanes.find? fun a => w.failing.getLsbD a.lane).map (·.addr)).getD 0
        .next (s.takeTrap k { cause := .waiteqTimeout, addr := addr, mask := some w.failing, word := some w.word }
          w.failing 0)
      else .next s
    | _ => .next s
  | none => .next s

end Sys2Proof.Machine
end

