-- ==== Sys2Proof/Machine/Engine.lean ====
section
/-! DEFINITION. The copy engine (R248 to R263, R265 to R267): the bytes an operation moves, how it fails, how operations are
reported in order, and what a wait for them comes to. -/

namespace Sys2Proof.Machine

/-! ### Bytes an engine reaches (R173, R257, R258) -/

/-- The strand's side of one byte of a range that starts at `a`: where it lies, or the cause and address of the failure. `walks` are the
failures of the operation's page walks, and `coll` lets it lie on a peer page, as R177 does for a collective. A pattern row that starts in
the private window fails with its window cause, and a translation failure is recorded with the access's own cause (DESIGN CHOICE, log
entries 41 and 108). -/
def State.engByte (s : State) (strand : Nat) (walks : List (Nat × Cause)) (st : Bool) (a i : Nat) (coll : Bool := false) :
    Except (Cause × Nat) ByteAt :=
  let top := a / 2 ^ 56
  let key := s.strandCtx strand
  if 2 ^ 64 ≤ a then .error (.noncanon, a)
  else if top = 0xFD then .error (.winRange, a + i)
  else if top = 0xFE then
    let o := a % 2 ^ 56 + i
    match s.skein? (strandSkein strand) with
    | some k =>
      if o < k.scratchBytes then .ok { loc := .scr (strandSkein strand) o, kind := .scr }
      else .error (.scratchRange, a + i)
    | none => .error (.scratchRange, a + i)
  else if 2 ^ 64 ≤ a + i ∨ !canonical (a + i) then .error (.noncanon, a + i)
  else
    let acc := if st then Acc.store else Acc.load
    match s.unitXlate (strandCluster strand) key walks (a + i) with
    | .invalid => .error (acc.xlateCause, a + i)
    | .error => .error (.walkError, a + i)
    | .ok x =>
      match acc.permCause (if coll && x.loc == 2 then { x with loc := 0 } else x) with
      | some e => .error (e, a + i)
      | none => if x.spriv then .error (if st then .stPerm else .ldPerm, a + i) else .ok { loc := .mem (x.key (a + i)), kind := x.kind }

/-- The page that an engine needs for a byte of a range and has still to ask for. -/
def State.engMiss (s : State) (strand : Nat) (walks : List (Nat × Cause)) (a i : Nat) : Option Nat :=
  let v := a + i
  if 2 ^ 64 ≤ v ∨ a / 2 ^ 56 = 0xFD ∨ a / 2 ^ 56 = 0xFE ∨ !canonical v then none
  else if s.unitMiss (strandCluster strand) (s.strandCtx strand) walks v then some v else none

/-- All of a list, or the first error. -/
def allOk {α ε : Type} : List (Except ε α) → Except ε (List α)
  | [] => .ok []
  | .error e :: _ => .error e
  | .ok a :: t =>
    match allOk t with
    | .ok l => .ok (a :: l)
    | .error e => .error e

/-- Bytes `i` to `i + n − 1` of a range. -/
def State.engBytes (s : State) (strand : Nat) (walks : List (Nat × Cause)) (st : Bool) (a i n : Nat) (coll : Bool := false) :
    Except (Cause × Nat) (List ByteAt) :=
  allOk ((List.range n).map fun j => s.engByte strand walks st a (i + j) coll)

/-- KIND of a failure (Table 10.4). -/
def failKind (c : Cause) : Nat := if c = .peerError then 3 else 0

/-- Ask for the page of a translation failure, with the class cause of Table 7.5 (R181, R258). -/
def State.engineRequest (s : State) (cl key : Nat) (cls c : Cause) (addr : Nat) : State :=
  if c = .ldXlate ∨ c = .stXlate then
    s.pageRequest (clusterDie cl)
      { part := key / 16, ctx := key % 16, addr := BitVec.ofNat 64 addr, seq := 0, cluster := cl, sid := 0xFFFF, path := 0xFF
        cause := cls, flags := recFlags c }
  else s

/-- A peer-table entry (R477). -/
def State.peerEntry (s : State) (part idx : Nat) : List Byte := (tget? (s.part part).peers idx).getD []
def peerValid (e : List Byte) : Bool := (recField e 0 1).testBit 0
def peerSize (e : List Byte) : Nat := recField e 0x10 8

/-- The port of an entry, as `portsDown` names it. -/
def peerPort (e : List Byte) : Nat := (if (recField e 0 1).testBit 1 then 32 else 0) + recField e 1 1

/-- Whether a number is that of a port: 18 Weft ports from 0 and 12 Ethernet ports from 32 (R9). -/
def isPort (p : Nat) : Bool := decide (p < 18) || (decide (32 ≤ p) && decide (p < 44))

/-- Whether a port is there and up (R478). -/
def State.portUp (s : State) (p : Nat) : Bool := isPort p && !s.portsDown.contains p

/-- Whether a transfer through a peer entry fails: its port is down, or the peer refuses (R478), a free choice. -/
def State.peerFails (s : State) (part idx : Nat) : Bool :=
  !s.portUp (peerPort (s.peerEntry part idx)) || Config.peerRefuses s.freeCtr

/-- Log the shared lines an engine operation reads for the first time (R444 kind 2), among `logged`. -/
def State.logLines (s : State) (strand : Nat) (logged : List Nat) (a i : Nat) (bs : List ByteAt) : State × List Nat :=
  let k := mkFib strand 0
  if !s.launchFlag k 5 then (s, logged)
  else
    (bs.zipIdx).foldl
      (fun (m : State × List Nat) b =>
        match b.1.loc with
        | .mem key =>
          if m.2.contains (lineOf key) then m
          else
            (m.1.replayRecord k ((a + i + b.2) / 128 * 128) 2 0 (m.1.memReadBytes (lineOf key * 128) 128), lineOf key :: m.2)
        | .scr _ _ => m) (s, logged)

/-- Bytes the burst at position `i` of a range moves (R251): at most 4 KiB, in one 4 KiB block of either side. -/
def burstLen (r : Range) (i : Nat) : Nat :=
  let room := fun (x : Side) => match x with
    | .here a => 4096 - (a + i) % 4096
    | .peer _ o => 4096 - (o + i) % 4096
  min (r.n - i) (min (room r.src) (room r.dst))

/-- The start of a pattern row: a start outside 64 bits is left outside, so that it fails as not canonical. -/
def rowStart (base : Nat) (d : Int) : Nat :=
  let v := (base : Int) + d
  if v < 0 then 2 ^ 64 else v.toNat

/-- The failure that a strand records of an operation: what stopped it, or its first bad source (R258). -/
def failureOf (fail bad : Option (Cause × Nat)) (done : Nat) : Option Fail :=
  (fail.orElse fun _ => bad).map fun e => { cause := e.1, kind := failKind e.1, addr := BitVec.ofNat 64 e.2, done := done }

/-- The list word at a scratch offset that GATHER's engine reads (R266); one behind an uncorrectable error is a free value, since no rule
says what the engine makes of it (log entry 9). -/
def State.gatherIndex (s : State) (strand o : Nat) : Nat :=
  let at_ := fun (j : Nat) => Loc.scr (strandSkein strand) (o + j)
  if (List.range 4).any fun j => (s.badByte { loc := at_ j, kind := .so }).isSome then (Config.poisonWord (2 ^ 32 * strand + o)).toNat
  else natOfBytes ((List.range 4).map fun j => s.locRead (at_ j))

/-- The ranges of an operation that is no collective. -/
def State.engRanges (s : State) (strand : Nat) : EngKind → List Range
  | .lin dst src n => [{ src := .here src, dst := .here dst, n := n }]
  | .peer idx get ofs loc n =>
    if get then [{ src := .peer idx ofs, dst := .here loc, n := n }] else [{ src := .here loc, dst := .peer idx ofs, n := n }]
  | .pat dst src p =>
    (List.range p.planes).flatMap fun q => (List.range p.rows).map fun r =>
      { src := .here (rowStart src (q * p.sps + r * p.srs)), dst := .here (rowStart dst (q * p.dps + r * p.drs)), n := p.rowb }
  | .gather dst base list rows rowb =>
    (List.range rows).map fun i =>
      { src := .here (base + s.gatherIndex strand (list + 4 * i) * rowb), dst := .here (dst + i * rowb), n := rowb }
  | .coll .. => []

/-! ### Reporting (R249, R259, R260) -/

/-- CNT of a class. -/
def Strand.cnt (st : Strand) (k : OpClass) : Nat := (st.ops.filter fun o => o.cls == k).length

/-- Issue number of the next operation of a class. -/
def Strand.nextNum (st : Strand) (k : OpClass) : Nat := st.issued.getD k.ctorIdx 0

/-- An operation is issued: its number, and its counter one higher. -/
def Strand.issueOp (st : Strand) (k : OpClass) : Strand :=
  { st with
    ops := st.ops ++ [{ cls := k, num := st.nextNum k }]
    issued := lset st.issued k.ctorIdx (st.nextNum k + 1) }

/-- Report the finished operations of a class in issue order (R249). -/
def Strand.report (st : Strand) (k : OpClass) : Nat → Strand
  | 0 => st
  | fuel + 1 =>
    match st.ops.find? fun o => o.cls == k with
    | some o =>
      if o.done then
        let st := { st with ops := st.ops.filter fun x => x != o }
        (match o.fail with
          | some e => { st with fails := st.fails ++ [(k, o.num, e)] }
          | none => st).report k fuel
      else st
    | none => st

/-- The class cause of a failure (R259). -/
def classCause (k : OpClass) (e : Fail) : Cause :=
  match k with
  | .m => e.cause
  | .c => .copyFault
  | .g => .gatherFault
  | .x => .collFault

/-- Bits of AF_INFO (Table 10.4). -/
def afInfoWord (k : OpClass) (num : Nat) (e : Fail) : Word :=
  BitVec.ofNat 32 (e.cause.code.toNat + k.ctorIdx * 256 + e.kind * 1024 + num % 4096 * 4096)

/-- The trap of the oldest unconsumed failure of a class: it fills the failure record and is consumed (R259). -/
def State.failTrap (s : State) (strand : Nat) (k : OpClass) : Option (State × Trap) :=
  (s.strand? strand).bind fun st =>
    (st.fails.find? fun f => f.1 == k).map fun f =>
      let e := f.2.2
      (s.modStrand strand fun st =>
        { st with
          fails := st.fails.filter fun x => x != f
          afAddr := e.addr, afDone := if e.done < 2 ^ 32 then BitVec.ofNat 32 e.done else 0xFFFFFFFF
          afInfo := afInfoWord k f.2.1 e },
       { cause := classCause k e, addr := e.addr })

/-- A parked fibre traps at the instruction it waits at. -/
def State.trapWaiter (s : State) (k : Nat) (t : Trap) : State :=
  match s.fib? k, s.strand? (fibStrand k) with
  | some f, some st =>
    let m := st.mask f.laneSet (tri1 s.cycle)
    (s.modFib k fun f => { f with after := none, pubs := [] }).takeTrap k { t with word := some f.word } m 0
  | _, _ => s

/-- A WAITC, or what waits as one, whose counter is low enough: a failure traps it, else it is done (R255, R259, R268). -/
def State.waitcDone (s : State) (k : Nat) (cls : OpClass) : State :=
  match s.failTrap (fibStrand k) cls with
  | some (s', t) => s'.trapWaiter k t
  | none => (s.syncPoint k).waitDone k

/-- Serve the fibres of a strand that wait for a class. -/
def State.waitcServe (s : State) (strand : Nat) (cls : OpClass) : State :=
  match s.strand? strand with
  | none => s
  | some st =>
    st.paths.foldl
      (fun a p =>
        match p.2.wait with
        | .waitc kl n =>
          if kl == cls && decide (((a.strand? strand).map (·.cnt cls)).getD 0 ≤ n) then a.waitcDone (mkFib strand p.1) cls else a
        | _ => a) s

/-- An operation has finished, with a failure or without: what can be reported is, and who waits goes on (R249, R260). -/
def State.finishOp (s : State) (strand : Nat) (k : OpClass) (num : Nat) (fail : Option Fail) : State :=
  let s := s.modStrand strand fun st =>
    { st with ops := st.ops.map fun o => if o.cls == k && o.num == num then { o with done := true, fail := fail } else o }
  let s := s.modStrand strand fun st => st.report k (st.ops.length + 1)
  let s := s.count (strandCluster strand) 0x2C 1
  let s := if fail.isSome then s.count (strandCluster strand) 0x2D 1 else s
  (s.waitcServe strand k).tryEndStrand strand

/-! ### Collectives (R267) -/

/-- Bits of an element of a collective. -/
def collBits (t : AType) : Nat :=
  match t with
  | .f16 | .bf16 => 16
  | t => atypeBits t

/-- Reduce elements in rank order (R267). -/
def collReduce (t : AType) (rop : Nat) (es : List Nat) : Nat :=
  match atypeFmt t with
  | some f =>
    if rop = 0 then (dotRnd f [] (es.map f.val) .rne).1
    else es.tail.foldl (fun a b => atomFloat f (if rop = 1 then .min else .max) a b) (es.headD 0)
  | none =>
    let op : AtomOp := match rop with
      | 0 => .add
      | 1 => .min
      | 2 => .max
      | 3 => .and
      | 4 => .or
      | _ => .xor
    es.tail.foldl (fun a b => atomNew op t a b 0) (es.headD 0)

/-- Elements of a member's source and of its destination. -/
def collSpan (op : CollOp) (members n : Nat) (root : Bool) : Nat × Nat :=
  match op with
  | .allred => (n, n)
  | .allgat => (n, members * n)
  | .redsct => (members * n, n)
  | .bcast => (if root then n else 0, n)
  | .a2a => (members * n, members * n)

/-- The elements member `k` receives from the sources by rank. -/
def collResult (op : CollOp) (t : AType) (rop root k n : Nat) (src : List (List Nat)) : List Nat :=
  let at_ := fun (r i : Nat) => (src.getD r []).getD i 0
  let ranks := List.range src.length
  match op with
  | .allred => (List.range n).map fun i => collReduce t rop (ranks.map fun r => at_ r i)
  | .allgat => ranks.flatMap fun r => (List.range n).map (at_ r)
  | .redsct => (List.range n).map fun i => collReduce t rop (ranks.map fun r => at_ r (k * n + i))
  | .bcast => (List.range n).map (at_ root)
  | .a2a => ranks.flatMap fun r => (List.range n).map fun i => at_ r (k * n + i)

/-- Every operation queued in the device, with its cluster. -/
def State.allOps (s : State) : List (Nat × EngOp) := s.clusters.flatMap fun c => c.2.copies.map fun o => (c.1, o)

/-- The launch and skein index of a strand. -/
def State.strandMember (s : State) (strand : Nat) : Option (Nat × Nat) :=
  (s.skein? (strandSkein strand)).map fun k => (k.launch, k.index)

/-- The skein indices of a group of a launch in rank order. -/
def State.groupOfLaunch (s : State) (launch g : Nat) : List Nat :=
  (((tget? s.launches launch).bind fun l => l.groups[g]?).map (·.2)).getD []

/-- The operations of an instance in rank order, once every member has issued its own. -/
def State.collMembers (s : State) (launch g inst : Nat) : Option (List EngOp) :=
  (s.groupOfLaunch launch g).mapM fun idx =>
    (s.allOps.find? fun o =>
      s.strandMember o.2.strand == some (launch, idx) &&
        (match o.2.kind with
         | .coll _ _ _ _ g' i' _ _ _ => g' == g && i' == inst
         | _ => false)).map (·.2)

/-- What must agree among the members of an instance: SUB, TYPE, ROP, ROOT and c. -/
def EngKind.collSig : EngKind → Option (CollOp × AType × Nat × Nat × Nat)
  | .coll op t rop root _ _ _ _ n => some (op, t, rop, root, n)
  | _ => none

/-- Take an operation out of its queue. -/
def State.dequeue (s : State) (o : EngOp) : State :=
  s.modCluster (strandCluster o.strand) fun cl => { cl with copies := cl.copies.filter fun x => x != o }

/-- An operation of a queue replaced. -/
def State.setEng (s : State) (o : EngOp) : State :=
  s.modCluster (strandCluster o.strand) fun c =>
    { c with copies := c.copies.map fun x => if x.strand == o.strand && x.cls == o.cls && x.num == o.num then o else x }

/-- Whether a byte lies at a peer (Table 7.1). -/
def ByteAt.atPeer (b : ByteAt) : Bool :=
  match b.loc with
  | .mem k => k / 2 ^ 56 == 2
  | .scr .. => false

/-- The bytes of a burst of a collective (R251, R258). A transfer with a peer fails where the peer refuses it (R177, R478), by a free
value. -/
def State.collBytes (s : State) (o : EngOp) (st : Bool) (a i n : Nat) : Except (Cause × Nat) (List ByteAt) :=
  match s.engBytes o.strand o.walks st a i n true with
  | .ok bs => if (bs.any (·.atPeer)) && Config.peerRefuses s.freeCtr then .error (.peerError, a + i) else .ok bs
  | .error e => .error e

/-- A member's source as the engine has read it: the bytes, of which those from `got` on are free values where a burst has failed,
and the places behind an uncorrectable error. -/
structure CollSrc where
  vals : List Byte := []
  bad : List Nat := []
  fail : Option (Cause × Nat) := none
  got : Nat := 0
  logged : List Nat := []

/-- Read a member's source of `len` bytes burst by burst. -/
def State.collRead (s : State) (o : EngOp) (src len : Nat) (m : CollSrc) : Nat → State × CollSrc
  | 0 => (s, m)
  | fuel + 1 =>
    if len ≤ m.got ∨ m.fail.isSome then (s, m)
    else
      let n := min (len - m.got) (4096 - (src + m.got) % 4096)
      let free := fun (j : Nat) => (Config.freeWord (s.freeCtr + j)).setWidth 8
      match s.collBytes o false src m.got n with
      | .error e =>
        ({ s with freeCtr := s.freeCtr + len }, { m with fail := some e, vals := m.vals ++ (List.range (len - m.got)).map free })
      | .ok bs =>
        let lg := s.logLines o.strand m.logged src m.got bs
        let s := lg.1.goHomeBytes (strandCluster o.strand) bs
        let ix : List (ByteAt × Nat) := bs.zipIdx
        let worse : List Nat := (ix.filter fun b => (s.badByte b.1).isSome).map fun b => m.got + b.2
        let v := ix.map fun b => if b.1.atPeer then free b.2 else s.locRead b.1.loc
        { s with freeCtr := s.freeCtr + 1 + n }.collRead o src len
          { m with
            vals := m.vals ++ v, got := m.got + n, logged := lg.2
            bad := m.bad ++ worse } fuel

/-- The source bytes, by rank and place, from which byte `i` of member `k`'s destination comes; blocks are of `blk` bytes (R267). -/
def collTake (op : CollOp) (members root k blk i : Nat) : List (Nat × Nat) :=
  match op with
  | .allred => (List.range members).map fun r => (r, i)
  | .allgat => [(i / blk, i % blk)]
  | .redsct => (List.range members).map fun r => (r, k * blk + i)
  | .bcast => [(root, i)]
  | .a2a => [(i / blk, k * blk + i % blk)]

/-- The bytes of member `k`'s destination that come before the burst in which its own source failed at byte `f` (R258; log entry 108). -/
def collBefore (op : CollOp) (k blk f : Nat) : Nat :=
  match op with
  | .allgat => k * blk + f
  | .redsct => f % max 1 blk
  | _ => f

/-- A burst cut into parts of 8 bytes, which may be performed in any order (R218, R254). -/
def cutPieces (dst src : List ByteAt) (vals : List Byte) (poison : Bool) : List EngPiece :=
  (List.range ((dst.length + 7) / 8)).map fun i =>
    { dst := (dst.drop (8 * i)).take 8, src := (src.drop (8 * i)).take 8, vals := (vals.drop (8 * i)).take 8, poison := poison }

/-- Perform a part of a burst: read, write, and mark what a bad source poisons (R254, R258). -/
def State.performPiece (s : State) (part : Nat) (p : EngPiece) : State :=
  let vs := if p.src.isEmpty then p.vals else p.src.map fun b => s.locRead b.loc
  let s := (p.dst.zip vs).foldl (fun a b => a.locWrite (some part) b.1.loc b.2) s
  if p.poison then p.dst.foldl (fun a b => a.poisonLine b.loc) s else s

/-- What a member's writes have come to: the state, the bytes written, the parts of the bursts, and the failure. -/
structure Move where
  s : State
  done : Nat := 0
  parts : List EngPiece := []
  fail : Option (Cause × Nat) := none

/-- Cut the writes of a member's destination into bursts, from byte `i` on; a burst that fails ends it, and one with a bad source byte is
written poisoned (R258). -/
def Move.writeOut (m : Move) (o : EngOp) (dst : Nat) (bs : List Byte) (bad : Nat → Bool) (i : Nat) : Nat → Move
  | 0 => m
  | fuel + 1 =>
    if m.fail.isSome ∨ bs.length ≤ i then m
    else
      let n := min (bs.length - i) (4096 - (dst + i) % 4096)
      let part := m.s.strandPart o.strand
      match m.s.collBytes o true dst i n with
      | .error e => { m with fail := some e }
      | .ok ds =>
        let s := m.s.goHomeBytes (strandCluster o.strand) ds
        let poisoned := (List.range n).any fun j => bad (i + j)
        let vs := (bs.drop i).take n
        let m := match ds.head? with
          | some d =>
            if d.atPeer then
              let ofs := match d.loc with
                | .mem k => k % 2 ^ 56
                | .scr .. => 0
              let msg : PeerMsg := { part := part, idx := 0, ofs := ofs, bytes := vs, poison := poisoned, page := true }
              { m with s := { s with freeCtr := s.freeCtr + 1, peerOut := s.peerOut ++ [msg] } }
            else { m with s := s, parts := m.parts ++ cutPieces ds [] vs poisoned }
          | none => m
        ({ m with done := m.done + n }.writeOut o dst bs bad (i + n) fuel)

/-- Perform an instance all of whose members have issued theirs (R258, R267): the sources are read, and what each member is to write is
left to be performed part by part. A mismatch has the class cause as its underlying one (DESIGN CHOICE, log entry 108). -/
def State.collPerform (s : State) (ops : List EngOp) : State :=
  let sigs := (ops.map fun o => o.kind.collSig).eraseDups
  if 1 < sigs.length then
    ops.foldl
      (fun a o =>
        (a.dequeue o).finishOp o.strand .x o.num (some { cause := .collFault, kind := 2 })) s
  else
    let read := ops.zipIdx.foldl
      (fun (a : State × List CollSrc) o =>
        match o.1.kind with
        | .coll op t _ root _ _ _ src n =>
          let len := (collSpan op ops.length n (root == o.2)).1 * (collBits t / 8)
          let r := a.1.collRead o.1 src len {} (len / 4096 + 2)
          (r.1, a.2 ++ [r.2])
        | _ => (a.1, a.2 ++ [{}])) (s, [])
    let wrote := ops.zipIdx.foldl
      (fun (a : State) o =>
        match o.1.kind, read.2[o.2]? with
        | .coll op t rop root _ _ dst src n, some x =>
          let w := collBits t / 8
          let elems := read.2.map fun y => (List.range (y.vals.length / w)).map fun i => natOfBytes ((y.vals.drop (i * w)).take w)
          let bs := (collResult op t rop root o.2 n elems).flatMap (bytesOfNat w)
          let bs := if x.fail.isSome then bs.take (collBefore op o.2 (n * w) x.got) else bs
          let bad := fun (i : Nat) =>
            read.2.any (!·.bad.isEmpty) && (collTake op ops.length root o.2 (n * w) i).any fun y => ((read.2[y.1]?).map fun z => z.bad.contains y.2).getD false
          let m := ({ s := a } : Move).writeOut o.1 dst bs bad 0 (bs.length / 4096 + 2)
          let fail := m.fail.orElse fun _ => x.fail
          let s := match fail with
            | some e => m.s.engineRequest (strandCluster o.1.strand) (m.s.strandCtx o.1.strand) .collFault e.1 e.2
            | none => m.s
          let o' : EngOp := { o.1 with
            flying := m.parts, done := m.done, ending := some (failureOf fail (x.bad.head?.map fun i => (.memPoison, src + i)) m.done) }
          (s.setEng o')
        | _, _ => a) read.1
    wrote

/-! ### Copies and gathers, burst by burst (R251, R254, R258, R262) -/

/-- Whether a destination range of the operation may hold a byte of an interval of source addresses. -/
def overlaps (rs : List Range) (a n : Nat) : Bool :=
  rs.any fun r => match r.dst with
    | .here d => decide (d < a + n) && decide (a < d + r.n)
    | .peer .. => false

/-- The number in byte order, and the source address, of the byte that the operation writes to an address, the last where there are
several. -/
def writerOf (x : Nat) : List Range → Nat → Option (Nat × Nat) → Option (Nat × Nat)
  | [], _, w => w
  | r :: rs, base, w =>
    let w := match r.dst, r.src with
      | .here d, .here a => if d ≤ x && decide (x < d + r.n) then some (base + (x - d), a + (x - d)) else w
      | _, _ => w
    writerOf x rs (base + r.n) w

/-- The byte at a source address before the operation wrote it. -/
def State.oldByte (s : State) (o : EngOp) (x : Nat) : Byte :=
  match o.old.find? fun e => e.1 == x with
  | some e => e.2
  | none =>
    match s.engByte o.strand o.walks false x 0 with
    | .ok b => s.locRead b.loc
    | .error _ => 0

/-- Byte `g` of the operation, read at source address `x` while the bytes before `now` have been written: a byte that the operation also
writes is read as its old value or its new one, by a free value (R254). Bytes read ahead of their burst are added to the list. -/
def State.srcByte (s : State) (o : EngOp) (rs : List Range) (now : Nat) : Nat → Nat → Nat → List (Nat × Byte) → Byte × List (Nat × Byte)
  | 0, _, x, ah => (s.oldByte o x, ah)
  | fuel + 1, g, x, ah =>
    match ah.find? fun e => e.1 == g with
    | some e => (e.2, ah)
    | none =>
      let keep := fun (v : Byte) (ah : List (Nat × Byte)) => (v, if now ≤ g then (g, v) :: ah else ah)
      match writerOf x rs 0 none with
      | none => (s.oldByte o x, ah)
      | some (h, y) =>
        if !Config.overlapNew (o.ctr + g) || h == g then keep (s.oldByte o x) ah
        else if h < now then
          match s.engByte o.strand o.walks false x 0 with
          | .ok b => keep (s.locRead b.loc) ah
          | .error _ => keep 0 ah
        else
          let r := s.srcByte o rs now fuel h y ah
          keep r.1 r.2

/-- The values of a burst's source, and the operation with the bytes it has read ahead. -/
def State.burstVals (s : State) (o : EngOp) (rs : List Range) (r : Range) (n : Nat) (bs : List ByteAt) : List Byte × EngOp :=
  match r.src with
  | .peer .. => ((List.range n).map fun j => (Config.freeWord (o.ctr + o.base + o.pos + j)).setWidth 8, o)
  | .here a =>
    if overlaps rs (a + o.pos) n then
      let now := o.base + o.pos
      let v := (List.range n).foldl
        (fun (acc : List Byte × List (Nat × Byte)) j =>
          let x := s.srcByte o rs now (n + 4096) (now + j) (a + o.pos + j) acc.2
          (acc.1 ++ [x.1], x.2)) ([], o.ahead)
      (v.1, { o with ahead := v.2 })
    else (bs.map fun b => s.locRead b.loc, o)

/-- The source bytes of the operation that a burst is about to overwrite, as they are. -/
def State.keepOld (s : State) (o : EngOp) (rs : List Range) (r : Range) (n : Nat) : List (Nat × Byte) :=
  match r.dst with
  | .here d =>
    let x := d + o.pos
    if rs.any fun q => match q.src with
        | .here a => decide (a < x + n) && decide (x < a + q.n)
        | .peer .. => false
    then ((List.range n).filter fun j => !o.old.any fun e => e.1 == x + j).map fun j => (x + j, s.oldByte o (x + j))
    else []
  | .peer .. => []

/-- One burst of `n` bytes of a range (R254, R258): both sides are checked, and its parts are to be performed, at once without `hold`. A
source that the operation also writes is read here. -/
def State.burst (s : State) (o : EngOp) (rs : List Range) (r : Range) (n : Nat) (hold : Bool) :
    State × EngOp × Option (Cause × Nat) :=
  let part := s.strandPart o.strand
  let side := fun (st : Bool) (x : Side) => match x with
    | .here a => s.engBytes o.strand o.walks st a o.pos n
    | .peer idx ofs => if s.peerFails part idx then .error (.peerError, ofs + o.pos) else .ok []
  match side false r.src, side true r.dst with
  | .error e, _ => (s, o, some e)
  | .ok _, .error e => (s, o, some e)
  | .ok bs, .ok ds =>
    let lg := match r.src with
      | .here a => s.logLines o.strand o.logged a o.pos bs
      | .peer .. => (s, o.logged)
    let s := (lg.1.goHomeBytes (strandCluster o.strand) bs).goHomeBytes (strandCluster o.strand) ds
    let bad := bs.findSome? fun b => s.badByte b
    let v := s.burstVals o rs r n bs
    let old := s.keepOld o rs r n
    let apart := hold && (match r.src with
      | .here a => !overlaps rs (a + o.pos) n
      | .peer .. => false)
    let parts := match r.dst with
      | .here _ => if hold then cutPieces ds (if apart then bs else []) v.1 bad.isSome else []
      | .peer .. => []
    let s := match r.dst with
      | .here _ => if hold then s else s.performPiece part { dst := ds, src := [], vals := v.1, poison := bad.isSome }
      | .peer idx ofs =>
        { s with
          freeCtr := s.freeCtr + 1
          peerOut := s.peerOut ++ [{ part := part, idx := idx, ofs := ofs + o.pos, bytes := v.1, poison := bad.isSome }] }
    let at_ := match r.src with
      | .here a => a + o.pos
      | .peer _ x => x + o.pos
    (s, { v.2 with
          logged := lg.2, old := old ++ o.old, done := o.done + n, pos := o.pos + n, flying := o.flying ++ parts
          bad := o.bad.orElse fun _ => bad.map fun c => (c, at_) }, none)

/-- What bursts come to. -/
inductive EngRes where
  /-- More bursts are to be made. -/
  | more (s : State) (o : EngOp)
  /-- A translation is awaited. -/
  | wait (s : State) (o : EngOp)
  /-- The last burst has been made, or one has failed. -/
  | over (s : State) (o : EngOp) (fail : Option (Cause × Nat))

/-- The page that the next burst needs and the engine has still to ask for. -/
def State.burstMiss (s : State) (o : EngOp) (r : Range) : Option Nat :=
  let ask := fun (x : Side) => match x with
    | .here a => s.engMiss o.strand o.walks a o.pos
    | .peer .. => none
  (ask r.src).orElse fun _ => ask r.dst

/-- Make bursts of a started operation: at most `fuel` of them, skipping empty ranges. -/
def State.bursts (s : State) (o : EngOp) (rs : List Range) (hold : Bool) : Nat → EngRes
  | 0 => .more s o
  | fuel + 1 =>
    match rs[o.idx]? with
    | none => .over s o none
    | some r =>
      if r.n ≤ o.pos then s.bursts { o with idx := o.idx + 1, pos := 0, base := o.base + r.n } rs hold fuel
      else
        match s.burstMiss o r with
        | some va => .wait (s.enterUnit (strandCluster o.strand) (s.strandCtx o.strand) va (.eng o.strand o.cls o.num)) o
        | none =>
          match s.burst o rs r (burstLen r o.pos) hold with
          | (s, o, some e) => .over s o (some e)
          | (s, o, none) => s.bursts o rs hold fuel

/-- Bursts that an operation makes at most. -/
def burstCount (rs : List Range) : Nat := (rs.map fun r => 2 * (r.n / 4096) + 4).foldl (· + ·) 1

/-- The engine starts an operation (R251): its ranges are known, GATHER's by the list as it reads it now (R266). -/
def State.startEng (s : State) (o : EngOp) : State × EngOp :=
  match o.plan with
  | some _ => (s, o)
  | none =>
    let rs := s.engRanges o.strand o.kind
    ({ s with freeCtr := s.freeCtr + (rs.map (·.n)).foldl (· + ·) 1 }, { o with plan := some rs, ctr := s.freeCtr })

/-- An operation all of whose parts have been performed is over: it leaves its queue and is reported in its place. -/
def State.endEng (s : State) (o : EngOp) : State :=
  match o.ending with
  | some f =>
    if o.flying.isEmpty then
      let cl := strandCluster o.strand
      let s := s.count cl 0x2B ((o.done + 127) / 128)
      let s := s.modCluster cl fun c =>
        { c with copies := c.copies.filter fun x => !(x.strand == o.strand && x.cls == o.cls && x.num == o.num) }
      s.finishOp o.strand o.cls o.num f
    else s.setEng { o with due := s.cycle + 1 }
  | none => s.setEng { o with due := s.cycle + 1 }

/-- An operation makes no further burst: a translation failure asks for its page (R258). -/
def State.lastBurst (s : State) (o : EngOp) (fail : Option (Cause × Nat)) : State :=
  let s := match fail with
    | some e =>
      s.engineRequest (strandCluster o.strand) (s.strandCtx o.strand) (classCause o.cls { cause := e.1, kind := 0 }) e.1 e.2
    | none => s
  s.endEng { o with ending := some (failureOf fail o.bad o.done) }

/-- Perform parts of an operation's bursts: all of them, or with `n + 1` one that a free value names (R254; log entry 61). -/
def State.flyParts (s : State) (o : EngOp) : Nat → State × EngOp
  | 0 => (o.flying.foldl (fun a p => a.performPiece (s.strandPart o.strand) p) s, { o with flying := [] })
  | n + 1 =>
    match o.flying[n % o.flying.length]? with
    | some p => (s.performPiece (s.strandPart o.strand) p, { o with flying := o.flying.eraseIdx (n % o.flying.length) })
    | none => (s, o)

/-- Whether the engine may start an operation: those before it in its queue are started, or wait for their group (R251). -/
def State.engMay (s : State) (o : EngOp) : Bool :=
  ((s.cluster (strandCluster o.strand)).copies.takeWhile fun x => x.ord != o.ord).all fun x => x.plan.isSome || x.cls == .x

/-- The first page that a collective's members need and have still to ask for. -/
def State.collMiss (s : State) (members : Nat) (o : EngOp × Nat) : Option Nat :=
  match o.1.kind with
  | .coll op t _ root _ _ dst src n =>
    let sp := collSpan op members n (o.2 == root)
    let pages := fun (a m : Nat) => if m = 0 then none else
      (List.range (m / 4096 + 2)).findSome? fun i => s.engMiss o.1.strand o.1.walks a (min (4096 * i) (m - 1))
    (pages src (sp.1 * (collBits t / 8))).orElse fun _ => pages dst (sp.2 * (collBits t / 8))
  | _ => none

/-- Perform a queued operation as far as it goes now (R251, R254, R258, R262, R267): parts of bursts in any order, or further bursts. A
context at its halt makes no further burst, but a collective whose members have all issued runs to its end. -/
def State.perform (s : State) (o : EngOp) : State :=
  if !o.flying.isEmpty || o.ending.isSome then
    if s.cycle < o.due then s
    else
      let n := Config.pieceChoice s.freeCtr
      let p := { s with freeCtr := s.freeCtr + 1 }.flyParts o n
      p.1.endEng p.2
  else
    match o.kind with
    | .coll _ _ _ _ g inst _ _ _ =>
      match (s.strandMember o.strand).bind fun m => s.collMembers m.1 g inst with
      | some ops =>
        match ops.zipIdx.findSome? fun x => (s.collMiss ops.length x).map fun va => (x.1, va) with
        | some (x, va) => s.enterUnit (strandCluster x.strand) (s.strandCtx x.strand) va (.eng x.strand x.cls x.num)
        | none => s.collPerform ops
      | none => s
    | _ =>
      if (s.ctx (s.strandCtx o.strand)).halting || decide (s.cycle < o.due) || !s.engMay o then s
      else
        let p := s.startEng o
        let rs := p.2.plan.getD []
        let n := Config.pieceChoice p.1.freeCtr
        let s := { p.1 with freeCtr := p.1.freeCtr + 1 }
        match s.bursts p.2 rs (n != 0) (if n = 0 then burstCount rs else n) with
        | .over s o fail => s.lastBurst o fail
        | .more s o => s.setEng { o with due := s.cycle + 1 }
        | .wait s' o' => if o' == o then { s' with freeCtr := p.1.freeCtr } else s'.setEng o'

/-- ENGINE_OP_COMPLETE (R249, R255, R258): operation `num` of a class of a strand makes bursts; with the last it is reported in its
place. -/
def execEngineOpComplete (strand : Nat) (k : OpClass) (num : Nat) (s : State) : Host.Outcome State Fault Refusal :=
  match (s.cluster (strandCluster strand)).copies.find? fun o => o.strand == strand && o.cls == k && o.num == num with
  | some o => .next (s.perform o)
  | none => .next s

end Sys2Proof.Machine
end

