-- ==== Sys2Proof/Machine/Batch.lean ====
section
/-! DEFINITION. Matrix batches (R359, R360, R364 to R366): reporting in order, stopped batches, re-issue, and the waits that need a
batch. -/

namespace Sys2Proof.Machine

/-- Change the batch with a number: the open one, or a closed one. -/
def Strand.modBatch (st : Strand) (n : Nat) (f : Batch → Batch) : Strand :=
  if n = st.mxNext then { st with mxOpen := f st.mxOpen }
  else { st with batches := st.batches.map fun b => if b.num = n then f b else b }

/-- The closed batches that have not been reported, oldest first. -/
def Strand.unreported (st : Strand) : List Batch := st.batches.filter fun b => !b.reported

/-- The stopped batch that a wait for batch `b` needs (R365): one up to `b`, also one that MWAIT with FLG0 has reported and whose
held operations, released, stopped it again (R366). -/
def Strand.stopUpTo (st : Strand) (b : Nat) : Option Batch :=
  ((st.batches.map (·.num)).idxOf? b).bind fun i => (st.batches.take (i + 1)).find? (·.stopped)

/-- The stopped batch that a wait for the next `n` batches to be reported needs (R365). -/
def Strand.stopWithin (st : Strand) (n : Nat) : Option Batch :=
  if n = 0 then none else ((st.batches.filter (·.reported)) ++ st.unreported.take n).find? (·.stopped)

/-- A batch is reported: CNT.M is decremented (R360), once. -/
def Strand.reportBatch (st : Strand) (n : Nat) : Strand :=
  if st.unreported.all (·.num != n) then st else
  let st := st.modBatch n fun b => { b with reported := true }
  match st.ops.find? fun o => o.cls == .m with
  | some o => { st with ops := st.ops.erase o }
  | none => st

/-- Report the completed batches in order (R360). -/
def Strand.reportBatches (st : Strand) : Nat → Strand
  | 0 => st
  | fuel + 1 =>
    match st.unreported with
    | b :: _ => if b.left = 0 ∧ !b.stopped then (st.reportBatch b.num).reportBatches fuel else st
    | [] => st

/-- Whether a batch number is valid for MWAIT and MSTAT (R360). -/
def Strand.batchValid (st : Strand) (b : Nat) : Bool :=
  let d := (st.mxNext + 4096 - b % 4096) % 4096
  decide (1 ≤ d) && decide (d ≤ min 64 st.mxClosed)

/-- The batch with a number among the closed ones, the latest first. -/
def Strand.batch? (st : Strand) (b : Nat) : Option Batch := st.batches.reverse.find? fun x => x.num == b

/-- Bits [13:0] of the status word of a batch (R374). -/
def Batch.statusNat (b : Batch) : Nat :=
  match b.status with
  | some (c, _, i) => c.code.toNat + 256 * (i % 64)
  | none => 0

/-- Whether an MWAIT on a reported batch traps (R374): it asks for more than the status, which is not zero, and it has not trapped
for it already (log entry 38). -/
def Batch.unclean (b : Batch) (only : Bool) : Bool := !only && b.status.isSome && !b.reissue

/-- Causes whose detail is a failing address (Table 12.4). -/
def addrCause (c : Cause) : Bool := c == .mxOperandXlate || c == .mxOperandPerm || c == .walkError

/-- The trap of a stopped batch: AF_ADDR, AF_DONE and AF_INFO are filled and the batch is marked for re-issue (R365). -/
def State.mxTrap (s : State) (strand : Nat) (b : Batch) : State × Trap :=
  match b.status with
  | some (c, a, _) =>
    (s.modStrand strand fun st =>
      { st.modBatch b.num fun b => { b with reissue := true } with
        afAddr := if addrCause c then a else 0, afDone := 0, afInfo := BitVec.ofNat 32 (c.code.toNat + b.num % 4096 * 4096) },
     { cause := c, addr := if c = .mxMeta ∨ c = .mxPinTimeout then BitVec.ofNat 64 b.num else a })
  | none => (s, { cause := .mxOperandPerm })

/-- Put a strand's aborted operations back into the queue, and release those held behind them: each has kept its entry, and with it its
place in the order of R358 (R358, R365; DEDUCED, log entry 26). -/
def State.mxReissue (s : State) (strand n : Nat) : State :=
  let s := s.modStrand strand fun st =>
    st.modBatch n fun b => { b with stopped := false, reissue := false, status := none }
  s.modCluster (strandCluster strand) fun c =>
    { c with mxq := c.mxq.map fun o => if o.strand == strand then { o with aborted := false, bindAt := none } else o }

/-- Discard the aborted operations of a stopped batch and report it (R366). -/
def State.mxDiscard (s : State) (strand n : Nat) : State :=
  let s := s.modCluster (strandCluster strand) fun c =>
    { c with mxq := c.mxq.filter fun o => !(o.strand == strand && o.aborted) }
  s.modStrand strand fun st =>
    let st := st.modBatch n fun b => { b with stopped := false, reissue := false, left := b.left - 1 }
    (st.reportBatch n).reportBatches 64

/-- What the evaluation of a wait comes to. -/
inductive MxWait where
  | trap (s : State) (t : Trap)
  | wait (s : State)

/-- A wait whose condition needs the stopped batch given, if any: it traps, or is re-issued (R365). -/
def State.mxNeed (s : State) (strand : Nat) (stop : Option Batch) : MxWait :=
  match stop with
  | some b => if b.reissue then .wait (s.mxReissue strand b.num) else .trap (s.mxTrap strand b).1 (s.mxTrap strand b).2
  | none => .wait s

/-- Write the status word of a reported batch and end the wait (R374). -/
def State.mwaitDone (s : State) (k b dst : Nat) (tags : List (Nat × Tag)) : State :=
  match s.strand? (fibStrand k), s.fib? k with
  | some st, some f =>
    let w := BitVec.ofNat 32 (((st.batch? b).map (·.statusNat)).getD 0)
    let s := if dst = 248 then s else
      let q := s.takeSeq k
      q.1.landWords k dst 1 q.2 f.laneSet 0 (fun _ _ => w) tags (tri1 s.cycle)
    (s.syncPoint k).waitDone k
  | _, _ => s

/-- Whether a batch of a strand has been reported. -/
def Strand.isReported (st : Strand) (b : Nat) : Bool := ((st.batch? b).map (·.reported)).getD true

/-- Serve the fibres of a strand that wait for its batches: those whose condition holds go on, and those that need a stopped batch
trap, or with the status-only flag discard it (R360, R364 to R366). -/
def State.mxServe (s : State) (strand : Nat) : State :=
  match s.strand? strand with
  | none => s
  | some st0 =>
    st0.paths.foldl
      (fun a p =>
        match a.strand? strand with
        | none => a
        | some st =>
          let k := mkFib strand p.1
          match p.2.wait with
          | .mwait b only dst tags =>
            -- a stopped batch counts here whether or not an earlier waiter's trap has marked it
            match st.stopUpTo b with
            | some x =>
              if only then
                let a := a.mxDiscard strand x.num
                if ((a.strand? strand).map fun st => st.isReported b).getD true then a.mwaitDone k b dst tags else a
              else (a.mxTrap strand x).1.trapWaiter k (a.mxTrap strand x).2
            | none =>
              if st.isReported b then
                match (st.batch? b).bind fun y => if y.unclean only then some y else none with
                | some y => (a.mxTrap strand y).1.trapWaiter k (a.mxTrap strand y).2
                | none => a.mwaitDone k b dst tags
              else a
          | .waitc .m n =>
            if st.cnt .m ≤ n then (a.syncPoint k).waitDone k
            else
              match st.stopWithin (st.cnt .m - n) with
              | some x => (a.mxTrap strand x).1.trapWaiter k (a.mxTrap strand x).2
              | none => a
          | _ => a) s

end Sys2Proof.Machine
end

