-- ==== Sys2Proof/Machine/Async.lean ====
section
/-! DEFINITION. Copy-engine instructions, waits, barriers, semaphores, FETCHW and IFENCE, opcodes 0xB0 to 0xBB (chapter 10). -/

namespace Sys2Proof.Machine

/-! ### Operand checks at issue (R257) -/

/-- Check 1: the window decode of a local start address. -/
def startCause (a : DWord) : Option Cause :=
  let top := a.toNat / 2 ^ 56
  if top = 0xFD then some .winRange
  else if top = 0xFE then (if a.toNat / 2 ^ 32 % 2 ^ 24 ≠ 0 then some .winRange else none)
  else if canonical a.toNat then none
  else some .noncanon

/-- Check 3: bytes `n` from a scratch-window address reach past the allotment. -/
def State.scratchOver (s : State) (strand : Nat) (a : DWord) (n : Nat) : Bool :=
  let size := ((s.skein? (strandSkein strand)).map (·.scratchBytes)).getD 0
  decide (a.toNat / 2 ^ 56 = 0xFE) && decide (0 < n) && decide (size < a.toNat % 2 ^ 32 + n)

/-- A check of R257 that failed: a cause with its address, or an operand error of the entry. -/
inductive OperandErr where
  | cause (c : Cause) (addr : DWord)
  | operand

/-- The first check that fails, in the order of R257: starts, values that must be multiples of 4, scratch ranges, and the
operand errors of the entry. -/
def State.operandErr (s : State) (strand : Nat) (starts : List DWord) (aligned : List (Nat × DWord))
    (ranges : List (DWord × Nat)) (fault : Bool) : Option OperandErr :=
  match starts.findSome? fun a => (startCause a).map fun e => (e, a) with
  | some (e, a) => some (.cause e a)
  | none =>
    match aligned.find? fun x => x.1 % 4 != 0 with
    | some x => some (.cause .align x.2)
    | none =>
      match ranges.find? fun r => s.scratchOver strand r.1 r.2 with
      | some r => some (.cause .scratchRange r.1)
      | none => if fault then some .operand else none

/-- The trap of a failed check. An operand error traps with the class cause and fills the strand's failure record: KIND operand, and the
number the operation would have had (R257, Table 10.4; DEDUCED, log entry 97). -/
def Ctx.operandTrap (c : Ctx) (s : State) (k : OpClass) (e : OperandErr) : Res :=
  match e with
  | .cause e a => .trap { cause := e, addr := a }
  | .operand =>
    let cause := classCause k { cause := .collFault, kind := 1 }
    .trapIn (s.modStrand c.strand fun st =>
      { st with afAddr := 0, afDone := 0, afInfo := afInfoWord k (st.nextNum k) { cause := cause, kind := 1 } }) { cause := cause }

/-- Entries of the copy-engine queue that belong to a partition. -/
def State.copiesOf (s : State) (cl p : Nat) : Nat := ((s.cluster cl).copies.filter fun o => s.strandPart o.strand == p).length

/-- Whether an operation of a class may issue: its counter is below 63 and the queue takes an entry (R250, R251). -/
def State.engineReady (s : State) (strand : Nat) (k : OpClass) : Bool :=
  let cl := strandCluster strand
  decide (((s.strand? strand).map (·.cnt k)).getD 0 < 63) &&
    (k == .m || s.poolTakes 3 cl 32 (s.strandPart strand) (s.copiesOf cl))

/-- Hand an operation to the copy engine; the fibre's own earlier stores have been performed (R253). -/
def Ctx.issueEngine (c : Ctx) (s : State) (k : OpClass) (kind : EngKind) (promise : Option Nat) : State :=
  let s := s.drainStores c.k
  let num := ((s.strand? c.strand).map (·.nextNum k)).getD 0
  let d := (s.modStrand c.strand fun st => st.issueOp k).dueAt
  d.2.modCluster c.cluster fun cl =>
    { cl with
      opCtr := cl.opCtr + 1
      copies := cl.copies ++
        [{ strand := c.strand, cls := k, num := num, kind := kind, ord := cl.opCtr, promise := promise, due := d.1 }] }

/-- An engine instruction (R252, R257, R418): nothing with act empty; the checks; the escape record; then the effect, unless it
must wait for its counter or the queue. -/
def Ctx.engineInstr (c : Ctx) (s : State) (k : OpClass) (err : Option OperandErr) (dst : DWord) (go : State → State) : Res :=
  if c.act == 0 then .next s
  else if !s.engineReady c.strand k then .again (s.modFib c.k fun f => { f with beats := [] })
  else
    match err with
    | some e => c.operandTrap s k e
    | none =>
      match c.escapeLow s dst with
      | .error t => .trap t
      | .ok s => .next (go s)

/-- Pattern `k` of the kernel's code object, or none when it is beyond the section or breaks the limits of R265 (R466). -/
def State.pattern? (s : State) (launch : Option Launch) (key k : Nat) : Option Pattern :=
  launch.bind fun l =>
    let p := bePattern (s.entryMem (key / 16) l.code)
    if p.2 / 32 ≤ k then none
    else
      (s.agentRead none key (p.1 + 32 * k) 32).bind fun b =>
        let sg := fun (ofs : Nat) => (BitVec.ofNat 32 (recField b ofs 4)).toInt
        let r : Pattern :=
          { rowb := recField b 0 4, rows := recField b 4 4, planes := recField b 8 4, srs := sg 0x10, drs := sg 0x14
            sps := sg 0x18, dps := sg 0x1C }
        if r.rowb = 0 ∨ r.rows = 0 ∨ r.planes = 0 ∨ r.rowb % 4 ≠ 0 ∨ r.srs % 4 ≠ 0 ∨ r.drs % 4 ≠ 0 ∨ r.sps % 4 ≠ 0 ∨
            r.dps % 4 ≠ 0 then none
        else some r

/-- The chip cycle by which a copy is to complete (R263): a free value, no earlier than those of the strand's copies under way, which
are reported before it (log entry 7). -/
def State.newPromise (s : State) (strand : Nat) : State × Nat :=
  let own := (s.cluster (strandCluster strand)).copies.filterMap fun o => if o.strand == strand then o.promise else none
  ({ s with freeCtr := s.freeCtr + 1 }, own.foldl max (s.cycle + 1 + (Config.promise s.freeCtr).toNat % 2 ^ 31))

/-- COPY (R265). -/
def execCopy (k : CopyKind) (f : X64) (s : State) : Host.Outcome State Fault Refusal :=
  issue (.copy k f) s fun c s =>
    let dst := c.rdPairLow f.a.toNat
    let src := c.rdPairLow f.b.toNat
    let n := (c.rdLow f.c.toNat).toNat
    let w := f.ext.w1
    let idx := (w.extractLsb' 0 16).toNat
    let get := w.getLsbD 16
    let key := s.strandCtx c.strand
    let s := if k = .pat && c.act != 0 && (s.drainBusy c.k).isNone then s.drainStores c.k else s
    let pat := s.pattern? (s.launchOf c.k) key n
    let peer := s.peerEntry (key / 16) idx
    let ofs := if get then src else dst
    let loc := if get then dst else src
    let err := match k with
      | .lin => s.operandErr c.strand [dst, src] [(dst.toNat, dst), (src.toNat, src), (n, 0)] [(dst, n), (src, n)] false
      | .pat => s.operandErr c.strand [dst, src] [(dst.toNat, dst), (src.toNat, src)] [(dst, 1), (src, 1)] pat.isNone
      | .peer =>
        s.operandErr c.strand [loc] [(dst.toNat, dst), (src.toNat, src), (n, 0)] [(loc, n)]
          (!peerValid peer || decide (peerSize peer < ofs.toNat + n))
    let kind : EngKind := match k with
      | .lin => .lin dst.toNat src.toNat n
      | .pat => .pat dst.toNat src.toNat (pat.getD { rowb := 0, rows := 0, planes := 0, srs := 0, drs := 0, sps := 0, dps := 0 })
      | .peer => .peer idx get ofs.toNat loc.toNat n
    c.engineInstr s .c err dst fun s =>
      let p := s.newPromise c.strand
      let s := c.put p.1 f.d (fun _ => BitVec.ofNat 32 p.2) 2
      (c.issueEngine s .c kind (some p.2)).modStrand c.strand fun st => { st with promiseLast := BitVec.ofNat 32 p.2 }

/-- GATHER (R266). -/
def execGather (f : X64) (s : State) : Host.Outcome State Fault Refusal :=
  issue (.gather f) s fun c s =>
    let base := c.rdPairLow f.a.toNat
    let dst := c.rdPairLow f.d.toNat
    let o := c.rdLow f.b.toNat
    let n := (c.rdLow f.c.toNat).toNat
    let rowb := (f.ext.w1.extractLsb' 0 16).toNat
    let lst := cat32 0xFE000000 o
    let err := s.operandErr c.strand [base, dst] [(o.toNat, lst)] [(lst, 4 * n), (dst, n * rowb)] false
    c.engineInstr s .g err dst fun s => c.issueEngine s .g (.gather dst.toNat base.toNat o.toNat n rowb) none

/-- COLL (R267). -/
def execColl (op : CollOp) (f : X64) (s : State) : Host.Outcome State Fault Refusal :=
  issue (.coll op f) s fun c s =>
    let src := c.rdPairLow f.a.toNat
    let dst := c.rdPairLow f.d.toNat
    let n := (c.rdLow f.b.toNat).toNat
    let w := f.ext.w1
    let g := (w.extractLsb' 0 8).toNat
    let t := (aTypeOf (w.extractLsb' 8 8)).getD .n32
    let rop := (w.extractLsb' 16 4).toNat
    let root := (w.extractLsb' 24 8).toNat
    let me := (s.strandMember c.strand).getD (0, 0)
    let grp := s.groupOfLaunch me.1 g
    let rank := grp.idxOf? me.2
    let fault := rank.isNone || (op == .bcast && decide (grp.length ≤ root))
    let span := collSpan op grp.length n (rank == some root)
    let b := collBits t / 8
    let err := s.operandErr c.strand [dst, src] [] [(dst, span.2 * b), (src, span.1 * b)] fault
    c.engineInstr s .x err dst fun s =>
      let inst := ((s.skein? c.skein).bind fun k => tget? k.colls g).getD 0
      let s := s.modSkein c.skein fun k => { k with colls := tset k.colls g (inst + 1) }
      c.issueEngine s .x (.coll op t rop root g inst dst.toNat src.toNat n) none

/-! ### WAITC and SLEEPT -/

/-- WAITC.m (R268, R365): a needed batch that is stopped traps, or is re-issued after its trap. -/
def Ctx.waitcM (c : Ctx) (s : State) (n : Nat) : Res :=
  if c.st.mxOpen.ops ≠ 0 then .trap { cause := .waitcClass }
  else if c.st.cnt .m ≤ n then c.gotoNext (s.syncPoint c.k)
  else
    match s.mxNeed c.strand (c.st.stopWithin (c.st.cnt .m - n)) with
    | .trap s t => .trapIn s t
    | .wait s => c.await s (.waitc .m n)

/-- WAITC (R268). -/
def execWaitc (k : OpClass) (f : T96) (s : State) : Host.Outcome State Fault Refusal :=
  endRunWith (.waitc k f) s fun c s =>
    let n := f.imm26.toNat
    if k = .m then c.waitcM s n
    else if c.st.cnt k ≤ n then
      match s.failTrap c.strand k with
      | some (s', t) => .trapIn s' t
      | none => c.gotoNext (s.syncPoint c.k)
    else c.await s (.waitc k n)

/-- SLEEPT (R269): the fibre parks until the promise is reached. -/
def execSleept (f : T96) (s : State) : Host.Outcome State Fault Refusal :=
  endRunWith (.sleept f) s fun c s => c.await s (.sleept (c.rdLow f.a.toNat) f.imm26.toNat)

/-- Whether a promise time is reached (R263). -/
def reached (now : Nat) (t : Word) : Bool := decide ((BitVec.ofNat 32 now - t).toNat < 2 ^ 31)

/-- SLEEPT_WAKE (R269): at the time the fibre is ready, waits as WAITC, or takes PROMISE_MISSED. -/
def execSleeptWake (k : Nat) (s : State) : Host.Outcome State Fault Refusal :=
  match s.fib? k, s.strand? (fibStrand k) with
  | some f, some st =>
    match f.wait with
    | .sleept t n =>
      if f.state != .parked || !reached s.cycle t then .next s
      else if st.cnt .c ≤ n then .next (s.waitcDone k .c)
      else if st.ctl.getLsbD 8 && !f.noPromise && !(st.ops.any fun o => o.cls == .c && o.saved) then
        .next (s.trapWaiter k { cause := .promiseMissed, addr := cat32 t (BitVec.ofNat 32 s.cycle) })
      else .next (s.modFib k fun f => { f with wait := .waitc .c n })
    | _ => .next s
  | _, _ => .next s

/-! ### Barriers (R270 to R273) -/

/-- The barrier a field names in the skein or launch of a fibre. -/
def State.barrier? (s : State) (k : Nat) (b : BarRef) : Option Barrier :=
  match b with
  | .skein n => (s.skein? (fibSkein k)).bind fun sk => sk.bars[n]?
  | .manifest n => (s.launchOf k).bind fun l => (l.mbars[n]?).map (·.2)

/-- Change a barrier. -/
def State.modBarrier (s : State) (k : Nat) (b : BarRef) (f : Barrier → Barrier) : State :=
  match b with
  | .skein n => s.modSkein (fibSkein k) fun sk => { sk with bars := lset sk.bars n (f (sk.bars.getD n {})) }
  | .manifest n =>
    match s.skein? (fibSkein k) with
    | some sk =>
      s.modLaunch sk.launch fun l =>
        { l with mbars := match l.mbars[n]? with
            | some e => lset l.mbars n (e.1, f e.2)
            | none => l.mbars }
    | none => s

/-- The target an arrival asks for, with the largest that is allowed (R271). -/
def Ctx.barTarget (c : Ctx) (s : State) (b : BarRef) (bar : Barrier) (reg : BitVec 8) : Nat × Nat :=
  let whole := 96 * ((s.skein? c.skein).map (·.strands)).getD 1
  let dflt := match b with
    | .skein _ => if bar.dflt = 0 then whole else bar.dflt
    | .manifest _ => bar.dflt
  (if reg = 248 then dflt else (c.rdLow reg.toNat).toNat, match b with
    | .skein _ => whole
    | .manifest _ => 2 ^ 24)

/-- Whether a fibre that waits for `phase` may go on at the current phase (R272). -/
def phaseDone (cur phase : Word) : Bool := decide (1 ≤ (cur - phase).toNat) && decide ((cur - phase).toNat ≤ 2 ^ 31)

/-- Wake the fibres of the skein or launch that wait for phases now complete. -/
def State.barServe (s : State) (k : Nat) (b : BarRef) : State :=
  match s.barrier? k b with
  | none => s
  | some bar =>
    let same := fun (j : Nat) => match b with
      | .skein _ => fibSkein j == fibSkein k
      | .manifest _ => ((s.skein? (fibSkein j)).map (·.launch)) == ((s.skein? (fibSkein k)).map (·.launch))
    s.allFibs.foldl
      (fun a f =>
        match f.2.wait with
        | .bar b' ph => if b' == b && same f.1 && phaseDone bar.phase ph then (a.syncPoint f.1).waitDone f.1 else a
        | _ => a) s

/-- Arrive (R270, R271): the state, and the phase arrived in; none where BARRIER_INVALID applies. The fibre's earlier stores
have been performed (R273). -/
def Ctx.arrive (c : Ctx) (s : State) (b : BarRef) (reg : BitVec 8) : Option (State × Word) :=
  (s.barrier? c.k b).bind fun bar =>
    let t := c.barTarget s b bar reg
    if t.1 = 0 ∨ t.2 < t.1 ∨ (bar.target.map fun x => x != t.1).getD false then none
    else
      let n := bar.count + laneCount c.f.laneSet
      let s := s.drainStores c.k
      some
        (if t.1 ≤ n then
          s.modBarrier c.k b fun x => { x with phase := x.phase + 1, count := 0, target := none }
         else s.modBarrier c.k b fun x => { x with count := n, target := some t.1 }, bar.phase)

/-- Which barrier a field names (R264). -/
def barRef (manifest : Bool) (v : BitVec 8) : BarRef := if manifest then .manifest v.toNat else .skein (v.toNat % 16)

/-- The trap of R271. -/
def barTrap (v : BitVec 8) : Trap := { cause := .barrierInvalid, addr := v.zeroExtend 64 }

/-- Wait for a phase at the end of a run: at once where it has completed. -/
def Ctx.barWait (c : Ctx) (s : State) (b : BarRef) (phase : Word) : Res :=
  match s.barrier? c.k b with
  | some bar => if phaseDone bar.phase phase then c.gotoNext (s.syncPoint c.k) else c.await s (.bar b phase)
  | none => c.gotoNext s

/-- BAR (R272). -/
def execBar (f : T96) (s : State) : Host.Outcome State Fault Refusal :=
  endRunWith (.bar f) s fun c s =>
    let b := barRef (f.flg.getLsbD 0) f.a
    if c.fallsOff then .trap { cause := .pcWrap }
    else
      match c.arrive s b f.b with
      | none => .trap (barTrap f.a)
      | some (s, ph) => c.barWait (s.barServe c.k b) b ph

/-- BARA (R272): it takes effect with act empty, and writes every lane of the fibre. -/
def execBara (f : X64) (s : State) : Host.Outcome State Fault Refusal :=
  issue (.bara f) s fun c s =>
    let b := barRef (f.flg.getLsbD 0) f.a
    match c.arrive s b f.b with
    | none => .trap (barTrap f.a)
    | some (s, ph) =>
      .next (c.putBits (s.barServe c.k b) f.d.toNat c.f.laneSet (fun _ => ph) 0xFFFFFFFF 2 c.laneTag)

/-- BARW (R272). -/
def execBarw (f : T96) (s : State) : Host.Outcome State Fault Refusal :=
  endRunWith (.barw f) s fun c s =>
    let b := barRef (f.flg.getLsbD 0) f.a
    match s.barrier? c.k b with
    | none => .trap (barTrap f.a)
    | some _ => c.barWait s b (c.rdLow f.b.toNat)

/-! ### Semaphores (R274) -/

/-- Semaphore `n` of a launch. -/
def State.sem? (s : State) (launch n : Nat) : Option Sem := (tget? s.launches launch).bind fun l => l.msems[n]?

def State.modSem (s : State) (launch n : Nat) (f : Sem → Sem) : State :=
  s.modLaunch launch fun l =>
    { l with msems := match l.msems[n]? with
        | some e => lset l.msems n (f e)
        | none => l.msems }

/-- Grant the requests at the head of a semaphore's queue while the count allows it. -/
def State.semServe (s : State) (launch n : Nat) : Nat → State
  | 0 => s
  | fuel + 1 =>
    match s.sem? launch n with
    | some m =>
      match m.queue with
      | (k, amt) :: rest =>
        if amt ≤ m.count then
          (((s.modSem launch n fun m => { m with count := m.count - amt, queue := rest }).syncPoint k).waitDone k).semServe launch n fuel
        else s
      | [] => s
    | none => s

/-- The launch a fibre belongs to, by number. -/
def State.launchNum (s : State) (k : Nat) : Nat := ((s.skein? (fibSkein k)).map (·.launch)).getD 0

/-- SEMP (R274). -/
def execSemp (f : T96) (s : State) : Host.Outcome State Fault Refusal :=
  endRunWith (.semp f) s fun c s =>
    let n := f.a.toNat
    let l := s.launchNum c.k
    match s.sem? l n with
    | none => .trap { cause := .semInvalid, addr := BitVec.ofNat 64 n }
    | some m =>
      match c.await s (.sem n) with
      | .fin s =>
        .fin ((s.modSem l n fun m => { m with queue := m.queue ++ [(c.k, f.imm26.toNat)] }).semServe l n (m.queue.length + 1))
      | r => r

/-- SEMV (R274): a release, so the fibre's earlier stores come first. -/
def execSemv (f : X64) (s : State) : Host.Outcome State Fault Refusal :=
  issue (.semv f) s fun c s =>
    let n := f.a.toNat
    let l := s.launchNum c.k
    if c.act == 0 then .next s
    else
      match s.sem? l n with
      | none => .trap { cause := .semInvalid, addr := BitVec.ofNat 64 n }
      | some m =>
        if 2 ^ 32 ≤ m.count + f.imm8.toNat then .trap { cause := .semInvalid, addr := BitVec.ofNat 64 n }
        else
          let s := s.drainStores c.k
          .next ((s.modSem l n fun m => { m with count := m.count + f.imm8.toNat }).semServe l n (m.queue.length + 1))

/-! ### FETCHW (R275) -/

/-- FETCHW (R275). -/
def execFetchw (f : X64) (s : State) : Host.Outcome State Fault Refusal :=
  issue (.fetchw f) s fun c s =>
    if c.act == 0 then .next s
    else
      let o := (c.rdLow f.a.toNat).toNat
      let size := ((s.skein? c.skein).map (·.scratchBytes)).getD 0
      if o % 16 ≠ 0 ∨ size < o + 16 then .trap { cause := .fetchwInvalid, addr := BitVec.ofNat 64 o }
      else
        .next (s.modPart (s.strandPart c.strand) fun p =>
          { p with fetchws := p.fetchws ++ [{ skein := c.skein, ofs := o, seq := c.rdPairLow f.b.toNat }] })

/-- Write a word of a skein's scratch. -/
def State.scrWord (s : State) (sk o : Nat) (w : Nat) : State :=
  s.locWrites none ((bytesOfNat 4 w).zipIdx.map fun b => (.scr sk (o + b.2), b.1))

/-- FETCHW_REPLY (R275): the distributor answers request `idx` of a partition, words 1 to 3 and then word 0. -/
def execFetchwReply (part idx : Nat) (s : State) : Host.Outcome State Fault Refusal :=
  match (s.part part).fetchws[idx]? with
  | none => .next s
  | some r =>
    let s := s.modPart part fun p => { p with fetchws := p.fetchws.eraseIdx idx }
    if (s.skein? r.skein).isNone then .next s
    else
    let put := fun (s : State) (w x y z : Nat) =>
      (((s.scrWord r.skein (r.ofs + 4) x).scrWord r.skein (r.ofs + 8) y).scrWord r.skein (r.ofs + 12) z).scrWord r.skein r.ofs w
    match s.launches.find? fun l => l.2.part == part && l.2.seq == r.seq with
    | some (n, l) =>
      if l.frontier.isSome then .next (put s 3 0 0 0)
      else if l.total ≤ l.placed then .next (put s 2 0 0 0)
      else
        let xyz := l.coords l.placed
        let s := s.modLaunch n fun l => { l with placed := l.placed + 1, withdrawn := l.withdrawn ++ [l.placed] }
        let s := s.modSkein r.skein fun k => { k with withdrew := k.withdrew ++ [n] }
        .next (put s 1 xyz.1 xyz.2.1 xyz.2.2)
    | none => .next (put s 3 0 0 0)

/-! ### IFENCE (R276) -/

/-- The quadrants of a scope instance. -/
def ifenceQuads (cl scope : Nat) : List Nat :=
  if scope ≤ 2 then [clusterQuad cl]
  else if scope = 3 then (List.range 4).map (4 * clusterDie cl + ·)
  else List.range 16

/-- IFENCE (R276). -/
def execIfence (f : T96) (s : State) : Host.Outcome State Fault Refusal :=
  endRunWith (.ifence f) s fun c s => c.await (s.drainStores c.k) (.ifence f.flg.toNat)

/-- IFENCE_DONE (R276): the partition's lines are removed and the fibre is ready. -/
def execIfenceDone (k : Nat) (s : State) : Host.Outcome State Fault Refusal :=
  match s.fib? k with
  | some f =>
    match f.wait with
    | .ifence scope =>
      if f.state != .parked then .next s
      else
        let part := s.strandPart (fibStrand k)
        .next ((s.icDrop (ifenceQuads (fibCluster k) scope) fun e => e.part == part).waitDone k)
    | _ => .next s
  | none => .next s

end Sys2Proof.Machine
end

