-- ==== Sys2Proof/Machine/Task.lean ====
section
/-! DEFINITION. Allotments, register re-division and tasks: ACQ, GIVE, CLAIM, TSPAWN, TPOP, TDONE, opcodes 0xE0 to 0xE5
(R294, R296 to R302, R311 to R317), with the grant of a skein and the acceptance of a push. -/

namespace Sys2Proof.Machine

/-! ### ACQ, GIVE and CLAIM -/

/-- Entries that a partition holds of a skein manager's request list (R292). -/
def State.requestsOf (s : State) (c p : Nat) : Nat :=
  (s.skeins.filter fun e => e.1 / 4096 == c && e.2.part == p && e.2.listed).length

/-- The skein of a cluster whose request has waited longest for an entry of the request list. -/
def State.nextRequest (s : State) (c : Nat) : Option Nat :=
  (s.skeins.foldl
    (fun (a : Option (Nat × Nat)) e =>
      if e.1 / 4096 == c && e.2.asked && !e.2.listed && !e.2.granted && s.poolTakes 2 c 32 e.2.part (s.requestsOf c) then
        match a with
        | some x => if e.2.askedAt < x.1 then some (e.2.askedAt, e.1) else a
        | none => some (e.2.askedAt, e.1)
      else a) none).map (·.2)

/-- The oldest request that can take an entry of a skein manager's list does (R292). -/
def State.requestServe (s : State) (c : Nat) : State :=
  match s.nextRequest c with
  | some sk => s.modSkein sk fun k => { k with listed := true }
  | none => s

/-- ACQ (R312). -/
def execAcq (f : T96) (s : State) : Host.Outcome State Fault Refusal :=
  endRunWith (.acq f) s fun c s =>
    if ((s.skein? c.skein).map (·.granted)).getD true then c.gotoNext s
    else
      match c.await s .acq with
      | .fin s =>
        .fin ((s.modSkein c.skein fun k => if k.asked then k else { k with asked := true, askedAt := s.cycle }).requestServe c.cluster)
      | r => r

/-- The strands of a skein. -/
def State.strandsOf (s : State) (sk : Nat) : List (Nat × Strand) := s.strands.filter fun e => strandSkein e.1 == sk

/-- Blocks that a strand can take of `n`: it holds up to 30 (R15; log entry 98). -/
def Strand.room (st : Strand) (n : Nat) : Nat := min n (30 - st.blocks)

/-- A strand takes `n` blocks at the top of its allotment, zeroed (R294, R296, R314). -/
def Strand.gain (st : Strand) (n : Nat) : Strand :=
  let new := fun (r : Nat) => decide (8 * st.blocks ≤ r) && decide (r < 8 * (st.blocks + n))
  { st with
    blocks := st.blocks + n, regs := st.regs.filter fun e => !new e.1, flights := st.flights.filter fun x => !new x.reg }

/-- SKEIN_GRANT (R294): every strand grows by what FULL has above PRO, all new space is zero, and the waiters of ACQ wake. Blocks for
which a strand that has claimed has no room go to the skein's pool. -/
def execSkeinGrant (sk : Nat) (s : State) : Host.Outcome State Fault Refusal :=
  match s.skein? sk with
  | some k =>
    if k.granted || !k.asked || !k.listed || k.saved then .next s
    else
      let n := k.full.1 - k.pro.1
      let sts := s.strandsOf sk
      let left := (sts.map fun e => n - e.2.room n).foldl (· + ·) 0
      let s := sts.foldl (fun a e => a.modStrand e.1 fun st => st.gain (st.room n)) s
      let s := (s.modSkein sk fun k => { k with granted := true, listed := false, pool := k.pool + left }).requestServe (sk / 4096)
      .next (s.allFibs.foldl (fun a f => if fibSkein f.1 == sk && f.2.wait == .acq then a.waitDone f.1 else a) s)
  | none => .next s

/-- Serve the claims of a skein in order (R314). -/
def State.claimServe (s : State) (sk : Nat) : Nat → State
  | 0 => s
  | fuel + 1 =>
    match s.skein? sk with
    | some k =>
      match k.claims with
      | (f, n) :: rest =>
        if n ≤ k.pool then
          let m := ((s.strand? (fibStrand f)).map fun st => st.room n).getD 0
          let s := s.modSkein sk fun k => { k with pool := k.pool - m, claims := rest }
          let s := s.modStrand (fibStrand f) fun st => st.gain m
          (s.waitDone f).claimServe sk fuel
        else s
      | [] => s
    | none => s

/-- The registers a GIVE takes away. -/
def givenRegs (blocks k : Nat) : List Nat := (List.range (8 * k)).map (8 * (blocks - k) + ·)

/-- Registers that the instruction at which a fibre is parked has still to write. -/
def Fibre.awaits (f : Fibre) : List Nat :=
  let span := fun (d n : Nat) => (List.range n).map (d + ·)
  if f.state != .parked then []
  else
    match f.wait with
    | .miss m => span m.form.dst m.form.span
    | .atomic a => (a.dst.map fun d => span d (if a.type.is64 then 2 else 1)).getD []
    | .waiteq w _ => span w.dst (if w.sz = 3 then 2 else 1)
    | .fifo _ _ _ none d _ _ _ => [d]
    | .mwait _ true d _ => [d]
    | .tpop _ _ r _ => span r 8
    | .launch _ d _ _ _ | .ckpt d _ _ => [d]
    | _ => []

/-- Whether every write in flight of a strand to the given registers has landed (R313). -/
def Strand.givable (st : Strand) (regs : List Nat) (t : Nat) : Bool :=
  (regs.all fun r => st.regDone r t) && st.paths.all fun p => p.2.awaits.all fun r => !regs.contains r

/-- GIVE (R313): it waits in its slot until every write in flight to the given registers has landed. -/
def execGive (f : X64) (s : State) : Host.Outcome State Fault Refusal :=
  issue (.give f) s fun c s =>
    let k := f.imm8.toNat
    let b := c.st.blocks
    let regs := givenRegs b k
    if b ≤ k then .trap { cause := .giveUnderflow, addr := BitVec.ofNat 64 k }
    else if !c.st.givable regs c.is.r2 then .again (s.modFib c.k fun f => { f with beats := [] })
    else
      let s := s.modStrand c.strand fun st =>
        { st with
          blocks := b - k, regs := st.regs.filter fun e => !regs.contains e.1
          flights := st.flights.filter fun x => !regs.contains x.reg }
      let s := s.modSkein c.skein fun sk => { sk with pool := sk.pool + k }
      .next (s.claimServe c.skein (((s.skein? c.skein).map (·.claims.length)).getD 0))

/-- CLAIM (R314). -/
def execClaim (f : T96) (s : State) : Host.Outcome State Fault Refusal :=
  endRunWith (.claim f) s fun c s =>
    let k := f.imm26.toNat
    if 30 < c.st.blocks + k then .trap { cause := .allotExceeds, addr := BitVec.ofNat 64 k }
    else
      match c.await s (.claim k) with
      | .fin s =>
        let s := s.modSkein c.skein fun sk => { sk with claims := sk.claims ++ [(c.k, k)] }
        .fin (s.claimServe c.skein (((s.skein? c.skein).map (·.claims.length)).getD 0))
      | r => r

/-! ### Queues (R299, R300) -/

/-- Whether a queue is the partition's and enabled. -/
def State.tqUsable (s : State) (d q p : Nat) : Bool := (s.tq d q).en && (s.tq d q).part == p

/-- The trap of a queue that is not. -/
def tqTrap (q : Nat) : Trap := { cause := .taskQueueInvalid, addr := BitVec.ofNat 64 q }

/-- Whether a push may enter its queue: the pool takes it, and no older push of the die that the pool would take waits (R292). -/
def State.pushMay (s : State) (d : Nat) (before : List Push) (p : Push) : Bool :=
  let takes := fun (q : Nat) => s.poolTakes 5 d 64 q fun j => (s.tq d j).recs.length
  takes p.queue && !(before.any fun o => takes o.queue)

/-- The first push of a fibre on a die, with those before it. -/
def splitPush (k : Nat) : List Push → List Push → Option (List Push × Push × List Push)
  | _, [] => none
  | pre, p :: ps => if p.fib == k then some (pre, p, ps) else splitPush k (pre ++ [p]) ps

/-- At a task boundary a soft pre-emption request saves the fibre, which gives up its slot (R328). -/
def State.softSave (s : State) (k : Nat) : State :=
  match (s.ctx (s.strandCtx (fibStrand k))).pre with
  | .soft _ => (s.ready k).modFib k fun f => { f with saved := true }
  | _ => s

/-- TASK_PUSH_ACCEPT (R292, R300, R315, R317): the queue takes the record; its fibre goes on, or waits for the low watermark, or after
the last push of a TDONE stands at a task boundary (R328). -/
def execTaskPushAccept (k : Nat) (s : State) : Host.Outcome State Fault Refusal :=
  let hit := (List.range 4).findSome? fun d =>
    (splitPush k [] (s.die d).pushes).bind fun x => if s.pushMay d x.1 x.2.1 then some (d, x) else none
  match hit with
  | none => .next s
  | some (d, pre, p, post) =>
    let q := p.queue
    let t := s.tq d q
    let s := s.modDie d fun x => { x with pushes := pre ++ post }
    let above := p.spawn && t.high != 0 && decide (t.high ≤ t.recs.length)
    let s := s.modTq d q fun t => { t with recs := t.recs ++ [p.rec_], raised := t.raised || above }
    let s := s.count (fibCluster k) 0x36 1
    let more := (List.range 4).any fun d => (s.die d).pushes.any fun x => x.fib == k
    let s := if more then s else if above then s.park k (.high d q) else if p.spawn then s.ready k else (s.ready k).softSave k
    .next (s.tqServe d q)

/-- Put a push in progress. -/
def State.startPush (s : State) (d : Nat) (p : Push) : State := s.modDie d fun x => { x with pushes := x.pushes ++ [p] }

/-- The eight words of a record. -/
def recWords (bs : List Byte) : List Word := (List.range 8).map fun i => BitVec.ofNat 32 (recField bs (4 * i) 4)

/-- Whether a checked access reaches a SPRIV page through a global address (R173). -/
def State.sprivAcc (s : State) (k : Nat) (a : LaneAcc) : Bool :=
  a.addr.toNat / 2 ^ 56 != 0xFE && a.addr.toNat / 2 ^ 56 != 0xFD &&
    s.agentSpriv (some (fibCluster k)) (s.strandCtx (fibStrand k)) a.addr.toNat a.bytes.length

/-- Run the checks of R198 on one address of the uniform lane, as the access of a unit (R315, R318). The task queue unit fails on a
SPRIV page that a global address reaches; R173 does not name the front end, so with `front` only the checks of a load are made
(DEDUCED, log entry 107). -/
def Ctx.checkedUnit (c : Ctx) (s : State) (acc : Acc) (n al : Nat) (a : DWord) (front : Bool) (k : State → LaneAcc → Res) : Res :=
  match s.checkAccess c.k acc n al false [(c.low, a)] c.f.walks with
  | .trap t => .trap t
  | .walk va => .again (((s.enterMiss c.cluster (s.strandCtx c.strand) va c.k).count c.cluster 0x13 1).park c.k .walk)
  | .ok lanes =>
    match lanes with
    | x :: _ => if !front && s.sprivAcc c.k x then .trap { cause := .ldPerm, addr := a, mask := some (lanesOf (· == c.low)) } else k s x
    | [] => .next s

/-- TSPAWN (R315). -/
def execTspawn (f : X64) (s : State) : Host.Outcome State Fault Refusal :=
  issue (.tspawn f) s fun c s =>
    if c.act == 0 then .next s
    else
      let q := f.imm8.toNat
      let d := clusterDie c.cluster
      c.checkedUnit s .load 32 32 (c.rdPairLow f.a.toNat) false fun s x =>
        let s := s.drainStores c.k
        if !s.tqUsable d q (s.strandPart c.strand) then .trap (tqTrap q)
        else
          match c.escapeLow s 0 with
          | .error t => .trap t
          | .ok s =>
            let w := recWords (s.laneBytes c.k x)
            .next ((s.startPush d { fib := c.k, queue := q, rec_ := w, spawn := true }).park c.k .push)

/-- TPOP (R316). -/
def execTpop (f : T96) (s : State) : Host.Outcome State Fault Refusal :=
  endRunWith (.tpop f) s fun c s =>
    let q := f.imm26.toNat
    let d := clusterDie c.cluster
    if c.f.task.isSome || !s.tqUsable d q (s.strandPart c.strand) then .trap (tqTrap q)
    else
      match c.await s (.tpop d q f.a.toNat (c.tagsIn c.f.laneSet)) with
      | .fin s => .fin ((s.modTq d q fun t => { t with poppers := t.poppers ++ [c.k] }).tqServe d q)
      | r => r

/-! ### TDONE (R317) -/

/-- The signed count at the start of a block. -/
def blockCount (bs : List Byte) : Int := (BitVec.ofNat 32 (recField bs 0 4)).toInt

/-- The queue and die a block names. -/
def blockQueue (bs : List Byte) : Nat × Nat := (bits (recField bs 4 4) 8 2, bits (recField bs 4 4) 0 6)

/-- What the check of a block comes to. -/
inductive BlockCheck where
  | none
  | ok (x : LaneAcc)
  | bad
  | walk (va : Nat)

/-- Check a successor-counter block (R317): alignment, translation and permission as an atomic, its count and its queue. -/
def Ctx.blockCheck (c : Ctx) (s : State) (a : DWord) : BlockCheck :=
  if a == 0 then .none
  else
    match s.checkAccess c.k .atomic 64 64 false [(c.low, a)] c.f.walks with
    | .trap _ => .bad
    | .walk va => .walk va
    | .ok lanes =>
      match lanes with
      | x :: _ =>
        let bs := ((s.drainFor c.k x.bytes true).uoLeave c.cluster x.bytes).homeBytes x
        let dq := blockQueue bs
        if s.sprivAcc c.k x || decide (blockCount bs ≤ 0) || !s.tqUsable dq.1 dq.2 (s.strandPart c.strand) then .bad else .ok x
      | [] => .bad

/-- Decrement a block's count at its home, and start the push of its record at zero. -/
def Ctx.decBlock (c : Ctx) (s : State) (x : LaneAcc) : State :=
  let s := (s.uoLeave c.cluster x.bytes).goHomeBytes c.cluster x.bytes
  let bs := s.homeBytes x
  let n := blockCount bs - 1
  let part := s.partOf c.strand
  let s := ((x.bytes.take 4).zip (bytesOfNat 4 (BitVec.ofInt 32 n).toNat)).foldl (fun a b => a.byteWrite c.cluster part [] b.1 b.2)
    (s.beginWrite [{ scope := 4, strand := some c.strand, view := s.viewNow }])
  if n = 0 then
    let dq := blockQueue bs
    s.startPush dq.1 { fib := c.k, queue := dq.2, rec_ := recWords (bs.drop 0x20), spawn := false }
  else s

/-- TDONE (R317). -/
def execTdone (f : X64) (s : State) : Host.Outcome State Fault Refusal :=
  issue (.tdone f) s fun c s =>
    match c.f.task with
    | none => .trap (tqTrap 0)
    | some t =>
      let a := c.rdPairLow f.a.toNat
      let b := c.rdPairLow f.b.toNat
      let fault := fun (x : DWord) => Res.trap { cause := .taskSuccessorFault, addr := x }
      let wait := fun (va : Nat) =>
        Res.again (((s.enterMiss c.cluster (s.strandCtx c.strand) va c.k).count c.cluster 0x13 1).park c.k .walk)
      let blks := [(a, c.blockCheck s a), (b, c.blockCheck s b)]
      match blks.findSome? fun x => match x.2 with | .walk va => some va | _ => none with
      | some va => wait va
      | none =>
        match blks.find? fun x => match x.2 with | .bad => true | _ => false with
        | some x => fault x.1
        | none =>
          match c.escapeLow s (if a == 0 then b else a) with
          | .error t => .trap t
          | .ok s =>
            let s := (s.drainStores c.k).syncPoint c.k
            let s := blks.foldl (fun s x => match x.2 with | .ok l => c.decBlock s l | _ => s) s
            let s := s.modFib c.k fun f => { f with task := none }
            let s := s.tqServe t.die t.queue
            let waits := (List.range 4).any fun d => (s.die d).pushes.any fun x => x.fib == c.k
            .next (if waits then s.park c.k .push else s.softSave c.k)

end Sys2Proof.Machine
end

