-- ==== Sys2Proof/Machine/Launch.lean ====
section
/-! DEFINITION. Launches (chapter 11): the checks of a record (R277 to R284, R291, R304, R305), its acceptance (R288, R318), the
placement of skeins (R285 to R287, R293), frontier points (R306) and the retesting of pools (R292). -/

namespace Sys2Proof.Machine

/-! ### The checks of Table 11.3 -/

/-- A launch record to be checked, as a launch that nothing has accepted. -/
def protoLaunch (part : Nat) (r : List Byte) (seq : DWord) (device : Bool) : Launch :=
  { part := part, ctx := recField r 0x22 2 % 16, rec_ := r, seq := seq, device := device }

/-- Check 0: DONE (R291). -/
def State.doneOk (s : State) (l : Launch) : Bool := l.done % 16 == 0 && (s.agentBytes none l.ctxKey l.done 16 true).isSome

/-- The narrowest scope that covers a domain (R18). -/
def domainScope (d : Nat) : Nat := if d = 3 then 2 else if d = 4 then 3 else 4

/-- The entries of the levels: ranges, and the constraints of R18 from the level below. -/
def levelsOk (l : Launch) : List Nat → Nat → Nat → Bool
  | [], _, _ => true
  | k :: ks, dom, scope =>
    let e := l.level k
    if l.levels ≤ k then e == 0 && levelsOk l ks dom scope
    else
      let x := levelExt e
      let d := bits e 48 4
      let sc := bits e 52 4
      decide (1 ≤ x.1) && decide (1 ≤ x.2.1) && decide (1 ≤ x.2.2) && decide (3 ≤ d) && decide (d ≤ 5) && decide (sc ≤ 5) &&
        bits e 56 8 == 0 && decide (dom ≤ d) && decide (scope ≤ sc) && decide (domainScope d ≤ sc) && levelsOk l ks d sc

/-- Check 1. -/
def State.check1 (s : State) (l : Launch) : Bool :=
  l.f 0 4 == 0x534C0001 && l.flags / 2 ^ 17 == 0 && l.f 0xB 1 == 0 && bits (l.f 0x22 2) 4 12 == 0 &&
    decide (3 ≤ l.levels) && decide (l.levels ≤ 8) && decide (1 ≤ l.nStrands) && decide (l.nStrands ≤ 16) &&
    levelsOk l [3, 4, 5, 6, 7] 2 1 && bits (l.f 0x50 8) 48 16 == 0 && bits (l.f 0x58 8) 48 16 == 0 && l.f 0x68 16 == 0 &&
    (l.flags.testBit 2 || l.f 0x60 8 == 0) && (s.ctx l.ctxKey).en

/-- The lane counts of the kernel block whose entry offset is ENTRY (R283, R464); none where the LAUNCH section fails. -/
def State.launchBars (s : State) (l : Launch) : Option (List Nat) :=
  let sec := beLaunch (s.entryMem l.part l.code)
  let dflt := List.replicate 16 0
  if sec.2 = 0 then some dflt
  else if sec.2 < 16 then none
  else
    (s.agentRead none l.ctxKey sec.1 16).bind fun h =>
      let t := recField h 0 4
      let k := recField h 4 4
      if sec.2 < 16 + 128 * t + 80 * k then none
      else
        (List.range k).foldl
          (fun (a : Option (List Nat)) i =>
            a.bind fun bars =>
              (s.agentRead none l.ctxKey (sec.1 + 16 + 128 * t + 80 * i) 80).map fun b =>
                if recField b 0 4 == l.entryOfs then (List.range 16).map fun j => recField b (16 + 4 * j) 4 else bars)
          (some dflt)

/-- Check 2. -/
def State.check2 (s : State) (l : Launch) : Bool :=
  let e := s.entryMem l.part l.code
  decide (l.code < 4096) && beValid e && l.entryOfs % 4 == 0 && decide (l.entryOfs < beLen e) &&
    (!l.flags.testBit 16 || bePriv e) && (s.launchBars l).isSome

/-- Check 3: the registers of the PRELOAD bits (Table 11.4). -/
def check3 (l : Launch) : Bool :=
  let regs := [1, 2, 3, 4, 5, 6, 8, 9]
  (regs.zipIdx.all fun r => !l.flags.testBit (8 + r.2) || decide (r.1 ≤ 8 * l.proA.1)) &&
    (!l.flags.testBit 15 || l.flags.testBit 2)

/-- Check 4: roles of strands that are not there. -/
def check4 (l : Launch) : Bool := (List.range 16).all fun i => decide (i < l.nStrands) || l.role i == 0

/-- Bytes of the SCRATCH banks of a cluster. -/
def State.scratchPool (s : State) (c : Nat) : Nat :=
  ((s.cluster c).banks.filter fun b => b.mode == .scratch && b.next.isNone).length * 262144

/-- Scratch of an allotment, rounded up to 4 KiB (R187). -/
def scratchRound (kib : Nat) : Nat := (kib * 1024 + 4095) / 4096 * 4096

/-- Check 5. -/
def State.check5 (s : State) (l : Launch) : Bool :=
  let p := l.proA
  let f := l.fullA
  let ok := fun (a : Nat × Nat × Nat × Nat) =>
    decide (1 ≤ a.1) && decide (a.1 ≤ 30) && decide (a.2.1 ≤ 4096) && decide (a.2.2.1 ≤ 32) && decide (a.2.2.2 ≤ 256)
  ok p && ok f && decide (p.1 ≤ f.1) && decide (p.2.1 ≤ f.2.1) && decide (p.2.2.1 ≤ f.2.2.1) && decide (p.2.2.2 ≤ f.2.2.2) &&
    decide (l.nStrands * f.1 ≤ 512) &&
    (f.2.1 == 0 || (s.clustersOf l.part).any fun c => decide (scratchRound f.2.1 ≤ s.scratchPool c))

/-- Check 6. -/
def State.check6 (s : State) (l : Launch) : Bool := l.levels == 3 || !(s.clustersOf l.part).isEmpty

/-- A vector of a descriptor (R304). -/
def descVec (d : List Byte) (i : Nat) : Int × Int × Int :=
  let b := fun (j : Nat) => (BitVec.ofNat 8 (recField d (8 + 4 * i + j) 1)).toInt
  (b 0, b 1, b 2)

/-- Check 7 (R304, R305): the frontier of a frontier launch, or the cause. -/
def State.check7 (s : State) (l : Launch) : Except Cause (Option Frontier) :=
  if !l.flags.testBit 2 then .ok none
  else
    let a := l.f 0x60 8
    match (if l.levels = 3 ∧ a % 32 = 0 then s.frontierRead l.ctxKey a 32 else none) with
    | none => .error .frontierInvalid
    | some d =>
      let d0 := recField d 0 2
      let d1 := recField d 2 2
      let d2 := recField d 4 2
      let m := recField d 6 1
      let backing := recField d 0x18 8
      let vecs := (List.range m).map (descVec d)
      let shape := decide (m ≤ 4) && recField d 7 1 == 0 && (List.range 4).all fun i =>
        recField d (11 + 4 * i) 1 == 0 && (decide (i < m) || recField d (8 + 4 * i) 4 == 0)
      let dims := decide (1 ≤ d0) && decide (d0 ≤ 4096) && decide (1 ≤ d1) && decide (d1 ≤ 1024) && decide (1 ≤ d2) &&
        decide (d2 ≤ 1024)
      let vok := vecs.all fun v =>
        decide (0 ≤ v.1) && (v.1 != 0 || decide (0 < v.2.1) || (v.2.1 == 0 && decide (0 < v.2.2)))
      if !(shape && dims && vok) then .error .frontierInvalid
      else if 65536 < d1 * d2 then
        let pages := (List.range ((4 * (d1 * d2) + 4095) / 4096 + 1)).map fun i => min (backing + 4096 * i) (backing + 4 * (d1 * d2) - 4)
        let good := pages.all fun v =>
          match s.agentBytes none l.ctxKey v 4 true with
          | some bs => (bs.all fun b => b.kind == .rc) && !s.agentSpriv none l.ctxKey v 4
          | none => false
        if backing = 0 then .error .frontierOverflow
        else if backing % 4 ≠ 0 ∨ !good then .error .frontierInvalid
        else .ok (some { d0 := d0, d1 := d1, d2 := d2, vecs := vecs, backing := BitVec.ofNat 64 backing })
      else .ok (some { d0 := d0, d1 := d1, d2 := d2, vecs := vecs, backing := BitVec.ofNat 64 backing })

/-- The first check of rows 1 to 7 that fails: its row and cause (R284). -/
def State.recordCheck (s : State) (l : Launch) : Except (Nat × Cause) (Option Frontier) :=
  if !s.check1 l then .error (1, .launchInvalid)
  else if !s.check2 l then .error (2, .launchInvalid)
  else if !check3 l then .error (3, .launchInvalid)
  else if !check4 l then .error (4, .roleInvalid)
  else if !s.check5 l then .error (5, .allotExceeds)
  else if !s.check6 l then .error (6, .launchInvalid)
  else
    match s.check7 l with
    | .error e => .error (7, e)
    | .ok fr => .ok fr

/-! ### Acceptance -/

/-- The skein indices of the groups of a MANIFEST, from an offset (R465). -/
def manifestGroups (b : List Byte) : Nat → Nat → List (Nat × List Nat)
  | 0, _ => []
  | g + 1, o =>
    let n := recField b (o + 1) 1 + 1
    (recField b o 1, (List.range n).map fun i => recField b (o + 4 + 4 * i) 4) :: manifestGroups b g (o + 4 + 4 * n)

/-- The live state of a launch's manifest (R462, R465); one that cannot be read is empty. -/
def State.withManifest (s : State) (l : Launch) : Launch :=
  let sec := beManifest (s.entryMem l.part l.code)
  match s.agentRead none l.ctxKey sec.1 sec.2 with
  | none => l
  | some b =>
    if sec.2 < 16 then l
    else
      let nb := recField b 0 4
      let ns := recField b 4 4
      let o := 16 + 8 * nb
      { l with
        mbars := (List.range nb).map fun i => (recField b (16 + 8 * i) 1, { dflt := recField b (16 + 8 * i + 4) 4 })
        msems := (List.range ns).map fun i => { scope := recField b (o + 8 * i) 1, count := recField b (o + 8 * i + 4) 4 }
        groups := manifestGroups b (recField b 8 4) (o + 8 * ns) }

/-- Lines whose heights the engine keeps in the backing area start at zero (R306, R308). -/
def State.zeroHeights (s : State) (l : Launch) (fr : Frontier) : State :=
  if 65536 < fr.d1 * fr.d2 then
    (s.frontierWrite l.ctxKey (fr.backing.toNat + 4 * 65536) (List.replicate (4 * (fr.d1 * fr.d2 - 65536)) 0)).getD s
  else s

/-- Set the event codes of a cluster (R431): a counter whose code changes is zeroed. -/
def State.setEvSel (s : State) (cl : Nat) (w : Word) : State :=
  s.modCluster cl fun c =>
    { c with
      evSel := w
      evBase := (List.range 4).map fun k =>
        if w.extractLsb' (8 * k) 8 == c.evSel.extractLsb' (8 * k) 8 then c.evBase.getD k 0
        else (tget? c.ev (w.extractLsb' (8 * k) 6).toNat).getD 0 }

/-- Zero every physical counter of a cluster. -/
def State.zeroCounters (s : State) (cl : Nat) : State :=
  s.modCluster cl fun c =>
    { c with evBase := (List.range 4).map fun k => (tget? c.ev (c.evSel.extractLsb' (8 * k) 6).toNat).getD 0 }

/-- Begin pass `p` of a measurement (R446, R447). -/
def State.passBegin (s : State) (part p : Nat) : State :=
  let pt := s.part part
  let codes := BitVec.ofNat 32 (natOfBytes (s.memReadBytes (pt.mrArea.toNat % 2 ^ 56 + 4 * p) 4))
  let s := s.modPart part fun x => { x with mrPass := p, mrSig := 0 }
  (s.clustersOf part).foldl (fun a c => (a.setEvSel c codes).zeroCounters c) s

/-- Take a record that passed its checks in as a launch, which a pending measurement takes up (R288, R446). -/
def State.admitLaunch (s : State) (l : Launch) (fr : Option Frontier) : State :=
  let n := s.launchCtr
  let l := s.withManifest { l with frontier := fr, bars := (s.launchBars l).getD (List.replicate 16 0) }
  let s := { s with launches := tset s.launches n l, launchCtr := n + 1 }
  let s := match fr with
    | some f => (s.zeroHeights l f).fire n
    | none => s
  if (s.part l.part).mrEn && (s.part l.part).mrLaunch.isNone then
    (s.modPart l.part fun p => { p with mrLaunch := some n, mrMismatch := 0 }).passBegin l.part 0
  else s

/-- A record that failed rows 1 to 7 completes with its cause (R284). -/
def State.failLaunch (s : State) (l : Launch) (cause : Cause) : State :=
  let n := s.launchCtr
  let s := { s with launches := tset s.launches n l, launchCtr := n + 1 }
  s.writeCompletion n (BitVec.ofNat 32 cause.code.toNat) 0

/-- Whether the front end of a partition takes records: not while a CKPT is pending (R346) or the partition is stopped. -/
def State.frontOpen (s : State) (part : Nat) : Bool :=
  (s.part part).ckPending.isNone && (s.part part).halted.isNone &&
    s.poolTakes 0 0 32 part fun p => (s.launches.filter fun e => e.2.part == p).length

/-- The HDM offset of the slot of the expected sequence number (R473). -/
def Partition.lqSlot (p : Partition) : Nat := p.lqBase.toNat + 128 * (p.lqExpect.toNat % p.lqSize.toNat)

/-- The cycle since which the slot of the expected sequence number has a change to be looked at (R288, R474). -/
def Partition.lqWoken (p : Partition) : Option Nat :=
  if p.lqEn then (p.lqChanged.find? fun e => e.1 == lineOf p.lqSlot).map (·.2) else none

/-- The SEQ of the expected slot. -/
def State.lqSeq (s : State) (p : Partition) : DWord := BitVec.ofNat 64 (natOfBytes (s.memReadBytes (p.lqSlot + 0x78) 8))

/-- The requests for an entry of the launch list, by the cycle since which each waits, its partition, and whether a LAUNCH made it (R288,
R292, R318). -/
def State.frontReqs (s : State) : List (Nat × Nat × Bool) :=
  s.parts.flatMap fun e =>
    (match e.2.lqWoken with
     | some t => if s.lqSeq e.2 == e.2.lqExpect then [(t, e.1, false)] else []
     | none => []) ++
    match (e.2.devReqs.head?.bind fun k => s.fib? k).map Fibre.wait with
    | some (Wait.launch _ _ _ _ t) => [(t, e.1, true)]
    | _ => []

/-- The oldest of those requests that its partition's front end can take (R292); of equal ones the host's comes first, then that of the
lower partition (DESIGN CHOICE, log entry 109). -/
def State.frontNext (s : State) : Option (Nat × Bool) :=
  let rank := fun (x : Nat × Nat × Bool) => (x.1 * 2 + if x.2.2 then 1 else 0) * 32 + x.2.1
  ((s.frontReqs.filter fun x => s.frontOpen x.2.1).foldl
    (fun (a : Option (Nat × Nat × Bool)) x => match a with
      | some y => if rank x < rank y then some x else a
      | none => some x) none).map (·.2)

/-- The front end is done with the change of a line. -/
def State.lqLooked (s : State) (part line : Nat) : State :=
  s.modPart part fun x => { x with lqChanged := x.lqChanged.filter fun e => e.1 != line }

/-- Accept a host record (R288, R291, R474), once a change of its line has been reported and its turn has come: a SEQ that is not the
expected one is ignored, and one whose DONE fails check 0 becomes a record of the page-request ring, which raises the vector. -/
def State.acceptHost (s : State) (part : Nat) : State :=
  let p := s.part part
  let seq := s.lqSeq p
  if p.lqWoken.isNone then s
  else if seq != p.lqExpect then s.lqLooked part (lineOf p.lqSlot)
  else if s.frontNext != some (part, false) then s
  else
    let r := s.memReadBytes p.lqSlot 128
    let l := protoLaunch part r seq false
    let s := (s.lqLooked part (lineOf p.lqSlot)).modPart part fun x => { x with lqExpect := x.lqExpect + 1 }
    if !s.doneOk l then
      s.pageRequest (s.frontierDie part)
        { part := part, ctx := l.ctx, addr := BitVec.ofNat 64 l.done, seq := 0, cluster := 0xFFFF, sid := 0xFFFF, path := 0xFF
          cause := .launchInvalid, flags := 0, irq := true }
    else
      match s.recordCheck l with
      | .error e => s.failLaunch l e.2
      | .ok fr => s.admitLaunch l fr

/-- Write a status into the destination of a fibre parked in LAUNCH or CKPT, which becomes ready. -/
def State.statusTo (s : State) (k dst : Nat) (act : Lanes) (tags : List (Nat × Tag)) (w : Word) : State :=
  let q := s.takeSeq k
  (q.1.landWords k dst 1 q.2 act 0 (fun _ _ => w) tags (tri1 s.cycle)).ready k

/-- Accept the oldest record submitted by LAUNCH (R318). -/
def State.acceptDevice (s : State) (part : Nat) : State :=
  match (s.part part).devReqs with
  | [] => s
  | k :: rest =>
    match s.fib? k with
    | none => s.modPart part fun x => { x with devReqs := rest }
    | some f =>
      match f.wait with
      | .launch r dst act tags _ =>
        if s.frontNext != some (part, true) then s
        else
          let s := s.modPart part fun x => { x with devReqs := rest }
          let l := protoLaunch part r (BitVec.ofNat 64 ((s.part part).devSeq + 2 ^ 63)) true
          if !s.doneOk l then s.statusTo k dst act tags (BitVec.ofNat 32 Cause.launchInvalid.code.toNat)
          else
            let s := s.modPart part fun x => { x with devSeq := x.devSeq + 1 }
            match s.recordCheck l with
            | .error e => (s.failLaunch l e.2).statusTo k dst act tags (BitVec.ofNat 32 e.2.code.toNat)
            | .ok fr => (s.admitLaunch l fr).statusTo k dst act tags 0
      | _ => s.modPart part fun x => { x with devReqs := rest }

/-- LAUNCH_ACCEPT (R288, R318). -/
def execLaunchAccept (part : Nat) (device : Bool) (s : State) : Host.Outcome State Fault Refusal :=
  .next (if device then s.acceptDevice part else s.acceptHost part)

/-- The wall-clock time since reset release, 18,018,000 units to the 10 ns of a reference tick (R3, R12, R484). -/
def State.wall (s : State) : Nat := s.refCount * (25 * 720720) + s.refFrac

/-- Whether `ns` nanoseconds have passed since a wall-clock time, whatever the clock did meanwhile (R3). -/
def State.nsPassed (s : State) (since ns : Nat) : Bool := decide (since + ns * 1801800 ≤ s.wall)

/-- The snoop filter reports a change of a line to the front ends whose queues hold it (R474). -/
def State.lqReport (s : State) (line : Nat) : State :=
  s.parts.foldl
    (fun a e =>
      let first := e.2.lqBase.toNat / 128
      if e.2.lqEn && decide (first ≤ line) && decide (line < first + e.2.lqSize.toNat) && !e.2.lqChanged.any fun x => x.1 == line then
        a.modPart e.1 fun x => { x with lqChanged := x.lqChanged ++ [(line, a.cycle)] }
      else a) s

/-- LQ_RECALL (R474): the front end recalls the line of the expected SEQ, LQ_RECALL ns after the host took it, and again at that interval
while the host holds it, and reads its data. -/
def execLqRecall (part : Nat) (s : State) : Host.Outcome State Fault Refusal :=
  let p := s.part part
  let line := lineOf p.lqSlot
  if !p.lqEn then .next s
  else
    match tget? s.hostOwned line with
    | some (bs, since) =>
      if s.nsPassed since p.lqRecall.toNat then
        .next (((({ s with hostOwned := tset s.hostOwned line (bs, s.wall) } : State).hostWrite (line * 128) bs).lqReport line).acceptHost part)
      else .next s
    | none => .next s

/-- LAUNCH (R318): the front end reads the record at its home once the fibre's earlier accesses have been performed. -/
def execLaunch (f : X64) (s : State) : Host.Outcome State Fault Refusal :=
  issue (.launch f) s fun c s =>
    if c.act == 0 then .next s
    else
      let a := c.rdPairLow f.a.toNat
      c.checkedUnit s .load 128 128 a true fun s x =>
        let s := s.drainStores c.k
        let part := s.strandPart c.strand
        let s := s.goHomeBytes c.cluster x.bytes
        let r := s.homeBytes x
        let l := protoLaunch part r 0 true
        let issuer := ((s.launchOf c.k).map (·.cls)).getD 0
        let own := decide (l.cls < issuer) || l.ctxKey != s.strandCtx c.strand || (l.flags.testBit 16 && c.f.level == .user)
        if own || (s.doneOk l && !(s.check1 l && s.check2 l && check3 l)) then .trap { cause := .launchInvalid, addr := a }
        else
          match c.escapeLow s 0 with
          | .error t => .trap t
          | .ok s =>
            .next ((s.modPart part fun p => { p with devReqs := p.devReqs ++ [c.k] }).park c.k
              (.launch r f.d.toNat c.act (c.tagsIn c.act) s.cycle))

/-! ### Placement (R285 to R287, R293) -/

/-- Resources of a cluster: register blocks, scratch bytes, accumulator slots, coefficient-pool units and strand places. -/
structure Res5 where
  blocks : Nat
  scratch : Nat
  slots : Nat
  pool : Nat
  places : Nat
  deriving DecidableEq, Repr

/-- What an allotment takes for a skein of `n` strands. -/
def allotRes (a : Nat × Nat × Nat × Nat) (n : Nat) : Res5 :=
  { blocks := n * a.1, scratch := scratchRound a.2.1, slots := a.2.2.1, pool := a.2.2.2, places := n }

def Res5.add (a b : Res5) : Res5 :=
  { blocks := a.blocks + b.blocks, scratch := a.scratch + b.scratch, slots := a.slots + b.slots, pool := a.pool + b.pool
    places := a.places + b.places }

def Res5.sub (a b : Res5) : Res5 :=
  { blocks := a.blocks - b.blocks, scratch := a.scratch - b.scratch, slots := a.slots - b.slots, pool := a.pool - b.pool
    places := a.places - b.places }

def Res5.le (a b : Res5) : Bool :=
  decide (a.blocks ≤ b.blocks) && decide (a.scratch ≤ b.scratch) && decide (a.slots ≤ b.slots) && decide (a.pool ≤ b.pool) &&
    decide (a.places ≤ b.places)

/-- Resident skeins of a cluster. -/
def State.residents (s : State) (c : Nat) : List (Nat × Skein) := s.skeins.filter fun e => e.1 / 4096 == c && !e.2.saved

/-- What a skein holds: the blocks of its pool and of the strands that have not ended, and their places (R19, R293, R296). -/
def State.holds (s : State) (sk : Nat) (k : Skein) : Res5 :=
  let sts := s.strandsOf sk
  { allotRes (if k.granted then k.full else k.pro) sts.length with
    blocks := (sts.map fun e => e.2.blocks).foldl (· + ·) k.pool }

/-- What the grant of a skein would add. -/
def State.owed (s : State) (sk : Nat) (k : Skein) : Res5 :=
  let n := (s.strandsOf sk).length
  if k.granted then allotRes (0, 0, 0, 0) 0 else (allotRes k.full n).sub (allotRes k.pro n)

/-- R293: whether a cluster can admit a skein that takes `p` now and `add` at its grant. -/
def State.admits (s : State) (c : Nat) (p add : Res5) : Bool :=
  let zero := allotRes (0, 0, 0, 0) 0
  let total : Res5 := { blocks := 512, scratch := s.scratchPool c, slots := 32, pool := 256, places := 64 }
  let rs := s.residents c
  let held := rs.foldl (fun a e => a.add (s.holds e.1 e.2)) zero
  let owed := rs.foldl (fun a e => a.add (s.owed e.1 e.2)) zero
  ((held.add p).add (owed.add add)).le total

/-- Whether a cluster can admit a new skein of `n` strands of these allotments. -/
def State.canAdmit (s : State) (c : Nat) (pro full : Nat × Nat × Nat × Nat) (n : Nat) : Bool :=
  s.admits c (allotRes pro n) ((allotRes full n).sub (allotRes pro n))

/-- The next skein number of a cluster (R16). -/
def State.newSkein (s : State) (c : Nat) : Nat :=
  let first := (s.cluster c).nextSkein
  ((List.range 4096).find? fun i => (s.skein? (c * 4096 + (first + i) % 4096)).isNone).map (fun i => (first + i) % 4096) |>.getD 0

/-- The spindles of the strands that hold a place on a cluster. -/
def State.spindlesOn (s : State) (c : Nat) : List Nat :=
  let in_ := fun (k : Nat) => ((s.skein? (strandSkein k)).map fun x => !x.saved).getD false
  (s.strands.filter fun e => strandCluster e.1 == c && in_ e.1).map (·.2.spindle)

/-- The spindle that takes a strand beside those on given spindles: the one with the fewest, the lowest first (R17). -/
def fewest (on : List Nat) : Nat := (List.range 4).foldl (fun a i => if on.count i < on.count a then i else a) 0

/-- The spindle of a cluster that takes a strand. -/
def State.spindleFor (s : State) (c : Nat) : Nat := fewest (s.spindlesOn c)

/-- A new strand with its preloads (R287, Table 11.4). -/
def newStrand (l : Launch) (k : Skein) (c idx spindle : Nat) (now : Nat) (view : View) : Strand :=
  let all : Lanes := lanesOf fun _ => true
  let on := fun (b : Nat) => l.flags.testBit (8 + b)
  let pt := match k.point with
    | some (a, b, d) => a * 2 ^ 20 + b * 2 ^ 10 + d
    | none => 0
  let load := fun (st : Strand) (b r : Nat) (w : Nat → Word) => if on b then st.poke r all w else st
  let ref := BitVec.ofNat 64 (l.code * 2 ^ 40 + l.entryOfs)
  let st : Strand :=
    { blocks := k.pro.1, role := l.role idx, spindle := spindle, ctl := if l.flags.testBit 6 then 0x101 else 0x100
      paths := [(0, { laneSet := all, pc := ref, level := if l.flags.testBit 16 then .super else .user, stamp := now, view := view })] }
  let st := (List.range 3).foldl (fun a e => a.poke (253 + e) (groupLanes e) fun _ => 1) st
  let st := load st 0 0 fun ln => BitVec.ofNat 32 (96 * idx + ln)
  let st := load st 1 1 fun _ => BitVec.ofNat 32 idx
  let st := load st 2 2 fun _ => BitVec.ofNat 32 k.coords.1
  let st := load st 3 3 fun _ => BitVec.ofNat 32 k.coords.2.1
  let st := load st 4 4 fun _ => BitVec.ofNat 32 k.coords.2.2
  let st := load st 5 5 fun _ => BitVec.ofNat 32 c
  let st := load (load st 6 6 fun _ => lo32 l.args) 6 7 fun _ => hi32 l.args
  load st 7 8 fun _ => BitVec.ofNat 32 pt

/-- Zero `n` bytes of memory from a cell key, with the copies of its lines in the L1 of a cluster. -/
def State.zeroCells (s : State) (c part key n : Nat) : State :=
  let in_ := fun (k : Nat) => decide (key ≤ k) && decide (k < key + n)
  let line := fun (l : Nat) => decide (lineOf key ≤ l) && decide (l * 128 < key + n)
  let s := (((s.mem.filter fun e => in_ e.1).map fun e => lineOf e.1).eraseDups).foldl
    (fun a l => a.logLine (some part) (l * 128)) s
  { s with mem := s.mem.filter fun e => !in_ e.1, poison := s.poison.filter fun k => !in_ k }.modCluster c fun x =>
    { x with l1 := x.l1.filter fun e => !line e.1, uo := x.uo.filter fun e => !line e.1 }

/-- The private memory of new strands is zero (R19, R172): what a range of addresses reaches on SPRIV pages (log entry 102). -/
def State.zeroPrivate (s : State) (c key lo n : Nat) : State :=
  let lo := lo % 2 ^ 57
  ((s.leaves key lo n).filter fun x => x.spriv && x.loc != 2).foldl
    (fun a x =>
      let b := max lo x.vbase
      a.zeroCells c (key / 16) (x.key b) (min (lo + n) (x.vbase + 2 ^ x.size) - b)) s

/-- Place a skein of a launch on a cluster. -/
def State.placeSkein (s : State) (n : Nat) (l : Launch) (c index : Nat) (point : Option (Nat × Nat × Nat)) : State :=
  let num := s.newSkein c
  let key := c * 4096 + num
  let banks := if l.fullA.2.1 = 0 then [] else
    ((s.cluster c).banks.zipIdx.filter fun b => b.1.mode == .scratch && b.1.next.isNone).map (·.2)
  let k : Skein :=
    { launch := n, index := index, coords := if point.isSome then (0, 0, 0) else l.coords index, point := point, part := l.part
      ctx := l.ctx, cls := l.cls, strands := l.nStrands, granted := l.proA == l.fullA, pro := l.proA, full := l.fullA
      banks := banks, bars := l.bars.map fun b => { dflt := b } }
  let s : State := { s with skeins := tset s.skeins key k }
  let priv := s.privBase (key * 16)
  let s := (s.zeroPrivate c (ctxKey l.part l.ctx) priv.1 (l.nStrands * priv.2)).refresh c
  let s := s.modCluster c fun x => { x with nextSkein := (num + 1) % 4096 }
  let s := (List.range l.nStrands).foldl
    (fun a i =>
      let st := newStrand l k c i (a.spindleFor c) a.cycle a.viewNow
      let a := { a with strands := tset a.strands (key * 16 + i) st }
      match tget? st.paths 0 with
      | some f => a.packet (mkFib (key * 16 + i) 0) 5 (BitVec.ofNat 8 0 :: bytesOfNat 8 f.pc.toNat ++ lanesBytes f.laneSet)
      | none => a) s
  s.count c 0x34 1

/-- The unit of a domain that holds a cluster. -/
def domainUnit (d c : Nat) : Nat := if d = 3 then clusterQuad c else if d = 4 then clusterDie c else 0

/-- The instance of level `k` to which a skein belongs, by its coordinates at levels `k` and above (R285). -/
def Launch.instanceOf (l : Launch) (k index : Nat) : Nat :=
  let below := (List.range (k - 3)).foldl
    (fun a j =>
      let e := levelExt (l.level (3 + j))
      (a.1 * e.1, a.2.1 * e.2.1, a.2.2 * e.2.2)) (1, 1, 1)
  let xyz := l.coords index
  let ext := l.extents
  xyz.1 / below.1 + ext.1 * (xyz.2.1 / below.2.1 + ext.2.1 * (xyz.2.2 / below.2.2))

/-- Levels of a launch. -/
def Launch.levelNums (l : Launch) : List Nat := (List.range (l.levels - 3)).map (3 + ·)

/-- The unit to which a skein's instance of a level is bound. -/
def Launch.boundTo (l : Launch) (k index : Nat) : Option Nat :=
  (l.binds.find? fun b => b.1 == k && b.2.1 == l.instanceOf k index).map (·.2.2)

/-- The lowest-numbered cluster in the bound units that can admit a skein (R286). -/
def State.clusterFor (s : State) (l : Launch) (index : Option Nat) : Option Nat :=
  (s.clustersOf l.part).find? fun c =>
    s.canAdmit c l.proA l.fullA l.nStrands &&
      match index with
      | none => true
      | some i => l.levelNums.all fun k =>
        ((l.boundTo k i).map fun u => u == domainUnit (bits (l.level k) 48 4) c).getD true

/-- Bind the levels of a skein that are not bound to the units of a cluster. -/
def Launch.bind (l : Launch) (index c : Nat) : Launch :=
  { l with binds := l.binds ++ (l.levelNums.filter fun k => (l.boundTo k index).isNone).map fun k =>
      (k, l.instanceOf k index, domainUnit (bits (l.level k) 48 4) c) }

/-- Whether skeins of a launch may start: its context is switched in and not asked to leave, its partition is not stopped, no saved
skein of the partition waits to be restored, and no other launch of the partition is being measured (R295, R328, R335, R447). -/
def State.mayStart (s : State) (n : Nat) (l : Launch) : Bool :=
  (s.ctx l.ctxKey).pre == .in_ && (s.part l.part).halted.isNone &&
    !(s.skeins.any fun e => e.2.part == l.part && e.2.saved && (s.ctx (ctxKey e.2.part e.2.ctx)).pre == .in_) &&
    (((s.part l.part).mrLaunch).map fun m => m == n).getD true

/-- Whether a launch has a skein to be placed. -/
def Launch.toPlace (l : Launch) : Bool :=
  l.held.isNone && match l.frontier with
    | some fr => fr.inflight.any fun p => p.at_ == .waiting
    | none => decide (l.placed < l.total)

/-- Entries that a partition holds of the placement list of a die (R292): one for each launch of it with skeins to be placed, on the die
of its lowest cluster (log entry 103). -/
def State.placingOf (s : State) (d p : Nat) : Nat :=
  if s.frontierDie p == d then (s.launches.filter fun e => e.2.part == p && e.2.listed).length else 0

/-- Launches take entries of a die's placement list, the oldest first, and give them back (R292). -/
def State.placeList (s : State) (d : Nat) : State :=
  s.launches.foldl
    (fun a e =>
      if s.frontierDie e.2.part != d || e.2.listed == e.2.toPlace then a
      else if e.2.listed then a.modLaunch e.1 fun l => { l with listed := false }
      else if a.poolTakes 1 d 32 e.2.part (a.placingOf d) then a.modLaunch e.1 fun l => { l with listed := true }
      else a) s

/-- Place the next skein of a launch, where some cluster can admit it. -/
def State.placeNext (s : State) (n : Nat) (l : Launch) : Option State :=
  if !s.mayStart n l || !l.listed || l.held.isSome then none
  else
    match l.frontier with
    | some fr =>
      (fr.inflight.find? fun p => p.at_ == .waiting).bind fun p =>
        (s.clusterFor l none).map fun c =>
          let key := c * 4096 + s.newSkein c
          let s := s.placeSkein n l c p.line (some (p.p0, p.line % fr.d1, p.line / fr.d1))
          s.modLaunch n fun l =>
            { l with frontier := l.frontier.map fun f =>
                { f with inflight := f.inflight.map fun x => if x == p then { x with at_ := .placed key } else x } }
    | none =>
      if l.total ≤ l.placed then none
      else
        (s.clusterFor l (some l.placed)).map fun c =>
          (s.placeSkein n l c l.placed none).modLaunch n fun l => { l.bind l.placed c with placed := l.placed + 1 }

/-- The launches of a partition in the distributor's order: class, then acceptance (R286). -/
def State.launchOrder (s : State) (part : Nat) : List (Nat × Launch) :=
  let ls := s.launches.filter fun e => e.2.part == part
  (List.range 4).flatMap fun c => ls.filter fun e => e.2.cls == c

/-- SKEIN_PLACE (R286, R292): the next skein that can be placed is. -/
def execSkeinPlace (part : Nat) (s : State) : Host.Outcome State Fault Refusal :=
  let d := s.frontierDie part
  let s := s.placeList d
  .next ((((s.launchOrder part).findSome? fun e => s.placeNext e.1 e.2).getD s).placeList d)

/-- POINT_COMPLETE (R306): a point whose skein has ended leaves the list, its line's height advances, and what can fire does. -/
def execPointComplete (sk : Nat) (s : State) : Host.Outcome State Fault Refusal :=
  let hit := s.launches.findSome? fun e =>
    e.2.frontier.bind fun fr => (fr.inflight.find? fun p => p.at_ == .ended sk).map fun p => (e.1, p)
  match hit with
  | none => .next s
  | some (n, p) =>
    let s := s.modLaunch n fun l =>
      { l with
        ended := l.ended + 1
        frontier := l.frontier.map fun f => { f with inflight := f.inflight.filter fun x => x != p } }
    .next (((s.setHeight n p.line (p.p0 + 1)).fire n).tryComplete n)

/-- Fibres that wait for a walk are ready: those of a list, and those that found the miss table full. -/
def State.readyWalks (s : State) (c : Nat) (ks : List Nat) : State :=
  let held := (s.cluster c).misses.flatMap (·.fibs)
  s.allFibs.foldl
    (fun a f =>
      if fibCluster f.1 == c && f.2.wait == .walk && f.2.state == .parked && (ks.contains f.1 || !held.contains f.1) then a.ready f.1
      else a) s

/-- Requests for an entry of the launch list are taken in, oldest first (R292). -/
def State.frontServe (s : State) : Nat → State
  | 0 => s
  | fuel + 1 =>
    match s.frontNext with
    | some (p, true) => (s.acceptDevice p).frontServe fuel
    | some (p, false) => (s.acceptHost p).frontServe fuel
    | none => s

/-- POOL_ENTRY_GRANT (R292): the waiting requests of a pool are tested again, oldest first. -/
def execPoolEntryGrant (unit loc : Nat) (s : State) : Host.Outcome State Fault Refusal :=
  if unit = 0 then .next (s.frontServe 512)
  else if unit = 1 then .next (s.placeList loc)
  else if unit = 2 then .next (s.requestServe loc)
  else if unit = 4 then
    let d := s.die loc
    let may := fun (e : PrqEntry) => s.poolTakes 4 loc 32 e.part fun p => (d.prq.filter (·.part == p)).length
    match d.prqWait.find? may with
    | some e =>
      let s := s.modDie loc fun x => { x with prq := x.prq ++ [e], prqWait := x.prqWait.erase e }
      .next (if e.cluster < 192 then s.readyWalks e.cluster [] else s)
    | none => .next s
  else if unit = 5 then
    match (s.die loc).pushes.find? fun p => s.pushMay loc [] p with
    | some p => execTaskPushAccept p.fib s
    | none => .next s
  else if unit = 6 then
    .next ((s.launches.foldl (fun a e => if s.frontierDie e.2.part == loc then a.askPoints e.1 else a) s).firePoints loc 4097)
  else .next s

end Sys2Proof.Machine
end

