-- ==== Sys2Proof/Machine/Matrix.lean ====
section
/-! DEFINITION. Matrix instructions, opcodes 0xC0 to 0xCC (chapter 13): the checks at issue, the matrix queue, what an operation
does when it is performed, and batches. -/

namespace Sys2Proof.Machine

/-! ### Arithmetic (R353 to R357) -/

/-- Depth K by element bits (Table 13.1). -/
def mxDepth (e : Nat) : Nat := 3072 / e

/-- Element `i` of a packed row (R348). -/
def rowElem (e : Nat) (row : Nat) (i : Nat) : Nat := row / 2 ^ (e * i) % 2 ^ e

/-- A NaN code of an operand sets no NV by itself (R353). -/
def quiet (v : Val) : Val := if v.isNan then .nan false else v

/-- Bits of MX_FLAGS (Table 13.8) from flags laid out as in vfst. -/
def mxFlagWord (f : Flags) : Word := (f &&& 1) ||| ((f >>> 1) &&& 0x1E)

/-- One output word of an MMA from the element codes of the terms (R353, R354). -/
def mmaWord (mode : MmaMode) (ta tb : QType) (old : Word) (ps : List (Nat × Nat)) : Word × Flags :=
  match mode with
  | .facc =>
    let r := dotRnd fmt32 (ps.map fun p => (quiet (ta.val p.1), quiet (tb.val p.2))) [quiet (val32 old)] .rne
    (BitVec.ofNat 32 r.1, r.2)
  | .part =>
    let r := dotRnd fmt32 (ps.map fun p => (quiet (ta.val p.1), quiet (tb.val p.2))) [] .rne
    (BitVec.ofNat 32 r.1, r.2)
  | m =>
    let iv := fun (t : QType) (x : Nat) => match t with
      | .int sg w => val sg w x
      | .flt _ => 0
    let v := old.toInt + ps.foldl (fun a p => a + iv ta p.1 * iv tb p.2) 0
    if m = .sat then
      let r := satW true 32 v
      (BitVec.ofNat 32 r.1, if r.2 then fSAT else 0)
    else (BitVec.ofInt 32 v, 0)

/-- Whether types and mode go together (R353, R354, R363 step 1). -/
def mxTypesOk (mode : MmaMode) (ta tb : Nat) : Bool :=
  match qType? ta, qType? tb with
  | some a, some b =>
    decide (a.bits = b.bits) &&
      (match a, b with
       | .flt _, .flt _ => mode == .facc || mode == .part
       | .int .., .int .. => mode == .wrap || mode == .sat
       | _, _ => false)
  | _, _ => false

/-- MSACC on one word (R372). -/
def msaccWord (d a : Word) (x y : Nat) : Word × Flags :=
  let va := val32 a
  let vx := fmtBf.val x
  let vy := fmtBf.val y
  let p := va.mul vx
  let q := p.1.mul vy
  let r := dotRnd fmt32 [(q.1, .fin false 1)] [val32 d] .rne
  (BitVec.ofNat 32 r.1, r.2 ||| p.2 ||| q.2 ||| sigNV [va, vx, vy])

/-- The rank of an element for MCOMP (R357): NaN, then infinity, then the magnitude. -/
def mcompLess (t : QType) (a b : Nat) : Bool :=
  let rank := fun (v : Val) => match v with
    | .nan _ => (2, (0 : ℚ))
    | .inf _ => (1, 0)
    | .fin _ q => (0, |q|)
  let x := rank (t.val a)
  let y := rank (t.val b)
  decide (x.1 < y.1) || (x.1 == y.1 && decide (x.2 < y.2))

/-- The first index of the largest magnitude among those not excluded (R357). -/
def mcompMax (t : QType) (es : List Nat) (skip : Option Nat) : Nat :=
  (((List.range 4).filter fun i => skip != some i).foldl
    (fun (a : Option Nat) i =>
      match a with
      | none => some i
      | some j => if mcompLess t (es.getD j 0) (es.getD i 0) then some i else a) none).getD 0

/-- The two kept indices of a group, ascending (R357). -/
def mcompKeep (t : QType) (es : List Nat) : Nat × Nat :=
  let i := mcompMax t es none
  let j := mcompMax t es (some i)
  (min i j, max i j)

/-! ### Accumulator formats (Table 13.10) -/

/-- Bytes of an element of a format. -/
def accSize (fmt : Nat) : Nat := if fmt = 0 then 4 else 2

/-- An accumulator word to memory, with its flags. -/
def accOut (fmt : Nat) (w : Word) : Nat × Flags :=
  if fmt = 0 then (w.toNat, 0)
  else if fmt = 1 then cvtRnd fmtBf (val32 w) .rne
  else if fmt = 2 then cvtRnd fmt16 (val32 w) .rne
  else
    let r := satW true 16 w.toInt
    (r.1, if r.2 then fSAT else 0)

/-- A word of memory to an accumulator. -/
def accIn (fmt : Nat) (x : Nat) : Word :=
  if fmt = 0 then BitVec.ofNat 32 x
  else if fmt = 1 then BitVec.ofNat 32 (fmt32.rnd (fmtBf.val x) .rne false).1
  else if fmt = 2 then BitVec.ofNat 32 (fmt32.rnd (fmt16.val x) .rne false).1
  else (BitVec.ofNat 16 x).signExtend 32

/-! ### Accumulators (R350, R351) -/

/-- Slots a skein may hold (R293, R294). -/
def Skein.accLimit (k : Skein) : Nat := if k.granted then k.full.2.2.1 else k.pro.2.2.1

/-- The slot a name is bound to. -/
def State.slotOf (s : State) (sk a : Nat) : Option Nat := (s.skein? sk).bind fun k => tget? k.accs a

/-- Bind a name (R350): none while it must wait. -/
def State.bindAcc (s : State) (sk a : Nat) : Option State :=
  match s.slotOf sk a, s.skein? sk with
  | some _, _ => some s
  | none, some k =>
    match (s.cluster (sk / 4096)).accFree with
    | n :: rest =>
      if k.accs.length < k.accLimit then
        some ((s.modCluster (sk / 4096) fun c => { c with accFree := rest, accMem := tset c.accMem n [] }).modSkein sk fun k =>
          { k with accs := tset k.accs a n })
      else none
    | [] => none
  | none, none => none

/-- Row `l` of a bound accumulator. -/
def State.accRow (s : State) (sk a l : Nat) : List Word :=
  match s.slotOf sk a with
  | some n => ((tget? (s.cluster (sk / 4096)).accMem n).bind fun r => tget? r l).getD (List.replicate 64 0)
  | none => List.replicate 64 0

def State.setAccRow (s : State) (sk a l : Nat) (ws : List Word) : State :=
  match s.slotOf sk a with
  | some n => s.modCluster (sk / 4096) fun c => { c with accMem := tset c.accMem n (tset ((tget? c.accMem n).getD []) l ws) }
  | none => s

/-! ### Operand bytes (R349, R364) -/

/-- The bytes of a span of one row: translated once for each 4 KiB block. -/
def State.mxSpan (s : State) (strand : Nat) (walks : List (Nat × Cause)) (st : Bool) (a n : Nat) : Nat → Except (Cause × Nat) (List ByteAt)
  | 0 => .ok []
  | fuel + 1 =>
    if n = 0 then .ok []
    else
      let m := min n (4096 - a % 4096)
      match s.engByte strand walks st a 0, s.mxSpan strand walks st (a + m) (n - m) fuel with
      | .error e, _ => .error e
      | .ok _, .error e => .error e
      | .ok b, .ok rest =>
        match b.loc with
        | .mem key => .ok ((List.range m).map (fun j => { b with loc := .mem (key + j) }) ++ rest)
        | .scr .. =>
          match s.engBytes strand walks st a 0 m with
          | .ok bs => .ok (bs ++ rest)
          | .error e => .error e

/-- Rows of `n` bytes at a stride that an operation reads or writes, by row number. -/
def State.mxRows (s : State) (o : MxOp) (st : Bool) (base stride n : Nat) (rows : List Nat) :
    Except (Cause × Nat) (List (Nat × List ByteAt)) :=
  allOk (rows.map fun l =>
    match s.mxSpan o.strand o.walks st (base + l * stride) n (n / 4096 + 2) with
    | .ok bs => .ok (l, bs)
    | .error e => .error e)

/-- The cause of an abort from the failure of an access (R364). -/
def mxCause (c : Cause) : Cause :=
  match c with
  | .ldXlate | .stXlate => .mxOperandXlate
  | .walkError => .walkError
  | _ => .mxOperandPerm

/-- A byte an operation reads, at its home; behind an uncorrectable error it is a free value (log entry 9). -/
def State.mxByte (s : State) (b : ByteAt) (i : Nat) : Byte :=
  if (s.badByte b).isSome then (Config.poisonWord (s.freeCtr + i)).setWidth 8 else s.locRead b.loc

/-- The bytes of a row as a number. -/
def State.mxRow (s : State) (bs : List ByteAt) : Nat := natOfBytes (bs.zipIdx.map fun b => s.mxByte b.1 b.2)

/-- The rows as numbers. -/
def State.mxVals (s : State) (rs : List (Nat × List ByteAt)) : Table Nat := rs.map fun r => (r.1, s.mxRow r.2)

/-- Log the shared lines an operation reads, each once (R444 kind 2): its operands by base, stride and rows. -/
def State.mxLog (s : State) (o : MxOp) (xs : List (Nat × Nat × List (Nat × List ByteAt))) : State :=
  if !s.launchFlag (mkFib o.strand 0) 5 then s
  else
    (xs.foldl
      (fun (m : State × List Nat) x =>
        x.2.2.foldl (fun (m : State × List Nat) r => m.1.logLines o.strand m.2 (x.1 + r.1 * x.2.1) 0 r.2) m) (s, [])).1

/-- OR flags into MX_FLAGS of the issuing strand (R355). -/
def State.mxFlag (s : State) (strand : Nat) (f : Flags) : State :=
  s.modStrand strand fun st => { st with mxFlags := st.mxFlags ||| mxFlagWord f }

/-- How the performance of an operation ends. -/
inductive MxRes where
  | done (s : State)
  | wait
  /-- It aborts with a cause and an address; `write` says that the translation of a store failed. -/
  | abort (c : Cause) (addr : Nat) (write : Bool := false)

/-- The abort that a failed access makes (R364). -/
def MxRes.ofFail (x : Cause × Nat) : MxRes := .abort (mxCause x.1) x.2 (x.1 == .stXlate)

/-- 128-byte units that the tile fetch unit reads for an operand: from scratch and from L2 (R430; log entry 30). -/
def tileUnits (rs : List (Nat × List ByteAt)) : Nat × Nat :=
  let bs := rs.flatMap (·.2)
  (((bs.filterMap fun b => match b.loc with
      | .scr _ o => some (o / 128)
      | .mem _ => none).eraseDups).length,
   ((bs.filterMap fun b => match b.loc with
      | .mem k => some (lineOf k)
      | .scr .. => none).eraseDups).length)

/-- Count the units of the operands of an operation. -/
def State.countTiles (s : State) (strand : Nat) (ops : List (List (Nat × List ByteAt))) : State :=
  let n := ops.foldl (fun (a : Nat × Nat) rs => (a.1 + (tileUnits rs).1, a.2 + (tileUnits rs).2)) (0, 0)
  (s.count (strandCluster strand) 0x22 n.1).count (strandCluster strand) 0x23 n.2

/-- Bind the target of an operation, then go on. -/
def State.withAcc (s : State) (sk a : Nat) (k : State → State) : MxRes :=
  match s.bindAcc sk a with
  | some s => .done (k s)
  | none => .wait

/-- Change the rows of a row set of an accumulator, word by word, and OR the flags. -/
def State.accUpdate (s : State) (o : MxOp) (a : Nat) (f : Nat → Nat → Word → Word × Flags) : State :=
  (lanesIn o.rows).foldl
    (fun x l =>
      let r := (x.accRow (strandSkein o.strand) a l).zipIdx.map fun w => f l w.2 w.1
      (x.setAccRow (strandSkein o.strand) a l (r.map (·.1))).mxFlag o.strand (r.foldl (fun y w => y ||| w.2) 0)) s

/-- MMA and MMAS (R370). -/
def State.mxMma (s : State) (o : MxOp) (mode : MmaMode) (ta tb acc pa pb sa sb : Nat) (info : Option Nat) : MxRes :=
  let e := ((qType? ta).map (·.bits)).getD 8
  let k := mxDepth e
  let qa := (qType? ta).getD (.int false 8)
  let qb := (qType? tb).getD (.int false 8)
  let arow := if info.isSome then 768 else 384
  match s.mxRows o false pa sa arow (lanesIn o.rows), s.mxRows o false pb sb (8 * e) (List.range k),
      s.mxRows o false (pb + info.getD 0) 32 32 (if info.isSome then List.range (k / 2) else []) with
  | .error x, _, _ => .ofFail x
  | .ok _, .error x, _ => .ofFail x
  | .ok _, .ok _, .error x => .ofFail x
  | .ok ra, .ok rb, .ok rm =>
    let a := s.mxVals ra
    let b := (s.mxVals rb).map (·.2)
    let m := (s.mxVals rm).map (·.2)
    let nib := fun g n => rowElem 4 (m.getD g 0) n
    let bad := (List.range m.length).any fun g => (List.range 64).any fun n => decide (nib g n / 4 % 4 ≤ nib g n % 4)
    if bad then .abort .mxMeta 0
    else
      s.withAcc (strandSkein o.strand) acc fun s =>
        let s := s.mxLog o [(pa, sa, ra), (pb, sb, rb), (pb + info.getD 0, 32, rm)]
        let term := fun (row n j : Nat) =>
          let i := match info with
            | none => j
            | some _ => 4 * (j / 2) + (if j % 2 = 0 then nib (j / 2) n % 4 else nib (j / 2) n / 4 % 4)
          (rowElem e row i, rowElem e (b.getD j 0) n)
        ((s.accUpdate o acc fun l n w =>
          mmaWord mode qa qb w ((List.range k).map (term ((tget? a l).getD 0) n))).countTiles o.strand [ra, rb, rm]).count
          (strandCluster o.strand) 0x21 1

/-- Write rows that have been checked, for the partition of a strand. -/
def State.mxWrite (s : State) (strand : Nat) (rs : List (Nat × List ByteAt)) (v : Nat → Nat) : State :=
  rs.foldl
    (fun a r =>
      a.locWrites (some (a.strandPart strand)) ((r.2.zip (bytesOfNat r.2.length (v r.1))).map fun b => (b.1.loc, b.2))) s

/-- A row packed from elements of `e` bits. -/
def packRow (e : Nat) (es : List Nat) : Nat := es.foldr (fun x a => x % 2 ^ e + 2 ^ e * a) 0

/-- MCOMP (R371). -/
def State.mxMcomp (s : State) (o : MxOp) (t dst src ss ds info : Nat) : MxRes :=
  let q := (qType? t).getD (.int false 8)
  let e := q.bits
  let k := mxDepth e
  match s.mxRows o false src ss (8 * e) (List.range (2 * k)), s.mxRows o true dst ds (8 * e) (List.range k),
      s.mxRows o true (dst + info) 32 32 (List.range (k / 2)) with
  | .error x, _, _ => .ofFail x
  | .ok _, .error x, _ => .ofFail x
  | .ok _, .ok _, .error x => .ofFail x
  | .ok rs, .ok rd, .ok rm =>
    let a := (s.mxVals rs).map (·.2)
    let s := (s.mxLog o [(src, ss, rs)]).countTiles o.strand [rs]
    let group := fun g n => (List.range 4).map fun i => rowElem e (a.getD (4 * g + i) 0) n
    let keep := fun g n => mcompKeep q (group g n)
    let s := s.mxWrite o.strand rd fun j =>
      packRow e ((List.range 64).map fun n =>
        let p := keep (j / 2) n
        (group (j / 2) n).getD (if j % 2 = 0 then p.1 else p.2) 0)
    .done (s.mxWrite o.strand rm fun g => packRow 4 ((List.range 64).map fun n => (keep g n).1 + 4 * (keep g n).2))

/-- MSACC (R372). -/
def State.mxMsacc (s : State) (o : MxOp) (acc part oa ob : Nat) : MxRes :=
  let sk := strandSkein o.strand
  if (s.slotOf sk part).isNone then .abort .mxAccUnmapped part
  else if o.rows == 0 then .done s
  else
    match s.mxRows o false oa 2 2 (lanesIn o.rows), s.mxRows o false ob 2 2 (List.range 64) with
    | .error x, _ => .ofFail x
    | .ok _, .error x => .ofFail x
    | .ok ra, .ok rb =>
      let a := s.mxVals ra
      let b := s.mxVals rb
      s.withAcc sk acc fun s =>
        let src := s
        (s.countTiles o.strand [ra, rb]).accUpdate o acc fun l n w =>
          msaccWord w ((src.accRow sk part l).getD n 0) ((tget? a l).getD 0) ((tget? b n).getD 0)

/-- MRDA, MSTA, MWRA and MLDA (R376). -/
def State.mxMove (s : State) (o : MxOp) (out : Bool) (acc fmt base stride : Nat) : MxRes :=
  let sk := strandSkein o.strand
  let z := accSize fmt
  match s.mxRows o out base stride (64 * z) (lanesIn o.rows) with
  | .error x => .ofFail x
  | .ok rs =>
    if out then
      if (s.slotOf sk acc).isNone then .abort .mxAccUnmapped acc
      else
        let row := fun l => (s.accRow sk acc l).map (accOut fmt)
        let s' := s.mxWrite o.strand rs fun l => packRow (8 * z) ((row l).map (·.1))
        .done (s'.mxFlag o.strand ((lanesIn o.rows).foldl (fun a l => (row l).foldl (fun b w => b ||| w.2) a) 0))
    else if o.rows == 0 then .done s
    else
      let v := s.mxVals rs
      s.withAcc sk acc fun s =>
        ((s.mxLog o [(base, stride, rs)]).countTiles o.strand [rs]).accUpdate o acc fun l n _ => (accIn fmt (rowElem (8 * z) ((tget? v l).getD 0) n), 0)

/-- The whole effect of an operation, or none (R364). -/
def State.mxEffect (s : State) (o : MxOp) : MxRes :=
  let sk := strandSkein o.strand
  match o.kind with
  | .mma mode ta tb acc pa pb sa sb info => if o.rows == 0 then .done s else s.mxMma o mode ta tb acc pa pb sa sb info
  | .mcomp t dst src ss ds info => if o.rows == 0 then .done s else s.mxMcomp o t dst src ss ds info
  | .msacc acc part oa ob => s.mxMsacc o acc part oa ob
  | .mzero acc => if o.rows == 0 then .done s else s.withAcc sk acc fun s => s.accUpdate o acc fun _ _ _ => (0, 0)
  | .mrel acc => .done (s.unbind sk acc)
  | .move out acc fmt base stride => s.mxMove o out acc fmt base stride

/-! ### The queue (R358, R364) -/

/-- Accumulator names an operation names. -/
def MxKind.accs : MxKind → List Nat
  | .mma _ _ _ acc _ _ _ _ _ => [acc]
  | .mcomp .. => []
  | .msacc acc part _ _ => [acc, part]
  | .mzero acc | .mrel acc => [acc]
  | .move _ acc _ _ _ => [acc]

/-- The name an operation binds. -/
def MxKind.binds : MxKind → Option Nat
  | .mma _ _ _ acc _ _ _ _ _ | .msacc acc _ _ _ | .mzero acc => some acc
  | .move out acc _ _ _ => if out then none else some acc
  | _ => none

/-- Whether a strand's operations are held (R364). -/
def State.mxHeld (s : State) (strand : Nat) : Bool :=
  ((s.strand? strand).map fun st => st.mxOpen.stopped || st.batches.any (·.stopped)).getD false

/-- Whether the order of R358 places one operation of a queue before a later one. -/
def MxOp.before (p o : MxOp) : Bool :=
  p.strand == o.strand || (strandSkein p.strand == strandSkein o.strand && p.kind.accs.any o.kind.accs.contains)

/-- Whether operation `i` of a queue may begin (R358): its strand is not held, and every operation placed before it has completed. -/
def State.mxMay (s : State) (c i : Nat) : Bool :=
  match (s.cluster c).mxq[i]? with
  | none => false
  | some o => !s.mxHeld o.strand && ((s.cluster c).mxq.take i).all fun p => !p.before o

/-- Whether an operation is an MMA or MMAS. -/
def MxKind.isMma : MxKind → Bool
  | .mma .. => true
  | _ => false

/-- Whether the operand reads of operation `i` may begin (R358): those of an MMA also while the one before it of its strand has begun. -/
def State.mxMayFetch (s : State) (c i : Nat) : Bool :=
  match (s.cluster c).mxq[i]? with
  | none => false
  | some o =>
    !s.mxHeld o.strand &&
      (match ((s.cluster c).mxq.take i).filter fun p => p.before o with
       | [] => true
       | [p] => o.kind.isMma && p.kind.isMma && p.strand == o.strand && p.begun
       | _ => false)

/-- An operation of a queue replaced. -/
def State.mxSet (s : State) (c i : Nat) (o : MxOp) : State := s.modCluster c fun x => { x with mxq := lset x.mxq i o }

/-- An operation as one that has not begun: what it fetched and pinned ahead is given up. -/
def MxOp.unbegun (o : MxOp) : MxOp := { o with bindAt := none, begun := false, pins := 0, pinAt := none, walks := [] }

/-- An operation aborts: its batch stops, and the strand's later operations are held as ones that have not begun (R364, R366, R367). -/
def State.mxAbort (s : State) (c i : Nat) (o : MxOp) (cause : Cause) (addr : Nat) (write : Bool := false) : State :=
  let s := s.mxSet c i { o.unbegun with aborted := true }
  let s := s.modCluster c fun x => { x with mxq := x.mxq.map fun p => if p.strand == o.strand then p.unbegun else p }
  let s := s.modStrand o.strand fun st =>
    st.modBatch o.batch fun b => { b with stopped := true, reissue := false, status := some (cause, BitVec.ofNat 64 addr, o.idx) }
  let key := s.strandCtx o.strand
  let s := if cause = .mxOperandXlate then
      s.pageRequest (clusterDie c)
        { part := key / 16, ctx := key % 16, addr := BitVec.ofNat 64 addr, seq := 0, cluster := c, sid := 0xFFFF, path := 0xFF
          cause := cause, flags := if write then 1 else 0 }
    else s
  ((s.count c 0x25 1).mxServe o.strand).tryEndStrand o.strand

/-- An operation has completed: it leaves the queue, and its batch may be reported (R360). -/
def State.mxComplete (s : State) (c i : Nat) (o : MxOp) : State :=
  let s := s.modCluster c fun x => { x with mxq := x.mxq.eraseIdx i }
  let before := ((s.strand? o.strand).map fun st => st.unreported.length).getD 0
  let s := s.modStrand o.strand fun st => (st.modBatch o.batch fun b => { b with left := b.left - 1 }).reportBatches 64
  let after := ((s.strand? o.strand).map fun st => st.unreported.length).getD 0
  ((s.count c 0x24 (before - after)).mxServe o.strand).tryEndStrand o.strand

/-- The operands of an operation in memory or scratch: base, stride, bytes of a row, rows, and whether they are written. -/
def MxOp.operands (o : MxOp) : List (Nat × Nat × Nat × List Nat × Bool) :=
  if o.rows == 0 then []
  else
    match o.kind with
    | .mma _ ta _ _ pa pb sa sb info =>
      let e := ((qType? ta).map (·.bits)).getD 8
      [(pa, sa, if info.isSome then 768 else 384, lanesIn o.rows, false), (pb, sb, 8 * e, List.range (mxDepth e), false)] ++
        (match info with
         | some m => [(pb + m, 32, 32, List.range (mxDepth e / 2), false)]
         | none => [])
    | .mcomp t dst src ss ds info =>
      let e := ((qType? t).map (·.bits)).getD 8
      [(src, ss, 8 * e, List.range (2 * mxDepth e), false), (dst, ds, 8 * e, List.range (mxDepth e), true),
       (dst + info, 32, 32, List.range (mxDepth e / 2), true)]
    | .move out _ fmt base stride => [(base, stride, 64 * accSize fmt, lanesIn o.rows, out)]
    | _ => []

/-- The first page that an operation needs and has still to ask for (R179). -/
def State.mxMiss (s : State) (o : MxOp) : Option Nat :=
  o.operands.findSome? fun x => x.2.2.2.1.findSome? fun l =>
    (s.engMiss o.strand o.walks (x.1 + l * x.2.1) 0).orElse fun _ => s.engMiss o.strand o.walks (x.1 + l * x.2.1 + x.2.2.1 - 1) 0

/-- The lines, by virtual address, of an operation's global operands of which `p` holds, by whether they are written. -/
def MxOp.linesOf (o : MxOp) (p : Bool → Bool) : List Nat :=
  (o.operands.flatMap fun x =>
    if !p x.2.2.2.2 || x.1 / 2 ^ 56 == 0xFE then []
    else x.2.2.2.1.flatMap fun l =>
      let a := x.1 + l * x.2.1
      (List.range ((a + x.2.2.1 - 1) / 128 - a / 128 + 1)).map (a / 128 + ·)).eraseDups

/-- L2 lines that the tile fetch unit reads for an operation (R349). -/
def MxOp.lines (o : MxOp) : Nat :=
  match o.kind with
  | .mma .. | .mcomp .. => (o.linesOf (!·)).length
  | _ => 0

/-- Lines that an operation accesses at their home slices when it is performed: those it writes, and those a move reads. -/
def MxOp.homeLines (o : MxOp) : List Nat :=
  match o.kind with
  | .mma .. | .mcomp .. => o.linesOf (·)
  | _ => o.linesOf fun _ => true

/-- The lines go to their home slices (R185). -/
def State.mxHome (s : State) (o : MxOp) (lines : List Nat) : State :=
  lines.foldl
    (fun a n =>
      match a.engByte o.strand o.walks false (n * 128) 0 with
      | .ok b => a.goHomeBytes (strandCluster o.strand) [b]
      | .error _ => a) s

/-- Lines pinned by the operations of a cluster (R349, Table 13.7). -/
def Cluster.pinned (c : Cluster) : Nat := (c.mxq.map (·.pins)).foldl (· + ·) 0

/-- Whether an operation must wait in bind (R350). -/
def State.bindWaits (s : State) (o : MxOp) : Bool :=
  o.rows != 0 && (match o.kind.binds with
    | some a => (s.bindAcc (strandSkein o.strand) a).isNone
    | none => false)

/-- An operation begins: it asks for its translations, and pins the lines it fetches, at most 512 in the cluster (R349); the time it takes
is open (log entry 40). None once it has all that it needs. -/
def State.mxBegin (s : State) (c i : Nat) (o : MxOp) : Option State :=
  match s.mxMiss o with
  | some va =>
    some ((if o.begun then s else s.mxSet c i { o with begun := true }).enterUnit c (s.strandCtx o.strand) va (.mx o.ord))
  | none =>
    if o.pins ≠ 0 ∨ o.lines = 0 ∨ s.bindWaits o then none
    else
      let free := 512 - (s.cluster c).pinned
      if free = 0 then some (s.mxSet c i { o with begun := true, pinAt := o.pinAt.orElse fun _ => some s.cycle })
      else
        let d := s.dueAt
        some ((d.2.mxHome o (o.linesOf (!·))).mxSet c i { o with begun := true, pins := min o.lines free, pinAt := none, due := d.1 })

/-- MATRIX_OP_PERFORM (R358, R364): operation `i` of a cluster's queue begins, and then is performed whole, waits in bind, or aborts. A
context at its halt begins none (R367). -/
def execMatrixOpPerform (c i : Nat) (s : State) : Host.Outcome State Fault Refusal :=
  match (s.cluster c).mxq[i]? with
  | some o =>
    if decide (s.cycle < o.due) || (!o.begun && o.bindAt.isNone && (s.ctx (s.strandCtx o.strand)).halting) || !s.mxMayFetch c i then .next s
    else
      match s.mxBegin c i o with
      | some s' => .next s'
      | none =>
        if !s.mxMay c i then .next s
        else
          match s.mxEffect o with
          | .done s => .next (({ s with freeCtr := s.freeCtr + 1 }.mxHome o o.homeLines).mxComplete c i o)
          | .wait => .next (s.mxSet c i { o with bindAt := o.bindAt.orElse fun _ => some s.cycle })
          | .abort cause addr w => .next (s.mxAbort c i o cause addr w)
  | none => .next s

/-- MX_PIN_TIMEOUT (R349): an operation whose fetch could pin no line for 2^20 cycles aborts. -/
def execMxPinTimeout (c i : Nat) (s : State) : Host.Outcome State Fault Refusal :=
  match (s.cluster c).mxq[i]? with
  | some o =>
    match o.pinAt with
    | some t => if s.mxMayFetch c i && decide (t + 2 ^ 20 ≤ s.cycle) then .next (s.mxAbort c i o .mxPinTimeout 0) else .next s
    | none => .next s
  | none => .next s

/-- MX_ACC_EXHAUSTED (R350): an operation that waited 2^20 cycles in bind aborts. -/
def execMxAccExhausted (c i : Nat) (s : State) : Host.Outcome State Fault Refusal :=
  match (s.cluster c).mxq[i]? with
  | some o =>
    match o.bindAt, o.kind.binds with
    | some t, some a =>
      if s.mxMay c i && decide (t + 2 ^ 20 ≤ s.cycle) then .next (s.mxAbort c i o .mxAccExhausted a) else .next s
    | _, _ => .next s
  | none => .next s

/-! ### Checks at issue (R363) -/

/-- An operand region: base, and offsets of its lowest byte and just above its highest; none where it has no byte. `scr` says that
the base is a scratch offset rather than a generic address. -/
structure Region where
  scr : Bool := false
  base : Nat
  span : Option (Nat × Nat)
  deriving DecidableEq, Repr

/-- The region of rows of `n` bytes at a stride. -/
def rowRegion (scr : Bool) (base stride n : Nat) (rows : List Nat) : Region where
  scr := scr
  base := base
  span := match rows.head?, rows.getLast? with
    | some a, some b => some (a * stride, b * stride + n)
    | _, _ => none

/-- The window of an address by bits [63:56] (Table 1.6): 0 the global space. -/
def windowOf (a : Nat) : Nat := if a / 2 ^ 56 = 0xFF then 0 else a / 2 ^ 56

/-- Step 3 of R363 for one region. -/
def Region.decodeCause (r : Region) : Option (Cause × Nat) :=
  match r.span with
  | none => none
  | some (x, y) =>
    if r.scr then none
    else
      let lo := r.base + x
      let hi := r.base + y - 1
      let bad := fun (a : Nat) => decide (2 ^ 64 ≤ a) || (a / 2 ^ 56 != 0xFD && a / 2 ^ 56 != 0xFE && !canonical a)
      if bad lo || bad hi || windowOf lo != windowOf hi then some (.noncanon, lo)
      else if windowOf lo = 0xFD ∨ windowOf lo = 0xFE ∧ (lo / 2 ^ 32 % 2 ^ 24 ≠ 0 ∨ hi / 2 ^ 32 % 2 ^ 24 ≠ 0) then
        some (.winRange, lo)
      else none

/-- Step 5 of R363 for one region: a scratch byte beyond the allotment. -/
def Region.scratchCause (r : Region) (size : Nat) : Option (Cause × Nat) :=
  match r.span with
  | none => none
  | some (x, y) =>
    let lo := r.base + x
    if r.scr then (if size < r.base + y then some (.scratchRange, 0xFE * 2 ^ 56 + lo % 2 ^ 32) else none)
    else if windowOf lo = 0xFE ∧ size < (r.base + y - 1) % 2 ^ 32 + 1 then some (.scratchRange, lo)
    else none

/-- Steps 2 to 5 of R363: the open batch, the regions, and the values that must be multiples. -/
def Ctx.mxCheck (c : Ctx) (s : State) (rs : List Region) (al : List (Nat × Nat)) : Option Trap :=
  let tr := fun (x : Cause × Nat) => ({ cause := x.1, addr := BitVec.ofNat 64 x.2 } : Trap)
  if 32 ≤ c.st.mxOpen.ops then some { cause := .mxBatchRange, addr := BitVec.ofNat 64 c.st.mxNext }
  else
    match rs.findSome? Region.decodeCause with
    | some x => some (tr x)
    | none =>
      match al.find? fun x => x.1 % x.2 != 0 with
      | some x => some (tr (.align, x.1))
      | none => (rs.findSome? fun r => r.scratchCause (((s.skein? c.skein).map (·.scratchBytes)).getD 0)).map tr

/-- Issue a matrix operation (R347, R358, R361, R363): it waits for an entry of the queue, is checked, leaves an escape record, and
joins the open batch. The fibre's earlier stores are performed first. -/
def Ctx.mxIssue (c : Ctx) (s : State) (types : Bool) (rs : List Region) (al : List (Nat × Nat)) (dst : DWord) (kind : MxKind) : Res :=
  if 128 ≤ (s.cluster c.cluster).mxq.length then .again (s.modFib c.k fun f => { f with beats := [] })
  else if !types then .trap { cause := .mxType, addr := BitVec.ofNat 64 (kind.accs.headD 0) }
  else
    match c.mxCheck s rs al with
    | some t => .trap t
    | none =>
      match c.escapeLow s dst with
      | .error t => .trap t
      | .ok s =>
        let s := s.drainStores c.k
        let d := s.dueAt
        let o : MxOp :=
          { strand := c.strand, batch := c.st.mxNext, idx := c.st.mxOpen.ops, rows := c.act, kind := kind, since := s.cycle, due := d.1 }
        let s := d.2.modCluster c.cluster fun x => { x with opCtr := x.opCtr + 1, mxq := x.mxq ++ [{ o with ord := x.opCtr }] }
        .next (s.modStrand c.strand fun st => { st with mxOpen := { st.mxOpen with ops := st.mxOpen.ops + 1, left := st.mxOpen.left + 1 } })

/-- Types of an MMA, its element bits, and its depth. -/
def mmaTypeA (f : X64) : Nat := (f.ext.w1.extractLsb' 0 8).toNat
def mmaTypeB (f : X64) : Nat := (f.ext.w1.extractLsb' 8 8).toNat
def mxBits (t : Nat) : Nat := ((qType? t).map (·.bits)).getD 8

/-- Strides in a C operand: bits [15:0] and [31:16]. -/
def strideLo (w : Word) : Nat := (w.extractLsb' 0 16).toNat
def strideHi (w : Word) : Nat := (w.extractLsb' 16 16).toNat

/-- MMA and MMAS at issue. -/
def Ctx.mmaIssue (c : Ctx) (s : State) (mode : MmaMode) (f : X64) (sparse : Bool) : Res :=
  let ta := mmaTypeA f
  let e := mxBits ta
  let pa := (c.rdPairLow f.a.toNat).toNat
  let pb := (c.rdPairLow f.b.toNat).toNat
  let w := c.rdLow f.c.toNat
  let info := if sparse then some (c.rdLow (f.c.toNat + 1)).toNat else none
  let k := mxDepth e
  c.mxIssue s (mxTypesOk mode ta (mmaTypeB f))
    ([rowRegion false pa (strideLo w) (if sparse then 768 else 384) (lanesIn c.act),
      rowRegion false pb (strideHi w) (8 * e) (List.range k)] ++
      (match info with
       | some m => [rowRegion false (pb + m) 32 32 (List.range (k / 2))]
       | none => []))
    [(pa, 4), (pb, 4), (strideLo w, 4), (strideHi w, 4), (info.getD 0, 4)] 0
    (.mma mode ta (mmaTypeB f) f.d.toNat pa pb (strideLo w) (strideHi w) info)

/-- MMA (R370). -/
def execMma (mode : MmaMode) (f : X64) (s : State) : Host.Outcome State Fault Refusal :=
  issue (.mma mode f) s fun c s => c.mmaIssue s mode f false

/-- MMAS (R370, R356). -/
def execMmas (mode : MmaMode) (f : X64) (s : State) : Host.Outcome State Fault Refusal :=
  issue (.mmas mode f) s fun c s => c.mmaIssue s mode f true

/-- MCOMP (R371). -/
def execMcomp (f : X64) (s : State) : Host.Outcome State Fault Refusal :=
  issue (.mcomp f) s fun c s =>
    let t := mmaTypeA f
    let e := mxBits t
    let k := mxDepth e
    let dst := (c.rdPairLow f.d.toNat).toNat
    let src := (c.rdPairLow f.a.toNat).toNat
    let w := c.rdLow f.c.toNat
    let info := (c.rdLow (f.c.toNat + 1)).toNat
    c.mxIssue s true
      (if c.act == 0 then [] else
        [rowRegion false src (strideLo w) (8 * e) (List.range (2 * k)), rowRegion false dst (strideHi w) (8 * e) (List.range k),
         rowRegion false (dst + info) 32 32 (List.range (k / 2))])
      [(dst, 4), (src, 4), (strideLo w, 4), (strideHi w, 4), (info, 4)] (BitVec.ofNat 64 dst)
      (.mcomp t dst src (strideLo w) (strideHi w) info)

/-- The generic address of a scratch offset. -/
def scrGeneric (o : Nat) : Nat := 0xFE * 2 ^ 56 + o

/-- MSACC (R372). -/
def execMsacc (f : X64) (s : State) : Host.Outcome State Fault Refusal :=
  issue (.msacc f) s fun c s =>
    let oa := (c.rdLow f.b.toNat).toNat
    let ob := (c.rdLow f.c.toNat).toNat
    c.mxIssue s true [rowRegion true oa 2 2 (lanesIn c.act), rowRegion true ob 2 2 (List.range 64)] [(oa, 2), (ob, 2)] 0
      (.msacc f.d.toNat f.a.toNat (scrGeneric oa) (scrGeneric ob))

/-- MBATCH (R359, R373): it waits while CNT.M is 63 (R250), and acts even when act is empty. -/
def execMbatch (f : X64) (s : State) : Host.Outcome State Fault Refusal :=
  issue (.mbatch f) s fun c s =>
    if !s.engineReady c.strand .m then .again (s.modFib c.k fun x => { x with beats := [] })
    else
      let n := c.st.mxNext
      let s := s.modStrand c.strand fun st =>
        let old := st.batches.length + 1 - 64
        { st.issueOp .m with
          mxNext := (n + 1) % 4096, mxClosed := st.mxClosed + 1, mxOpen := { num := (n + 1) % 4096 }
          batches := st.batches.drop old ++ [{ st.mxOpen with num := n }] }
      let s := c.putBits s f.d.toNat c.f.laneSet (fun _ => BitVec.ofNat 32 n) 0xFFFFFFFF 2 c.laneTag
      let before := ((s.strand? c.strand).map fun st => st.unreported.length).getD 0
      let s := s.modStrand c.strand fun st => st.reportBatches 64
      let after := ((s.strand? c.strand).map fun st => st.unreported.length).getD 0
      .next ((s.count c.cluster 0x24 (before - after)).mxServe c.strand)

/-- The batch number an MWAIT or MSTAT reads, or the trap of R360. -/
def Ctx.batchNum (c : Ctx) (a : BitVec 8) : Except Trap Nat :=
  let b := (c.rdLow a.toNat).toNat % 4096
  if c.st.batchValid b then .ok b else .error { cause := .mxBatchRange, addr := BitVec.ofNat 64 b }

/-- The status of a reported batch into B of an MWAIT that ends at once; without the status-only flag a status other than zero
traps (R374). -/
def Ctx.mwaitEnd (c : Ctx) (s : State) (b : Nat) (only : Bool) (dst : BitVec 8) : Res :=
  let x := (s.strand? c.strand).bind fun st => st.batch? b
  let w := BitVec.ofNat 32 ((x.map (·.statusNat)).getD 0)
  match x.bind fun y => if y.unclean only then some y else none with
  | some y => .trapIn (s.mxTrap c.strand y).1 (s.mxTrap c.strand y).2
  | none => c.gotoNext ((c.putBits s dst.toNat c.f.laneSet (fun _ => w) 0xFFFFFFFF 2 c.laneTag).syncPoint c.k)

/-- MWAIT (R374, R365, R366); a tainted batch register leaves an escape record (R418). -/
def execMwait (f : T96) (s : State) : Host.Outcome State Fault Refusal :=
  endRunWith (.mwait f) s fun c s =>
    match c.batchNum f.a with
    | .error t => .trap t
    | .ok b =>
      let only := f.flg.getLsbD 0
      let park := fun (s : State) => c.await s (.mwait b only f.b.toNat (c.tagsIn c.f.laneSet))
      match c.escapeLow s 0 with
      | .error t => .trap t
      | .ok s =>
        let done := fun (s : State) => ((s.strand? c.strand).map fun st => st.isReported b).getD true
        let stop := c.st.stopUpTo b
        match only, stop.bind fun x => if x.reissue then none else some x with
        | true, some x =>
          let s := s.mxDiscard c.strand x.num
          if done s then c.mwaitEnd s b only f.b else park s
        | _, _ =>
          match s.mxNeed c.strand stop with
          | .trap s t => .trapIn s t
          | .wait s => if stop.isNone && done s then c.mwaitEnd s b only f.b else park s

/-- MREL (R375). -/
def execMrel (f : X64) (s : State) : Host.Outcome State Fault Refusal :=
  issue (.mrel f) s fun c s => c.mxIssue s true [] [] 0 (.mrel f.d.toNat)

/-- MZERO (R375). -/
def execMzero (f : X64) (s : State) : Host.Outcome State Fault Refusal :=
  issue (.mzero f) s fun c s => c.mxIssue s true [] [] 0 (.mzero f.d.toNat)

/-- MRDA, MWRA, MSTA and MLDA at issue. -/
def Ctx.moveIssue (c : Ctx) (s : State) (f : X64) (out scr : Bool) : Res :=
  let base := if scr then (c.rdLow f.a.toNat).toNat else (c.rdPairLow f.a.toNat).toNat
  let stride := (c.rdLow f.b.toNat).toNat
  let fmt := f.flg.toNat % 4
  let gen := if scr then scrGeneric base else base
  c.mxIssue s true [rowRegion scr base stride (64 * accSize fmt) (lanesIn c.act)] [(base, 4), (stride, 4)]
    (if out then BitVec.ofNat 64 gen else 0) (.move out f.d.toNat fmt gen stride)

/-- MRDA (R376). -/
def execMrda (f : X64) (s : State) : Host.Outcome State Fault Refusal :=
  issue (.mrda f) s fun c s => c.moveIssue s f true true

/-- MWRA (R376). -/
def execMwra (f : X64) (s : State) : Host.Outcome State Fault Refusal :=
  issue (.mwra f) s fun c s => c.moveIssue s f false true

/-- MSTA (R376). -/
def execMsta (f : X64) (s : State) : Host.Outcome State Fault Refusal :=
  issue (.msta f) s fun c s => c.moveIssue s f true false

/-- MLDA (R376). -/
def execMlda (f : X64) (s : State) : Host.Outcome State Fault Refusal :=
  issue (.mlda f) s fun c s => c.moveIssue s f false false

/-- MSTAT (R377). -/
def execMstat (f : X64) (s : State) : Host.Outcome State Fault Refusal :=
  issue (.mstat f) s fun c s =>
    match c.batchNum f.a with
    | .error t => .trap t
    | .ok b =>
      let w := match c.st.batch? b with
        | some x =>
          BitVec.ofNat 32 (x.statusNat + (if x.reported then 2 ^ 31 else 0) + (if x.stopped then 2 ^ 30 else 0) +
            (if x.reissue then 2 ^ 29 else 0))
        | none => 0
      .next (c.put s f.d (fun _ => w) 2)

end Sys2Proof.Machine
end

