-- ==== Sys2Proof/Machine/Sfu.lean ====
section
/-! DEFINITION. The special-function instructions, opcodes 0x60 to 0x69 (R157 to R162): the value is formed at issue and lands
when its queue entry does. -/

namespace Sys2Proof.Machine

/-- Launch a write of variable latency into the bits `cov` of a register: the state and the flight's number. -/
def Ctx.putLater (c : Ctx) (s : State) (reg : Nat) (lanes : Lanes) (val : Nat → Word) (cov : Word) : State × List Nat :=
  match s.strand? c.strand, c.flight reg lanes val cov c.laneTag none with
  | some st, some fl => (s.modStrand c.strand fun st => st.launchWrite fl, [st.seq])
  | _, _ => (s, [])

/-- Launch the ORs into vfst of a result of variable latency (R137). -/
def Ctx.orLater (c : Ctx) (s : State) (fl : Nat → Flags) : State × List Nat :=
  let m := c.act &&& lanesOf fun l => fl l != 0
  match s.strand? c.strand with
  | some st =>
    if m == 0 then (s, [])
    else
      (s.modStrand c.strand fun st =>
        st.launchWrite
          { seq := 0, reg := 252, lanes := m, orIn := true, land := none
            vals := laneVec fun l => if m.getLsbD l then fl l else 0 }, [st.seq])
  | none => (s, [])

/-- Cycles between beat 2 and the earliest landing of an SFU result: 6 periods. -/
def sfuMin : Nat := 18

/-- An SFU instruction (R157, R160, R162). -/
def sfuInstr (i : Instr) (f : X64) (op : Fmt → Val → Val → FRes) (s : State) : Host.Outcome State Fault Refusal :=
  issue i s fun c s =>
    let w := X64.w f
    let t := (X64.ftype f).fmt
    let dm := X64.dm f w
    let res := fun l => List.zipWith (fun a b => op t (t.val a) (t.val b)) (elems w (c.srcA .flt w f l))
      (elems w (c.srcB .flt w f l))
    let fl := fun l => flagsOf dm (res l)
    let d := c.putLater s f.d.toNat c.act (fun l => fromElems w ((res l).map (·.1))) (dmaskBits w dm)
    let v := c.orLater d.1 fl
    let trap := (fpTrap c.st.ctl fpCauses c.act fl).map fun t =>
      { t with addr := c.f.pc, defer := true, word := some i.word0 }
    .next (v.1.modSpindle c.cluster c.st.spindle fun sp =>
      { sp with sfu := sp.sfu ++ [{ fib := c.k, seqs := d.2 ++ v.2, withheld := trap, notBefore := c.is.r2 + sfuMin }] })

/-- RCP (Table 6.2). -/
def execRcp (f : X64) (s : State) : Host.Outcome State Fault Refusal := sfuInstr (.rcp f) f (fun t a _ => sfuRcp t a) s

/-- RSQ (Table 6.2). -/
def execRsq (f : X64) (s : State) : Host.Outcome State Fault Refusal := sfuInstr (.rsq f) f (fun t a _ => sfuRsq t a) s

/-- SQRT (Table 6.2). -/
def execSqrt (f : X64) (s : State) : Host.Outcome State Fault Refusal := sfuInstr (.sqrt f) f (fun t a _ => sfuSqrt t a) s

/-- DIV (Table 6.2). -/
def execDiv (f : X64) (s : State) : Host.Outcome State Fault Refusal := sfuInstr (.div f) f sfuDiv s

/-- EXP2 (Table 6.2). -/
def execExp2 (f : X64) (s : State) : Host.Outcome State Fault Refusal := sfuInstr (.exp2 f) f (fun t a _ => sfuExp2 t a) s

/-- LOG2 (Table 6.2). -/
def execLog2 (f : X64) (s : State) : Host.Outcome State Fault Refusal := sfuInstr (.log2 f) f (fun t a _ => sfuLog2 t a) s

/-- SINPI (Table 6.2). -/
def execSinpi (f : X64) (s : State) : Host.Outcome State Fault Refusal :=
  sfuInstr (.sinpi f) f (fun t a _ => sfuSinpi t a) s

/-- COSPI (Table 6.2). -/
def execCospi (f : X64) (s : State) : Host.Outcome State Fault Refusal :=
  sfuInstr (.cospi f) f (fun t a _ => sfuCospi t a) s

/-- TANH (Table 6.2). -/
def execTanh (f : X64) (s : State) : Host.Outcome State Fault Refusal := sfuInstr (.tanh f) f (fun t a _ => sfuTanh t a) s

/-- SIGM (Table 6.2). -/
def execSigm (f : X64) (s : State) : Host.Outcome State Fault Refusal := sfuInstr (.sigm f) f (fun t a _ => sfuSigm t a) s

/-- Let flights of a strand land: the writes are visible to beats that issue after cycle `now` (R158). -/
def Strand.landFlights (st : Strand) (seqs : List Nat) (now : Nat) : Strand :=
  { st with flights := st.flights.map fun f => if seqs.contains f.seq then { f with land := some (tri1 (now + 1)) } else f }

/-- Drop flights of a strand. -/
def Strand.dropFlights (st : Strand) (seqs : List Nat) : Strand :=
  { st with flights := st.flights.filter fun f => !seqs.contains f.seq }

/-- What becomes of the trap of a withheld SFU result (R160): it is held for its fibre, or the entry keeps it while the fibre holds
16; that of a fibre that has ended is gone. -/
def State.sfuHold (s : State) (cluster spindle : Nat) (before : List SfuEntry) (e : SfuEntry) (after : List SfuEntry) (t : Trap) :
    State :=
  let q := fun (l : List SfuEntry) => s.modSpindle cluster spindle fun sp => { sp with sfu := l }
  if !e.live then q (before ++ after)
  else if s.deferRoom e.fib then (q (before ++ after)).hold e.fib (e.seqs.headD 0) t
  else q (before ++ { e with held := true } :: after)

/-- SFU_RESULT_LANDS (R157, R158, R160): the oldest result of a spindle's SFU queue lands, or its trap is withheld for delivery; one
that an entry had to keep is held first (log entry 95). -/
def execSfuResultLands (cluster spindle : Nat) (s : State) : Host.Outcome State Fault Refusal :=
  let q := (s.spindle cluster spindle).sfu
  match q.findIdx? (fun e => e.held && s.deferRoom e.fib), q.findIdx? (fun e => !e.held) with
  | some n, _ =>
    match q[n]? with
    | some e => .next ((e.withheld.map fun t => s.sfuHold cluster spindle (q.take n) e (q.drop (n + 1)) t).getD s)
    | none => .next s
  | none, some n =>
    match q[n]? with
    | none => .next s
    | some e =>
      if s.cycle < e.notBefore then .next s
      else
        match e.withheld with
        | none =>
          .next ((s.modSpindle cluster spindle fun sp => { sp with sfu := q.take n ++ q.drop (n + 1) }).modStrand (fibStrand e.fib) fun st =>
            st.landFlights e.seqs s.cycle)
        | some t =>
          .next ((s.sfuHold cluster spindle (q.take n) e (q.drop (n + 1)) t).modStrand (fibStrand e.fib) fun st => st.dropFlights e.seqs)
  | none, none => .next s

end Sys2Proof.Machine
end

