-- ==== Sys2Proof/Machine/Func.lean ====
section
/-! DEFINITION. Function-register instructions, opcodes 0xD0 to 0xDF (chapter 15): issue, the function unit's queue, and what an
operation does when it is performed. -/

namespace Sys2Proof.Machine

/-! ### Functions and the pool (R378, R380, R386) -/

/-- Pool units of a function (R380). -/
def FnVal.units (f : FnVal) : Nat := if f.coef.length ≤ 64 then 1 else 2

/-- Pool units a skein holds. -/
def State.fnHeld (s : State) (sk : Nat) : Nat :=
  (s.strandsOf sk).foldl (fun a e => e.2.fns.foldl (fun b f => b + f.2.units) a) 0

/-- The skein's pool limit (R380). -/
def Skein.fnLimit (k : Skein) : Nat := if k.granted then k.full.2.2.2 else k.pro.2.2.2

/-- The number of a finite FP32 word. -/
def numOf (w : Word) : ℚ := codeQ w.toNat

/-- Whether a word is a finite FP32 number. -/
def finite32 (w : Word) : Bool :=
  match val32 w with
  | .fin _ _ => true
  | _ => false

def FnVal.c (f : FnVal) : List ℚ := f.coef.map numOf
def FnVal.l (f : FnVal) : ℚ := numOf f.lo
def FnVal.h (f : FnVal) : ℚ := numOf f.hi

/-- rne32 of an exact number. -/
def rne32 (q : ℚ) : Nat × Flags := fmt32.rnd (.fin (decide (q < 0)) q) .rne false

/-- Step 3 of R386: trailing coefficients at most 2^(−T) of the largest go, while more than one remains. -/
def fnTrunc (tol : Nat) (c : List Word) : List Word :=
  if tol = 0 then c
  else
    let lim := (c.foldl (fun (a : ℚ) w => max a |numOf w|) 0) / 2 ^ tol
    let kept := (c.reverse.dropWhile fun w => decide (|numOf w| ≤ lim)).reverse
    if kept.isEmpty then c.take 1 else kept

/-- How the performance of a function operation ends: done, or a cause with its detail and lanes, all unchanged (R384). -/
inductive FnRes where
  | done (s : State)
  | cause (e : Cause) (reg : Nat) (lanes : Option Lanes)

/-- A source function, or FN_EMPTY. -/
def State.fnSrc (s : State) (o : FnOp) (r : Nat) (k : FnVal → FnRes) : FnRes :=
  match (s.strand? o.strand).bind fun st => tget? st.fns r with
  | some f => k f
  | none => .cause .fnEmpty r none

/-- Put a function into a register, with pool accounting (R380). -/
def State.fnStore (s : State) (o : FnOp) (d : Nat) (f : FnVal) : FnRes :=
  let sk := strandSkein o.strand
  let old := (((s.strand? o.strand).bind fun st => tget? st.fns d).map (·.units)).getD 0
  if (((s.skein? sk).map Skein.fnLimit).getD 0) < s.fnHeld sk - old + f.units then .cause .fnPool d none
  else .done (s.modStrand o.strand fun st => { st with fns := tset st.fns d f })

/-- OR a flag into vfst of lanes of a strand, landing now (R137). -/
def State.fnFlags (s : State) (o : FnOp) (fl : Nat → Flags) : State :=
  let m := o.act &&& lanesOf fun l => fl l != 0
  if m == 0 || !o.live then s
  else
    s.modStrand o.strand fun st =>
      { st with flights := st.flights ++
          [{ seq := o.seq, reg := 252, lanes := m, orIn := true, land := some (tri1 (s.cycle + 1))
             vals := laneVec fun l => if m.getLsbD l then fl l else 0 }] }

/-- Build a function from exact coefficients (R386). -/
def State.fnBuild (s : State) (o : FnOp) (d tol : Nat) (e : List ℚ) (lo hi : Word) (tag : Option Tag) : FnRes :=
  let c := e.map fun q => BitVec.ofNat 32 (rne32 q).1
  if c.any fun w => !finite32 w then .cause .fnNonfinite d none
  else
    let t := fnTrunc tol c
    let cap := decide (128 < t.length)
    if cap && o.ctl.getLsbD 9 then .cause .fnLength d none
    else
      match s.fnStore o d { lo := lo, hi := hi, coef := t.take 128, tag := tag } with
      | .done s => .done (if cap then s.fnFlags o fun _ => fFNCAP else s)
      | r => r

/-! ### Results in v-registers (R383) -/

/-- Land result `i` of an operation: words by lane, and tags. -/
def State.fnLand (s : State) (o : FnOp) (i : Nat) (v : Nat → Word) (tag : Nat → Option Tag) : State :=
  match o.flights[i]? with
  | none => s
  | some n =>
    s.modStrand o.strand fun st =>
      { st with flights := st.flights.map fun f =>
          if f.seq = n ∧ f.land.isNone then
            { f with
              vals := laneVec v, land := some (tri1 (s.cycle + 1))
              tags := (lanesIn f.lanes).filterMap fun l =>
                ((tag l).orElse fun _ => tget? o.gregTags l).map fun g => (l, { g with direct := false }) }
          else f }

/-- Drop the results of an operation that was not done. -/
def State.fnDrop (s : State) (o : FnOp) : State :=
  s.modStrand o.strand fun st =>
    { st with flights := st.flights.filter fun f => !(o.flights.contains f.seq && f.land.isNone) }

/-- The first tag among register operands before the functions, the functions, and register operands after them (R416). -/
def FnOp.tagOf (o : FnOp) (fs : List FnVal) : Option Tag :=
  (o.pre.orElse fun _ => (fs.findSome? (·.tag)).orElse fun _ => o.post).map fun t => { t with direct := false }

/-- The tag of a function register: that of its sources, and last that of the GREG in the lowest lane of act that has one (R416). -/
def FnOp.regTag (o : FnOp) (fs : List FnVal) : Option Tag :=
  (o.tagOf fs).orElse fun _ => o.gregTags.head?.map fun t => { t.2 with direct := false }

/-- The FP causes of FNEVAL and FNQUAD (R393, R138). -/
def fnFpCause (o : FnOp) (fl : Nat → Flags) : Option (Cause × Lanes) :=
  (fpTrap o.ctl [.fpOverflow, .fpUnderflow, .fpInexact] o.act fl).map fun t => (t.cause, t.mask.getD 0)

/-! ### The operations -/

/-- Function register numbers of the fields. -/
def fnD (f : X64) : Nat := f.d.toNat
def fnA (f : X64) : Nat := f.a.toNat
def fnB (f : X64) : Nat := f.b.toNat
def fnTol (f : X64) : Nat := (f.ext.w1.extractLsb' 0 6).toNat

/-- FNADD, FNSUB and FNMUL (R394). -/
def State.fnCombine (s : State) (o : FnOp) (f : X64) (op : List ℚ → List ℚ → List ℚ) : FnRes :=
  s.fnSrc o (fnA f) fun a => s.fnSrc o (fnB f) fun b =>
    if a.lo != b.lo || a.hi != b.hi then .cause .fnDomain (fnB f) none
    else s.fnBuild o (fnD f) (fnTol f) (op a.c b.c) a.lo a.hi (o.regTag [a, b])

/-- Bytes the unit reads; behind an uncorrectable error they are free values (log entry 9). -/
def State.fnWords (s : State) (bs : List ByteAt) : List Word :=
  (List.range (bs.length / 4)).map fun i =>
    BitVec.ofNat 32 (natOfBytes (((bs.drop (4 * i)).take 4).zipIdx.map fun b => s.mxByte b.1 (4 * i + b.2)))

/-- Log the shared lines that an FNLD from address `a` reads, as an engine operation's (R444 kind 2; DEDUCED, log entry 88). -/
def State.fnLog (s : State) (o : FnOp) (a : Nat) (shared : Bool) : State :=
  if shared then (s.logLines o.strand [] a 0 o.bytes).1 else s

/-- Perform an operation (R381, R384). -/
def State.fnPerform (s : State) (o : FnOp) : FnRes :=
  let num := fun (i : Nat) => o.nums.getD i 0
  match o.instr with
  | .fnld f =>
    let c := s.fnWords o.bytes
    let s := s.fnLog o (cat32 (num 4) (num 3)).toNat (num 5 != 0)
    let s := { s with freeCtr := s.freeCtr + o.bytes.length }
    if c.any fun w => !finite32 w then .cause .fnNonfinite (fnD f) none
    else s.fnStore o (fnD f) { lo := num 1, hi := num 2, coef := c, tag := o.regTag [] }
  | .fnst f =>
    s.fnSrc o (fnB f) fun g =>
      let bs := (g.coef.take (num 0).toNat).flatMap fun w => bytesOfNat 4 w.toNat
      let s := (o.bytes.zip bs).foldl
        (fun a b =>
          match b.1.loc with
          | .mem x => a.homeWrite (strandCluster o.strand) (some (a.strandPart o.strand)) x b.2
          | l => a.locPut (some (a.strandPart o.strand)) l b.2) (s.uoLeave (strandCluster o.strand) o.bytes).beginOther
      .done (s.fnLand o 0 (fun _ => BitVec.ofNat 32 g.coef.length) fun _ => o.tagOf [g])
  | .fnfit f =>
    let ys := (List.range f.imm8.toNat).map fun j => numOf (laneW o.lanes j)
    s.fnBuild o (fnD f) (fnTol f) (chebFit ys) (num 0) (num 1) (o.regTag [])
  | .fneval f =>
    s.fnSrc o (fnA f) fun g =>
      let res := fun (l : Nat) =>
        let w := laneW o.lanes l
        match val32 w with
        | .fin _ x => if x < g.l ∨ g.h < x then (fmt32.nan, fFNOUT) else rne32 (chebEval g.c g.l g.h x)
        | _ => (fmt32.nan, fFNOUT)
      let fl := fun l => (res l).2
      match fnFpCause o fl with
      | some e => .cause e.1 (fnA f) (some e.2)
      | none =>
        let tag := fun l => g.tag.orElse fun _ => (o.laneTags.find? (·.1 == l)).map (·.2)
        .done ((s.fnLand o 0 (fun l => BitVec.ofNat 32 (res l).1) tag).fnFlags o fl)
  | .fnadd f => s.fnCombine o f qadd
  | .fnsub f => s.fnCombine o f qsub
  | .fnmul f => s.fnCombine o f chebMul
  | .fnaff f =>
    s.fnSrc o (fnA f) fun g =>
      let e := g.c.zipIdx.map fun x => numOf (num 0) * x.1 + (if x.2 = 0 then numOf (num 1) else 0)
      s.fnBuild o (fnD f) (fnTol f) e g.lo g.hi (o.regTag [g])
  | .fncomp f =>
    s.fnSrc o (fnA f) fun a => s.fnSrc o (fnB f) fun b =>
      let sum := qsum (b.c.tail.map fun x => |x|)
      if qget b.c 0 - sum < a.l ∨ a.h < qget b.c 0 + sum then .cause .fnDomain (fnA f) none
      else
        let n := min 128 ((a.coef.length - 1) * (b.coef.length - 1) + 1)
        s.fnBuild o (fnD f) (fnTol f) (chebFit (compSamples a.c a.l a.h b.c n)) b.lo b.hi (o.regTag [a, b])
  | .fndiff f =>
    s.fnSrc o (fnA f) fun g =>
      s.fnBuild o (fnD f) (fnTol f) (chebDiff g.c ((g.h - g.l) / 2)) g.lo g.hi (o.regTag [g])
  | .fnint f =>
    s.fnSrc o (fnA f) fun g =>
      s.fnBuild o (fnD f) (fnTol f) (chebInt g.c ((g.h - g.l) / 2)) g.lo g.hi (o.regTag [g])
  | .fnquad f =>
    s.fnSrc o (fnA f) fun g =>
      let r := rne32 (chebQuad g.c ((g.h - g.l) / 2))
      match fnFpCause o fun _ => r.2 with
      | some e => .cause e.1 (fnA f) (some e.2)
      | none => .done ((s.fnLand o 0 (fun _ => BitVec.ofNat 32 r.1) fun _ => o.tagOf [g]).fnFlags o fun _ => r.2)
  | .fnroot f =>
    s.fnSrc o (fnA f) fun g =>
      if o.act == 0 then .done s
      else
        match chebRoots g.c g.l g.h with
        | none => .cause .fnRootsOver (fnA f) none
        | some rs =>
          if laneCount o.act < rs.length then .cause .fnRootsOver (fnA f) none
          else
            let at_ := fun (l : Nat) => (rs[laneCount (o.act &&& lanesOf (· < l))]?).getD fmt32.nan
            let s := s.fnLand o 0 (fun l => BitVec.ofNat 32 (at_ l)) fun _ => o.tagOf [g]
            .done (s.fnLand o 1 (fun _ => BitVec.ofNat 32 rs.length) fun _ => o.tagOf [g])
  | .fndom f =>
    s.fnSrc o (fnA f) fun g =>
      let a := numOf (num 0)
      let b := numOf (num 1)
      if a < g.l ∨ g.h < b then .cause .fnDomain (fnA f) none
      else s.fnBuild o (fnD f) (fnTol f) (chebRebase g.c g.l g.h a b) (num 0) (num 1) (o.regTag [g])
  | .fninfo f =>
    let g := (s.strand? o.strand).bind fun st => tget? st.fns (fnA f)
    let w := match g with
      | some g => [g.lo, g.hi, BitVec.ofNat 32 g.coef.length]
      | none => [0, 0, 0]
    .done ((List.range 3).foldl (fun a i => a.fnLand o i (fun _ => w.getD i 0) fun _ => g.bind (·.tag)) s)
  | .fnrel f => .done (s.modStrand o.strand fun st => { st with fns := terase st.fns (fnD f) })
  | _ => .done s

/-- The cause of an operation of the function unit (R384): it is held for its fibre, or the entry keeps it while the fibre holds 16;
that of a fibre that has ended is gone. -/
def State.fnHold (s : State) (o : FnOp) (t : Trap) : State :=
  let cl := strandCluster o.strand
  let gone := s.modCluster cl fun c => { c with fnq := c.fnq.erase o }
  if !o.live then gone.tryEndStrand o.strand
  else if s.deferRoom o.fib then (gone.hold o.fib o.seq t).tryEndStrand o.strand
  else s.modCluster cl fun c => { c with fnq := c.fnq.map fun x => if x == o then { x with held := some t, bytes := [] } else x }

/-- FN_OP_PERFORM (R381, R384): the oldest operation of a strand in its cluster's queue is performed; a cause that an entry had to
keep is held first (log entry 95). -/
def execFnOpPerform (strand : Nat) (s : State) : Host.Outcome State Fault Refusal :=
  let cl := strandCluster strand
  let q := (s.cluster cl).fnq.filter fun o => o.strand == strand
  match q.find? (fun o => o.held.isSome && s.deferRoom o.fib), q.find? (fun o => o.held.isNone) with
  | some o, _ => .next ((o.held.map (s.fnHold o)).getD s)
  | none, some o =>
    let s := (s.count cl 0x29 1).goHomeBytes cl o.bytes
    match s.fnPerform o with
    | .done s => .next ((s.modCluster cl fun c => { c with fnq := c.fnq.erase o }).tryEndStrand strand)
    | .cause e reg lanes =>
      .next ((s.fnDrop o).fnHold o
        { cause := e, addr := BitVec.ofNat 64 reg, mask := some (lanes.getD o.act), defer := true, word := some o.instr.word0
          fref := o.ref })
  | none, none => .next s

/-! ### Issue (R381, R382) -/

/-- The first tag of registers in lane u. -/
def Ctx.lowTag (c : Ctx) (rs : List Nat) : Option Tag := c.tagIn (rs.map fun r => (r, c.low))

/-- The tags of the GREG in the lanes of act. -/
def Ctx.gregTags (c : Ctx) : List (Nat × Tag) :=
  (lanesIn c.act).filterMap fun l => (c.i.greg.findSome? fun g => c.tagOf g.1 l).map fun t => (l, t)

/-- Hand an operation to the function unit: its results are in flight from here. -/
def Ctx.fnIssue (c : Ctx) (s : State) (outs : List Nat) (o : FnOp) : Res :=
  let p := (outs.filter (· < 240)).foldl
    (fun (a : State × List Nat) r =>
      match a.1.strand? c.strand with
      | some st =>
        (a.1.modStrand c.strand fun st => st.launchWrite { seq := 0, reg := r, lanes := c.act, vals := [], land := none },
         a.2 ++ [st.seq])
      | none => a) (s, [])
  -- a destination of vz has no flight; the others keep their places
  let fl := outs.foldl
    (fun (a : List Nat × List Nat) r =>
      match a.2 with
      | x :: xs => if r < 240 then (a.1 ++ [x], xs) else (a.1 ++ [2 ^ 64], a.2)
      | [] => (a.1 ++ [2 ^ 64], [])) ([], p.2)
  let q := p.1.takeSeq c.k
  .next (q.1.modCluster c.cluster fun x => { x with fnq := x.fnq ++ [{ o with seq := q.2, flights := fl.1, gregTags := c.gregTags }] })

/-- An operation with nothing read but its act, code reference and STRAND_CTL. -/
def Ctx.fnOp (c : Ctx) : FnOp :=
  { strand := c.strand, fib := c.k, instr := c.i, act := c.act, ref := c.f.pc, ctl := c.st.ctl, seq := 0 }

/-- A function-unit instruction: it waits for a queue entry (R381), then its body. -/
def fnInstr (i : Instr) (s : State) (body : Ctx → State → Res) : Host.Outcome State Fault Refusal :=
  issue i s fun c s =>
    if 32 ≤ (s.cluster c.cluster).fnq.length then .again (s.modFib c.k fun f => { f with beats := [] }) else body c s

/-- The trap of a function-register detail (R389, R392, R400). -/
def fnTrap (e : Cause) (reg : Nat) (m : Option Lanes) : Res := .trap { cause := e, addr := BitVec.ofNat 64 reg, mask := m }

/-- Whether two words are the ends of an interval (R378). -/
def intervalOk (lo hi : Word) : Bool := finite32 lo && finite32 hi && decide (numOf lo < numOf hi)

/-- The address check of FNLD and FNST, as one access of the fibre under R198 (R390); the unit that then makes it fails on a SPRIV page,
the strand's own too (R173). -/
def Ctx.fnAccess (c : Ctx) (s : State) (acc : Acc) (n : Nat) (a : DWord) (k : State → List LaneAcc → Res) : Res :=
  if a.toNat / 2 ^ 56 = 0xFD then .trap { cause := .winRange, addr := a, mask := some (lanesOf (· == c.low)) }
  else
    match s.checkAccess c.k acc n 4 false [(c.low, a)] c.f.walks with
    | .trap t => .trap t
    | .walk va => .again (((s.enterMiss c.cluster (s.strandCtx c.strand) va c.k).count c.cluster 0x13 1).park c.k .walk)
    | .ok lanes =>
      if lanes.any (s.sprivAcc c.k) then
        .trap { cause := if acc == .store then .stPerm else .ldPerm, addr := a, mask := some (lanesOf (· == c.low)) }
      else k s lanes

/-- FNLD (R389 to R391). -/
def execFnld (f : X64) (s : State) : Host.Outcome State Fault Refusal :=
  fnInstr (.fnld f) s fun c s =>
    let n := (c.rdLow f.b.toNat).toNat
    let lo := c.rdLow f.c.toNat
    let hi := c.rdLow (f.c.toNat + 1)
    if n = 0 ∨ 128 < n then fnTrap .fnFitCount (fnD f) none
    else if !intervalOk lo hi then fnTrap .fnInterval (fnD f) none
    else
      let a := c.rdPairLow f.a.toNat
      c.fnAccess s .load (4 * n) a fun s as =>
        match c.escapeLow s 0 with
        | .error t => .trap t
        | .ok s =>
          let rs := [f.a.toNat, f.a.toNat + 1, f.b.toNat, f.c.toNat, f.c.toNat + 1]
          c.fnIssue (s.drainStores c.k) []
            { c.fnOp with
              nums := [BitVec.ofNat 32 n, lo, hi, lo32 a, hi32 a, if as.any (·.shared) then 1 else 0]
              bytes := as.flatMap (·.bytes), pre := c.lowTag rs }

/-- FNST (R389 to R391). -/
def execFnst (f : X64) (s : State) : Host.Outcome State Fault Refusal :=
  fnInstr (.fnst f) s fun c s =>
    let m := (c.rdLow f.c.toNat).toNat
    let a := c.rdPairLow f.a.toNat
    if m = 0 ∨ 128 < m then fnTrap .fnFitCount (fnB f) none
    else
      c.fnAccess s .store (4 * m) a fun s as =>
        match c.escapeLow s a with
        | .error t => .trap t
        | .ok s =>
          c.fnIssue (s.drainStores c.k) [f.d.toNat]
            { c.fnOp with
              nums := [BitVec.ofNat 32 m], bytes := as.flatMap (·.bytes), pre := c.lowTag [f.a.toNat, f.a.toNat + 1]
              post := c.lowTag [f.c.toNat] }

/-- FNFIT (R392). -/
def execFnfit (f : X64) (s : State) : Host.Outcome State Fault Refusal :=
  fnInstr (.fnfit f) s fun c s =>
    let lo := c.rdLow f.c.toNat
    let hi := c.rdLow (f.c.toNat + 1)
    let n := f.imm8.toNat
    let miss := lanesOf fun l => decide (l < n) && !c.act.getLsbD l
    let bad := lanesOf fun l => decide (l < n) && !finite32 (c.rd f.a.toNat l)
    if !intervalOk lo hi then fnTrap .fnInterval (fnD f) none
    else if miss != 0 then fnTrap .fnFitCount (fnD f) (some miss)
    else if bad != 0 then fnTrap .fnNonfinite (fnD f) (some bad)
    else
      c.fnIssue s []
        { c.fnOp with
          nums := [lo, hi], lanes := laneVec (c.rd f.a.toNat)
          pre := (c.tagIn ((List.range n).map fun j => (f.a.toNat, j))).orElse fun _ =>
            c.lowTag [f.c.toNat, f.c.toNat + 1] }

/-- FNEVAL (R393). -/
def execFneval (f : X64) (s : State) : Host.Outcome State Fault Refusal :=
  fnInstr (.fneval f) s fun c s =>
    c.fnIssue s [f.d.toNat]
      { c.fnOp with
        lanes := laneVec (c.rd f.b.toNat)
        laneTags := (lanesIn c.act).filterMap fun l => (c.tagOf f.b.toNat l).map fun t => (l, t) }

/-- FNADD (R394). -/
def execFnadd (f : X64) (s : State) : Host.Outcome State Fault Refusal := fnInstr (.fnadd f) s fun c s => c.fnIssue s [] c.fnOp

/-- FNSUB (R394). -/
def execFnsub (f : X64) (s : State) : Host.Outcome State Fault Refusal := fnInstr (.fnsub f) s fun c s => c.fnIssue s [] c.fnOp

/-- FNMUL (R394). -/
def execFnmul (f : X64) (s : State) : Host.Outcome State Fault Refusal := fnInstr (.fnmul f) s fun c s => c.fnIssue s [] c.fnOp

/-- The operation of a form that reads B and C in lane u. -/
def Ctx.fnTwo (c : Ctx) (f : X64) : FnOp :=
  { c.fnOp with nums := [c.rdLow f.b.toNat, c.rdLow f.c.toNat], post := c.lowTag [f.b.toNat, f.c.toNat] }

/-- FNAFF (R395). -/
def execFnaff (f : X64) (s : State) : Host.Outcome State Fault Refusal :=
  fnInstr (.fnaff f) s fun c s =>
    if !finite32 (c.rdLow f.b.toNat) || !finite32 (c.rdLow f.c.toNat) then fnTrap .fnNonfinite (fnD f) none
    else c.fnIssue s [] (c.fnTwo f)

/-- FNCOMP (R396). -/
def execFncomp (f : X64) (s : State) : Host.Outcome State Fault Refusal :=
  fnInstr (.fncomp f) s fun c s => c.fnIssue s [] c.fnOp

/-- FNDIFF (R397). -/
def execFndiff (f : X64) (s : State) : Host.Outcome State Fault Refusal :=
  fnInstr (.fndiff f) s fun c s => c.fnIssue s [] c.fnOp

/-- FNINT (R397). -/
def execFnint (f : X64) (s : State) : Host.Outcome State Fault Refusal := fnInstr (.fnint f) s fun c s => c.fnIssue s [] c.fnOp

/-- FNQUAD (R398). -/
def execFnquad (f : X64) (s : State) : Host.Outcome State Fault Refusal :=
  fnInstr (.fnquad f) s fun c s => c.fnIssue s [f.d.toNat] c.fnOp

/-- FNROOT (R399): roots in D, their number in B. -/
def execFnroot (f : X64) (s : State) : Host.Outcome State Fault Refusal :=
  fnInstr (.fnroot f) s fun c s => c.fnIssue s [f.d.toNat, f.b.toNat] c.fnOp

/-- FNDOM (R400). -/
def execFndom (f : X64) (s : State) : Host.Outcome State Fault Refusal :=
  fnInstr (.fndom f) s fun c s =>
    if !intervalOk (c.rdLow f.b.toNat) (c.rdLow f.c.toNat) then fnTrap .fnInterval (fnD f) none
    else c.fnIssue s [] (c.fnTwo f)

/-- FNINFO (R401). -/
def execFninfo (f : X64) (s : State) : Host.Outcome State Fault Refusal :=
  fnInstr (.fninfo f) s fun c s => c.fnIssue s [f.d.toNat, f.d.toNat + 1, f.d.toNat + 2] c.fnOp

/-- FNREL (R401). -/
def execFnrel (f : X64) (s : State) : Host.Outcome State Fault Refusal := fnInstr (.fnrel f) s fun c s => c.fnIssue s [] c.fnOp

end Sys2Proof.Machine
end

