-- ==== Sys2Proof/Machine/RegOps.lean ====
section
/-! DEFINITION. Register writes that do something: translation invalidation (R182), FQ_RESUME (R325), stops (R440 to R442),
compaction (R467 to R469), pool limits (R458), task-queue configuration (R303), event selection (R431), the Ephemeris (R432)
and measurement (R446). -/

namespace Sys2Proof.Machine

/-- What a register write comes to: done, a value out of range, refused (R453), or to be made again later. -/
inductive WrRes where
  | ok (s : State)
  | bad
  | refused
  | wait
  deriving Repr

/-- A write as a step: without effect where the value is refused or must wait. -/
def WrRes.orElse (w : WrRes) (s : State) : State :=
  match w with
  | .ok s' => s'
  | _ => s

/-! ### XL_INV (R182) -/

/-- Whether a page overlaps an invalidation: the whole context, or the page at a base with a size exponent. -/
def invHits (what : Option (Nat × Nat)) (vbase size : Nat) : Bool :=
  match what with
  | none => true
  | some (b, n) => decide (vbase < b + 2 ^ n) && decide (b < vbase + 2 ^ size)

/-- A write of XL_INV (R182, Table 7.10). A fibre parked in WAITEQ issues its WAITEQ again, so that it translates afresh. -/
def State.xlInvWrite (s : State) (key : Nat) (v : Word) : WrRes :=
  let c := s.ctx key
  let psz := (v.extractLsb' 0 3).toNat
  if 5 ≤ psz then .bad
  else if c.xlInvBusy then .wait
  else
    let n := pszExp psz
    let what := if v.getLsbD 3 then none else some (c.xlInvVa.toNat % 2 ^ 57 / 2 ^ n * 2 ^ n, n)
    let mine := fun (p x : Nat) => p == key / 16 && x == key % 16
    let s := s.modCtx key fun c => { c with xlInvBusy := true }
    let inv := fun (c : Cluster) =>
      { c with
        tlb := c.tlb.filter fun x => !(mine x.part x.ctx && invHits what x.vbase x.size)
        misses := c.misses.map fun m =>
          if mine m.part m.ctx && invHits what (m.page * 4096) 12 then { m with stale := true } else m }
    let s : State := { s with clusters := s.clusters.map fun e => (e.1, inv e.2) }
    .ok (s.allFibs.foldl
      (fun a f =>
        match f.2.wait with
        | .waiteq .. => if a.strandCtx (fibStrand f.1) == key && f.2.state == .parked then a.ready f.1 else a
        | _ => a) s)

/-- XL_INV_WRITE (R182). -/
def execXlInvWrite (ctx : Nat) (v : BitVec 32) (s : State) : Host.Outcome State Fault Refusal := .next ((s.xlInvWrite ctx v).orElse s)

/-- Whether an access of a context that may have used an old translation has still to be performed (R182). -/
def State.xlBusy (s : State) (key : Nat) : Bool :=
  let mine := fun (strand : Nat) => s.strandCtx strand == key
  (s.clusters.any fun c =>
    (c.2.misses.any fun m => m.stale && ctxKey m.part m.ctx == key) ||
      (c.2.fnq.any fun o => mine o.strand && !o.bytes.isEmpty) || c.2.spindles.any fun sp => sp.stores.any fun e => mine e.strand) ||
    s.allFibs.any fun f => mine (fibStrand f.1) && (match f.2.wait with
      | .miss _ => true
      | .atomic _ => true
      | _ => false)

/-- Fibres that wait to write a register again do so. -/
def State.readyUnits (s : State) (p : Nat → Bool) : State :=
  s.allFibs.foldl (fun a f => if f.2.wait == .unit && p f.1 then a.unstall f.1 else a) s

/-- XL_INV_DONE (R182): BUSY clears, and a write that waited is made again. -/
def execXlInvDone (ctx : Nat) (s : State) : Host.Outcome State Fault Refusal :=
  if (s.ctx ctx).xlInvBusy && !s.xlBusy ctx then
    let s := s.modCtx ctx fun c => { c with xlInvBusy := false }
    .next (s.readyUnits fun k => s.strandCtx (fibStrand k) == ctx)
  else .next s

/-! ### FQ_RESUME (R325, R291) -/

/-- Make the fibres whose records a value names READY, and write the completion records that wait for them. -/
def State.fqResume (s : State) (key : Nat) (v : Word) : State :=
  let hit := fun (seq : Nat) => v == 0xFFFFFFFF || decide (seq = v.toNat)
  let s := s.allFibs.foldl
    (fun a f =>
      match f.2.wait with
      | .faultQ seq => if s.strandCtx (fibStrand f.1) == key && hit seq then a.ready f.1 else a
      | _ => a) s
  s.launches.foldl
    (fun a l =>
      match l.2.held with
      | some (seq, st, n) =>
        if l.2.ctxKey == key && hit seq.toNat then (a.modLaunch l.1 fun x => { x with held := none }).writeCompletion l.1 st n
        else a
      | none => a) s

/-- FQ_RESUME (R325). -/
def execFqResume (ctx : Nat) (v : BitVec 32) (s : State) : Host.Outcome State Fault Refusal := .next (s.fqResume ctx v)

/-! ### Stops (R440 to R443, Table 12.7) -/

/-- A stop record of a fibre that stopped at cycle `at_` (Table 12.7). -/
def State.fibreStopBytes (s : State) (k cause detail at_ : Nat) : List Byte :=
  match s.fib? k, s.strand? (fibStrand k) with
  | some f, some st =>
    bytesOfNat 2 0x5354 ++ [0, BitVec.ofNat 8 cause, BitVec.ofNat 8 (clusterDie (fibCluster k)), 0] ++
      bytesOfNat 2 (fibCluster k) ++ bytesOfNat 8 at_ ++ fibBytes k ++ List.replicate 5 0 ++ bytesOfNat 8 f.pc.toNat ++
      lanesBytes (st.mask f.laneSet (tri1 s.cycle)) ++ bytesOfNat 4 detail ++ List.replicate 16 0
  | _, _ => List.replicate 64 0

/-- Write a stopped fibre's record into its context's ring (R441). -/
def State.writeStop (s : State) (k : Nat) : State :=
  match s.fib? k with
  | some f =>
    match f.stopRec with
    | some (cause, detail, at_) =>
      let key := s.strandCtx (fibStrand k)
      let c := s.ctx key
      let s := s.memWriteBytes (some (key / 16)) (c.dbgBase.toNat % 2 ^ 56 / 64 * 64 + 64 * (c.dbgHead.toNat % 256))
        (s.fibreStopBytes k cause detail at_)
      let s := s.modCtx key fun c => { c with dbgHead := c.dbgHead + 1 }
      let s := s.modFib k fun f => { f with stopRec := none }
      if c.dbgIrq then s.raise (4 * (key / 16) + 2) else s
    | none => s
  | none => s

/-- A stopped fibre becomes READY at its stopped PC, for one instruction where `step`; a BRK that it stands at, whatever it stopped
for, acts as RUNEND (R442). -/
def State.goOn (s : State) (k : Nat) (step : Bool) : State :=
  (s.modFib k fun f => { f with passStop := true, passBrk := true, stepReq := step, release := none }).ready k

/-- Write the stop record of a fibre; a release that waited for it takes place (R441, R442). -/
def State.stopWritten (s : State) (k : Nat) : State :=
  match (s.fib? k).bind Fibre.release with
  | some step => (s.writeStop k).goOn k step
  | none => s.writeStop k

/-- Whether a stopped fibre's writes have landed and its accesses are performed, so that its record is due (R441). -/
def State.stopRecDue (s : State) (k : Nat) : Bool :=
  match s.fib? k, s.strand? (fibStrand k) with
  | some f, some st =>
    f.stopRec.isSome && ((st.lastLanding f.laneSet (fun _ => true) s.cycle).map fun t => decide (t ≤ s.cycle)).getD false &&
      (s.myStores k).isEmpty
  | _, _ => false

/-- A fibre stops at its boundary (R440): it leaves its slot and keeps its run. -/
def State.stopFibre (s : State) (k cause detail : Nat) : State :=
  let s := (s.unslot k).modFib k fun f =>
    { f with
      state := .stopped, wait := .none, beats := [], stopReq := false, stepReq := false, stopCause := cause
      stopRec := some (cause, detail, s.cycle) }
  let s := (s.packet k 9 []).count (fibCluster k) 0x3E 1
  if s.stopRecDue k then s.writeStop k else s

/-- Ask a fibre to stop at its next boundary; one that is READY stands at one (R440). -/
def State.askStop (s : State) (k : Nat) : State :=
  match s.fib? k with
  | some f =>
    if f.state = .ready && !f.inBody && !f.wait.entering then s.stopFibre k 90 0
    else if f.state = .stopped then s
    else s.modFib k fun f => { f with stopReq := true }
  | none => s

/-- Release a stopped fibre, for one instruction where `step` (R442), once its stop record is written (R441). -/
def State.releaseFibre (s : State) (k : Nat) (step : Bool) : State :=
  match s.fib? k with
  | some f =>
    if f.state = .stopped && !f.saved then
      if f.stopRec.isSome then s.modFib k fun f => { f with release := some step } else s.goOn k step
    else s
  | none => s

/-- The fibre a debug operation names, if it is live and of the context (R440). -/
def State.dbgFib? (s : State) (ctx cluster sid path : Nat) : Option Nat :=
  let k := mkFib (mkStrand cluster sid) path
  if (s.fib? k).isSome && s.strandCtx (fibStrand k) == ctx && path < 96 && sid < 65536 then some k else none

/-- DBG_STOP (R440). -/
def execDbgStop (ctx cluster sid path : Nat) (s : State) : Host.Outcome State Fault Refusal :=
  .next (((s.dbgFib? ctx cluster sid path).map s.askStop).getD s)

/-- DBG_RELEASE (R442). -/
def execDbgRelease (ctx cluster sid path : Nat) (s : State) : Host.Outcome State Fault Refusal :=
  .next (((s.dbgFib? ctx cluster sid path).map fun k => s.releaseFibre k false).getD s)

/-- DBG_STEP (R442). -/
def execDbgStep (ctx cluster sid path : Nat) (s : State) : Host.Outcome State Fault Refusal :=
  .next (((s.dbgFib? ctx cluster sid path).map fun k => s.releaseFibre k true).getD s)

/-- The fibres of a context. -/
def State.ctxFibs (s : State) (key : Nat) : List Nat :=
  (s.allFibs.filter fun f => s.strandCtx (fibStrand f.1) == key).map (·.1)

/-- DBG_STOP_ALL (R440). -/
def execDbgStopAll (ctx : Nat) (s : State) : Host.Outcome State Fault Refusal := .next ((s.ctxFibs ctx).foldl State.askStop s)

/-- DBG_RELEASE_ALL (R442). -/
def execDbgReleaseAll (ctx : Nat) (s : State) : Host.Outcome State Fault Refusal :=
  .next ((s.ctxFibs ctx).foldl (fun a k => a.releaseFibre k false) s)

/-- A write of DBG_STOPL (Table 20.6). -/
def State.dbgOp (s : State) (key : Nat) (v : Word) : WrRes :=
  let cl := (s.ctx key).dbgStopH.toNat % 65536
  let sid := (v.extractLsb' 0 16).toNat
  let path := (v.extractLsb' 16 8).toNat
  let hit := s.dbgFib? key cl sid path
  match (v.extractLsb' 24 8).toNat with
  | 1 => .ok ((hit.map s.askStop).getD s)
  | 2 => .ok ((hit.map fun k => s.releaseFibre k false).getD s)
  | 3 => .ok ((hit.map fun k => s.releaseFibre k true).getD s)
  | 4 => .ok ((s.ctxFibs key).foldl State.askStop s)
  | 5 => .ok ((s.ctxFibs key).foldl (fun a k => a.releaseFibre k false) s)
  | _ => .bad

/-! ### Compaction (R467 to R469) -/

/-- The partition of a fibre. -/
def State.fibPart (s : State) (k : Nat) : Nat := s.strandPart (fibStrand k)

/-- PARKED (Table 22.2): no fibre of the partition holds a slot, except the exempt one. -/
def State.cmpParked (s : State) (part : Nat) : Bool :=
  let p := s.part part
  p.cmpPark && s.allFibs.all fun f => s.fibPart f.1 != part || p.cmpExempt == some f.1 || !s.inSlot f.1

/-- CMP_PARK (R468): PARK is set, and is what a later read returns also where a write of 0 still waits (R5). -/
def execCmpPark (part : Nat) (exempt : Option Nat) (s : State) : Host.Outcome State Fault Refusal :=
  .next (s.modPart part fun p =>
    if p.cmpPark then { p with cmpUnpark := false } else { p with cmpPark := true, cmpExempt := exempt })

/-- Hand-out resumes (R468). -/
def State.cmpResume (s : State) (part : Nat) : State :=
  s.modPart part fun p => { p with cmpPark := false, cmpExempt := none, cmpUnpark := false }

/-- CMP_UNPARK (R468): while a rewrite is in progress, at its end. -/
def execCmpUnpark (part : Nat) (s : State) : Host.Outcome State Fault Refusal :=
  .next (if (s.part part).cmpBusy then s.modPart part fun p => { p with cmpUnpark := true } else s.cmpResume part)

/-- CMP_FWD (R469): the rewrite begins, where PARKED = 1. -/
def execCmpFwd (part : Nat) (s : State) : Host.Outcome State Fault Refusal :=
  .next (if s.cmpParked part then s.modPart part fun p => { p with cmpBusy := true } else s)

/-- An entry of the forwarding table: old start, new start and length. -/
abbrev FwdEntry := Nat × Nat × Nat

/-- The forwarding table, read as an agent of the context of the fibre that parked the partition (R469). -/
def State.fwdTable (s : State) (part : Nat) : Option (List FwdEntry) :=
  let p := s.part part
  let key := (p.cmpExempt.map fun k => s.strandCtx (fibStrand k)).getD (ctxKey part 0)
  (s.agentRead none key p.fwdBase.toNat (24 * p.fwdCount.toNat)).map fun b =>
    (List.range p.fwdCount.toNat).map fun i =>
      (recField b (24 * i) 8, recField b (24 * i + 8) 8, recField b (24 * i + 16) 4)

/-- Whether a forwarding table is valid (R469): each entry ends at or before the next begins. -/
def fwdValid : Nat → List FwdEntry → Bool
  | _, [] => true
  | lo, (o, n, len) :: t =>
    decide (lo ≤ o) && o % 4 == 0 && n % 4 == 0 && len % 4 == 0 && len != 0 && fwdValid (o + len) t

/-- The address an address becomes (R469). -/
def fwdAddr (t : List FwdEntry) (a : Nat) : Nat :=
  match t.find? fun e => decide (e.1 ≤ a) && decide (a < e.1 + e.2.2) with
  | some e => e.2.1 + (a - e.1)
  | none => a

/-- The text base from which a reference keeps resolving to the forwarded address. -/
def fwdBase (t : List FwdEntry) (ref base : DWord) : DWord :=
  BitVec.ofNat 64 (fwdAddr t ((base.toNat + pcOffset ref) % 2 ^ 64) + 2 ^ 64 - pcOffset ref)

/-- Rewrite every address that R467 names for a partition. -/
def State.forward (s : State) (part : Nat) (t : List FwdEntry) : State :=
  let s := s.allFibs.foldl
    (fun a f =>
      if s.fibPart f.1 == part then a.modFib f.1 fun x => { x with base := x.base.map fun b => fwdBase t x.pc b } else a) s
  let entry := fun (x : SubEntry) =>
    if x.part == part && x.state != .free then { x with base := fwdBase t x.start x.base } else x
  let stop := fun (c : Context) => { c with bpBase := c.bpBase.map fun b => BitVec.ofNat 64 (fwdAddr t b.toNat) }
  let s : State := { s with
    clusters := s.clusters.map fun e => (e.1, { e.2 with subst := e.2.subst.map entry })
    ctxs := s.ctxs.map fun e => if e.1 / 16 == part then (e.1, stop e.2) else e }
  s.icDrop (List.range 16) fun e => e.part == part

/-- CMP_FWD_DONE (R469): the rewrite ends or is refused, and BUSY clears. -/
def execCmpFwdDone (part : Nat) (s : State) : Host.Outcome State Fault Refusal :=
  if !(s.part part).cmpBusy then .next s
  else
    let s := match s.fwdTable part with
      | some t =>
        if fwdValid 0 t then (s.forward part t).modPart part fun p => { p with cmpErr := false }
        else s.modPart part fun p => { p with cmpErr := true }
      | none => s.modPart part fun p => { p with cmpErr := true }
    let s := s.modPart part fun p => { p with cmpBusy := false }
    let s := if (s.part part).cmpUnpark then s.cmpResume part else s
    .next (s.readyUnits fun k => s.fibPart k == part)

/-- A write of CMP_CTL by a fibre, or through the mailbox (R468, R469). -/
def State.cmpCtlWrite (s : State) (part : Nat) (fib : Option Nat) (v : Word) : WrRes :=
  if v.getLsbD 1 && !s.cmpParked part then .bad
  else if v.getLsbD 0 then
    .ok (s.modPart part fun p =>
      if v.getLsbD 1 then { p with cmpBusy := true, cmpUnpark := false }
      else if p.cmpPark then { p with cmpUnpark := false } else { p with cmpPark := true, cmpExempt := fib })
  else if (s.part part).cmpBusy then .wait
  else if v.getLsbD 1 then .ok (s.modPart part fun p => { p with cmpBusy := true, cmpUnpark := true })
  else .ok (s.cmpResume part)

/-! ### Buffer pools (R457, R458) -/

/-- Queues of a pool. -/
def poolQueues (unit : Nat) : Nat := if unit = 5 then 64 else 32

/-- Entries that queue `q` of a pool holds. -/
def State.poolCount (s : State) (unit loc q : Nat) : Nat :=
  match unit with
  | 0 => (s.launches.filter fun e => e.2.part == q).length
  | 1 => s.placingOf loc q
  | 2 => s.requestsOf loc q
  | 3 => s.copiesOf loc q
  | 4 => ((s.die loc).prq.filter (·.part == q)).length
  | 5 => (s.tq loc q).recs.length
  | 6 => if s.frontierDie q == loc then s.inflightOf q else 0
  | _ => 0

/-- Entries a pool holds in all. -/
def State.poolTotal (s : State) (unit loc : Nat) : Nat :=
  (List.range (poolQueues unit)).foldl (fun a q => a + s.poolCount unit loc q) 0

/-- The pool and queue that a BP_SEL value names; `part` is the issuing partition below MACH (Table 22.2). -/
def bpSelect (w : Word) (part : Option Nat) : Nat × Nat × Nat :=
  let unit := (w.extractLsb' 21 3).toNat
  let q := if unit = 5 then (w.extractLsb' 0 6).toNat else part.getD (w.extractLsb' 16 5).toNat
  (unit, (w.extractLsb' 24 8).toNat, q)

/-- Test the waiting requests of a pool again, oldest first (R458). -/
def State.poolRetest (s : State) (unit loc : Nat) : Nat → State
  | 0 => s
  | fuel + 1 =>
    match execPoolEntryGrant unit loc s with
    | .next s' => s'.poolRetest unit loc fuel
    | _ => s

/-- A write of BP_LIM on the queue selected (R458). -/
def State.bpLimWrite (s : State) (sel : Nat × Nat × Nat) (v : Word) : WrRes :=
  let unit := sel.1
  let loc := sel.2.1
  let cap := (v.extractLsb' 16 16).toNat
  let min_ := (v.extractLsb' 0 16).toNat
  let others := (List.range (poolQueues unit)).foldl (fun a q => a + (if q = sel.2.2 then min_ else (s.poolLim unit loc q).1)) 0
  if min_ ≤ cap ∧ cap ≤ poolSize unit ∧ others ≤ poolSize unit then
    let s := { s with bpLim := tset s.bpLim (poolKey unit loc sel.2.2) (min_, cap) }
    .ok (s.poolRetest unit loc ((s.die loc).prqWait.length + (s.die loc).pushes.length + 64))
  else .bad

/-- BP_LIM_WRITE (R458), by firmware on the queue that BP_SEL of a context names. -/
def execBpLimWrite (part ctx : Nat) (v : BitVec 32) (s : State) : Host.Outcome State Fault Refusal :=
  .next ((s.bpLimWrite (bpSelect (s.ctx (ctxKey part ctx)).bpSel none) v).orElse s)

/-! ### Task queues, counters, the Ephemeris and measurement -/

/-- The word of TQ_CFG (Table 11.6). -/
def TaskQ.cfg (t : TaskQ) : Word :=
  BitVec.ofNat 32 ((if t.en then 2 ^ 31 else 0) + t.part * 2 ^ 24 + t.high * 2 ^ 12 + t.low)

/-- A write of TQ_CFG (R303). -/
def State.tqCfgWrite (s : State) (d q : Nat) (v : Word) : WrRes :=
  let t := s.tq d q
  let part := (v.extractLsb' 24 5).toNat
  let high := (v.extractLsb' 12 12).toNat
  let low := (v.extractLsb' 0 12).toNat
  if high ≠ 0 ∧ high ≤ low then .bad
  else if part ≠ t.part ∧ t.recs ≠ [] then .bad
  else .ok ((s.modTq d q fun t => { t with en := v.getLsbD 31, part := part, high := high, low := low }).tqServe d q)

/-- TQ_CFG_WRITE (R303). -/
def execTqCfgWrite (die queue : Nat) (v : BitVec 32) (s : State) : Host.Outcome State Fault Refusal :=
  .next ((s.tqCfgWrite die queue v).orElse s)

/-- A write of EV_SEL (R431, Table 20.5). -/
def State.evSelWrite (s : State) (cl : Nat) (v : Word) : WrRes :=
  if (List.range 4).all fun k => decide ((v.extractLsb' (8 * k) 8).toNat ≤ 0x3F) then .ok (s.setEvSel cl v) else .bad

/-- EV_SEL_WRITE (R431). -/
def execEvSelWrite (cluster : Nat) (v : BitVec 32) (s : State) : Host.Outcome State Fault Refusal :=
  .next ((s.evSelWrite cluster v).orElse s)

/-- A write of EPH_CTL (R432): the first interval begins at the write that sets EN. -/
def State.ephCtlWrite (s : State) (part : Nat) (v : Word) : WrRes :=
  let k := (v.extractLsb' 8 5).toNat
  let en := v.getLsbD 0
  if k < 10 ∨ 24 < k then .bad
  else
    let s := if en && !(s.part part).ephEn then
        ((s.clustersOf part).foldl (fun a c => a.modCluster c fun x => { x with evTick := x.ev }) s).modPart part fun p =>
          { p with ephClock := false }
      else s
    .ok (s.modPart part fun p => { p with ephK := k, ephIrq := v.getLsbD 1, ephEn := en })

/-- EPH_CTL_WRITE (R432). -/
def execEphCtlWrite (part : Nat) (v : BitVec 32) (s : State) : Host.Outcome State Fault Refusal :=
  .next ((s.ephCtlWrite part v).orElse s)

/-- A write of MR_CTL (R446), which only the machine level makes; the RO field BUSY is ignored (R5). -/
def State.mrCtlWrite (s : State) (part : Nat) (v : Word) : WrRes :=
  let n := (v.extractLsb' 0 5).toNat
  let en := v.getLsbD 8
  if n < 1 ∨ 16 < n ∨ (en && (s.part part).ckSize == 0) then .bad
  else .ok (s.modPart part fun p => { p with mrEn := en, mrPasses := n })

/-- MR_CTL_WRITE (R446). -/
def execMrCtlWrite (part : Nat) (v : BitVec 32) (s : State) : Host.Outcome State Fault Refusal :=
  .next ((s.mrCtlWrite part v).orElse s)

end Sys2Proof.Machine
end

