-- ==== Sys2Proof/Machine/Regs.lean ====
section
/-! DEFINITION. The system registers (R343): what a read of each returns (R5) and what a write of each does, by the tables of
the chapters. -/

namespace Sys2Proof.Machine

/-- For whom a register is read or written: its context's key, its cluster, and the fibre, or none for the mailbox at MACH
(R452, R479). -/
structure RegAt where
  ctx : Nat
  cluster : Nat
  fib : Option Nat
  deriving Repr

def RegAt.part (r : RegAt) : Nat := r.ctx / 16
def RegAt.mach (r : RegAt) : Bool := r.fib.isNone

/-- A word of a 64-bit register replaced. -/
def setHalf (hi : Bool) (x : DWord) (v : Word) : DWord := if hi then cat32 v (lo32 x) else cat32 (hi32 x) v

/-- A half of a 64-bit register. -/
def half (hi : Bool) (x : DWord) : Word := if hi then hi32 x else lo32 x

/-- A bit as a number. -/
def bit (b : Bool) (n : Nat) : Nat := if b then 2 ^ n else 0

/-- A count limited to a field of `n` bits. -/
def capped (x n : Nat) : Nat := min x (2 ^ n - 1)

/-- The strand, the fibre and the skein of a reader. -/
def State.regStrand (s : State) (r : RegAt) : Strand := (r.fib.bind fun k => s.strand? (fibStrand k)).getD { blocks := 0 }
def State.regFib (s : State) (r : RegAt) : Fibre := (r.fib.bind s.fib?).getD { laneSet := 0, pc := 0 }
def State.regSkein (s : State) (r : RegAt) : Skein :=
  (r.fib.bind fun k => s.skein? (fibSkein k)).getD
    { launch := 0, index := 0, part := 0, ctx := 0, pro := (0, 0, 0, 0), full := (0, 0, 0, 0) }

/-! ### Reads -/

/-- Registers 0x000 to 0x03F (Table 12.1). -/
def State.readTrap (s : State) (r : RegAt) (n : Nat) : Word :=
  let c := s.ctx r.ctx
  let p := s.part r.part
  let f := (s.regFib r).frame
  if n = 0x000 then (s.regStrand r).ctl
  else if n = 0x002 ∨ n = 0x003 then half (n == 0x003) c.tvec
  else if n = 0x008 then lo32 f.pc
  else if n = 0x010 then hi32 f.pc
  else if n = 0x009 then f.cause
  else if n = 0x00A ∨ n = 0x00B then half (n == 0x00B) f.addr
  else if 0x00C ≤ n ∧ n ≤ 0x00E then lanesWord f.mask (n - 0x00C)
  else if n = 0x00F then f.word
  else if n = 0x020 then c.preGrace
  else if n = 0x021 then c.preKill
  else if n = 0x022 then c.slice
  else if n = 0x024 ∨ n = 0x025 then half (n == 0x025) c.ctxSave
  else if n = 0x028 ∨ n = 0x029 then half (n == 0x029) p.ckLog
  else if n = 0x02A then p.ckSize
  else if n = 0x02B then p.ckEpoch
  else if n = 0x02C then BitVec.ofNat 32 (bit p.ckFull 0)
  else if n = 0x030 ∨ n = 0x031 then half (n == 0x031) p.stopBase
  else 0

/-- Whether a class has an unconsumed failed operation (Table 10.3): for class M, a stopped batch whose trap has not been
taken. -/
def Strand.unconsumed (st : Strand) (k : OpClass) : Bool :=
  match k with
  | .m => (st.mxOpen :: st.batches).any fun b => b.stopped && !b.reissue
  | k => st.fails.any fun f => f.1 == k

/-- Registers 0x040 to 0x05F (Tables 10.3, 10.4), 0x060 to 0x07F (Tables 13.7, 13.8) and 0x080 to 0x09F (Tables 15.1, 15.2). -/
def State.readUnit (s : State) (r : RegAt) (n : Nat) : Word :=
  let st := s.regStrand r
  let k := s.regSkein r
  let sk := (r.fib.map fibSkein).getD 0
  let strand := (r.fib.map fibStrand).getD 0
  if n = 0x040 then
    BitVec.ofNat 32 (st.cnt .m % 64 + st.cnt .c % 64 * 2 ^ 8 + st.cnt .g % 64 * 2 ^ 16 + st.cnt .x % 64 * 2 ^ 24)
  else if n = 0x041 then
    BitVec.ofNat 32 (bit (st.unconsumed .m) 0 + bit (st.unconsumed .c) 1 + bit (st.unconsumed .g) 2 + bit (st.unconsumed .x) 3)
  else if n = 0x042 ∨ n = 0x043 then half (n == 0x043) st.afAddr
  else if n = 0x044 then st.afDone
  else if n = 0x045 then st.afInfo
  else if n = 0x046 then st.promiseLast
  else if n = 0x060 then
    BitVec.ofNat 32 (st.mxNext % 4096 + st.mxOpen.ops % 64 * 2 ^ 12 + bit ((st.mxOpen :: st.batches).any (·.stopped)) 18)
  else if n = 0x061 then st.mxFlags
  else if n = 0x062 then BitVec.ofNat 32 (k.accs.foldl (fun a e => a + 2 ^ e.1) 0)
  else if n = 0x063 then BitVec.ofNat 32 (k.accs.length % 64 + k.accLimit % 64 * 2 ^ 8)
  else if n = 0x064 then BitVec.ofNat 32 ((s.cluster r.cluster).pinned % 1024)
  else if n = 0x080 then BitVec.ofNat 32 (st.fns.foldl (fun a e => a + 2 ^ e.1) 0)
  else if n = 0x081 then BitVec.ofNat 32 (k.fnLimit % 512 + s.fnHeld sk % 512 * 2 ^ 16)
  else if n = 0x082 then BitVec.ofNat 32 (((s.cluster r.cluster).fnq.filter fun o => o.strand == strand).length % 64)
  else if n = 0x084 ∨ n = 0x085 then half (n == 0x085) (s.regFib r).fnFref
  else 0

/-- Registers 0x0A0 to 0x0BF (Table 11.5). -/
def State.readTask (s : State) (r : RegAt) (n : Nat) : Word :=
  let c := s.ctx r.ctx
  let d := clusterDie r.cluster
  let frs := s.launches.filterMap fun l => if l.2.ctxKey == r.ctx then l.2.frontier else none
  if n = 0x0A0 then BitVec.ofNat 32 c.tqSel
  else if n = 0x0A1 then (if r.mach then 0 else (s.tq d c.tqSel).cfg)
  else if n = 0x0A2 then (if r.mach then 0 else BitVec.ofNat 32 (s.tq d c.tqSel).recs.length)
  else if n = 0x0A3 then
    BitVec.ofNat 32 (s.allFibs.filter fun f =>
      (match f.2.wait with | .faultQ _ => true | _ => false) && s.strandCtx (fibStrand f.1) == r.ctx &&
        (r.mach || clusterDie (fibCluster f.1) == d)).length
  else if n = 0x0A8 then
    match (s.regFib r).task with
    | some t => BitVec.ofNat 32 (2 ^ 31 + t.queue)
    | none => 0
  else if n = 0x0B0 then
    BitVec.ofNat 32 (bit (!frs.isEmpty) 31 + capped (frs.foldl (fun a f => a + f.inflight.length) 0) 13)
  else if n = 0x0B2 ∨ n = 0x0B3 then half (n == 0x0B3) ((frs.head?.map (·.image)).getD 0)
  else 0

/-- Entries of a cluster's substitution table of a partition in a state. -/
def State.subCount (s : State) (cl part : Nat) (st : SubState) : Nat :=
  ((s.cluster cl).subst.filter fun e => e.part == part && e.state == st).length

/-- Registers 0x0C0 to 0x0DF (Tables 18.6, 18.7). -/
def State.readSubst (s : State) (r : RegAt) (n : Nat) : Word :=
  let c := s.ctx r.ctx
  let cnt := fun st => s.subCount r.cluster r.part st
  if n = 0x0C0 then (s.part r.part).substCtl
  else if n = 0x0C1 then
    (if r.mach then 0
     else BitVec.ofNat 32 (cnt .probation + cnt .promoted * 2 ^ 8 + cnt .rejected * 2 ^ 16 + cnt .withdrawn * 2 ^ 24))
  else if n = 0x0C2 ∨ n = 0x0C3 then half (n == 0x0C3) c.escBase
  else if n = 0x0C4 then c.escCount
  else 0

/-- Registers 0x0E0 to 0x0FF (Tables 20.5, 20.6). -/
def State.readDebug (s : State) (r : RegAt) (n : Nat) : Word :=
  let c := s.ctx r.ctx
  let p := s.part r.part
  let cl := s.cluster r.cluster
  if n = 0x0E0 then BitVec.ofNat 32 (p.ephK * 2 ^ 8 + bit p.ephIrq 1 + bit p.ephEn 0)
  else if n = 0x0E1 then p.ephSize
  else if n = 0x0E2 ∨ n = 0x0E3 then half (n == 0x0E3) p.ephBase
  else if n = 0x0E4 then p.ephHead
  else if n = 0x0E5 then p.ephTail
  else if n = 0x0E6 then (if r.mach then 0 else cl.evSel)
  else if n = 0x0E7 then BitVec.ofNat 32 (p.trSeg * 2 ^ 24 + bit p.trIrq 2 + bit p.trMode 1 + bit p.trEn 0)
  else if n = 0x0E8 ∨ n = 0x0E9 then half (n == 0x0E9) p.trBase
  else if n = 0x0EA then (if r.mach then 0 else cl.trace.head)
  else if n = 0x0EB then (if r.mach then 0 else cl.trace.tail)
  else if n = 0x0EC then BitVec.ofNat 32 (bit c.dbgIrq 1 + bit c.dbgHold 0)
  else if n = 0x0ED then c.dbgStopH
  else if n = 0x0EF then c.dbgHead
  else if n = 0x0F0 ∨ n = 0x0F1 then half (n == 0x0F1) c.dbgBase
  else if 0x0F2 ≤ n ∧ n ≤ 0x0F5 then c.bpOfs.getD (n - 0x0F2) 0
  else if n = 0x0F6 ∨ n = 0x0F7 then c.bpHdl.getD (n - 0x0F6) 0
  else if n = 0x0F8 then BitVec.ofNat 32 (bit p.rpFull 31 + p.rpSize * 2 ^ 24)
  else if n = 0x0F9 then p.rpHead
  else if n = 0x0FA ∨ n = 0x0FB then half (n == 0x0FB) p.rpBase
  else if n = 0x0FC then BitVec.ofNat 32 (bit p.mrLaunch.isSome 31 + bit p.mrEn 8 + p.mrPasses)
  else if n = 0x0FD then BitVec.ofNat 32 (p.mrMismatch.toNat % 2 ^ 16 * 2 ^ 16 + p.mrPass % 32)
  else if n = 0x0FE ∨ n = 0x0FF then half (n == 0x0FF) p.mrArea
  else 0

/-- The partition below MACH, for BP_SEL.PART (Table 22.2). -/
def RegAt.own (r : RegAt) : Option Nat := if r.mach then none else some r.part

/-- Registers 0x100 to 0x1FF (Tables 22.1, 22.2). -/
def State.readPart (s : State) (r : RegAt) (n : Nat) : Word :=
  let c := s.ctx r.ctx
  let p := s.part r.part
  let sel := bpSelect c.bpSel r.own
  if n = 0x100 then BitVec.ofNat 32 r.part
  else if n = 0x101 then BitVec.ofNat 32 (p.rangeLimit * 2 ^ 8 + p.rangeBase)
  else if n = 0x102 then p.qosWt
  else if n = 0x104 ∨ n = 0x105 then half (n == 0x105) p.colours
  else if n = 0x106 then p.icWays
  else if n = 0x108 ∨ n = 0x109 then half (n == 0x109) p.baseTbl
  else if n = 0x10A then p.codeTmo
  else if n = 0x110 then
    (if r.mach then c.bpSel else (c.bpSel &&& ~~~0x001F0000#32) ||| BitVec.ofNat 32 (r.part * 2 ^ 16))
  else if n = 0x111 then
    let l := s.poolLim sel.1 sel.2.1 sel.2.2
    BitVec.ofNat 32 (l.2 * 2 ^ 16 + l.1)
  else if n = 0x112 then
    BitVec.ofNat 32 (capped (s.poolCount sel.1 sel.2.1 sel.2.2) 16 +
      (poolSize sel.1 - s.poolTotal sel.1 sel.2.1) * 2 ^ 16)
  else if n = 0x118 ∨ n = 0x119 then half (n == 0x119) p.fwdBase
  else if n = 0x11A then p.fwdCount
  else if n = 0x11B then
    BitVec.ofNat 32 (bit p.cmpBusy 31 + bit p.cmpErr 30 + bit (s.cmpParked r.part) 2 + bit p.cmpPark 0)
  else 0

/-- Registers 0x200 to 0x2FF (Tables 7.8 to 7.10). -/
def State.readXl (s : State) (r : RegAt) (n : Nat) : Word :=
  let c := s.ctx r.ctx
  if n = 0x200 ∨ n = 0x201 then half (n == 0x201) c.xlRoot
  else if n = 0x202 then BitVec.ofNat 32 (bit c.en 2 + bit c.prqIrq 1 + bit c.prqEn 0)
  else if n = 0x204 ∨ n = 0x205 then half (n == 0x205) c.privRoot
  else if n = 0x206 then c.privLane
  else if n = 0x208 ∨ n = 0x209 then half (n == 0x209) c.xlInvVa
  else if n = 0x20A then BitVec.ofNat 32 (bit c.xlInvBusy 31)
  else if n = 0x210 ∨ n = 0x211 then half (n == 0x211) c.prqRing
  else if n = 0x212 then c.prqSize
  else if n = 0x213 then c.prqHead
  else if n = 0x214 then c.prqTail
  else 0

/-- The value of a system register (R343). -/
def State.regRead (s : State) (r : RegAt) (n : Nat) : Word :=
  if n < 0x040 then s.readTrap r n
  else if n < 0x0A0 then s.readUnit r n
  else if n < 0x0C0 then s.readTask r n
  else if n < 0x0E0 then s.readSubst r n
  else if n < 0x100 then s.readDebug r n
  else if n < 0x200 then s.readPart r n
  else s.readXl r n

/-! ### Writes -/

/-- Store into a register of a context or a partition where the value is in range. -/
def State.putCtx (s : State) (r : RegAt) (ok : Bool) (f : Context → Context) : WrRes := if ok then .ok (s.modCtx r.ctx f) else .bad
def State.putPart (s : State) (r : RegAt) (ok : Bool) (f : Partition → Partition) : WrRes := if ok then .ok (s.modPart r.part f) else .bad

/-- Whether the low word of a base is aligned. -/
def alignedLow (hi : Bool) (v : Word) (n : Nat) : Bool := hi || v.toNat % n == 0

/-- A power of two from `lo` to `hi`. -/
def powerIn (v : Word) (lo hi : Nat) : Bool :=
  (List.range 17).any fun e => v.toNat == 2 ^ e && decide (lo ≤ 2 ^ e) && decide (2 ^ e ≤ hi)

/-- Change a fibre or strand register; the mailbox reaches none (R479). -/
def State.putFib (s : State) (r : RegAt) (f : Fibre → Fibre) : WrRes :=
  match r.fib with
  | some k => .ok (s.modFib k f)
  | none => .bad

def State.putStrand (s : State) (r : RegAt) (f : Strand → Strand) : WrRes :=
  match r.fib with
  | some k => .ok (s.modStrand (fibStrand k) f)
  | none => .bad

/-- Registers 0x000 to 0x03F (Tables 12.1, 12.2). CTX_SAVE is set through the mailbox (DEDUCED: nothing else sets it; log entry
27). -/
def State.writeTrap (s : State) (r : RegAt) (n : Nat) (v : Word) : WrRes :=
  if n = 0x000 then s.putStrand r fun st => { st with ctl := v &&& 0x3FF }
  else if n = 0x002 ∨ n = 0x003 then s.putCtx r true fun c => { c with tvec := setHalf (n == 0x003) c.tvec v }
  else if n = 0x008 ∨ n = 0x010 then
    s.putFib r fun f => { f with frame := { f.frame with pc := setHalf (n == 0x010) f.frame.pc v } }
  else if n = 0x018 then .ok (s.fqResume r.ctx v)
  else if n = 0x020 then s.putCtx r true fun c => { c with preGrace := v }
  else if n = 0x021 then s.putCtx r true fun c => { c with preKill := v }
  else if n = 0x022 then s.putCtx r true fun c => { c with slice := v }
  else if n = 0x024 ∨ n = 0x025 then s.putCtx r r.mach fun c => { c with ctxSave := setHalf (n == 0x025) c.ctxSave v }
  else if n = 0x028 ∨ n = 0x029 then
    s.putPart r (alignedLow (n == 0x029) v 4096) fun p => { p with ckLog := setHalf (n == 0x029) p.ckLog v }
  else if n = 0x02A then s.putPart r true fun p => { p with ckSize := v }
  else if n = 0x030 ∨ n = 0x031 then
    s.putPart r (alignedLow (n == 0x031) v 64) fun p => { p with stopBase := setHalf (n == 0x031) p.stopBase v }
  else .bad

/-- Registers 0x040 to 0x0DF that can be written: MX_FLAGS (W1C), TQ_SEL, TQ_CFG and those of Table 18.6. -/
def State.writeUnit (s : State) (r : RegAt) (n : Nat) (v : Word) : WrRes :=
  if n = 0x061 then s.putStrand r fun st => { st with mxFlags := st.mxFlags &&& ~~~(v &&& 0x1F) }
  else if n = 0x0A0 then s.putCtx r true fun c => { c with tqSel := v.toNat % 64 }
  else if n = 0x0A1 then (if r.mach then .bad else s.tqCfgWrite (clusterDie r.cluster) (s.ctx r.ctx).tqSel v)
  else if n = 0x0C0 then s.putPart r true fun p => { p with substCtl := v &&& 0x000FFFF1 }
  else if n = 0x0C2 ∨ n = 0x0C3 then
    s.putCtx r (alignedLow (n == 0x0C3) v 64) fun c => { c with escBase := setHalf (n == 0x0C3) c.escBase v }
  else if n = 0x0C4 then s.putCtx r (v == 0) fun c => { c with escCount := 0 }
  else .bad

/-- A breakpoint's address, resolved (R467). -/
def State.bpResolve (s : State) (r : RegAt) (i : Nat) : State :=
  let c := s.ctx r.ctx
  let w := c.bpOfs.getD i 0
  let h := bits (c.bpHdl.getD (i / 2) 0).toNat (16 * (i % 2)) 12
  let a := if w.getLsbD 0 then beBase (s.entryMem r.part h) + BitVec.ofNat 64 (w.toNat / 4 * 4) else 0
  s.modCtx r.ctx fun c => { c with bpBase := lset c.bpBase i a }

/-- A write of TR_CTL (Table 20.6): each stream begins with a SYNC after EN is set (R436). -/
def State.trCtlWrite (s : State) (part : Nat) (v : Word) : WrRes :=
  let seg := (v.extractLsb' 24 5).toNat
  if seg < 12 ∨ 24 < seg then .bad
  else
    let en := v.getLsbD 0
    let s := if en && !(s.part part).trEn then
        (s.clustersOf part).foldl (fun a c => a.modCluster c fun x => { x with trace := { x.trace with fresh := true } }) s
      else s
    .ok (s.modPart part fun p => { p with trSeg := seg, trIrq := v.getLsbD 2, trMode := v.getLsbD 1, trEn := en })

/-- Registers 0x0E0 to 0x0FF (Tables 20.5, 20.6). -/
def State.writeDebug (s : State) (r : RegAt) (n : Nat) (v : Word) : WrRes :=
  if n = 0x0E0 then s.ephCtlWrite r.part v
  else if n = 0x0E1 then s.putPart r (powerIn v 16 65536) fun p => { p with ephSize := v }
  else if n = 0x0E2 ∨ n = 0x0E3 then
    s.putPart r (alignedLow (n == 0x0E3) v 16) fun p => { p with ephBase := setHalf (n == 0x0E3) p.ephBase v }
  else if n = 0x0E5 then s.putPart r true fun p => { p with ephTail := v }
  else if n = 0x0E6 then (if r.mach then .bad else s.evSelWrite r.cluster v)
  else if n = 0x0E7 then s.trCtlWrite r.part v
  else if n = 0x0E8 ∨ n = 0x0E9 then
    s.putPart r (alignedLow (n == 0x0E9) v (2 ^ (s.part r.part).trSeg)) fun p => { p with trBase := setHalf (n == 0x0E9) p.trBase v }
  else if n = 0x0EB then
    (if r.mach then .bad else .ok (s.modCluster r.cluster fun c => { c with trace := { c.trace with tail := v } }))
  else if n = 0x0EC then s.putCtx r true fun c => { c with dbgIrq := v.getLsbD 1, dbgHold := v.getLsbD 0 }
  else if n = 0x0ED then s.putCtx r true fun c => { c with dbgStopH := v &&& 0xFFFF }
  else if n = 0x0EE then s.dbgOp r.ctx v
  else if n = 0x0F0 ∨ n = 0x0F1 then
    s.putCtx r (alignedLow (n == 0x0F1) v 64) fun c => { c with dbgBase := setHalf (n == 0x0F1) c.dbgBase v }
  else if 0x0F2 ≤ n ∧ n ≤ 0x0F5 then
    .ok ((s.modCtx r.ctx fun c => { c with bpOfs := lset c.bpOfs (n - 0x0F2) (v &&& 0xFFFFFFFD) }).bpResolve r (n - 0x0F2))
  else if n = 0x0F6 ∨ n = 0x0F7 then
    let s := s.modCtx r.ctx fun c => { c with bpHdl := lset c.bpHdl (n - 0x0F6) (v &&& 0x0FFF0FFF) }
    .ok ((s.bpResolve r (2 * (n - 0x0F6))).bpResolve r (2 * (n - 0x0F6) + 1))
  else if n = 0x0F8 then
    let z := (v.extractLsb' 24 5).toNat
    -- an SRWR that sets the RO field FULL traps (R439; log entry 93); a write through the mailbox has it ignored (R5)
    s.putPart r ((r.mach || !v.getLsbD 31) && decide (16 ≤ z) && decide (z ≤ 30)) fun p => { p with rpSize := z }
  else if n = 0x0FA ∨ n = 0x0FB then
    s.putPart r (alignedLow (n == 0x0FB) v 4096) fun p => { p with rpBase := setHalf (n == 0x0FB) p.rpBase v }
  else if n = 0x0FC then s.mrCtlWrite r.part v
  else if n = 0x0FE ∨ n = 0x0FF then
    s.putPart r (alignedLow (n == 0x0FF) v 4096) fun p => { p with mrArea := setHalf (n == 0x0FF) p.mrArea v }
  else .bad

/-- Whether a partition holds a resident or saved context, or a launch in its front end (R453). -/
def State.partBusy (s : State) (p : Nat) : Bool := (s.skeins.any fun e => e.2.part == p) || s.launches.any fun e => e.2.part == p

/-- The present clusters of a range (R11, R451). -/
def State.inRange (s : State) (x : Partition) : List Nat :=
  (List.range 192).filter fun c => decide (x.rangeBase ≤ c) && decide (c ≤ x.rangeLimit) && !s.absent.contains c

/-- Whether the ways of `p` (R454) suit its range beside the other partitions. -/
def State.waysOk (s : State) (p : Nat) (x : Partition) : Bool :=
  let quads := fun (y : Partition) => (s.inRange y).map clusterQuad
  ((s.inRange x).isEmpty || x.icWays != 0) &&
    (List.range 32).all fun q => q == p || x.icWays &&& (s.part q).icWays == 0 || !((quads x).any (quads (s.part q)).contains)

/-- What a cluster keeps of a partition that no longer owns it: nothing (R455). -/
def State.clusterLeaves (s : State) (p cl : Nat) : State :=
  let c := s.cluster cl
  let s := (c.l1.map (·.1) ++ c.uo.map (·.1)).foldl (fun a line => a.evict cl line) s
  let lost := ((s.cluster cl).pf.filter (·.part == p)).length +
    (((s.cluster cl).misses.filter (·.part == p)).map (·.pfs.length)).foldl (· + ·) 0
  (if lost = 0 then s else s.count cl 0x1C lost).modCluster cl fun c =>
    { c with
      subst := c.subst.map fun e => if e.part == p then { installs := e.installs } else e
      sampler := c.sampler.map fun e => if (e.map fun x => x.part == p).getD false then none else e
      tlb := c.tlb.filter (·.part != p), misses := c.misses.filter (·.part != p), pf := c.pf.filter (·.part != p) }

/-- A write of PART_RANGE (R451, R453 to R455). -/
def State.rangeWrite (s : State) (p : Nat) (v : Word) : WrRes :=
  let b := v.toNat % 256
  let l := v.toNat / 256 % 256
  let x := { s.part p with rangeBase := b, rangeLimit := l }
  let clash := (List.range 32).any fun q =>
    q != p && !(s.inRange (s.part q)).isEmpty && !(s.inRange x).isEmpty && decide (b ≤ (s.part q).rangeLimit) && decide ((s.part q).rangeBase ≤ l)
  if s.partBusy p || decide (191 < b) || decide (191 < l) || clash || !s.waysOk p x then .refused
  else
    let gone := (s.clustersOf p).filter fun c => decide (c < b) || decide (l < c)
    .ok ((gone.foldl (fun a c => a.clusterLeaves p c) s).modPart p fun y => { y with rangeBase := b, rangeLimit := l })

/-- A write of IC_WAYS (R453, R454): the lines of a way that is lost are invalidated. -/
def State.waysWrite (s : State) (p : Nat) (v : Word) : WrRes :=
  let w := v &&& 0xFFFF
  if s.partBusy p || !s.waysOk p { s.part p with icWays := w } then .refused
  else
    let lost := (s.part p).icWays &&& ~~~w
    .ok ((s.icDrop (List.range 16) fun e => e.part == p && lost.getLsbD e.way).modPart p fun x => { x with icWays := w })

/-- A write of half of L2_COLOURS (R453, R454): the lines of a colour that is lost leave the slices. -/
def State.coloursWrite (s : State) (p : Nat) (hi : Bool) (v : Word) : WrRes :=
  let c := setHalf hi (s.part p).colours v
  if s.partBusy p || (List.range 32).any fun q => q != p && (s.part q).colours &&& c != 0 then .refused
  else
    .ok ((s.l2Drop fun n e => e.part == p && !c.getLsbD (lineColour (n * 128))).modPart p fun x => { x with colours := c })

/-- A write of half of BASE_TBL: later resolutions use the new table. -/
def State.baseTblWrite (s : State) (p : Nat) (hi : Bool) (v : Word) : WrRes :=
  if !alignedLow hi v 4096 then .bad
  else
    .ok ((s.icDrop (List.range 16) fun e => e.part == p && e.entry).modPart p fun x => { x with baseTbl := setHalf hi x.baseTbl v })

/-- Whether a BP_SEL value is in range (Table 22.2). -/
def bpSelOk (v : Word) : Bool :=
  let unit := (v.extractLsb' 21 3).toNat
  let loc := (v.extractLsb' 24 8).toNat
  unit != 7 && (unit == 5 || (v.extractLsb' 0 6).toNat == 0) &&
    decide (loc < (if unit = 0 then 1 else if unit = 2 ∨ unit = 3 then 192 else 4))

/-- Registers 0x100 to 0x1FF (Tables 22.1, 22.2). -/
def State.writePart (s : State) (r : RegAt) (n : Nat) (v : Word) : WrRes :=
  let p := r.part
  if n = 0x101 then s.rangeWrite p v
  else if n = 0x102 then
    let w := v &&& 0x7F
    s.putPart r (decide (1 ≤ w.toNat) && decide (w.toNat ≤ 64)) fun x => { x with qosWt := w }
  else if n = 0x104 ∨ n = 0x105 then s.coloursWrite p (n == 0x105) v
  else if n = 0x106 then s.waysWrite p v
  else if n = 0x108 ∨ n = 0x109 then s.baseTblWrite p (n == 0x109) v
  else if n = 0x10A then s.putPart r (decide (1 ≤ v.toNat) && decide (v.toNat ≤ 2 ^ 24)) fun x => { x with codeTmo := v }
  else if n = 0x110 then
    let keep := fun (old : Word) => if r.mach then v &&& 0x001F0000 else old &&& 0x001F0000
    s.putCtx r (bpSelOk v) fun c => { c with bpSel := (v &&& 0xFFE0003F) ||| keep c.bpSel }
  else if n = 0x111 then s.bpLimWrite (bpSelect (s.ctx r.ctx).bpSel r.own) v
  else if n = 0x118 ∨ n = 0x119 then
    s.putPart r (alignedLow (n == 0x119) v 8) fun x => { x with fwdBase := setHalf (n == 0x119) x.fwdBase v }
  else if n = 0x11A then s.putPart r (decide (1 ≤ v.toNat) && decide (v.toNat ≤ 256)) fun x => { x with fwdCount := v }
  else if n = 0x11B then s.cmpCtlWrite p r.fib v
  else .bad

/-- Registers 0x200 to 0x2FF (R183, Tables 7.8 to 7.10); an SRWR leaves EN as it is, and so does this write. -/
def State.writeXl (s : State) (r : RegAt) (n : Nat) (v : Word) : WrRes :=
  if n = 0x200 ∨ n = 0x201 then s.putCtx r true fun c => { c with xlRoot := setHalf (n == 0x201) c.xlRoot v }
  else if n = 0x202 then s.putCtx r true fun c => { c with prqIrq := v.getLsbD 1, prqEn := v.getLsbD 0 }
  else if n = 0x204 ∨ n = 0x205 then
    s.putCtx r (alignedLow (n == 0x205) v 4096) fun c => { c with privRoot := setHalf (n == 0x205) c.privRoot v }
  else if n = 0x206 then
    let e := v &&& 0x3F
    s.putCtx r (decide (8 ≤ e.toNat) && decide (e.toNat ≤ 32)) fun c => { c with privLane := e }
  else if n = 0x208 ∨ n = 0x209 then s.putCtx r true fun c => { c with xlInvVa := setHalf (n == 0x209) c.xlInvVa v }
  else if n = 0x20A then s.xlInvWrite r.ctx v
  else if n = 0x210 ∨ n = 0x211 then s.putCtx r true fun c => { c with prqRing := setHalf (n == 0x211) c.prqRing v }
  else if n = 0x212 then s.putCtx r (powerIn v 64 65536) fun c => { c with prqSize := v }
  else if n = 0x214 then s.putCtx r true fun c => { c with prqTail := v }
  else .bad

/-- Write a system register (R343). -/
def State.regWrite (s : State) (r : RegAt) (n : Nat) (v : Word) : WrRes :=
  if n < 0x040 then s.writeTrap r n v
  else if n < 0x0E0 then s.writeUnit r n v
  else if n < 0x100 then s.writeDebug r n v
  else if n < 0x200 then s.writePart r n v
  else s.writeXl r n v

end Sys2Proof.Machine
end

