-- ==== Sys2Proof/Machine/Sys.lean ====
section
/-! DEFINITION. Substitution and system instructions, opcodes 0xE8 to 0xF4 (R339 to R346, R423 to R427, R448), with CKPT_TAKE. -/

namespace Sys2Proof.Machine

/-! ### TRAP, BRK and RTE -/

/-- TRAP (R340): it ends its run as its YL and STALL say (R88, R339). -/
def execTrap (f : T96) (s : State) : Host.Outcome State Fault Refusal :=
  endRunWith (.trap f) s fun c s =>
    if c.fallsOff then .trap { cause := .pcWrap }
    else .trapIn (c.closeRun s) { cause := .trapSoft, addr := BitVec.ofNat 64 f.imm26.toNat, next := true }

/-- BRK (R342): once released from its stop under DBG_CTL.HOLD, before which no beat of it issues (R440), it acts as RUNEND (R442). -/
def execBrk (f : T96) (s : State) : Host.Outcome State Fault Refusal :=
  endRunWith (.brk f) s fun c s =>
    if c.fallsOff then .trap { cause := .pcWrap }
    else if c.f.passBrk then c.gotoNext s
    else .trapIn (c.closeRun s) { cause := .break, addr := BitVec.ofNat 64 f.imm26.toNat, next := true }

/-- The return of R341 to a checked reference: mask, level and, inside a run, q0 to q7 and the run position come back from the slot,
which is then free; no deferred cause is being delivered any more, so FN_FREF is zero (Table 15.1). -/
def Ctx.rteTo (c : Ctx) (s : State) (sl : TrapSlot) (ref : DWord) : State :=
  let same := ref == sl.resume
  let inside := same && !sl.runStart
  let s := ((c.closeRun s).endRun c.k ref).setRef c.k ref
  let s := s.modStrand c.strand fun st =>
    let st := (List.range 3).foldl
      (fun a e => a.poke (253 + e) (c.f.laneSet &&& groupLanes e) fun l => if sl.em.getLsbD l then 1 else 0) st
    if inside then sl.qs.zipIdx.foldl (fun a q => a.pokeRow (240 + q.2) c.f.laneSet q.1) st else st
  let s := s.modFib c.k fun f =>
    { f with
      level := sl.level, slot := none, runPos := if inside then sl.runPos else 0, run := if same then sl.run else none
      noPromise := same && sl.noPromise, fnFref := 0 }
  (s.packet c.k 5 (BitVec.ofNat 8 3 :: bytesOfNat 8 ref.toNat ++ lanesBytes (c.f.laneSet &&& sl.em))).toReady c.k

/-- RTE (R341). -/
def execRte (f : T96) (s : State) : Host.Outcome State Fault Refusal :=
  endRunWith (.rte f) s fun c s =>
    match c.f.slot with
    | none => .trap { cause := .illField }
    | some sl =>
      match c.refTrap s c.f.frame.pc with
      | some t => .trap t
      | none => .fin (c.rteTo s sl c.f.frame.pc)

/-! ### System registers (R343) -/

/-- The registers an issuing fibre reaches. -/
def Ctx.regAt (c : Ctx) (s : State) : RegAt := { ctx := s.strandCtx c.strand, cluster := c.cluster, fib := some c.k }

/-- SRRD (R343). -/
def execSrrd (f : I64) (s : State) : Host.Outcome State Fault Refusal :=
  issue (.srrd f) s fun c s => .next (c.put s f.d (fun _ => s.regRead (c.regAt s) f.sr) 3)

/-- The escape record of an SRWR (Table 18.3). -/
def Ctx.escapeSr (c : Ctx) (s : State) (a : BitVec 8) (n : Nat) : Except Trap State :=
  match c.tagOf a.toNat c.low with
  | some t =>
    c.escape s [{ lane := c.low, tag := t, data := true, addrT := false, addr := BitVec.ofNat 64 n, value := c.rdLow a.toNat }]
  | none => .ok s

/-- SRWR (R343): nothing with act empty; a value out of range traps; a write that must wait is made again. The forwarding table of a
write of CMP_CTL is read after the fibre's earlier stores (R469). -/
def execSrwr (f : I64) (s : State) : Host.Outcome State Fault Refusal :=
  issue (.srwr f) s fun c s =>
    let v := c.rdLow f.a.toNat
    if c.act == 0 then .next s
    else
      match s.regWrite (c.regAt s) f.sr v with
      | .bad => .trap { cause := .illField }
      | .refused => .trap { cause := .illField }
      | .wait => .again (s.stall c.k .unit)
      | .ok _ =>
        match c.escapeSr s f.a f.sr with
        | .error t => .trap t
        | .ok s =>
          let s := if f.sr = 0x11B then s.drainStores c.k else s
          .next ((s.regWrite (c.regAt s) f.sr v).orElse s)

/-! ### Counts -/

/-- CYCRD (R344). -/
def execCycrd (f : X64) (s : State) : Host.Outcome State Fault Refusal :=
  issue (.cycrd f) s fun c s =>
    let v := if f.imm8.getLsbD 0 then s.refCount else c.is.r2
    .next (c.putPair s f.d (fun _ => BitVec.ofNat 64 v) 2)

/-- Physical counter `k` of a cluster (R431). -/
def Cluster.counter (c : Cluster) (k : Nat) : Word :=
  BitVec.ofNat 32 ((tget? c.ev (c.evSel.extractLsb' (8 * k) 6).toNat).getD 0) - BitVec.ofNat 32 (c.evBase.getD k 0)

/-- EVRD (R345). -/
def execEvrd (f : X64) (s : State) : Host.Outcome State Fault Refusal :=
  issue (.evrd f) s fun c s =>
    .next (c.put s f.d (fun _ => (s.cluster c.cluster).counter (f.imm8.toNat % 4)) 3)

/-- TRMARK (R448): it takes effect with act empty. -/
def execTrmark (f : X64) (s : State) : Host.Outcome State Fault Refusal :=
  issue (.trmark f) s fun c s =>
    let v := if f.a = 248 then f.imm8.toNat else (c.rdLow f.a.toNat).toNat % 65536
    .next (s.packet c.k 7 (bytesOfNat 2 v))

/-! ### CKPT (R346) -/

/-- CKPT (R346). -/
def execCkpt (f : X64) (s : State) : Host.Outcome State Fault Refusal :=
  issue (.ckpt f) s fun c s =>
    let p := s.strandPart c.strand
    let at_ := fun (w : Word) => Res.next (c.putBits s f.d.toNat c.act (fun _ => w) 0xFFFFFFFF 0 c.laneTag)
    if (s.part p).ckSize == 0 then at_ 0xFFFFFFFF
    else if (s.part p).ckPending.isSome then at_ 0xFFFFFFFE
    else
      let s := s.drainStores c.k
      .next ((s.modPart p fun x => { x with ckPending := some c.k }).park c.k (.ckpt f.d.toNat c.act (c.tagsIn c.act)))

/-- CKPT_TAKE (R346, R337): with every other launch of the partition completed, a new epoch opens with an empty log. -/
def execCkptTake (part : Nat) (s : State) : Host.Outcome State Fault Refusal :=
  match (s.part part).ckPending with
  | none => .next s
  | some k =>
    match (s.fib? k).map Fibre.wait with
    | some (.ckpt dst act tags) =>
      let mine := (s.skein? (fibSkein k)).map (·.launch)
      if s.launches.all fun l => l.2.part != part || some l.1 == mine then
        let e := (s.part part).ckEpoch + 1
        let s := s.modPart part fun p => { p with ckEpoch := e, undo := [], ckFull := false, ckPending := none }
        .next (s.statusTo k dst act tags e)
      else .next s
    | _ => .next s

/-! ### The substitution table and the escape log (R423 to R427) -/

/-- The entry index of R423, or the trap of one above 63. -/
def Ctx.subIndex (c : Ctx) (a : BitVec 8) : Except Trap Nat :=
  let n := (c.rdLow a.toNat).toNat
  if 63 < n then .error { cause := .illField } else .ok n

/-- The code of a state (Table 18.1). -/
def SubState.code : SubState → Nat
  | .free => 0
  | .probation => 1
  | .promoted => 2
  | .rejected => 3
  | .withdrawn => 4

/-- Field values as the bytes of a word. -/
def bytesWord (rs : List Nat) : Word := BitVec.ofNat 32 (rs.zipIdx.foldl (fun a r => a + r.1 % 256 * 2 ^ (8 * r.2)) 0)

/-- Word `w` of an entry's descriptor (Table 18.9). -/
def SubEntry.word (e : SubEntry) (idx w : Nat) : Word :=
  let ofs := pcOffset e.start
  match w with
  | 0 => BitVec.ofNat 32 (e.id idx * 2 ^ 16 + e.part * 2 ^ 8 + e.state.code)
  | 1 => BitVec.ofNat 32 (pcHandle e.start)
  | 2 => BitVec.ofNat 32 ofs
  | 3 => BitVec.ofNat 32 (ofs / 2 ^ 32)
  | 4 => BitVec.ofNat 32 e.serial
  | 5 => BitVec.ofNat 32 e.clean
  | 6 => BitVec.ofNat 32 e.spot
  | 7 =>
    BitVec.ofNat 32 (coverWord e.cover e.ins.length + e.ins.length * 2 ^ 8 + e.outs.length * 2 ^ 12 + e.cand.length * 2 ^ 16)
  | 8 => bytesWord e.ins
  | 9 => bytesWord e.outs
  | w => if w < 16 then 0 else ((e.cand.flatMap encode)[w - 16]?).getD 0

/-- SBRD (R424): a free entry, and one of another partition, reads as zeros (R422). -/
def execSbrd (f : X64) (s : State) : Host.Outcome State Fault Refusal :=
  issue (.sbrd f) s fun c s =>
    match c.subIndex f.a with
    | .error t => .trap t
    | .ok n =>
      let e := (s.cluster c.cluster).subst.getD n {}
      let mine := e.state != .free && e.part == s.strandPart c.strand
      .next (c.put s f.d (fun l => if mine && decide (l < 32) then e.word n l else 0) 3)

/-- ESCRD (R425): the words are read as a load that misses. -/
def execEscrd (f : X64) (s : State) : Host.Outcome State Fault Refusal :=
  issue (.escrd f) s fun c s =>
    let k := (c.rdLow f.a.toNat).toNat
    let x := s.ctx (s.strandCtx c.strand)
    let base := x.escBase.toNat % 2 ^ 56 + 64 * k
    let lanes : List LaneAcc := if x.escCount.toNat ≤ k then [] else
      ((lanesIn c.act).filter (· < 16)).map fun l =>
        { lane := l, addr := BitVec.ofNat 64 (base + 4 * l)
          bytes := (List.range 4).map fun i => { loc := .mem (base + 4 * l + i), kind := .rc } }
    let p := s.takeSeq c.k
    .next (p.1.parkMiss c.k
      { form := { dst := f.d.toNat, sz := 2, sx := false }, lanes := lanes, seq := p.2, word := c.i.word0, act := c.act, acq := false
        hint := 2, tags := c.tagsIn c.act })

/-- SBWD (R426): the index first, then EN; it takes effect with act empty. -/
def execSbwd (f : X64) (s : State) : Host.Outcome State Fault Refusal :=
  issue (.sbwd f) s fun c s =>
    let part := s.strandPart c.strand
    match c.subIndex f.a with
    | .error t => .trap t
    | .ok n =>
      if !substEn (s.part part).substCtl then .trap { cause := .substDisabled }
      else
        .next (s.modSub c.cluster n fun e =>
          if e.part == part && (e.state == .probation || e.state == .promoted) then
            { e with state := if f.imm8 = 3 then .rejected else .withdrawn }
          else e)

/-- Free an entry of a partition, and its run's sampler entry (R427). -/
def State.subFree (s : State) (cl part n : Nat) : State :=
  let e := (s.cluster cl).subst.getD n {}
  if e.state == .free || e.part != part then s
  else
    (s.modSub cl n fun e => { installs := e.installs }).modCluster cl fun c =>
      { c with sampler := c.sampler.map fun x =>
          if (x.map fun y => y.part == part && y.start == e.start).getD false then none else x }

/-- Free the DONE sampler entries of a partition, whose runs have no table entry (R406; DEDUCED, log entry 28). -/
def State.doneFree (s : State) (cl part : Nat) : State :=
  s.modCluster cl fun c =>
    { c with sampler := c.sampler.map fun x => if (x.map fun y => y.part == part && y.done).getD false then none else x }

/-- SBCLR (R427): it takes effect with act empty. -/
def execSbclr (f : X64) (s : State) : Host.Outcome State Fault Refusal :=
  issue (.sbclr f) s fun c s =>
    let part := s.strandPart c.strand
    if f.imm8.getLsbD 0 then
      .next (((List.range 64).foldl (fun a n => a.subFree c.cluster part n) s).doneFree c.cluster part)
    else
      match c.subIndex f.a with
      | .error t => .trap t
      | .ok n => .next (s.subFree c.cluster part n)

end Sys2Proof.Machine
end

