-- ==== Sys2Proof/Machine/Fetch.lean ====
section
/-! DEFINITION. Code that has not arrived: the events of R463. -/

namespace Sys2Proof.Machine

/-- CODE_ARRIVAL (R463): the bit is read again, and a fibre whose page has arrived is ready; that read is an acquire at .sys. -/
def execCodeArrival (k : Nat) (s : State) : Host.Outcome State Fault Refusal :=
  match s.fib? k with
  | some f =>
    match f.wait with
    | .code _ => .next (if f.state == .parked && s.arrived k f.pc then (s.syncPoint k).ready k else s)
    | _ => .next s
  | none => .next s

/-- CODE_UNARRIVED (R463): after CODE_TMO ticks of the reference timer the fetch traps, delivered PARK. -/
def execCodeUnarrived (k : Nat) (s : State) : Host.Outcome State Fault Refusal :=
  match s.fib? k, s.strand? (fibStrand k) with
  | some f, some st =>
    match f.wait with
    | .code since =>
      if f.state == .parked && decide (since + (s.part (s.fibPart k)).codeTmo.toNat ≤ s.refCount) then
        .next (s.takeTrap k { cause := .codeUnarrived, addr := s.fetchTfaddr k, word := some 0 } (st.mask f.laneSet (tri1 s.cycle)) 0)
      else .next s
    | _ => .next s
  | _, _ => .next s

end Sys2Proof.Machine
end

