-- ==== Sys2Proof/Machine/EvRun.lean ====
section
/-! DEFINITION. Events of the units around the fibres: slot hand-out (R72), deferred traps (R160), page walks and page requests (R179
to R181), arbitration (R456), carding (R408), the Ephemeris and trace streams (R432, R438), and measurement passes (R447). -/

namespace Sys2Proof.Machine

/-! ### Slots (R72, R74, R300, R468) -/

/-- Whether CMP_CTL.PARK keeps a fibre from hand-out (R468). -/
def State.cmpHeld (s : State) (k : Nat) : Bool :=
  let p := s.part (s.fibPart k)
  p.cmpPark && p.cmpExempt != some k

/-- Whether a measurement of another launch of the partition keeps a fibre from running (R447). -/
def State.mrHeld (s : State) (k : Nat) : Bool :=
  match s.skein? (fibSkein k) with
  | some sk => ((s.part sk.part).mrLaunch.map fun n => n != sk.launch).getD false
  | none => false

/-- The class at which a fibre takes its next hand-out: 3 after YL or YIELD, 0 while its task's queue is raised, else its
launch's. -/
def State.handClass (s : State) (k : Nat) (f : Fibre) : Nat :=
  if f.last3 then 3
  else if (f.task.map fun t => (s.tq t.die t.queue).raised).getD false then 0
  else ((s.skein? (fibSkein k)).map (·.cls)).getD 3

/-- The order of R72: class, stamp, skein id, path index. -/
def State.handKey (s : State) (k : Nat) (f : Fibre) : Nat × Nat × Nat × Nat :=
  (s.handClass k f, f.stamp, strandSid (fibStrand k), fibPath k)

def keyLt (a b : Nat × Nat × Nat × Nat) : Bool :=
  decide (a.1 < b.1) || (a.1 == b.1 && (decide (a.2.1 < b.2.1) || (a.2.1 == b.2.1 &&
    (decide (a.2.2.1 < b.2.2.1) || (a.2.2.1 == b.2.2.1 && decide (a.2.2.2 < b.2.2.2))))))

/-- Whether a fibre of a spindle may take a slot. -/
def State.mayHand (s : State) (c i : Nat) (k : Nat) (f : Fibre) : Bool :=
  fibCluster k == c && f.state == .ready && !f.wait.entering && !f.saved && !s.cmpHeld k && !s.mrHeld k && (f.inBody || !(s.ctx (s.strandCtx (fibStrand k))).halting) &&
    ((s.strand? (fibStrand k)).map fun st => st.spindle == i).getD false

/-- The fibre that takes the next free slot of a spindle. -/
def State.nextHand (s : State) (c i : Nat) : Option Nat :=
  ((s.allFibs.filter fun f => s.mayHand c i f.1 f.2).foldl
    (fun (a : Option (Nat × Fibre)) f =>
      match a with
      | none => some f
      | some b => if keyLt (s.handKey f.1 f.2) (s.handKey b.1 b.2) then some f else a) none).map (·.1)

/-- SLOT_HANDOUT (R72). -/
def execSlotHandout (cluster spindle slot : Nat) (s : State) : Host.Outcome State Fault Refusal :=
  if (s.spindle cluster spindle).slots[slot]? = some none then
    match s.nextHand cluster spindle with
    | none => .next s
    | some k =>
      let s := s.modSpindle cluster spindle fun sp => { sp with slots := lset sp.slots slot (some k) }
      .next (s.modFib k fun f => { f with state := .running, last3 := false, beats := [] })
  else .next s

/-- Whether a fibre stops at its boundary, and with what cause and detail (R438, R440, R442): a release passes one stop, but
that of a BRK under DBG_CTL.HOLD only where it is of that BRK, and a run under substitution is stopped only at its terminator
(R415). -/
def State.stopCheck (s : State) (k : Nat) (f : Fibre) : Option (Nat × Nat) :=
  let c := s.ctx (s.strandCtx (fibStrand k))
  let brk := fun (_ : Unit) =>
    if c.dbgHold && !f.passBrk then
      match s.fetch k f with
      | .instr (.brk t) => some (15, t.imm26.toNat)
      | _ => none
    else none
  if f.inBody then none
  else if f.passStop then brk ()
  else if f.stopReq || f.stepReq then some (90, 0)
  else if (s.cluster (fibCluster k)).trace.holding && s.traced k then some (91, 0)
  else ((c.bpMatch f.pc).map fun n => (15, n)).orElse brk

/-- DEFERRED_TRAP_DELIVERY (R160, R199, R384): the oldest cause of a fibre that is due, at an instruction boundary, its trap slot
being free. -/
def execDeferredTrapDelivery (k : Nat) (s : State) : Host.Outcome State Fault Refusal :=
  match s.fib? k, s.strand? (fibStrand k) with
  | some f, some st =>
    match f.deferred.find? fun e => decide (e.2.since ≤ s.cycle) with
    | none => .next s
    | some e =>
      if f.slot.isSome || f.wait.entering || !f.beats.isEmpty || f.state != .running || (s.stopCheck k f).isSome then .next s
      else
        .next ((s.modFib k fun f => { f with deferred := f.deferred.erase e }).deliver k e.2 f.pc (f.runPos == 0)
          (st.mask f.laneSet (tri1 s.cycle)))
  | _, _ => .next s

/-! ### Walks and page requests (R179 to R181, R456) -/

/-- Note a failed walk against the operation of an engine that waited for it. -/
def Cluster.noteUnit (c : Cluster) (page : Nat) (e : Cause) : UnitReq → Cluster
  | .eng strand cls num =>
    { c with copies := c.copies.map fun o =>
        if o.strand == strand && o.cls == cls && o.num == num then { o with walks := o.walks ++ [(page, e)] } else o }
  | .mx ord => { c with mxq := c.mxq.map fun o => if o.ord == ord then { o with walks := o.walks ++ [(page, e)] } else o }

/-- Walks of a die that hold one of its 64 page walkers (R180). -/
def State.walkers (s : State) (d : Nat) : Nat :=
  s.clusters.foldl (fun a c => if clusterDie c.1 = d then a + (c.2.misses.filter (·.walker)).length else a) 0

/-- The miss at the head of a cluster's queue for the walkers: the oldest that holds none (R456). -/
def Cluster.headMiss (c : Cluster) : Option Nat := c.misses.findIdx? fun m => !m.walker

/-- The waiting walk a die's arbiter grants next: of the clusters' heads the one of greatest age, the lowest cluster first (R180, R456). -/
def State.nextGrant (s : State) (d : Nat) : Option (Nat × Nat) :=
  (s.clusters.foldl
    (fun (a : Option (Nat × Nat × Nat)) c =>
      if clusterDie c.1 ≠ d then a
      else
        match c.2.headMiss with
        | none => a
        | some n =>
          let age := ((c.2.misses[n]?).map (·.age)).getD 0
          match a with
          | none => some (age, c.1, n)
          | some b => if b.1 < age then some (age, c.1, n) else a) none).map (·.2)

/-- A walk without a walker takes one when its turn has come and one is free (R180). -/
def State.grantWalk (s : State) (c idx : Nat) : State :=
  let d := clusterDie c
  if 64 ≤ s.walkers d ∨ s.nextGrant d ≠ some (c, idx) then s
  else
    match (s.cluster c).misses[idx]? with
    | some m => s.modCluster c fun x => { x with misses := lset x.misses idx { m with walker := true } }
    | none => s

/-- WALK_COMPLETE (R180): walk `idx` of a cluster's miss table takes a walker, or with one ends. The requesters issue again, with the
translation, or with the failure noted against the page. A walk older than an invalidation is discarded (R182). -/
def execWalkComplete (c idx : Nat) (s : State) : Host.Outcome State Fault Refusal :=
  match (s.cluster c).misses[idx]? with
  | none => .next s
  | some m =>
    if !m.walker then .next (s.grantWalk c idx)
    else
      let key := ctxKey m.part m.ctx
      let s := (s.modCluster c fun x => { x with misses := x.misses.eraseIdx idx }).count c 0x14 1
      let s := (walkKeys s.mem s.poison m.part m.ctx (m.page * 4096 % 2 ^ 57) walkLevels (s.ctx key).root).foldl (fun a k => a.goHome c k) s
      let note := fun (s : State) (e : Cause) =>
        let s := m.units.foldl (fun a u => a.modCluster c fun x => x.noteUnit m.page e u) s
        m.fibs.foldl (fun a k => a.modFib k fun f => if f.wait == .walk then { f with walks := f.walks ++ [(m.page, e)] } else f) s
      let s :=
        if m.stale then m.pfs.foldl (fun a r => (a.enterPf c key r.va r).getD (a.count c 0x1C 1)) s
        else
          match s.walk key (m.page * 4096) with
          | .ok x => m.pfs.foldl (fun a r => a.pfGo c r x) (s.tlbFill c x)
          | .invalid => m.pfs.foldl (fun a _ => a.count c 0x1C 1) (note s .ldXlate)
          | .error => m.pfs.foldl (fun a _ => a.count c 0x1C 1) (note s .walkError)
      .next (s.readyWalks c m.fibs)

/-- The walk of a die that goes on next: one that holds a walker, or the one that is to take a free one. -/
def State.nextWalk (s : State) (d : Nat) : Option (Nat × Nat) :=
  (s.clusters.findSome? fun c =>
    if clusterDie c.1 = d then (c.2.misses.findIdx? (·.walker)).map fun n => (c.1, n) else none).orElse fun _ => s.nextGrant d

/-- Walks of a die, begun and ended one after another, until none is left of a page in a cluster's miss table. -/
def State.walkNow (s : State) (c key page : Nat) : Nat → State
  | 0 => s
  | fuel + 1 =>
    if !(s.cluster c).misses.any fun m => ctxKey m.part m.ctx == key && m.page == page then s
    else
      match s.nextWalk (clusterDie c) with
      | some w =>
        match execWalkComplete w.1 w.2 s with
        | .next s' => s'.walkNow c key page fuel
        | _ => s
      | none => s

/-- Make all that is left of an operation in the present cycle, the walks that it waits for with it (R180, R263). -/
def State.runEng (s : State) (o : EngOp) : Nat → State
  | 0 => s
  | fuel + 1 =>
    let p := s.startEng o
    let rs := p.2.plan.getD []
    let cl := strandCluster o.strand
    let key := s.strandCtx o.strand
    let p := p.1.flyParts p.2 0
    match (if p.2.ending.isSome then .more p.1 p.2 else p.1.bursts p.2 rs false (burstCount rs)) with
    | .over s o fail => s.lastBurst o fail
    | .more s o => s.endEng o
    | .wait s o =>
      let s := s.setEng o
      match (rs[o.idx]?).bind fun r => s.burstMiss o r with
      | some va =>
        let s := s.walkNow cl key (pageOf va) (2 * s.clusters.foldl (fun a c => a + c.2.misses.length) 1)
        match (s.cluster cl).copies.find? fun x => x.ord == o.ord with
        | some o => s.runEng o fuel
        | none => s
      | none => s

/-- A copy of a launch of class 0 that no pre-emption has saved completes by the cycle it promised (R263): what is left of it is made at
once, started after those before it in its queue (R251). -/
def State.keepPromises (s : State) (cl : Nat) : State :=
  let due := (s.cluster cl).copies.filter fun o =>
    (o.promise.map fun t => decide (t ≤ s.cycle)).getD false && (((s.launchOf (mkFib o.strand 0)).map (·.cls)).getD 1 == 0) &&
      !(s.ctx (s.strandCtx o.strand)).halting &&
      !(((s.strand? o.strand).map fun st => st.ops.any fun x => x.cls == o.cls && x.num == o.num && x.saved).getD false)
  due.foldl
    (fun a o =>
      let before := (a.cluster cl).copies.takeWhile fun x => x.ord != o.ord
      let a := before.foldl (fun a x => if x.plan.isNone && x.cls != .x then (a.startEng x).1.setEng (a.startEng x).2 else a) a
      match (a.cluster cl).copies.find? fun x => x.ord == o.ord with
      | some x => a.runEng x (2 * ((x.plan.getD (a.engRanges x.strand x.kind)).foldl (fun n r => n + r.n / 4096 + 2) 4))
      | none => a) s

/-- ARB_AGE_STEP (R456): at every cycle that is a multiple of 64 the head of each cluster's queue for the walkers ages by its partition's
weight. The packets of the other arbiters are not in the model, whose accesses take open times (log entries 81 and 110). -/
def execArbAgeStep (s : State) : Host.Outcome State Fault Refusal :=
  if s.cycle % 64 ≠ 0 then .next s
  else
    let older := fun (c : Cluster) =>
      match c.headMiss with
      | some n =>
        match c.misses[n]? with
        | some m => { c with misses := lset c.misses n { m with age := min 65535 (m.age + (s.part m.part).qosWt.toNat % 128) } }
        | none => c
      | none => c
    .next { s with clusters := s.clusters.map fun c => (c.1, older c.2) }

/-- The bytes of a page-request record (Table 7.6). -/
def prqBytes (e : PrqEntry) : List Byte :=
  bytesOfNat 8 e.addr.toNat ++ bytesOfNat 4 e.seq.toNat ++ bytesOfNat 2 e.cluster ++ bytesOfNat 2 e.sid ++
    [BitVec.ofNat 8 e.path, e.cause.code, BitVec.ofNat 8 e.part, BitVec.ofNat 8 e.flags] ++ List.replicate 12 0

/-- Whether a context's ring takes a record. -/
def Context.prqRoom (c : Context) : Bool := c.en && c.prqEn && c.prqHead - c.prqTail != c.prqSize

/-- PAGE_REQUEST_DRAIN (R181, R291, Tables 7.8 and 7.9): the oldest queued record of a context is written, PRQ_HEAD advances, and the
vector is raised where PRQ_IRQ or the record asks for it. -/
def execPageRequestDrain (die ctx : Nat) (s : State) : Host.Outcome State Fault Refusal :=
  match (s.die die).prq.find? fun e => ctxKey e.part e.ctx == ctx with
  | none => .next s
  | some e =>
    let c := s.ctx ctx
    if !c.prqRoom then .next s
    else
      let s := s.memWriteBytes (some e.part) (c.prqRing.toNat % 2 ^ 56 / 32 * 32 + 32 * (c.prqHead.toNat % c.prqSize.toNat)) (prqBytes e)
      let s := s.modCtx ctx fun c => { c with prqHead := c.prqHead + 1 }
      let s := s.modDie die fun d => { d with prq := d.prq.erase e }
      let s := if c.prqIrq || e.irq then s.raise (4 * e.part + 1) else s
      .next (s.poolRetest 4 die 1)

/-! ### Carding (R406 to R408) -/

/-- The instructions of a candidate given by its words; none where one is no instruction of LEN 0b00. -/
def candInstrs (ws : List (BitVec 64)) : Option (List Instr) :=
  ws.mapM fun w =>
    match decode (bytesOfNat 8 w.toNat) with
    | .ok (i, 8) => some i
    | _ => none

/-- Whether a candidate agrees with the original on one sample. -/
def Sampler.agrees (x : Sampler) (cand : List Instr) (smp : Nat × Nat × List Word) : Bool :=
  let lanes := lanesOf (· == smp.2.1)
  let ins := x.ins.zip (smp.2.2.map fun w => List.replicate 96 w)
  let a := textOuts x.text ins lanes x.outs
  let b := textOuts cand ins lanes x.outs
  (a.zip b).all fun o => laneW o.1 smp.2.1 == laneW o.2 smp.2.1

/-- TRIAL (R71, R408, R421): the original and a candidate run on one sample, with SUBST_CTL.EN, in beats that idle cycles of the
partition's clusters have carried; how many a trial takes is not stated (log entry 10). -/
def execTrial (cluster job sample : Nat) (cand : List (BitVec 64)) (s : State) : Host.Outcome State Fault Refusal :=
  match ((s.cluster cluster).sampler.getD job none), candInstrs cand with
  | some x, some is =>
    let at_ := match x.trial with
      | some (c, n) => if c == is then n else 0
      | none => 0
    let p := s.part x.part
    if !s.sampled cluster x || x.done || p.cmpPark || !substEn p.substCtl || p.trialBeats == 0 || !candOk is x.text x.ins x.outs ||
        at_ != sample then .next s
    else
      let ok := (x.samples[sample]?.map fun v => x.agrees is v).getD false
      let s := s.modCluster cluster fun c =>
        { c with sampler := lset c.sampler job (some { x with trial := if ok then some (is, sample + 1) else none }) }
      .next (s.modPart x.part fun p => { p with trialBeats := 0 })
  | _, _ => .next s

/-- CANDIDATE_INSTALL (R406, R408): a candidate that matched on all 64 samples goes into the lowest FREE entry, in PROBATION, and
its sampler entry is freed; with no entry free, or with no candidate (an empty text), the sampler entry is DONE. -/
def execCandidateInstall (cluster job : Nat) (cand : List (BitVec 64)) (s : State) : Host.Outcome State Fault Refusal :=
  let c := s.cluster cluster
  match c.sampler.getD job none, candInstrs cand with
  | some x, some is =>
    let close := fun (s : State) (v : Option Sampler) => s.modCluster cluster fun c => { c with sampler := lset c.sampler job v }
    if !s.sampled cluster x || x.done then .next s
    else if is.isEmpty then .next (close s (some { x with done := true, trial := none }))
    else if x.trial != some (is, 64) then .next s
    else
      match c.subst.findIdx? fun e => e.state == .free with
      | none => .next (close s (some { x with done := true, trial := none }))
      | some n =>
        let base := beBase (s.entry (clusterQuad cluster) x.part (pcHandle x.start))
        let e : SubEntry :=
          { state := .probation, installs := (c.subst.getD n {}).installs + 1, part := x.part, start := x.start, base := base
            ins := x.ins, outs := x.outs, cand := is, text := x.text, endI := x.endI }
        let s := s.modSub cluster n fun _ => e
        .next (close (s.modCluster cluster fun c => { c with subRuns := tset c.subRuns (e.id n) (pcOffset x.start % 2 ^ 32) }) none)
  | _, _ => .next s

/-! ### The Ephemeris (R432, R433) -/

/-- The clusters of a partition on a die. -/
def State.clustersOn (s : State) (part d : Nat) : List Nat := (s.clustersOf part).filter fun c => clusterDie c == d

/-- The count of an event over a die's share of a partition since the last tick. -/
def State.ephCount (s : State) (part d i : Nat) : Nat :=
  min (2 ^ 32 - 1) ((s.clustersOn part d).foldl
    (fun a c => a + (((tget? (s.cluster c).ev i).getD 0) - ((tget? (s.cluster c).evTick i).getD 0))) 0)

/-- An Ephemeris record with no records lost (Table 20.2). -/
def State.ephRecord (s : State) (part d : Nat) : List Byte :=
  let p := s.part part
  [0xE7, BitVec.ofNat 8 d, BitVec.ofNat 8 p.ephK, if p.ephClock then 2 else 0, BitVec.ofNat 8 part, 0, 0, 0] ++
    bytesOfNat 8 (s.cycle / 2 ^ p.ephK) ++ (List.range 64).flatMap fun i => bytesOfNat 4 (s.ephCount part d i)

/-- Write a record into the ring, with the count of those lost before it. -/
def State.ephPut (s : State) (part : Nat) (r : List Byte) : State :=
  let p := s.part part
  let r := r.take 3 ++ [(r.getD 3 0) ||| (if p.ephLost = 0 then 0 else 1)] ++ (r.drop 4).take 2 ++
    bytesOfNat 2 (min 65535 p.ephLost) ++ r.drop 8
  let s := s.memWriteBytes (some part) (p.ephBase.toNat % 2 ^ 56 + 272 * (p.ephHead.toNat % p.ephSize.toNat)) r
  let s := s.modPart part fun p => { p with ephHead := p.ephHead + 1, ephLost := 0 }
  if p.ephIrq then s.raise (4 * part + 2) else s

/-- Whether the Ephemeris ring has room. -/
def Partition.ephRoom (p : Partition) : Bool := p.ephHead - p.ephTail != p.ephSize

/-- Write what waits while the ring has room. -/
def State.ephDrain (s : State) (part : Nat) : Nat → State
  | 0 => s
  | n + 1 =>
    match (s.part part).ephWait with
    | [] => s
    | r :: rest =>
      if (s.part part).ephRoom then ((s.modPart part fun p => { p with ephWait := rest }).ephPut part r).ephDrain part n else s

/-- The merger takes a record: it waits among at most 16, or is dropped. -/
def State.ephTake (s : State) (part : Nat) (r : List Byte) : State :=
  let s := s.modPart part fun p =>
    if p.ephWait.length < 16 ∨ p.ephRoom then { p with ephWait := p.ephWait ++ [r] } else { p with ephLost := p.ephLost + 1 }
  s.ephDrain part 17

/-- The tick of a partition. -/
def State.ephTickOf (s : State) (part : Nat) : State :=
  let dies := (List.range 4).filter fun d => !(s.clustersOn part d).isEmpty
  let rs := dies.map (s.ephRecord part)
  let s := rs.foldl (fun a r => a.ephTake part r) (s.ephDrain part 16)
  let s := (s.clustersOf part).foldl (fun a c => a.modCluster c fun x => { x with evTick := x.ev }) s
  s.modPart part fun p => { p with ephClock := false }

/-- Whether a partition's counters are latched at this cycle. -/
def State.ephDue (s : State) (part : Nat) : Bool := (s.part part).ephEn && s.cycle % 2 ^ (s.part part).ephK == 0

/-- EPHEMERIS_TICK (R432, R433). -/
def execEphemerisTick (s : State) : Host.Outcome State Fault Refusal :=
  .next (((List.range 32).filter s.ephDue).foldl State.ephTickOf s)

/-! ### Trace streams (R434 to R439) -/

/-- Payload bytes of a packet by type (Table 20.3). -/
def packetPayload (type : Nat) : Nat := [0, 15, 19, 16, 4, 24, 3, 5, 8, 3, 3].getD type 0

/-- Bytes of the packet at the front of the staging buffer. -/
def packetLen (h : Byte) : Nat := 1 + h.toNat % 16 + packetPayload (h.toNat / 16)

/-- Room in a segment, in bytes. -/
def TraceSeg.room (t : TraceSeg) (seg : Nat) : Nat := 2 ^ seg - (t.head - t.tail).toNat

/-- Whether the first staged packet fits. -/
def TraceSeg.drains (t : TraceSeg) (seg : Nat) : Bool :=
  match t.staged with
  | [] => false
  | h :: _ => decide (packetLen h ≤ t.room seg)

/-- Write staged packets into a segment, each before the advance past it, while they fit. -/
def State.traceDrain (s : State) (c part : Nat) : Nat → State
  | 0 => s
  | n + 1 =>
    let p := s.part part
    let t := (s.cluster c).trace
    match t.staged with
    | [] => s
    | h :: _ =>
      let len := min (packetLen h) t.staged.length
      if len ≤ t.room p.trSeg then
        let base := p.trBase.toNat % 2 ^ 56 + 2 ^ p.trSeg * (c - p.rangeBase)
        let s := (t.staged.take len).zipIdx.foldl
          (fun a b => a.memWrite (some part) (base + (t.head.toNat + b.2) % 2 ^ p.trSeg) b.1) s
        let s := s.modCluster c fun x =>
          { x with trace := { x.trace with head := x.trace.head + BitVec.ofNat 32 len, staged := x.trace.staged.drop len } }
        (if p.trIrq then s.raise (4 * part + 2) else s).traceDrain c part n
      else s

/-- Stop or release the traced fibres of a cluster by what its buffer holds, under MODE 1 (R438): READY ones stand at a boundary. -/
def State.traceHold (s : State) (c : Nat) : State :=
  let t := (s.cluster c).trace
  let mode := ((s.owner c).map fun p => (s.part p).trMode).getD false
  let here := s.allFibs.filter fun f => fibCluster f.1 == c
  if !t.holding && mode && decide (384 ≤ t.staged.length) then
    let s := s.modCluster c fun x => { x with trace := { x.trace with holding := true } }
    here.foldl (fun a f => if f.2.state == .ready && !f.2.inBody && !f.2.wait.entering && a.traced f.1 then a.stopFibre f.1 91 0 else a) s
  else if t.holding && (decide (t.staged.length < 128) || !mode) then
    let s := s.modCluster c fun x => { x with trace := { x.trace with holding := false } }
    here.foldl (fun a f => if f.2.state == .stopped && f.2.stopCause == 91 then a.releaseFibre f.1 false else a) s
  else s

/-- Whether a cluster's buffer calls for a stop or a release. -/
def State.traceHoldDue (s : State) (c : Nat) : Bool :=
  let t := (s.cluster c).trace
  let mode := ((s.owner c).map fun p => (s.part p).trMode).getD false
  (!t.holding && mode && decide (384 ≤ t.staged.length)) || (t.holding && (decide (t.staged.length < 128) || !mode))

/-- TRACE_DRAIN (R438, R439). -/
def execTraceDrain (c : Nat) (s : State) : Host.Outcome State Fault Refusal :=
  match s.owner c with
  | none => .next s
  | some p => .next ((s.traceDrain c p (s.cluster c).trace.staged.length).traceHold c)

/-! ### Undo and measurement (R338, R447) -/

/-- Steps 1 and 2 of R338: every logged line is restored from the log in reverse order, and the partition's lines leave the caches. -/
def State.undoAll (s : State) (part : Nat) : State :=
  let p := s.part part
  let s := (List.range p.undo.length).reverse.foldl
    (fun a n =>
      let e := a.memReadBytes (p.undoAt n) undoEntryBytes
      a.memWriteBytes none (recField e 0 8) (e.drop 8)) s
  let s := (s.clustersOf part).foldl
    (fun a c => ((a.cluster c).l1.map (·.1) ++ (a.cluster c).uo.map (·.1)).foldl (fun a n => (a.uoDrop c n).rcDrop c n) a) s
  s.l2Drop fun _ e => e.part == part

/-- The partition's lines and entries leave every instruction cache. -/
def State.icClear (s : State) (part : Nat) : State :=
  s.icDrop (List.range 16) fun e => e.part == part

/-- The counts and the record of the pass that ends; the measurement area is not logged, for the counts outlive the restore. -/
def State.passRecord (s : State) (part : Nat) : State :=
  let p := s.part part
  let area := p.mrArea.toNat % 2 ^ 56
  let s := (s.clustersOf part).foldl
    (fun a c =>
      a.memWriteBytes none (area + 0x200 + 16 * (192 * p.mrPass + c))
        ((List.range 4).flatMap fun k => bytesOfNat 4 ((a.cluster c).counter k).toNat)) s
  let flags := (if p.mrPass ≠ 0 ∧ p.mrSig ≠ p.mrSig0 then 1 else 0) + (if p.ckFull then 2 else 0)
  s.memWriteBytes none (area + 0x40 + 16 * p.mrPass) (bytesOfNat 8 p.mrSig.toNat ++ bytesOfNat 4 flags ++ bytesOfNat 4 0)

/-- A launch as it was when it was accepted, to be run again. -/
def State.rerun (s : State) (n : Nat) : State :=
  match tget? s.launches n with
  | none => s
  | some l =>
    let l := s.withManifest
      { l with
        placed := 0, ended := 0, listed := false, withdrawn := [], binds := [], engFail := false, killed := false
        frontier := l.frontier.map fun f => { f with heights := [], inflight := [], stopped := false } }
    let s := { s with launches := tset s.launches n l }
    match l.frontier with
    | some f => (s.zeroHeights l f).fire n
    | none => s

/-- MEASURE_PASS_END (R447): with every skein of the measured launch ended, the pass is recorded, and memory is restored for the
next one, or the launch completes. -/
def execMeasurePassEnd (part : Nat) (s : State) : Host.Outcome State Fault Refusal :=
  let p := s.part part
  match p.mrLaunch.bind fun n => (tget? s.launches n).map fun l => (n, l) with
  | none => .next s
  | some (n, l) =>
    if !s.launchDone l then .next s
    else
      let s := s.passRecord part
      let s := s.modPart part fun x =>
        if p.mrPass = 0 then { x with mrSig0 := p.mrSig }
        else if p.mrSig ≠ p.mrSig0 then { x with mrMismatch := x.mrMismatch ||| BitVec.ofNat 32 (2 ^ p.mrPass) }
        else x
      if p.mrPass + 1 < p.mrPasses && !p.ckFull then
        let s := ((s.undoAll part).icClear part).modPart part fun x => { x with undo := [] }
        .next ((s.passBegin part (p.mrPass + 1)).rerun n)
      else
        let s := s.modPart part fun x => { x with mrLaunch := none }
        let s := s.tryComplete n
        .next (s.modPart part fun x => { x with ckEpoch := x.ckEpoch + 1, undo := [], ckFull := false, mrEn := false })

end Sys2Proof.Machine
end

