-- ==== Sys2Proof/Machine/EvPreempt.lean ====
section
/-! DEFINITION. Pre-emption (R328 to R330), the save and the restore of a context (R262, R295, R309, R310, R367), kills (R334), and
the halt line with its stop records (R335, R336). -/

namespace Sys2Proof.Machine

/-- Whether a strand runs in a context. -/
def State.strandIn (s : State) (key strand : Nat) : Bool :=
  ((s.skein? (strandSkein strand)).map fun k => ctxKey k.part k.ctx == key).getD false

/-- The skeins of a context. -/
def State.skeinsIn (s : State) (key : Nat) : List (Nat × Skein) := s.skeins.filter fun e => ctxKey e.2.part e.2.ctx == key

/-- The strands of a context. -/
def State.strandsIn (s : State) (key : Nat) : List (Nat × Strand) := s.strands.filter fun e => s.strandIn key e.1

/-- The fibres of a context. -/
def State.fibsIn (s : State) (key : Nat) : List (Nat × Fibre) := s.allFibs.filter fun f => s.strandIn key (fibStrand f.1)

/-- The launches of a context. -/
def State.launchesIn (s : State) (key : Nat) : List (Nat × Launch) := s.launches.filter fun e => e.2.ctxKey == key

/-! ### The soft request and the halt (R328, R330) -/

/-- Whether a fibre stands at a task boundary (R328, R443, R468). -/
def State.atTaskBoundary (s : State) (k : Nat) (f : Fibre) : Bool :=
  f.saved || f.state == .stopped || (f.state == .parked && f.wait.taskBoundary) ||
    (f.state == .ready && s.cmpHeld k)

/-- SLICE_END (R330): the slice is over and the soft request begins; fibres parked at a task boundary are saved at once. -/
def execSliceEnd (ctx : Nat) (s : State) : Host.Outcome State Fault Refusal :=
  let c := s.ctx ctx
  if c.pre == .in_ && c.slice != 0 && decide (c.sliceAt + c.slice.toNat ≤ s.refCount) then
    let s := s.modCtx ctx fun c => { c with pre := .soft s.refCount }
    .next ((s.fibsIn ctx).foldl
      (fun a f => if f.2.state == .parked && f.2.wait.taskBoundary then a.modFib f.1 fun x => { x with saved := true } else a) s)
  else .next s

/-- A running fibre stops at its issue slot. -/
def State.haltFibre (s : State) (k : Nat) : State :=
  ((s.unslot k).unstall k).modFib k fun f => { f with state := .ready, beats := [] }

/-- INSTRUCTION_LEVEL_HALT (R328): PRE_GRACE ticks after the request, every fibre still running stops at its next issue slot; one
in the middle of an instruction does so after it, and one inside a run under substitution at its terminator (R415). -/
def execInstructionLevelHalt (ctx : Nat) (s : State) : Host.Outcome State Fault Refusal :=
  let c := s.ctx ctx
  match c.pre with
  | .soft since =>
    if since + c.preGrace.toNat ≤ s.refCount then
      let s := s.modCtx ctx fun c => { c with pre := .halt s.refCount }
      .next ((s.fibsIn ctx).foldl (fun a f => if f.2.state == .running && f.2.beats.isEmpty && !f.2.inBody then a.haltFibre f.1 else a) s)
    else .next s
  | _ => .next s

/-! ### The save (R309, R329, Table 12.5) -/

/-- What must be over before a fibre is saved: a trap entry that has begun, and its accesses (R233, R327). -/
def Wait.settled : Wait → Bool
  | .miss _ | .atomic _ | .trap .. | .fence _ _ => false
  | _ => true

/-- Whether the units hold nothing of a context that must be over before the save: SFU entries, stores, function operations and
matched collectives (R159, R233, R262, R385). -/
def State.unitsSettled (s : State) (key : Nat) : Bool :=
  s.clusters.all fun c =>
    (c.2.spindles.all fun sp =>
      sp.sfu.all (fun e => !s.strandIn key (fibStrand e.fib)) && sp.stores.all fun e => !s.strandIn key e.strand) &&
    (c.2.fnq.all fun o => !s.strandIn key o.strand) &&
    (c.2.mxq.all fun o => !s.strandIn key o.strand || o.aborted || !(o.begun || o.bindAt.isSome)) &&
    c.2.copies.all fun o =>
      !s.strandIn key o.strand || (o.flying.isEmpty && o.ending.isNone && match o.kind with
        | .coll _ _ _ _ g inst _ _ _ => ((s.strandMember o.strand).bind fun m => s.collMembers m.1 g inst).isNone
        | _ => true)

/-- Whether the save of a context can end: a request stands, everything of the context is settled, and a point whose skein has ended has
completed (R309). -/
def State.saveReady (s : State) (key : Nat) : Bool :=
  ((s.ctx key).softAsked || (s.ctx key).halting) && s.unitsSettled key &&
    ((s.launchesIn key).all fun l => ((l.2.frontier.map (·.inflight)).getD []).all fun p => match p.at_ with
      | .ended _ => false
      | _ => true) &&
    (s.fibsIn key).all fun f =>
    f.2.wait.settled && (match (s.ctx key).pre with
      | .soft _ => s.atTaskBoundary f.1 f.2
      | .halt _ => f.2.state != .running && (f.2.state == .parked || !f.2.inBody)
      | _ => false)

/-- Whether a skein has issued no instruction (R309). -/
def State.unissued (s : State) (sk : Nat) : Bool := (s.strandsOf sk).all fun e => e.2.paths.all fun p => !p.2.issued

/-- Drop the skein of a point that has issued nothing: the point is to be fired again (R309). -/
def State.refire (s : State) (sk : Nat) : State :=
  match s.skein? sk with
  | none => s
  | some k =>
    let s := (s.allFibs.foldl (fun a f => if fibSkein f.1 == sk then a.unslot f.1 else a) s).modLaunch k.launch fun l =>
      { l with frontier := l.frontier.map fun f =>
          { f with inflight := f.inflight.map fun p => if p.at_ == .placed sk then { p with at_ := .waiting } else p } }
    { s with skeins := terase s.skeins sk, strands := s.strands.filter fun e => strandSkein e.1 != sk }

/-- Save the matrix state of a skein (R367): names keep their contents, slots are free. -/
def State.saveAccs (s : State) (sk : Nat) : State :=
  match s.skein? sk with
  | none => s
  | some k =>
    let mem := (s.cluster (sk / 4096)).accMem
    let kept : Table (Table (List Word)) := k.accs.map fun e => (e.1, (tget? mem e.2).getD [])
    (s.modSkein sk fun x => { x with accs := [], accSaved := kept }).modCluster (sk / 4096) fun c =>
      { c with
        accFree := c.accFree ++ k.accs.map (·.2)
        accMem := k.accs.foldl (fun t e => terase t e.2) c.accMem }

/-- Save the queued operations of a strand, matrix ones and copies, in issue order (R262, R367), with a new generation tag
(R333). -/
def State.saveOps (s : State) (strand : Nat) : State :=
  let c := s.cluster (strandCluster strand)
  let ms := c.mxq.filter fun o => o.strand == strand
  let es := c.copies.filter fun o => o.strand == strand
  let s := s.modCluster (strandCluster strand) fun c =>
    { c with mxq := c.mxq.filter fun o => o.strand != strand, copies := c.copies.filter fun o => o.strand != strand }
  s.modStrand strand fun st =>
    { st with
      mxSaved := st.mxSaved ++ ms.map fun o => { o with begun := false, pins := 0, pinAt := none, walks := [] }
      engSaved := st.engSaved ++ es.map fun o => { o with walks := [] }
      gen := st.gen + 1
      ops := st.ops.map fun o => if es.any fun e => e.cls == o.cls && e.num == o.num then { o with saved := true } else o }

/-- The frontier image of a launch (R309); `ofs` gives the offset of a skein's save record. -/
def State.frontierImage (s : State) (l : Launch) (fr : Frontier) (ofs : Nat → Nat) : List Byte :=
  let lines := fr.d1 * fr.d2
  let pts := fr.inflight.foldl (fun a p => insertPoint p a) []
  bytesOfNat 4 0x46524E54 ++ bytesOfNat 4 fr.d0 ++ bytesOfNat 4 fr.d1 ++ bytesOfNat 4 fr.d2 ++ bytesOfNat 4 lines ++
    bytesOfNat 4 pts.length ++ List.replicate 8 0 ++
    ((List.range lines).flatMap fun i => bytesOfNat 4 (s.height l fr i)) ++
    pts.flatMap fun p =>
      bytesOfNat 2 p.p0 ++ bytesOfNat 2 (p.line % fr.d1) ++ bytesOfNat 2 (p.line / fr.d1) ++ [0, 0] ++
        bytesOfNat 4 (match p.at_ with | .placed sk => ofs sk | _ => 0xFFFFFFFF)

/-- An item of a size. -/
def fitBytes (n : Nat) (bs : List Byte) : List Byte := (bs ++ List.replicate n 0).take n

/-- The values of a row of a register with its poison bits. -/
def Row.saved (r : Row) : List Nat := (allLanes.map fun l => (laneW r.vals l).toNat) ++ [r.poison.toNat]

/-- The place of a fibre's state in Table 3.3. -/
def FState.num : FState → Nat
  | .running => 0
  | .ready => 1
  | .parked => 2
  | .stopped => 3

/-- The 3,392-byte record of a path entry (Table 12.5): 64 bytes of path state, q0 to q7, and 256 bytes of trap slot and frame with the
deferred causes that are held. -/
def State.pathRecord (s : State) (st : Strand) (path : Nat) (f : Fibre) : List Byte :=
  let t := s.cycle
  let slot := match f.slot with
    | some x => [1, x.runPos, if x.runStart then 1 else 0, x.em.toNat, if x.level == .super then 1 else 0, x.resume.toNat] ++
        x.qs.flatMap Row.saved
    | none => [0]
  fitBytes 64 (Config.saveBytes 1
    [path, f.pc.toNat, f.laneSet.toNat, (st.mask f.laneSet (tri1 t)).toNat, f.tokens.toNat, f.state.num, f.stamp, f.wb0, f.wb1,
      f.runPos]) ++
    ((List.range 8).flatMap fun q => allLanes.flatMap fun l => bytesOfNat 4 (st.view (240 + q) l (l / 32) t).w.toNat) ++
    fitBytes 256 (Config.saveBytes 2
      (slot ++ [f.frame.pc.toNat, f.frame.cause.toNat, f.frame.addr.toNat, f.frame.mask.toNat, f.frame.word.toNat] ++
        f.deferred.flatMap fun d => [d.2.cause.code.toNat, d.2.addr.toNat]))

/-- A strand record of Table 12.5. -/
def State.strandRecord (s : State) (st : Strand) : List Byte :=
  let cnt := fun (k : OpClass) => (st.ops.filter fun o => o.cls == k).length
  Config.saveBytes 3
    ([st.ctl.toNat, cnt .m, cnt .c, cnt .g, cnt .x, st.mxNext, st.mxClosed] ++
      st.fns.flatMap (fun f => [f.1, f.2.lo.toNat, f.2.hi.toNat, f.2.coef.length]) ++
      (List.range (8 * st.blocks)).flatMap fun r => (st.settledRow r s.cycle).saved) ++
    st.paths.flatMap fun p => s.pathRecord st p.1 p.2

/-- A skein record of Table 12.5: a 64-byte header, scratch, FIFO banks owned, SCRCFG slots, accumulator slots held, the coefficient pool
and the register pool, and the strand records. -/
def State.skeinRecord (s : State) (sk : Nat) (k : Skein) : List Byte :=
  let allot := fun (a : Nat × Nat × Nat × Nat) => [a.1, a.2.1, a.2.2.1, a.2.2.2]
  let cl := s.cluster (sk / 4096)
  let key := ctxKey k.part k.ctx
  fitBytes 64 (Config.saveBytes 4
    ([sk / 4096, sk % 4096, k.strands, if k.granted then 1 else 0] ++ allot k.pro ++ allot k.full ++
      k.bars.flatMap fun b => [b.phase.toNat, b.count])) ++
    Config.saveBytes 5
      (k.scratch.flatMap (fun c => [c.1, c.2.toNat]) ++
        (cl.banks.zipIdx.filter fun b => b.1.owner == some key).flatMap (fun b => b.2 :: b.1.fifo.flatMap Row.saved) ++
        k.scrcfg.flatMap (fun e => [e.1, e.2.1, e.2.2]) ++
        k.accs.flatMap (fun e => e.1 :: ((tget? cl.accMem e.2).getD []).flatMap fun r => r.1 :: r.2.map (·.toNat)) ++
        (s.strandsOf sk).flatMap (fun e => e.2.fns.flatMap fun f => f.2.coef.map (·.toNat)) ++ [k.pool]) ++
    (s.strandsOf sk).flatMap fun e => s.strandRecord e.2

/-- The header of a context save area: reason, skein records, the offset of the frontier image and the time (Table 12.5). -/
def saveHeader (reason n image now : Nat) : List Byte :=
  bytesOfNat 4 0x43534156 ++ bytesOfNat 4 reason ++ bytesOfNat 4 n ++ bytesOfNat 4 image ++ bytesOfNat 8 now ++ List.replicate 40 0

/-- The bytes of a context save area (Table 12.5) and the offset of each frontier image: header, skein records, images. -/
def State.saveArea (s : State) (key reason : Nat) : List Byte × List (Nat × Nat) :=
  let sks := s.skeinsIn key
  let recs := sks.map fun e => (e.1, s.skeinRecord e.1 e.2)
  let start := fun (n : Nat) => 0x40 + ((recs.take n).map fun r => r.2.length).foldl (· + ·) 0
  let ofs := fun (sk : Nat) => start (recs.findIdx fun r => r.1 == sk)
  let frs := (s.launchesIn key).filterMap fun e => e.2.frontier.map fun fr => (e.1, s.frontierImage e.2 fr ofs)
  let first := start recs.length
  let at_ := frs.zipIdx.map fun e => (e.1.1, first + ((frs.take e.2).map fun r => r.2.length).foldl (· + ·) 0)
  (saveHeader reason sks.length (if frs.isEmpty then 0 else first) s.refCount ++ recs.flatMap (·.2) ++ frs.flatMap (·.2), at_)

/-- CONTEXT_SAVE_END (R309, R328, R329): with everything settled, the save area is written and the context is out. A save area that
cannot be written leaves the save under way. -/
def execContextSaveEnd (ctx : Nat) (s : State) : Host.Outcome State Fault Refusal :=
  if !s.saveReady ctx then .next s
  else
    let reason := if (s.ctx ctx).softAsked then Cause.preemptSoft.code.toNat else Cause.preemptForced.code.toNat
    let s0 := ((s.skeinsIn ctx).filter fun e => e.2.point.isSome && s.unissued e.1).foldl (fun a e => a.refire e.1) s
    let area := s0.saveArea ctx reason
    let base := (s0.ctx ctx).ctxSave.toNat
    match s0.agentWrite none ctx base area.1 with
    | none => .next s
    | some s1 =>
      let s1 := (s1.strandsIn ctx).foldl (fun a e => a.saveOps e.1) s1
      let s1 := (s1.skeinsIn ctx).foldl (fun a e => (a.saveAccs e.1).modSkein e.1 fun k => { k with saved := true }) s1
      let s1 := (s1.fibsIn ctx).foldl (fun a f => (a.unslot f.1).modFib f.1 fun x => { x with saved := true }) s1
      let s1 := area.2.foldl
        (fun a e => a.modLaunch e.1 fun l =>
          { l with frontier := l.frontier.map fun f => { f with stopped := true, image := BitVec.ofNat 64 (base + e.2) } }) s1
      .next (s1.modCtx ctx fun c => { c with pre := .out })

/-! ### Kill (R334) -/

/-- Perform the stores of a context that stand in store queues (R82, R233). -/
def State.flushCtx (s : State) (key : Nat) : State :=
  s.clusters.foldl
    (fun a c =>
      (List.range 4).foldl
        (fun a i =>
          let mine := ((a.spindle c.1 i).stores).filter fun e => a.strandIn key e.strand
          let a := mine.foldl (fun a e => a.performEntry c.1 (a.partOf e.strand) e) a
          a.modSpindle c.1 i fun x => { x with stores := x.stores.filter fun e => !s.strandIn key e.strand }) a) s

/-- Parked atomics by ticket, those without one first. -/
def insertTicket (e : Nat × AtomReq) : List (Nat × AtomReq) → List (Nat × AtomReq)
  | [] => [e]
  | x :: xs => if decide (x.2.ticket.getD 0 ≤ e.2.ticket.getD 0) then x :: insertTicket e xs else e :: x :: xs

/-- Perform what is left of the parked atomics of a context (R82, R233): they were issued. Those of the whole device that hold earlier
tickets are performed first, so that the ticket order stands (R229, R243). -/
def State.flushAtomics (s : State) (key : Nat) : State :=
  let all := s.allFibs.filterMap fun f => match f.2.wait with
    | .atomic r => if f.2.state == .parked then some (f.1, r) else none
    | _ => none
  let mine := fun (k : Nat) => s.strandIn key (fibStrand k)
  let last := all.foldl (fun (a : Option Nat) e => if mine e.1 then max a e.2.ticket else a) none
  let due := all.filter fun e => mine e.1 || (e.2.ticket.isSome && (last.map fun n => decide (e.2.ticket.getD 0 < n)).getD false)
  (due.foldl (fun a e => insertTicket e a) []).foldl
    (fun a e =>
      let a := if mine e.1 then a else a.drainFor e.1 (e.2.lanes.flatMap (·.acc.bytes)) e.2.rel
      let q := a.atomLanes e.1 e.2 (List.range e.2.lanes.length)
      if mine e.1 then q.1 else (q.1.atomFinish e.1 q.2 (tri1 a.cycle)).ready e.1) s

/-- Returns of a context that a kill leaves to be dropped on a cluster (R333): loads, atomics, SFU and function results, copies. -/
def State.genDrops (s : State) (key c : Nat) : Nat :=
  let cl := s.cluster c
  let waits := ((s.fibsIn key).filter fun f => fibCluster f.1 == c && (match f.2.wait with
    | .miss _ | .atomic _ => true
    | _ => false)).length
  waits + (cl.spindles.map fun sp => (sp.sfu.filter fun e => s.strandIn key (fibStrand e.fib)).length).foldl (· + ·) 0 +
    (cl.fnq.filter fun o => s.strandIn key o.strand).length + (cl.copies.filter fun o => s.strandIn key o.strand).length +
    (cl.mxq.filter fun o => s.strandIn key o.strand).length

/-- Banks of a cluster that are a context's FIFO banks, or are changing to it (R215). -/
def Cluster.fifosOf (c : Cluster) (key : Nat) : List Nat :=
  (List.range 16).filter fun n => ((c.banks[n]?).map fun b => b.owner == some key && (b.mode == .fifo || b.next == some .fifo)).getD false

/-- FIFO banks of a context return to CACHE mode, and a fibre that waits for a change of one issues again (R215). -/
def State.freeFifos (s : State) (key c : Nat) : State :=
  ((s.cluster c).fifosOf key).foldl
    (fun a n => ((if (a.bank c n).mode == .cache then a.bankLeaves c n else a).modBank c n fun _ => {}).unstallBank c n) s

/-- Empty what the units of a cluster hold of a context, and return its FIFO banks to CACHE mode (R215). -/
def State.purgeCluster (s : State) (key c : Nat) : State :=
  let mine := s.strandIn key
  (s.freeFifos key c).modCluster c fun cl =>
    { cl with
      copies := cl.copies.filter fun o => !mine o.strand
      mxq := cl.mxq.filter fun o => !mine o.strand
      fnq := cl.fnq.filter fun o => !mine o.strand
      spindles := cl.spindles.map fun sp =>
        { sp with
          sfu := sp.sfu.filter fun e => !mine (fibStrand e.fib)
          slots := sp.slots.map fun x => if (x.map fun k => mine (fibStrand k)).getD false then none else x } }

/-- Take the fibres of a context out of the queues of the shared units. -/
def State.purgeShared (s : State) (key : Nat) : State :=
  let mine := fun (k : Nat) => s.strandIn key (fibStrand k)
  let die := fun (d : Die) =>
    { d with
      pushes := d.pushes.filter fun p => !mine p.fib
      tqs := d.tqs.map fun t => (t.1, { t.2 with poppers := t.2.poppers.filter fun k => !mine k }) }
  let s : State := { s with dies := s.dies.map fun d => (d.1, die d.2) }
  s.modPart (key / 16) fun p =>
    { p with
      devReqs := p.devReqs.filter fun k => !mine k
      fetchws := p.fetchws.filter fun r => !((s.skein? r.skein).map fun k => ctxKey k.part k.ctx == key).getD false
      ckPending := p.ckPending.filter fun k => !mine k }

/-- Complete the launches of a context after a kill, each with status bit 9 and a cause (R290, R334). -/
def State.killLaunches (s : State) (key : Nat) (cause : Nat → Cause) : State :=
  (s.launchesIn key).foldl
    (fun a e =>
      if e.2.held.isSome then a
      else
        let a := a.modPart e.2.part fun p => if p.mrLaunch == some e.1 then { p with mrLaunch := none, mrEn := false } else p
        (a.modLaunch e.1 fun l => { l with killed := true }).writeCompletion e.1
          ({ e.2 with killed := true }.status (cause e.1).code.toNat) (BitVec.ofNat 32 e.2.ended)) s

/-- Serve the queues that a kill may let go on: task queues and the pools. -/
def State.serveAll (s : State) : State :=
  (List.range 4).foldl (fun a d => (s.die d).tqs.foldl (fun a t => a.tqServe d t.1) a) s

/-- Kill a context (R334): fibres end unsaved, operations are abandoned, allocations are free, and launches complete. -/
def State.killCtx (s : State) (key : Nat) (cause : Nat → Cause) : State :=
  let s := (s.flushCtx key).flushAtomics key
  let s := (s.fibsIn key).foldl (fun a f => a.packet f.1 6 []) s
  let s := s.clusters.foldl (fun a c => if s.genDrops key c.1 = 0 then a else a.count c.1 0x0F (s.genDrops key c.1)) s
  let s := s.purgeShared key
  let s := s.clusters.foldl (fun a c => a.purgeCluster key c.1) s
  let s := (s.skeinsIn key).foldl (fun a e => a.unbindAll e.1) s
  let s := { s with
    strands := s.strands.filter fun e => !s.strandIn key e.1
    skeins := s.skeins.filter fun e => ctxKey e.2.part e.2.ctx != key }
  let s := s.killLaunches key cause
  (s.modCtx key fun c => { c with pre := .in_, sliceAt := s.refCount }).serveAll

/-- KILL (R328, R334): PRE_KILL ticks after the halt began the save has not ended. The save area says so, and holds no record (log entry
29). -/
def execKill (ctx : Nat) (s : State) : Host.Outcome State Fault Refusal :=
  let c := s.ctx ctx
  match c.pre with
  | .halt since =>
    if since + c.preKill.toNat ≤ s.refCount then
      let s := s.killCtx ctx fun _ => .kill
      .next ((s.agentWrite none ctx c.ctxSave.toNat (saveHeader Cause.kill.code.toNat 0 0 s.refCount)).getD s)
    else .next s
  | _ => .next s

/-! ### Restore (R233, R295, R310, R367) -/

/-- A frontier image read back: heights, and the in-flight entries in order; none where R310 refuses it. -/
def State.readImage (s : State) (l : Launch) (fr : Frontier) : Option (List Nat × List (Nat × Nat × Nat)) :=
  let lines := fr.d1 * fr.d2
  (s.agentRead none l.ctxKey fr.image.toNat (0x20 + 4 * lines)).bind fun h =>
    let n := recField h 0x14 4
    if recField h 0 4 ≠ 0x46524E54 ∨ recField h 4 4 ≠ fr.d0 ∨ recField h 8 4 ≠ fr.d1 ∨ recField h 0xC 4 ≠ fr.d2 then none
    else
      (s.agentRead none l.ctxKey (fr.image.toNat + 0x20 + 4 * lines) (12 * n)).bind fun b =>
        let hs := (List.range lines).map fun i => recField h (0x20 + 4 * i) 4
        let es := (List.range n).map fun i =>
          (recField b (12 * i) 2, recField b (12 * i + 2) 2 + fr.d1 * recField b (12 * i + 4) 2, recField b (12 * i + 8) 4)
        if es.any fun e => e.1 ≠ hs.getD e.2.1 0 then none else some (hs, es)

/-- Take the heights and the in-flight list of a launch from its image (R310). -/
def State.restoreFrontier (s : State) (n : Nat) : Option State :=
  match tget? s.launches n with
  | none => some s
  | some l =>
    match l.frontier with
    | none => some s
    | some fr =>
      (s.readImage l fr).map fun im =>
        let pt := fun (e : Nat × Nat × Nat) =>
          let old := fr.inflight.find? fun p => p.p0 == e.1 && p.line == e.2.1
          ({ p0 := e.1, line := e.2.1, at_ := if e.2.2 = 0xFFFFFFFF then .waiting else (old.map (·.at_)).getD .waiting } : FPoint)
        let s := im.1.zipIdx.foldl (fun a h => a.setHeight n h.2 h.1) s
        s.modLaunch n fun l =>
          { l with frontier := l.frontier.map fun f => { f with inflight := im.2.map pt, stopped := false, image := 0 } }

/-- How a parked fibre goes on after a restore: an access that waits for a unit issues again, a timed wait counts afresh (R189,
R233), and every other wait resumes. -/
def Fibre.restored (f : Fibre) (now : Nat) : Fibre :=
  let f := { f with saved := false }
  match f.state, f.wait with
  | .parked, .walk | .parked, .code _ => { f with state := .ready, wait := .none, stamp := now }
  | .parked, .fifo b _ o p d a n t => { f with wait := .fifo b now o p d a n t }
  | .parked, .waiteq w _ => { f with wait := .waiteq w now }
  | _, _ => f

/-- Bind the names of a restored skein to slots again (R367). -/
def State.restoreAccs (s : State) (sk : Nat) : State :=
  match s.skein? sk with
  | none => s
  | some k =>
    let s := s.modSkein sk fun x => { x with accSaved := [] }
    k.accSaved.foldl
      (fun a e =>
        match (a.cluster (sk / 4096)).accFree with
        | n :: rest =>
          (a.modCluster (sk / 4096) fun c => { c with accFree := rest, accMem := tset c.accMem n e.2 }).modSkein sk fun x =>
            { x with accs := tset x.accs e.1 n }
        | [] => a) s

/-- Operations in the order in which they entered their queue. -/
def sortOps {α : Type} (ord : α → Nat) (l : List α) : List α :=
  l.foldl (fun a o => (a.takeWhile fun x => ord x ≤ ord o) ++ o :: a.dropWhile fun x => ord x ≤ ord o) []

/-- Saved operations of a skein enter the queues of their cluster again, in the order in which they were issued (R262, R367). -/
def State.requeue (s : State) (c : Nat) (ms : List MxOp) (es : List EngOp) : State :=
  s.modCluster c fun x =>
    let ms := (sortOps (·.ord) ms).zipIdx.map fun o => { o.1 with ord := x.opCtr + o.2 }
    let es := (sortOps (·.ord) es).zipIdx.map fun o => { o.1 with ord := x.opCtr + ms.length + o.2 }
    { x with mxq := x.mxq ++ ms, copies := x.copies ++ es, opCtr := x.opCtr + ms.length + es.length }

/-- Restore a saved skein to its cluster where R293 admits it (R17, R295). The references of its fibres are resolved on restore
(R461, R467). -/
def State.restoreSkein (s : State) (sk : Nat) : State :=
  match s.skein? sk with
  | none => s
  | some k =>
    let c := sk / 4096
    if !k.saved || !s.admits c (s.holds sk k) (s.owed sk k) then s
    else
      let sts := s.strandsOf sk
      let home := sts.foldl
        (fun (a : State × List Nat) e => (a.1.modStrand e.1 fun st => { st with spindle := fewest a.2 }, a.2 ++ [fewest a.2]))
        (s, s.spindlesOn c)
      let s := (home.1.modSkein sk fun x => { x with saved := false }).restoreAccs sk
      let s := sts.foldl
        (fun a e => a.modStrand e.1 fun st =>
          { st with mxSaved := [], engSaved := [], paths := st.paths.map fun p => (p.1, p.2.restored a.cycle) }) s
      let s := sts.foldl (fun a e => e.2.paths.foldl (fun b p => b.setRef (mkFib e.1 p.1) p.2.pc) a) s
      s.requeue c (sts.flatMap fun e => e.2.mxSaved) (sts.flatMap fun e => e.2.engSaved)

/-- CONTEXT_RESTORE (R295, R310, R468): a context that is out is switched in and its saved skeins are restored as they are
admitted, before any new skein; an image that R310 refuses kills it. -/
def execContextRestore (ctx : Nat) (s : State) : Host.Outcome State Fault Refusal :=
  let out := (s.ctx ctx).pre == .out
  let saved := (s.skeinsIn ctx).filter fun e => e.2.saved
  if (s.part (ctx / 16)).cmpPark || (s.part (ctx / 16)).halted.isSome then .next s
  else if !out && !((s.ctx ctx).pre == .in_ && !saved.isEmpty) then .next s
  else
    let fr := if out then (s.launchesIn ctx).map (·.1) else []
    let bad := fr.find? fun n => (s.restoreFrontier n).isNone
    match bad with
    | some n => .next (s.killCtx ctx fun m => if m = n then .frontierInvalid else .kill)
    | none =>
      let s := fr.foldl (fun a n => (a.restoreFrontier n).getD a) s
      let s := if out then s.modCtx ctx fun c => { c with pre := .in_, sliceAt := s.refCount } else s
      let s := saved.foldl (fun a e => a.restoreSkein e.1) s
      .next (fr.foldl (fun a n => a.fire n) s).serveAll

/-! ### The halt line (R335, R336) -/

/-- The bytes of a stop record of a unit (Table 12.7). -/
def unitStopBytes (engine die num now detail more : Nat) : List Byte :=
  bytesOfNat 2 0x5354 ++ [BitVec.ofNat 8 engine, 92, BitVec.ofNat 8 die, 0] ++ bytesOfNat 2 num ++ bytesOfNat 8 now ++
    List.replicate 28 0 ++ bytesOfNat 4 detail ++ bytesOfNat 4 more ++ List.replicate 12 0

/-- Ports of the package: 18 Weft and 12 Ethernet ports (R9). -/
def ports : Nat := 30

/-- The stop records of a partition: its fibres in slots, its matrix arrays and copy engines with work, task queue units, the
frontier engine, and the ports (R336). -/
def State.stopRecords (s : State) (part : Nat) : List (List Byte) :=
  let mine := fun (strand : Nat) => s.strandPart strand == part
  let slots := s.clusters.flatMap fun c => c.2.spindles.flatMap fun sp => sp.slots.filterMap id
  let fibs := (slots.filter fun k => mine (fibStrand k)).map fun k => s.fibreStopBytes k 92 0 s.cycle
  let mx := s.clusters.filterMap fun c => (c.2.mxq.find? fun o => mine o.strand).map fun o =>
    unitStopBytes 1 (clusterDie c.1) c.1 s.cycle o.batch 0
  let cp := s.clusters.filterMap fun c => (c.2.copies.find? fun o => mine o.strand).map fun o =>
    unitStopBytes 2 (clusterDie c.1) c.1 s.cycle o.num o.done
  let tq := (List.range 4).filterMap fun d =>
    if (s.die d).tqs.any fun t => t.2.en && t.2.part == part then some (unitStopBytes 4 d 0 s.cycle 0 0) else none
  let fr := if s.launches.any fun l => l.2.part == part && l.2.frontier.isSome then
      [unitStopBytes 5 (s.frontierDie part) 0 s.cycle 0 0]
    else []
  let ports := (List.range ports).map fun p => unitStopBytes 3 0 p s.cycle 0 0
  fibs ++ mx ++ cp ++ tq ++ fr ++ ports

/-- The number of the stop record at the line's origin (R336): a port's for a link error, none for a line the management core raises
or one that has come from elsewhere, else one that is not stated (log entry 94). The ports' records are the last. -/
def State.haltOrigin (s : State) (cause : Cause) (n : Nat) : Option Nat :=
  let r := Config.haltOrigin s.freeCtr
  match cause with
  | .mcHaltLine => none
  | .mcLink => some (n - ports + r % ports)
  | _ => some (r % n)

/-- The halt line of a partition rises (R335): stop records, with the cause in the one at its origin, the contexts killed, the
management vector, and the partition stopped. -/
def State.haltPart (s : State) (part : Nat) (cause : Cause) : State :=
  if (s.part part).halted.isSome then s
  else
    let recs := s.stopRecords part
    let recs := match s.haltOrigin cause recs.length with
      | some i => lset recs i (lset (recs.getD i []) 3 cause.code)
      | none => recs
    let s : State := { s with freeCtr := s.freeCtr + 1 }
    let base := (s.part part).stopBase.toNat % 2 ^ 56
    let s := recs.zipIdx.foldl (fun a r => a.memWriteBytes (some part) (base + 64 * r.2) r.1) s
    let s := s.modPart part fun p => { p with halted := some cause, stops := recs.length }
    let s := (List.range 16).foldl (fun a c => a.killCtx (ctxKey part c) fun _ => .kill) s
    s.raise (4 * part + 3)

/-- HALT_LINE (R335). -/
def execHaltLine (part : Nat) (cause : Cause) (s : State) : Host.Outcome State Fault Refusal :=
  .next (if causeMode cause == .halt && decide (part < 32) then s.haltPart part cause else s)

end Sys2Proof.Machine
end

