-- ==== Sys2Proof/Machine/EvHost.lean ====
section
/-! DEFINITION. The host link, the management mailbox and the staged start (chapter 23): launch-queue registers (R473), mailbox commands
(R338, R477, R479, R481), the start (R480), the clock (R484), link errors (R476), and accesses of the host and of peers (R232, R478,
R483). -/

namespace Sys2Proof.Machine

/-- Bytes of HDM (R470). -/
def hdmBytes : Nat := 768 * 2 ^ 30

/-- The device offset of a host-physical address in the HDM range, whose base the host sets (R470). -/
def State.hdmOfs? (s : State) (a : Nat) : Option Nat :=
  if s.hdmBase.toNat ≤ a ∧ a < s.hdmBase.toNat + hdmBytes then some (a - s.hdmBase.toNat) else none

/-- The host sets the base of the range through the CXL HDM decoder capability (R470); no event of the table stands for it, and nothing
else of the capability is held (DESIGN CHOICE, log entry 117). -/
def State.setHdmBase (s : State) (base : DWord) : State := { s with hdmBase := base }

/-- Whether stage A to D (0 to 3) is complete (Table 23.6). -/
def State.stageDone (s : State) (n : Nat) : Bool := s.startStat.getLsbD n

/-- Whether BAR0, the mailbox and SPDM answer: from stage A on, and after an error, which leaves stage A function (R480). -/
def State.answers (s : State) : Bool := s.stageDone 0 || s.startStat.toNat / 65536 != 0

/-! ### Launch queues (R473, R480) -/

/-- Whether a queue lies in HDM and every value is in range. -/
def Partition.lqOk (p : Partition) : Bool :=
  p.lqBase.toNat % 4096 == 0 && powerIn p.lqSize 16 65536 && decide (p.lqBase.toNat + 128 * p.lqSize.toNat ≤ hdmBytes) &&
    decide (50 ≤ p.lqRecall.toNat) && decide (p.lqRecall.toNat ≤ 10000)

/-- A write of EN (R473, R480). -/
def State.lqEnWrite (s : State) (part : Nat) (en : Bool) : State :=
  if !en then s.modPart part fun p => { p with lqEn := false }
  else if s.stageDone 2 && (s.part part).lqOk then s.modPart part fun p => { p with lqEn := true }
  else s

/-- LQ_ENABLE (R473). -/
def execLqEnable (part : Nat) (en : Bool) (s : State) : Host.Outcome State Fault Refusal :=
  .next (if decide (part < 32) && s.answers then s.lqEnWrite part en else s)

/-- A host write to a launch-queue register at an offset of its block (Table 23.3). The access width is not stated: LQ_BASE and LQ_EXPECT
are written whole, as 64 bits at their first offset, the other registers as 32 bits, and a write inside one has no effect (DESIGN CHOICE,
log entry 111). -/
def State.lqWrite (s : State) (part ofs : Nat) (v : DWord) : State :=
  let free := !(s.part part).lqEn
  if ofs = 0x00 then s.modPart part fun p => if free then { p with lqBase := v } else p
  else if ofs = 0x08 then s.modPart part fun p => if free then { p with lqSize := lo32 v } else p
  else if ofs = 0x0C then s.lqEnWrite part (v.getLsbD 0)
  else if ofs = 0x10 then s.modPart part fun p => if free then { p with lqExpect := v } else p
  else if ofs = 0x18 then s.modPart part fun p => { p with lqRecall := lo32 v }
  else s

/-! ### The management mailbox (R479) -/

/-- A command has run: MB_CMD names it, its partition field as written (R5), MB_RET its code, and a partition's command raises its
management vector (R472, R479). -/
def State.mbDone (s : State) (op : Nat) (part : Option Nat) (code : Nat) : State :=
  let field := part.getD (s.mbCmd.extractLsb' 8 8).toNat
  let s := { s with mbCmd := BitVec.ofNat 32 (field * 2 ^ 8 + op), mbRet := BitVec.ofNat 32 code, mbWait := none }
  match part with
  | some p => s.raise (4 * p + 3)
  | none => s

/-- Whether the mailbox takes a command: where it answers, and not while BUSY. -/
def State.mbOpen (s : State) : Bool := s.answers && s.mbWait.isNone

/-- Bytes written over a list from an offset. -/
def spliceBytes (old : List Byte) (ofs : Nat) (bs : List Byte) : List Byte :=
  old.take ofs ++ List.replicate (ofs - old.length) 0 ++ bs ++ old.drop (ofs + bs.length)

/-- Put bytes into the data area. -/
def State.mbPut (s : State) (ofs : Nat) (bs : List Byte) : State := { s with mbData := spliceBytes s.mbData ofs bs }

/-- The inactive slot (R479). -/
def State.idleSlot (s : State) : Nat := 1 - s.fwActive

/-- FW_LOAD (R479): an image chunk into the inactive slot. -/
def execFwLoad (ofs : Nat) (bytes : List (BitVec 8)) (s : State) : Host.Outcome State Fault Refusal :=
  if !s.mbOpen then .next s
  else
    let img := spliceBytes (s.fwSlots.getD s.idleSlot []) ofs bytes
    .next ({ s with fwSlots := lset s.fwSlots s.idleSlot img }.mbDone 0x01 none 0)

/-- Whether an image's header is one and its security version is high enough (R481). -/
def fwHeaderOk (img : List Byte) (min_ : Nat) : Bool := recField img 0 4 == 0x4657494D && decide (min_ ≤ recField img 8 4)

/-- Whether the image of a slot is valid: its header, both signatures, and the minimum in the signed configuration blob (R481). -/
def State.slotValid (s : State) (n : Nat) : Bool :=
  let img := s.fwSlots.getD n []
  fwHeaderOk img (Config.blobMin s.blob).toNat && Config.signaturesVerify img

/-- FW_ACTIVATE (R479, R481): the inactive slot, if its image is valid, becomes the active one at the next reset. -/
def execFwActivate (s : State) : Host.Outcome State Fault Refusal :=
  if !s.mbOpen then .next s
  else if !fwHeaderOk (s.fwSlots.getD s.idleSlot []) (Config.blobMin s.blob).toNat then .next (s.mbDone 0x02 none 2)
  else if s.slotValid s.idleSlot then .next ({ s with fwNext := s.idleSlot }.mbDone 0x02 none 0)
  else .next (s.mbDone 0x02 none 5)

/-- Whether a context has a launch in the front end or a resident or saved skein (R280). -/
def State.ctxBusy (s : State) (key : Nat) : Bool := !(s.skeinsIn key).isEmpty || !(s.launchesIn key).isEmpty

/-- Destroy a context (R280, R183, R215): its FIFO banks are released, its translations go, and its queued records with them. -/
def State.destroyCtx (s : State) (key : Nat) : State :=
  let mine := fun (p x : Nat) => ctxKey p x == key
  let cl := fun (c : Cluster) =>
    { c with
      tlb := c.tlb.filter fun x => !mine x.part x.ctx, misses := c.misses.filter fun m => !mine m.part m.ctx }
  let die := fun (d : Die) =>
    { d with prq := d.prq.filter fun e => !mine e.part e.ctx, prqWait := d.prqWait.filter fun e => !mine e.part e.ctx }
  let s := s.clusters.foldl (fun a c => a.freeFifos key c.1) s
  let s : State := { s with
    clusters := s.clusters.map fun c => (c.1, cl c.2)
    dies := s.dies.map fun d => (d.1, die d.2) }
  s.modCtx key fun c =>
    { c with
      xlRoot := 0, en := false, prqIrq := false, prqEn := false, privRoot := 0, privLane := 8, xlInvVa := 0, xlInvBusy := false
      prqRing := 0, prqSize := 64, prqHead := 0, prqTail := 0 }

/-- A write of XL_CTL through the mailbox, which alone sets and clears EN (R280, R479). -/
def State.xlCtlMach (s : State) (key : Nat) (v : Word) : WrRes :=
  let was := (s.ctx key).en
  if was && !v.getLsbD 2 then (if s.ctxBusy key then .refused else .ok (s.destroyCtx key))
  else
    .ok (s.modCtx key fun c =>
      { c with
        en := v.getLsbD 2, prqIrq := v.getLsbD 1, prqEn := v.getLsbD 0
        sliceAt := if was then c.sliceAt else s.refCount })

/-- Whether PART_WR may write a register number: one that is defined and is not RO, or CTX_SAVE (log entry 27). -/
def mbWritable (sr : Nat) : Bool := ((srInfo sr).map fun i => !i.ro || sr == 0x024 || sr == 0x025).getD false

/-- The write of a PART_WR. -/
def State.partWrite (s : State) (part ctx sr : Nat) (v : Word) : WrRes :=
  let key := ctxKey part ctx
  if 32 ≤ part ∨ 16 ≤ ctx ∨ !mbWritable sr then .bad
  else if sr = 0x202 then s.xlCtlMach key v
  else s.regWrite { ctx := key, cluster := 0, fib := none } sr v

/-- PART_WR (R452, R479): one that must wait leaves the mailbox BUSY. -/
def execPartWr (part ctx sr : Nat) (v : BitVec 32) (s : State) : Host.Outcome State Fault Refusal :=
  let again := s.mbWait == some (part, ctx, sr, v)
  if !s.answers || (s.mbWait.isSome && !again) then .next s
  else
    let p := if part < 32 then some part else none
    match s.partWrite part ctx sr v with
    | .ok s' => .next (s'.mbDone 0x10 p 0)
    | .bad => .next (s.mbDone 0x10 p 2)
    | .refused => .next (s.mbDone 0x10 p 3)
    | .wait => .next { s with mbWait := some (part, ctx, sr, v), mbCmd := BitVec.ofNat 32 (2 ^ 31 + part * 2 ^ 8 + 0x10) }

/-- Registers that belong to a fibre, a strand or a cluster, which no mailbox command names (R479). -/
def srLocal (sr : Nat) : Bool :=
  sr == 0x000 || (decide (0x008 ≤ sr) && decide (sr ≤ 0x010)) || (decide (0x040 ≤ sr) && decide (sr ≤ 0x085)) || sr == 0x0A8 ||
    sr == 0x0A1 || sr == 0x0A2 || sr == 0x0C1 || sr == 0x0E6 || sr == 0x0EA || sr == 0x0EB

/-- PART_RD (R479): the value follows the register number in the data. -/
def execPartRd (part ctx sr : Nat) (s : State) : Host.Outcome State Fault Refusal :=
  if !s.mbOpen then .next s
  else if 32 ≤ part ∨ 16 ≤ ctx ∨ (srInfo sr).isNone ∨ srLocal sr then .next (s.mbDone 0x11 (if part < 32 then some part else none) 2)
  else
    let v := s.regRead { ctx := ctxKey part ctx, cluster := 0, fib := none } sr
    .next ((s.mbPut 4 (bytesOfNat 4 v.toNat)).mbDone 0x11 (some part) 0)

/-- ROLLBACK (R338, R479): only of a stopped partition, and not once its log has filled (R337). -/
def execRollback (part : Nat) (s : State) : Host.Outcome State Fault Refusal :=
  if !s.mbOpen then .next s
  else if 32 ≤ part then .next (s.mbDone 0x20 none 2)
  else if (s.part part).halted.isNone then .next (s.mbDone 0x20 (some part) 4)
  else if (s.part part).ckFull then .next (s.mbDone 0x20 (some part) 2)
  else .next (((s.undoAll part).modPart part fun p => { p with undo := [] }).mbDone 0x20 (some part) 0)

/-- PART_RESET (R318, R479): the halt line of a stopped partition clears, and its launches are numbered from 0 again. -/
def execPartReset (part : Nat) (s : State) : Host.Outcome State Fault Refusal :=
  if !s.mbOpen then .next s
  else if 32 ≤ part then .next (s.mbDone 0x21 none 2)
  else if (s.part part).halted.isNone then .next (s.mbDone 0x21 (some part) 4)
  else .next ((s.modPart part fun p => { p with halted := none, devSeq := 0 }).mbDone 0x21 (some part) 0)

/-- PEER_WR (R477): an entry of 32 bytes. -/
def execPeerWr (part idx : Nat) (bytes : List (BitVec 8)) (s : State) : Host.Outcome State Fault Refusal :=
  if !s.mbOpen then .next s
  else if 32 ≤ part then .next (s.mbDone 0x30 none 2)
  else if 65536 ≤ idx ∨ bytes.length ≠ 32 then .next (s.mbDone 0x30 (some part) 2)
  else .next ((s.modPart part fun p => { p with peers := tset p.peers idx bytes }).mbDone 0x30 (some part) 0)

/-- NEIGH_WR (R477): an entry of the neighbour tables, whose layout is not stated. -/
def execNeighWr (idx : Nat) (bytes : List (BitVec 8)) (s : State) : Host.Outcome State Fault Refusal :=
  .next (if s.mbOpen then { s with neigh := tset s.neigh idx bytes }.mbDone 0x31 none 0 else s)

/-- POWER_LIMIT (R479): 400 to 1,750 watts. -/
def execPowerLimit (watts : Nat) (s : State) : Host.Outcome State Fault Refusal :=
  .next
    (if !s.mbOpen then s
     else if 400 ≤ watts ∧ watts ≤ 1750 then { s with power := watts }.mbDone 0x40 none 0
     else s.mbDone 0x40 none 2)

/-- TELEMETRY (R479, R484): board power and the temperatures of the four compute dies, whose values are open, then CLK_STAT. -/
def execTelemetry (s : State) : Host.Outcome State Fault Refusal :=
  if !s.mbOpen then .next s
  else
    let words : List Word := ((List.range 5).map fun i => Config.telemetry (s.freeCtr + i)) ++ [BitVec.ofNat 32 s.clkK]
    let s := { s with freeCtr := s.freeCtr + 5 }.mbPut 0 (words.flatMap fun (w : Word) => bytesOfNat 4 w.toNat)
    .next (s.mbDone 0x41 none 0)

/-- Run the command that a host write of MB_CMD names, with its data in the data area (Table 23.5). -/
def State.mbCommand (s : State) (v : Word) : State :=
  let part := (v.extractLsb' 8 8).toNat
  let d := s.mbData
  let w := fun (i : Nat) => recField d (4 * i) 4
  let s := if s.mbOpen then { s with mbCmd := v &&& 0xFFFF } else s
  let r := match (v.extractLsb' 0 8).toNat with
    | 0x01 => execFwLoad (w 0) ((d.drop 8).take (w 1)) s
    | 0x02 => execFwActivate s
    | 0x10 => execPartWr part (bits (w 0) 16 4) (bits (w 0) 0 12) (BitVec.ofNat 32 (w 1)) s
    | 0x11 => execPartRd part (bits (w 0) 16 4) (bits (w 0) 0 12) s
    | 0x20 => execRollback part s
    | 0x21 => execPartReset part s
    | 0x30 => execPeerWr part (w 0) ((d.drop 4).take 32) s
    | 0x31 => execNeighWr (w 0) (d.drop 4) s
    | 0x40 => execPowerLimit (w 0) s
    | 0x41 => execTelemetry s
    | op => .next (if s.mbOpen then s.mbDone op none 2 else s)
  match r with
  | .next s' => s'
  | _ => s

/-! ### Plain register writes (R5, R471) -/

/-- A host write to BAR0 (Table 23.1): identity registers, START_STAT and CLK_STAT are read only, and other offsets ignore it. A write
to the mailbox's data area or the MSI-X table writes 4 bytes (log entry 111). -/
def State.bar0Write (s : State) (ofs : Nat) (v : DWord) : State :=
  if !s.answers then s
  else if ofs = 0x2000 then s.mbCommand (lo32 v)
  else if 0x2100 ≤ ofs ∧ ofs < 0x3000 then s.mbPut (ofs - 0x2100) (bytesOfNat 4 (lo32 v).toNat)
  else if 0x10000 ≤ ofs ∧ ofs < 0x10800 then s.lqWrite ((ofs - 0x10000) / 0x40) (ofs % 0x40) v
  else if 0x20000 ≤ ofs ∧ ofs < 0x20800 ∧ ofs % 4 = 0 then s.msixWrite ((ofs - 0x20000) / 4) (lo32 v)
  else s

/-- The 32-bit word that a host read of BAR0 returns (R1, R471, Tables 23.1 to 23.3 and 23.6): a read changes no state, so no event stands
for it. None while BAR0 does not answer. The version of the running image is the second word of its header (R481). -/
def State.bar0Read (s : State) (ofs : Nat) : Option Word :=
  if !s.answers then none
  else if ofs = 0x000 then some 0x00090011
  else if ofs = 0x004 then some (BitVec.ofNat 32 (recField (s.fwSlots.getD s.fwRun []) 4 4))
  else if 0x010 ≤ ofs ∧ ofs < 0x028 ∧ ofs % 4 = 0 then
    some ((List.range 32).foldl
      (fun w i => if s.absent.contains (32 * ((ofs - 0x010) / 4) + i) then w else w ||| (1 : Word) <<< i) 0)
  else if ofs = 0x1000 then some s.startStat
  else if ofs = 0x1004 then some (BitVec.ofNat 32 s.clkK)
  else if ofs = 0x2000 then some s.mbCmd
  else if ofs = 0x2004 then some s.mbRet
  else if 0x2100 ≤ ofs ∧ ofs < 0x3000 ∧ ofs % 4 = 0 then some (BitVec.ofNat 32 (recField s.mbData (ofs - 0x2100) 4))
  else if 0x10000 ≤ ofs ∧ ofs < 0x10800 then
    let p := s.part ((ofs - 0x10000) / 0x40)
    let o := ofs % 0x40
    some (if o = 0x00 then lo32 p.lqBase
      else if o = 0x04 then hi32 p.lqBase
      else if o = 0x08 then p.lqSize
      else if o = 0x0C then (if p.lqEn then 1 else 0)
      else if o = 0x10 then lo32 p.lqExpect
      else if o = 0x14 then hi32 p.lqExpect
      else if o = 0x18 then p.lqRecall
      else 0)
  else if 0x20000 ≤ ofs ∧ ofs < 0x20800 ∧ ofs % 4 = 0 then some (s.msixWord ((ofs - 0x20000) / 4))
  else if 0x21000 ≤ ofs ∧ ofs < 0x21010 ∧ ofs % 4 = 0 then some (s.msixPba.extractLsb' (8 * (ofs - 0x21000)) 32)
  else some 0

/-- REGISTER_WRITE (R5, R471). -/
def execRegisterWrite (t : RegTarget) (v : BitVec 64) (s : State) : Host.Outcome State Fault Refusal :=
  match t with
  | .bar0 ofs => .next (s.bar0Write ofs v)
  | .sr part ctx cluster num =>
    .next ((s.regWrite { ctx := ctxKey part ctx, cluster := cluster, fib := none } num (lo32 v)).orElse s)

/-! ### The staged start, reset and the clock (R12, R480, R481, R484) -/

/-- CLOCK_CHANGE (R484): the clock of every die, and the Ephemeris flag of the interval. -/
def execClockChange (k : Nat) (s : State) : Host.Outcome State Fault Refusal :=
  if 4 ≤ k ∧ k ≤ 16 ∧ k ≠ s.clkK then
    .next { s with clkK := k, parts := s.parts.map fun p => (p.1, { p.2 with ephClock := p.2.ephClock || p.2.ephEn }) }
  else .next s

/-- RESET_RELEASE (R12, R480, R481): every unit is as after reset and both counts are 0. The slot that FW_ACTIVATE named is the
active one from here, and the ROM runs it if it is valid, and the other otherwise; where neither is, stage A reports it. What no reset
reaches stays: the flash, the list of absent clusters last applied, the contents of memory, and what the outside has still to do. -/
def execResetRelease (s : State) : Host.Outcome State Fault Refusal :=
  let run := if s.slotValid s.fwNext then s.fwNext else if s.slotValid (1 - s.fwNext) then 1 - s.fwNext else s.fwNext
  .next
    { State.reset with
      mem := s.mem, poison := s.poison, hostErr := s.hostErr, hostOwned := s.hostOwned, absent := s.absent, fwSlots := s.fwSlots
      fwActive := s.fwNext, fwNext := s.fwNext, fwRun := run, blob := s.blob, agenda := s.agenda, freeCtr := s.freeCtr
      released := true }

/-- A stage ends (Table 23.6): it needs those before it and no earlier error; an error is reported and stops the start. -/
def State.stageEnd (s : State) (bit needs err : Nat) : State :=
  if !s.released || s.startStat.toNat / 65536 != 0 || s.startStat.toNat % 2 ^ needs != 2 ^ needs - 1 then s
  else if err ≠ 0 then { s with startStat := s.startStat ||| BitVec.ofNat 32 (err % 65536 * 65536) }
  else
    let w := s.startStat ||| BitVec.ofNat 32 (2 ^ bit)
    { s with startStat := if w.toNat % 16 = 15 then w ||| 16 else w }

/-- STAGE_A_DONE (R480, R481): ROM has verified the firmware, or reports why not: with no valid image the error is 4. The firmware then
verifies the configuration blob, whose failure is error 3, and applies it. -/
def execStageADone (err : Nat) (s : State) : Host.Outcome State Fault Refusal :=
  let err := if err ≠ 0 then err else if !s.slotValid s.fwRun then 4 else if !Config.signaturesVerify s.blob then 3 else 0
  let t := s.stageEnd 0 0 err
  .next (if t.stageDone 0 && !s.stageDone 0 then { t with absent := Config.blobAbsent s.blob } else t)

/-- STAGE_B_DONE (R480): HBM answers, and Memory_Active is set. -/
def execStageBDone (err : Nat) (s : State) : Host.Outcome State Fault Refusal :=
  let t := s.stageEnd 1 1 err
  .next { t with memActive := t.stageDone 1 }

/-- STAGE_C_DONE (R480): launch queues may be enabled. -/
def execStageCDone (err : Nat) (s : State) : Host.Outcome State Fault Refusal := .next (s.stageEnd 2 2 err)

/-- STAGE_D_DONE (R480): the ports are trained. -/
def execStageDDone (err : Nat) (s : State) : Host.Outcome State Fault Refusal := .next (s.stageEnd 3 2 err)

/-! ### Link errors (R476) -/

/-- Every partition's halt line rises. -/
def State.haltAll (s : State) (cause : Cause) : State := (List.range 32).foldl (fun a p => a.haltPart p cause) s

/-- The link to the host carries nothing any more: what of each fibre's access goes to host memory completes with HOST_ERROR, and then
the halt takes it (R476; log entry 89). -/
def State.linkFails (s : State) : State :=
  let s := { s with linkDown := true }
  (s.allFibs.foldl (fun a f => a.hostFails f.1) s).haltAll .mcLink

/-- HOST_LINK_LOSS (R476). -/
def execHostLinkLoss (s : State) : Host.Outcome State Fault Refusal := .next s.linkFails

/-- IDE_INTEGRITY_FAIL (R476): the flit is not used. -/
def execIdeIntegrityFail (s : State) : Host.Outcome State Fault Refusal := .next s.linkFails

/-- PORT_DOWN (R478), of a port that the package has (R9). -/
def execPortDown (port : Nat) (s : State) : Host.Outcome State Fault Refusal :=
  .next (if s.portsDown.contains port || !isPort port then s else { s with portsDown := s.portsDown ++ [port] })

/-! ### Accesses of the host and of peers (R232, R337, R470, R478, R483) -/

/-- HOST_CXL_MEM_ACCESS (R232, R470, R480): before stage B reads are poisoned and writes dropped. -/
def execHostCxlMemAccess (ofs : Nat) (write : Option (List (BitVec 8))) (len : Nat) (s : State) : Host.Outcome State Fault Refusal :=
  let n := (write.map (·.length)).getD len
  if hdmBytes < ofs + n then .next s
  else if !s.stageDone 1 then .next (if write.isSome then s else { s with hostData := [], hostPoison := true })
  else
    match write with
    | some bs =>
      .next ((List.range ((ofs + bs.length + 127) / 128 - ofs / 128)).foldl (fun a i => a.lqReport (ofs / 128 + i)) (s.hostWrite ofs bs))
    | none =>
      .next
        { s with
          hostData := s.memReadBytes ofs len
          hostPoison := (List.range len).any fun i => s.poison.any fun k => lineOf k == lineOf (ofs + i) }

/-- PEER_WRITE (R478): a write inside the window granted to the peer of an entry is performed at its home, through a port that is
up. -/
def execPeerWrite (part idx ofs : Nat) (bytes : List (BitVec 8)) (s : State) : Host.Outcome State Fault Refusal :=
  let e := s.peerEntry part idx
  let w := Config.peerWindow part idx
  if !peerValid e || !s.portUp (peerPort e) || decide (w.2 < ofs + bytes.length) then .next s
  else .next (s.memWriteBytes (some part) (w.1 + ofs) bytes)

/-- The number of an SPDM message, by which its reply is asked for. -/
def spdmNum : SpdmMsg → Nat
  | .getVersion => 0
  | .getCapabilities => 1
  | .negotiateAlgorithms => 2
  | .getDigests => 3
  | .getCertificate => 4
  | .challenge => 5
  | .getMeasurements => 6
  | .keyExchange => 7
  | .finish => 8
  | .ideKm => 9

/-- Whether a request is one the device supports where its session stands (R483): FINISH follows KEY_EXCHANGE, and IDE_KM comes in a
secured session. -/
def SpdmState.takes (x : SpdmState) (m : SpdmMsg) : Bool :=
  match m with
  | .finish => x == .keyed
  | .ideKm => x == .secured
  | _ => true

/-- The session after a request that was taken: GET_VERSION begins anew (log entry 12). -/
def SpdmState.after (x : SpdmState) (m : SpdmMsg) : SpdmState :=
  match m with
  | .getVersion => .none
  | .keyExchange => .keyed
  | .finish => .secured
  | _ => x

/-- SPDM_MESSAGE (R483): a supported request is answered, by what runs and the blob it was configured by; another gets the reply of an
error, the eleventh of the free bodies. -/
def execSpdmMessage (m : SpdmMsg) (bytes : List (BitVec 8)) (s : State) : Host.Outcome State Fault Refusal :=
  let reply := fun (n : Nat) => Config.spdmReply n bytes (s.fwSlots.getD s.fwRun []) s.blob
  .next
    (if !s.answers then s
     else if s.spdm.takes m then
      { s with
        doeOut := s.doeOut ++ [reply (spdmNum m)], spdm := s.spdm.after m
        ideKm := if m = .ideKm then s.ideKm ++ [bytes] else s.ideKm }
     else { s with doeOut := s.doeOut ++ [reply 10] })

end Sys2Proof.Machine
end

