-- ==== Sys2Proof/Machine/Lane.lean ====
section
/-! DEFINITION. The cross-lane instructions, opcodes 0x70 to 0x76 (R163 to R170), which read and write at their beat 2. -/

namespace Sys2Proof.Machine

/-- The source lane of SHFL for lane `l` with index or delta `k` in segments of `w` lanes, where it lies in the segment (R165). -/
def shflSrc (m : ShflMode) (w l k : Nat) : Option Nat :=
  let s := l / w * w
  let i := l - s
  let j : Int := match m with
    | .idx => k
    | .up => (i : Int) - k
    | .down => (i : Int) + k
    | .xor => (i ^^^ k : Nat)
  if 0 ≤ j ∧ j < w then some (s + j.toNat) else none

/-- The tag of a cross-lane write in lane `l` that actually read register `a` in the lanes of `src`, the first tagged one first;
then GREG's (R416). -/
def Ctx.crossTag (c : Ctx) (a : Nat) (src : Nat → List Nat) (more : List (Nat × Nat)) (l : Nat) : Option Tag :=
  let tag := fun (v j : Nat) => (c.rv v j).tag
  (((src l).findSome? (tag a)).orElse fun _ =>
    (more.findSome? fun x => tag x.1 x.2).orElse fun _ => c.i.greg.findSome? fun g => tag g.1 l).map
    fun t => { t with direct := false }

/-- Write D in the lanes of act from lanes read across the strand. -/
def Ctx.putCross (c : Ctx) (s : State) (d : BitVec 8) (val : Nat → Word) (tag : Nat → Option Tag) : State :=
  c.putBits s d.toNat c.act val 0xFFFFFFFF 4 tag

/-- The lane SHFL reads A in (R165). -/
def Ctx.shflLane (c : Ctx) (m : ShflMode) (f : X64) (l : Nat) : Nat :=
  match shflSrc m f.imm8.toNat l (c.rd f.b.toNat l).toNat with
  | some j => if c.act.getLsbD j then j else l
  | none => l

/-- SHFL (R165). -/
def execShfl (m : ShflMode) (f : X64) (s : State) : Host.Outcome State Fault Refusal :=
  issue (.shfl m f) s fun c s =>
    .next (c.putCross s f.d (fun l => c.rd f.a.toNat (c.shflLane m f l)) fun l =>
      c.crossTag f.a.toNat (fun l => [c.shflLane m f l]) [(f.b.toNat, l)] l)

/-- BCAST (R166). -/
def execBcast (f : X64) (s : State) : Host.Outcome State Fault Refusal :=
  issue (.bcast f) s fun c s =>
    if c.act != 0 && !c.act.getLsbD f.imm8.toNat then
      .trap { cause := .laneIndex, addr := f.imm8.zeroExtend 64, mask := some c.act }
    else
      .next (c.putCross s f.d (fun _ => c.rd f.a.toNat f.imm8.toNat)
        (c.crossTag f.a.toNat (fun _ => [f.imm8.toNat]) []))

/-- The tag of a write that read A in every lane of act. -/
def Ctx.allTag (c : Ctx) (a : BitVec 8) : Nat → Option Tag := c.crossTag a.toNat (fun _ => lanesIn c.act) []

/-- Write three words D, D + 1 and D + 2 that land together (R167, R170). -/
def Ctx.putTriple (c : Ctx) (s : State) (d a : BitVec 8) (v : Nat → Lanes) : State :=
  c.putSpan s d.toNat 3 (fun k l => lanesWord (v l) k) 4 (c.allTag a)

/-- VOTE (R167). -/
def execVote (m : VoteMode) (f : X64) (s : State) : Host.Outcome State Fault Refusal :=
  issue (.vote m f) s fun c s =>
    let p := c.act &&& lanesOf fun l => (c.rd f.a.toNat l).getLsbD (f.imm8.toNat % 32)
    match m with
    | .any => .next (c.putCross s f.d (fun _ => if p != 0 then 1 else 0) (c.allTag f.a))
    | .all => .next (c.putCross s f.d (fun _ => if p == c.act then 1 else 0) (c.allTag f.a))
    | .ballot => .next (c.putTriple s f.d f.a fun _ => p)

/-- Combine (Table 6.4), `sg` signed. -/
def laneCombine (op : LaneOp) (sg : Bool) (x y : Word) : Word × Flags :=
  match op with
  | .add => (x + y, 0)
  | .min => (BitVec.ofNat 32 (eMinMax false sg 32 x.toNat y.toNat).1, 0)
  | .max => (BitVec.ofNat 32 (eMinMax true sg 32 x.toNat y.toNat).1, 0)
  | .and => (x &&& y, 0)
  | .or => (x ||| y, 0)
  | .xor => (x ^^^ y, 0)
  | .fadd =>
    let r := addRnd fmt32 (val32 x) (val32 y) .rne
    (BitVec.ofNat 32 r.1, r.2)
  | .fmin =>
    let r := fmt32.minMax false false x.toNat y.toNat
    (BitVec.ofNat 32 r.1, r.2)
  | .fmax =>
    let r := fmt32.minMax true false x.toNat y.toNat
    (BitVec.ofNat 32 r.1, r.2)

/-- Identity (Table 6.4). -/
def laneIdentity (op : LaneOp) (sg : Bool) : Word :=
  match op with
  | .add => 0
  | .min => if sg then 0x7FFFFFFF else 0xFFFFFFFF
  | .max => if sg then 0x80000000 else 0
  | .and => 0xFFFFFFFF
  | .or => 0
  | .xor => 0
  | .fadd => 0x80000000
  | .fmin => 0x7F800000
  | .fmax => 0xFF800000

/-- Whether an operation is one of the float reductions (R168). -/
def laneFloat : LaneOp → Bool
  | .fadd | .fmin | .fmax => true
  | _ => false

/-- Faults of the float reductions, in order (R169). -/
def laneOrder : LaneOp → List Cause
  | .fadd => ordArith
  | .fmin | .fmax => [.fpInvalid]
  | _ => []

/-- One level of the tree: neighbours combined, the flags gathered. -/
def treeLevel (f : Word → Word → Word × Flags) : List Word → List Word × Flags
  | x :: y :: rest =>
    let r := f x y
    let t := treeLevel f rest
    (r.1 :: t.1, r.2 ||| t.2)
  | l => (l, 0)

/-- Five levels of the tree over the 32 lanes of a beat (R169). -/
def beatTree (f : Word → Word → Word × Flags) (vs : List Word) : Word × Flags :=
  let r := (List.range 5).foldl
    (fun (a : List Word × Flags) _ =>
      let t := treeLevel f a.1
      (t.1, a.2 ||| t.2)) (vs, 0)
  (r.1.headD 0, r.2)

/-- LRED's fixed tree over 96 values (R169). -/
def lredTree (f : Word → Word → Word × Flags) (v : Nat → Word) : Word × Flags :=
  let b := fun k => beatTree f ((List.range 32).map fun j => v (32 * k + j))
  let x := f (b 0).1 (b 1).1
  let y := f x.1 (b 2).1
  (y.1, (b 0).2 ||| (b 1).2 ||| (b 2).2 ||| x.2 ||| y.2)

/-- Lane values of a reduction: A in the lanes of act, the identity elsewhere (R168). -/
def Ctx.laneVals (c : Ctx) (op : LaneOp) (sg : Bool) (a : BitVec 8) (l : Nat) : Word :=
  if c.act.getLsbD l then c.rd a.toNat l else laneIdentity op sg

/-- NV of the signalling NaNs in the lanes of act that satisfy `p` (R134, R169). -/
def Ctx.sigLanes (c : Ctx) (op : LaneOp) (a : BitVec 8) (p : Nat → Bool) : Flags :=
  if laneFloat op && (lanesIn c.act).any (fun l => p l && val32 (c.rd a.toNat l) == .nan true) then fNV else 0

/-- Deliver a reduction: the enabled trap first, then D and the flags (R169). -/
def Ctx.lanePut (c : Ctx) (s : State) (op : LaneOp) (d : BitVec 8) (res : Nat → Word × Flags) (tag : Nat → Option Tag) : Res :=
  match fpTrap c.st.ctl (laneOrder op) c.act fun l => (res l).2 with
  | some t => .trap t
  | none => .next (c.orFlags (c.putCross s d (fun l => (res l).1) tag) (fun l => (res l).2) 4)

/-- LRED (R168, R169). -/
def execLred (op : LaneOp) (f : X64) (s : State) : Host.Outcome State Fault Refusal :=
  issue (.lred op f) s fun c s =>
    let sg := f.flg.getLsbD 0
    let r := lredTree (laneCombine op sg) (c.laneVals op sg f.a)
    let nv := c.sigLanes op f.a fun _ => true
    c.lanePut s op f.d (fun _ => (r.1, r.2 ||| nv)) (c.allTag f.a)

/-- The combination of lanes 0 to `n` − 1 in rising order, none for n = 0 (R169). -/
def scanUpTo (f : Word → Word → Word × Flags) (v : Nat → Word) (n : Nat) : Option (Word × Flags) :=
  (List.range n).foldl
    (fun a l => match a with
      | none => some (v l, 0)
      | some x =>
        let r := f x.1 (v l)
        some (r.1, x.2 ||| r.2)) none

/-- LSCAN (R168, R169); FLG1 is exclusive. -/
def execLscan (op : LaneOp) (f : X64) (s : State) : Host.Outcome State Fault Refusal :=
  issue (.lscan op f) s fun c s =>
    let sg := f.flg.getLsbD 0
    let excl := f.flg.getLsbD 1
    let count := fun (l : Nat) => if excl then l else l + 1
    c.lanePut s op f.d
      (fun l =>
        let n := count l
        let r := (scanUpTo (laneCombine op sg) (c.laneVals op sg f.a) n).getD (laneIdentity op sg, 0)
        -- a lone NaN, with nothing to combine it with, is still written as the canonical one (R126; DEDUCED, log entry 24)
        let w := if laneFloat op && (val32 r.1).isNan then BitVec.ofNat 32 fmt32.nan else r.1
        (w, r.2 ||| c.sigLanes op f.a fun j => decide (j < n)))
      (c.crossTag f.a.toNat (fun l => (lanesIn c.act).filter (· < count l)) [])

/-- MATCH (R170). -/
def execMatchLanes (f : X64) (s : State) : Host.Outcome State Fault Refusal :=
  issue (.matchLanes f) s fun c s =>
    .next (c.putTriple s f.d f.a fun l => c.act &&& lanesOf fun j => c.rd f.a.toNat j == c.rd f.a.toNat l)

/-- LEADER (R170). -/
def execLeader (f : X64) (s : State) : Host.Outcome State Fault Refusal :=
  issue (.leader f) s fun c s =>
    .next (c.putCross s f.d (fun _ => BitVec.ofNat 32 ((lowLane? c.act).getD 0)) (c.crossTag 248 (fun _ => []) []))

end Sys2Proof.Machine
end

