-- ==== Sys2Proof/Machine/Dispatch.lean ====
section
/-! DEFINITION. The meaning of every instruction and every event: one arm for each constructor of `Instr`. -/

namespace Sys2Proof.Machine

def exec (i : Instr) (s : State) : Host.Outcome State Fault Refusal :=
  match i with
  | .nop f => Sys2Proof.Machine.execNop f s
  | .runend f => Sys2Proof.Machine.execRunend f s
  | .bra f => Sys2Proof.Machine.execBra f s
  | .brc c f => Sys2Proof.Machine.execBrc c f s
  | .bru c f => Sys2Proof.Machine.execBru c f s
  | .brany c f => Sys2Proof.Machine.execBrany c f s
  | .brall c f => Sys2Proof.Machine.execBrall c f s
  | .jmpi f => Sys2Proof.Machine.execJmpi f s
  | .call f => Sys2Proof.Machine.execCall f s
  | .calli f => Sys2Proof.Machine.execCalli f s
  | .ret f => Sys2Proof.Machine.execRet f s
  | .rcvg f => Sys2Proof.Machine.execRcvg f s
  | .endk f => Sys2Proof.Machine.execEndk f s
  | .yield f => Sys2Proof.Machine.execYield f s
  | .iadd sat f => Sys2Proof.Machine.execIadd sat f s
  | .isub sat f => Sys2Proof.Machine.execIsub sat f s
  | .iaddi sat f => Sys2Proof.Machine.execIaddi sat f s
  | .imul f => Sys2Proof.Machine.execImul f s
  | .imulh f => Sys2Proof.Machine.execImulh f s
  | .imad sat f => Sys2Proof.Machine.execImad sat f s
  | .imadw f => Sys2Proof.Machine.execImadw f s
  | .idiv f => Sys2Proof.Machine.execIdiv f s
  | .irem f => Sys2Proof.Machine.execIrem f s
  | .imin f => Sys2Proof.Machine.execImin f s
  | .imax f => Sys2Proof.Machine.execImax f s
  | .iabs f => Sys2Proof.Machine.execIabs f s
  | .ineg f => Sys2Proof.Machine.execIneg f s
  | .and f => Sys2Proof.Machine.execAnd f s
  | .or f => Sys2Proof.Machine.execOr f s
  | .xor f => Sys2Proof.Machine.execXor f s
  | .andn f => Sys2Proof.Machine.execAndn f s
  | .orn f => Sys2Proof.Machine.execOrn f s
  | .xnor f => Sys2Proof.Machine.execXnor f s
  | .andi f => Sys2Proof.Machine.execAndi f s
  | .ori f => Sys2Proof.Machine.execOri f s
  | .xori f => Sys2Proof.Machine.execXori f s
  | .shl f => Sys2Proof.Machine.execShl f s
  | .shrl f => Sys2Proof.Machine.execShrl f s
  | .shra f => Sys2Proof.Machine.execShra f s
  | .shli f => Sys2Proof.Machine.execShli f s
  | .shrli f => Sys2Proof.Machine.execShrli f s
  | .shrai f => Sys2Proof.Machine.execShrai f s
  | .fshr f => Sys2Proof.Machine.execFshr f s
  | .bfx f => Sys2Proof.Machine.execBfx f s
  | .bfi f => Sys2Proof.Machine.execBfi f s
  | .popc f => Sys2Proof.Machine.execPopc f s
  | .clz f => Sys2Proof.Machine.execClz f s
  | .ctz f => Sys2Proof.Machine.execCtz f s
  | .brev f => Sys2Proof.Machine.execBrev f s
  | .icmp c f => Sys2Proof.Machine.execIcmp c f s
  | .icmpi c f => Sys2Proof.Machine.execIcmpi c f s
  | .sel f => Sys2Proof.Machine.execSel f s
  | .mov f => Sys2Proof.Machine.execMov f s
  | .movi f => Sys2Proof.Machine.execMovi f s
  | .lea f => Sys2Proof.Machine.execLea f s
  | .iadd64 f => Sys2Proof.Machine.execIadd64 f s
  | .isub64 f => Sys2Proof.Machine.execIsub64 f s
  | .cvta k f => Sys2Proof.Machine.execCvta k f s
  | .permb f => Sys2Proof.Machine.execPermb f s
  | .pack f => Sys2Proof.Machine.execPack f s
  | .unpack f => Sys2Proof.Machine.execUnpack f s
  | .fadd t f => Sys2Proof.Machine.execFadd t f s
  | .fsub t f => Sys2Proof.Machine.execFsub t f s
  | .fmul t f => Sys2Proof.Machine.execFmul t f s
  | .ffma t f => Sys2Proof.Machine.execFfma t f s
  | .fmin f => Sys2Proof.Machine.execFmin f s
  | .fmax f => Sys2Proof.Machine.execFmax f s
  | .fminn f => Sys2Proof.Machine.execFminn f s
  | .fmaxn f => Sys2Proof.Machine.execFmaxn f s
  | .fcmp c f => Sys2Proof.Machine.execFcmp c f s
  | .fclass f => Sys2Proof.Machine.execFclass f s
  | .fabs f => Sys2Proof.Machine.execFabs f s
  | .fneg f => Sys2Proof.Machine.execFneg f s
  | .fcopysign f => Sys2Proof.Machine.execFcopysign f s
  | .frnd t f => Sys2Proof.Machine.execFrnd t f s
  | .fscalb t f => Sys2Proof.Machine.execFscalb t f s
  | .ftwosum f => Sys2Proof.Machine.execFtwosum f s
  | .fdot2 bf f => Sys2Proof.Machine.execFdot2 bf f s
  | .fdot4q f => Sys2Proof.Machine.execFdot4q f s
  | .cvtfi t f => Sys2Proof.Machine.execCvtfi t f s
  | .cvtif t f => Sys2Proof.Machine.execCvtif t f s
  | .cvtff k f => Sys2Proof.Machine.execCvtff k f s
  | .cvtq f => Sys2Proof.Machine.execCvtq f s
  | .cvtdq f => Sys2Proof.Machine.execCvtdq f s
  | .rcp f => Sys2Proof.Machine.execRcp f s
  | .rsq f => Sys2Proof.Machine.execRsq f s
  | .sqrt f => Sys2Proof.Machine.execSqrt f s
  | .div f => Sys2Proof.Machine.execDiv f s
  | .exp2 f => Sys2Proof.Machine.execExp2 f s
  | .log2 f => Sys2Proof.Machine.execLog2 f s
  | .sinpi f => Sys2Proof.Machine.execSinpi f s
  | .cospi f => Sys2Proof.Machine.execCospi f s
  | .tanh f => Sys2Proof.Machine.execTanh f s
  | .sigm f => Sys2Proof.Machine.execSigm f s
  | .shfl m f => Sys2Proof.Machine.execShfl m f s
  | .bcast f => Sys2Proof.Machine.execBcast f s
  | .vote m f => Sys2Proof.Machine.execVote m f s
  | .lred op f => Sys2Proof.Machine.execLred op f s
  | .lscan op f => Sys2Proof.Machine.execLscan op f s
  | .matchLanes f => Sys2Proof.Machine.execMatchLanes f s
  | .leader f => Sys2Proof.Machine.execLeader f s
  | .ld f => Sys2Proof.Machine.execLd f s
  | .st f => Sys2Proof.Machine.execSt f s
  | .lds f => Sys2Proof.Machine.execLds f s
  | .sts f => Sys2Proof.Machine.execSts f s
  | .ldt f => Sys2Proof.Machine.execLdt f s
  | .stt f => Sys2Proof.Machine.execStt f s
  | .pf f => Sys2Proof.Machine.execPf f s
  | .fpush f => Sys2Proof.Machine.execFpush f s
  | .fpop f => Sys2Proof.Machine.execFpop f s
  | .regpf w1 f => Sys2Proof.Machine.execRegpf w1 f s
  | .cctl op f => Sys2Proof.Machine.execCctl op f s
  | .bankmode m f => Sys2Proof.Machine.execBankmode m f s
  | .scrcfg clear f => Sys2Proof.Machine.execScrcfg clear f s
  | .atom op f => Sys2Proof.Machine.execAtom op f s
  | .atomc f => Sys2Proof.Machine.execAtomc f s
  | .atomsc op f => Sys2Proof.Machine.execAtomsc op f s
  | .red op f => Sys2Proof.Machine.execRed op f s
  | .atoms op f => Sys2Proof.Machine.execAtoms op f s
  | .fence k f => Sys2Proof.Machine.execFence k f s
  | .waiteq ne f => Sys2Proof.Machine.execWaiteq ne f s
  | .copy k f => Sys2Proof.Machine.execCopy k f s
  | .gather f => Sys2Proof.Machine.execGather f s
  | .coll op f => Sys2Proof.Machine.execColl op f s
  | .waitc k f => Sys2Proof.Machine.execWaitc k f s
  | .sleept f => Sys2Proof.Machine.execSleept f s
  | .bar f => Sys2Proof.Machine.execBar f s
  | .bara f => Sys2Proof.Machine.execBara f s
  | .barw f => Sys2Proof.Machine.execBarw f s
  | .semp f => Sys2Proof.Machine.execSemp f s
  | .semv f => Sys2Proof.Machine.execSemv f s
  | .fetchw f => Sys2Proof.Machine.execFetchw f s
  | .ifence f => Sys2Proof.Machine.execIfence f s
  | .mma m f => Sys2Proof.Machine.execMma m f s
  | .mmas m f => Sys2Proof.Machine.execMmas m f s
  | .mcomp f => Sys2Proof.Machine.execMcomp f s
  | .msacc f => Sys2Proof.Machine.execMsacc f s
  | .mbatch f => Sys2Proof.Machine.execMbatch f s
  | .mwait f => Sys2Proof.Machine.execMwait f s
  | .mrel f => Sys2Proof.Machine.execMrel f s
  | .mzero f => Sys2Proof.Machine.execMzero f s
  | .mrda f => Sys2Proof.Machine.execMrda f s
  | .mwra f => Sys2Proof.Machine.execMwra f s
  | .msta f => Sys2Proof.Machine.execMsta f s
  | .mlda f => Sys2Proof.Machine.execMlda f s
  | .mstat f => Sys2Proof.Machine.execMstat f s
  | .fnld f => Sys2Proof.Machine.execFnld f s
  | .fnst f => Sys2Proof.Machine.execFnst f s
  | .fnfit f => Sys2Proof.Machine.execFnfit f s
  | .fneval f => Sys2Proof.Machine.execFneval f s
  | .fnadd f => Sys2Proof.Machine.execFnadd f s
  | .fnsub f => Sys2Proof.Machine.execFnsub f s
  | .fnmul f => Sys2Proof.Machine.execFnmul f s
  | .fnaff f => Sys2Proof.Machine.execFnaff f s
  | .fncomp f => Sys2Proof.Machine.execFncomp f s
  | .fndiff f => Sys2Proof.Machine.execFndiff f s
  | .fnint f => Sys2Proof.Machine.execFnint f s
  | .fnquad f => Sys2Proof.Machine.execFnquad f s
  | .fnroot f => Sys2Proof.Machine.execFnroot f s
  | .fndom f => Sys2Proof.Machine.execFndom f s
  | .fninfo f => Sys2Proof.Machine.execFninfo f s
  | .fnrel f => Sys2Proof.Machine.execFnrel f s
  | .acq f => Sys2Proof.Machine.execAcq f s
  | .give f => Sys2Proof.Machine.execGive f s
  | .claim f => Sys2Proof.Machine.execClaim f s
  | .tspawn f => Sys2Proof.Machine.execTspawn f s
  | .tpop f => Sys2Proof.Machine.execTpop f s
  | .tdone f => Sys2Proof.Machine.execTdone f s
  | .launch f => Sys2Proof.Machine.execLaunch f s
  | .sbrd f => Sys2Proof.Machine.execSbrd f s
  | .escrd f => Sys2Proof.Machine.execEscrd f s
  | .sbwd f => Sys2Proof.Machine.execSbwd f s
  | .sbclr f => Sys2Proof.Machine.execSbclr f s
  | .trap f => Sys2Proof.Machine.execTrap f s
  | .rte f => Sys2Proof.Machine.execRte f s
  | .brk f => Sys2Proof.Machine.execBrk f s
  | .srrd f => Sys2Proof.Machine.execSrrd f s
  | .srwr f => Sys2Proof.Machine.execSrwr f s
  | .cycrd f => Sys2Proof.Machine.execCycrd f s
  | .trmark f => Sys2Proof.Machine.execTrmark f s
  | .evrd f => Sys2Proof.Machine.execEvrd f s
  | .ckpt f => Sys2Proof.Machine.execCkpt f s
  | .slotHandout cluster spindle slot => Sys2Proof.Machine.execSlotHandout cluster spindle slot s
  | .missDataLands fib => Sys2Proof.Machine.execMissDataLands fib s
  | .sfuResultLands cluster spindle => Sys2Proof.Machine.execSfuResultLands cluster spindle s
  | .deferredTrapDelivery fib => Sys2Proof.Machine.execDeferredTrapDelivery fib s
  | .storePerformed cluster spindle idx => Sys2Proof.Machine.execStorePerformed cluster spindle idx s
  | .atomicReturn fib => Sys2Proof.Machine.execAtomicReturn fib s
  | .waiteqWake fib => Sys2Proof.Machine.execWaiteqWake fib s
  | .walkComplete cluster idx => Sys2Proof.Machine.execWalkComplete cluster idx s
  | .pageRequestDrain die ctx => Sys2Proof.Machine.execPageRequestDrain die ctx s
  | .poolEntryGrant unit loc => Sys2Proof.Machine.execPoolEntryGrant unit loc s
  | .bankModeChangeEnd cluster bank => Sys2Proof.Machine.execBankModeChangeEnd cluster bank s
  | .fifoTimeout fib => Sys2Proof.Machine.execFifoTimeout fib s
  | .waiteqTimeout fib => Sys2Proof.Machine.execWaiteqTimeout fib s
  | .engineOpComplete strand k idx => Sys2Proof.Machine.execEngineOpComplete strand k idx s
  | .fetchwReply part idx => Sys2Proof.Machine.execFetchwReply part idx s
  | .sleeptWake fib => Sys2Proof.Machine.execSleeptWake fib s
  | .yieldWake fib => Sys2Proof.Machine.execYieldWake fib s
  | .ifenceDone fib => Sys2Proof.Machine.execIfenceDone fib s
  | .matrixOpPerform cluster idx => Sys2Proof.Machine.execMatrixOpPerform cluster idx s
  | .mxPinTimeout cluster idx => Sys2Proof.Machine.execMxPinTimeout cluster idx s
  | .mxAccExhausted cluster idx => Sys2Proof.Machine.execMxAccExhausted cluster idx s
  | .fnOpPerform strand => Sys2Proof.Machine.execFnOpPerform strand s
  | .launchAccept part device => Sys2Proof.Machine.execLaunchAccept part device s
  | .lqRecall part => Sys2Proof.Machine.execLqRecall part s
  | .skeinPlace part => Sys2Proof.Machine.execSkeinPlace part s
  | .skeinGrant skein => Sys2Proof.Machine.execSkeinGrant skein s
  | .taskPushAccept fib => Sys2Proof.Machine.execTaskPushAccept fib s
  | .pointComplete skein => Sys2Proof.Machine.execPointComplete skein s
  | .sliceEnd ctx => Sys2Proof.Machine.execSliceEnd ctx s
  | .instructionLevelHalt ctx => Sys2Proof.Machine.execInstructionLevelHalt ctx s
  | .contextSaveEnd ctx => Sys2Proof.Machine.execContextSaveEnd ctx s
  | .kill ctx => Sys2Proof.Machine.execKill ctx s
  | .contextRestore ctx => Sys2Proof.Machine.execContextRestore ctx s
  | .haltLine part cause => Sys2Proof.Machine.execHaltLine part cause s
  | .codeArrival fib => Sys2Proof.Machine.execCodeArrival fib s
  | .codeUnarrived fib => Sys2Proof.Machine.execCodeUnarrived fib s
  | .ckptTake part => Sys2Proof.Machine.execCkptTake part s
  | .trial cluster job sample cand => Sys2Proof.Machine.execTrial cluster job sample cand s
  | .candidateInstall cluster job cand => Sys2Proof.Machine.execCandidateInstall cluster job cand s
  | .ephemerisTick => Sys2Proof.Machine.execEphemerisTick s
  | .traceDrain cluster => Sys2Proof.Machine.execTraceDrain cluster s
  | .arbAgeStep => Sys2Proof.Machine.execArbAgeStep s
  | .measurePassEnd part => Sys2Proof.Machine.execMeasurePassEnd part s
  | .xlInvWrite ctx v => Sys2Proof.Machine.execXlInvWrite ctx v s
  | .xlInvDone ctx => Sys2Proof.Machine.execXlInvDone ctx s
  | .fqResume ctx v => Sys2Proof.Machine.execFqResume ctx v s
  | .dbgStop ctx cluster sid path => Sys2Proof.Machine.execDbgStop ctx cluster sid path s
  | .dbgRelease ctx cluster sid path => Sys2Proof.Machine.execDbgRelease ctx cluster sid path s
  | .dbgStep ctx cluster sid path => Sys2Proof.Machine.execDbgStep ctx cluster sid path s
  | .dbgStopAll ctx => Sys2Proof.Machine.execDbgStopAll ctx s
  | .dbgReleaseAll ctx => Sys2Proof.Machine.execDbgReleaseAll ctx s
  | .cmpPark part exempt => Sys2Proof.Machine.execCmpPark part exempt s
  | .cmpUnpark part => Sys2Proof.Machine.execCmpUnpark part s
  | .cmpFwd part => Sys2Proof.Machine.execCmpFwd part s
  | .cmpFwdDone part => Sys2Proof.Machine.execCmpFwdDone part s
  | .bpLimWrite part ctx v => Sys2Proof.Machine.execBpLimWrite part ctx v s
  | .tqCfgWrite die queue v => Sys2Proof.Machine.execTqCfgWrite die queue v s
  | .evSelWrite cluster v => Sys2Proof.Machine.execEvSelWrite cluster v s
  | .ephCtlWrite part v => Sys2Proof.Machine.execEphCtlWrite part v s
  | .mrCtlWrite part v => Sys2Proof.Machine.execMrCtlWrite part v s
  | .lqEnable part en => Sys2Proof.Machine.execLqEnable part en s
  | .registerWrite t v => Sys2Proof.Machine.execRegisterWrite t v s
  | .fwLoad ofs bytes => Sys2Proof.Machine.execFwLoad ofs bytes s
  | .fwActivate => Sys2Proof.Machine.execFwActivate s
  | .partWr part ctx sr v => Sys2Proof.Machine.execPartWr part ctx sr v s
  | .partRd part ctx sr => Sys2Proof.Machine.execPartRd part ctx sr s
  | .rollback part => Sys2Proof.Machine.execRollback part s
  | .partReset part => Sys2Proof.Machine.execPartReset part s
  | .peerWr part idx bytes => Sys2Proof.Machine.execPeerWr part idx bytes s
  | .neighWr idx bytes => Sys2Proof.Machine.execNeighWr idx bytes s
  | .powerLimit watts => Sys2Proof.Machine.execPowerLimit watts s
  | .telemetry => Sys2Proof.Machine.execTelemetry s
  | .clockChange k => Sys2Proof.Machine.execClockChange k s
  | .resetRelease => Sys2Proof.Machine.execResetRelease s
  | .stageADone err => Sys2Proof.Machine.execStageADone err s
  | .stageBDone err => Sys2Proof.Machine.execStageBDone err s
  | .stageCDone err => Sys2Proof.Machine.execStageCDone err s
  | .stageDDone err => Sys2Proof.Machine.execStageDDone err s
  | .hostLinkLoss => Sys2Proof.Machine.execHostLinkLoss s
  | .ideIntegrityFail => Sys2Proof.Machine.execIdeIntegrityFail s
  | .hostCxlMemAccess ofs write len => Sys2Proof.Machine.execHostCxlMemAccess ofs write len s
  | .peerWrite part idx ofs bytes => Sys2Proof.Machine.execPeerWrite part idx ofs bytes s
  | .spdmMessage m bytes => Sys2Proof.Machine.execSpdmMessage m bytes s
  | .portDown port => Sys2Proof.Machine.execPortDown port s

end Sys2Proof.Machine
end

