-- ==== Sys2Proof/Machine/Sched.lean ====
section
/-! DEFINITION. Which agent moves next: the barrel rotation of the spindles beat by beat (R64, R69, R70, R188), the units that have
something to do in the present cycle, and the start of the next one. -/

namespace Sys2Proof.Machine

/-! ### Beats (R64, R69, R70) -/

/-- Queues whose lack of an entry keeps beat 0 from issuing (R157, R200, R251, R347, R381). -/
inductive QueueOf where | none | sfu | store | matrix | fn
  deriving DecidableEq, Repr

/-- The queue an instruction enters. -/
def queueOf : Instr → QueueOf
  | .rcp _ | .rsq _ | .sqrt _ | .div _ | .exp2 _ | .log2 _ | .sinpi _ | .cospi _ | .tanh _ | .sigm _ => .sfu
  | .st _ | .sts _ | .stt _ | .red .. => .store
  | .mma .. | .mmas .. | .mcomp _ | .msacc _ | .mrel _ | .mzero _ | .mrda _ | .mwra _ | .msta _ | .mlda _ => .matrix
  | .fnld _ | .fnst _ | .fnfit _ | .fneval _ | .fnadd _ | .fnsub _ | .fnmul _ | .fnaff _ | .fncomp _ | .fndiff _ | .fnint _
  | .fnquad _ | .fnroot _ | .fndom _ | .fninfo _ | .fnrel _ => .fn
  | _ => .none

/-- The fibres in the slots of a spindle that are in the middle of an instruction which enters a queue. -/
def State.midIn (s : State) (c i : Nat) (q : QueueOf) : Nat :=
  ((s.spindle c i).slots.filter fun x =>
    (x.bind fun k => (s.fib? k).map fun f =>
      !f.beats.isEmpty && (match s.fetch k f with
        | .instr j => queueOf j == q
        | _ => false)).getD false).length

/-- Fibres of a whole cluster in the middle of such an instruction. -/
def State.midInCluster (s : State) (c : Nat) (q : QueueOf) : Nat :=
  (List.range 4).foldl (fun a i => a + s.midIn c i q) 0

/-- Whether a fibre must wait at beat 0 for a queue, a counter (R250) or, in a GIVE, for writes in flight (R313). -/
def State.queueHeld (s : State) (k i : Nat) (st : Strand) (j : Instr) : Bool :=
  let c := fibCluster k
  let strand := fibStrand k
  match queueOf j, j with
  | .sfu, _ => decide (16 ≤ (s.spindle c i).sfu.length + s.midIn c i .sfu)
  | .store, _ => decide (32 ≤ ((s.spindle c i).stores.filter fun e => e.late.isNone).length + s.midIn c i .store)
  | .matrix, _ => decide (128 ≤ (s.cluster c).mxq.length + s.midInCluster c .matrix)
  | .fn, _ => decide (32 ≤ (s.cluster c).fnq.length + s.midInCluster c .fn)
  | .none, .mbatch _ => !s.engineReady strand .m
  | .none, .copy .. => !s.engineReady strand .c
  | .none, .gather _ => !s.engineReady strand .g
  | .none, .coll .. => !s.engineReady strand .x
  | .none, .give f => decide (f.imm8.toNat < st.blocks) && !st.givable (givenRegs st.blocks f.imm8.toNat) s.cycle
  | .none, _ => false

/-- Whether a v-register lies in the working set of a fibre (R190); one of a window that is being filled does not (R212). -/
def Fibre.inSet (f : Fibre) (now r : Nat) : Bool :=
  let win := fun (b : Nat) => decide (b ≤ r) && decide (r < b + 32)
  240 ≤ r ||
    [f.wb0, f.wb1].any fun b => win b && !f.fills.any fun e => e.1 == b && decide (now < e.2)

/-- Whether an instruction has a source outside its fibre's working set (R69): one that was found so when its beat 0 was first looked
at stays so until it issues. -/
def Fibre.wsMiss (f : Fibre) (now : Nat) (j : Instr) : Bool :=
  let r := j.regs
  f.wsHeld || (r.a ++ r.lane ++ r.low ++ j.greg).any fun x => (spanRegs x).any fun v => !f.inSet now v

/-- Cycles that a checked execution adds before its terminator: the candidate's beats (R412). -/
def Fibre.checkDelay (f : Fibre) (j : Instr) : Nat :=
  match f.run.bind (·.use) with
  | some u => if !u.cand && j.isTerminator then 3 * u.body.length else 0
  | none => 0

/-- The address in a lane and the byte offsets from it of an access that may go to scratch. -/
def accessShape (c : Ctx) : Option ((Nat → DWord) × List Nat) :=
  let trans := fun (sz : BitVec 3) => (List.range (4 / szBytes sz)).flatMap fun i => (List.range (szBytes sz)).map (128 * i + ·)
  match c.i with
  | .ld f | .st f => some (c.ea f, List.range (szBytes f.sz))
  | .lds f | .sts f => some (c.eaScr f, List.range (szBytes f.sz))
  | .ldt f | .stt f => some (c.eaScr f, trans f.sz)
  | .atom _ f | .atomc f | .red _ f | .waiteq _ f => some (c.eaAtom f, List.range (szBytes f.sz))
  | .atoms _ f => some (c.eaAtomScr f, List.range (szBytes f.sz))
  | _ => none

/-- The words of scratch that beat `b` of an access touches, by their number in the allotment's physical order: each once (R188), but
once for each lane of an atomic, whose lane operations count apart (R239). -/
def Ctx.beatWords (c : Ctx) (sk : Skein) (b : Nat) : List Nat :=
  match accessShape c with
  | none => []
  | some (ea, ofs) =>
    let all := ((lanesIn c.act).filter fun l => l / 32 == b).flatMap fun l =>
      let a := (ea l).toNat
      if a / 2 ^ 56 = 0xFE then (ofs.map fun o => sk.physOfs (a % 2 ^ 32 + o) / 4).eraseDups else []
    match c.i with
    | .atom .. | .atomc _ | .red .. | .atoms .. => all
    | _ => all.eraseDups

/-- The bank and physical column of a word (R187, R188). -/
def Skein.bankColumn (k : Skein) (w : Nat) : Nat × Nat := (k.banks.getD (w / 1024 % max 1 k.banks.length) 0, w % 32)

/-- Cycles that a beat takes beyond one (R188). -/
def State.bankExtra (s : State) (k b : Nat) (j : Instr) : Nat :=
  match mkCtx j s { fib := k, r0 := s.cycle, r1 := s.cycle, r2 := s.cycle }, s.skein? (fibSkein k) with
  | some c, some sk =>
    let cols := (c.beatWords sk b).map sk.bankColumn
    (cols.map fun x => cols.count x).foldl max 1 - 1
  | _, _ => 0

/-- A fetch that gives no instruction: the trap, the page walk, or the wait for code (R177, R180, R463). -/
def State.notFetched (s : State) (k : Nat) (f : Fibre) (st : Strand) : Fetched → State
  | .instr _ => s
  | .trap t => s.takeTrap k t (st.mask f.laneSet (tri1 s.cycle)) 0
  | .walk va => (((s.enterMiss (fibCluster k) (s.strandCtx (fibStrand k)) va k).count (fibCluster k) 0x13 1).park k .walk)
  | .code => s.park k (.code s.refCount)

/-- Issues in the order of R7, by ascending fibre. -/
def insertIssue (e : Issue) : List Issue → List Issue
  | [] => [e]
  | x :: xs => if e.fib < x.fib then e :: x :: xs else x :: insertIssue e xs

/-- Whether a fibre's next instruction is one of a candidate, which is not fetched (R413). -/
def Fibre.inCandidate (f : Fibre) : Bool := f.inBody && ((f.run.bind (·.use)).map (·.cand)).getD false

/-- A beat issues from a slot: beat 0 begins the run's observation and fetches, and beat 2 gives the instruction's moment. `f` is the
fibre with the observation begun. -/
def State.beatIssue (s : State) (c i slot k : Nat) (f : Fibre) (j : Instr) : State :=
  let b := f.beats.length
  let extra := s.bankExtra k b j
  let t := s.cycle + extra
  let s := if b = 0 then
      let s := if f.wsMiss s.cycle j then s.count c 0x08 1 else s
      let s := (s.modFib k fun f => { f with wsHeld := false }).substStart k
      if f.inCandidate then s else s.fetchHold k
    else s
  let s := s.modFib k fun f => { f with beats := f.beats ++ [t] }
  let s := s.modSpindle c i fun sp => { sp with last := slot, hold := if extra = 0 then sp.hold else t + 1 }
  let s := if extra = 0 then s.count c 0x00 1 else (s.count c 0x02 1).count c 0x07 1
  if b = 2 then
    { s with issues := insertIssue { fib := k, r0 := f.beats.getD 0 0, r1 := f.beats.getD 1 0, r2 := t } s.issues }
  else s

/-- What looking at an occupied slot comes to. -/
inductive SlotRes where
  /-- A beat issued. -/
  | beat (s : State)
  /-- The fibre left its slot, or was placed otherwise. -/
  | moved (s : State)
  /-- The fibre cannot issue, for the reason with this event code (Table 20.1). -/
  | held (code : Nat)
  /-- The same, first noticed now. -/
  | noted (s : State) (code : Nat)
  deriving Repr

/-- Whether a fibre takes its next hand-out elsewhere: the boundary it stands at is one to stop or halt at, or a trap is due. -/
def State.atBoundary (s : State) (k : Nat) (f : Fibre) : Option State :=
  if (s.ctx (s.strandCtx (fibStrand k))).halting && !f.inBody then some (s.haltFibre k)
  else
    match s.stopCheck k f with
    | some e => some (s.stopFibre k e.1 e.2)
    | none =>
      if !(f.deferred.any fun e => decide (e.2.since ≤ s.cycle)) || f.slot.isSome then none
      else
        match execDeferredTrapDelivery k s with
        | .next s' => some s'
        | _ => none

/-- Look at the fibre of a slot (R70). -/
def State.slotTry (s : State) (c i slot k : Nat) : SlotRes :=
  match s.fib? k, s.strand? (fibStrand k) with
  | some f, some st =>
    let b := f.beats.length
    if 3 ≤ b then .held 7
    else if f.wait.entering then .held 8
    else if b = 0 && s.mrHeld k then .moved (s.haltFibre k)
    else if b = 0 && f.wait.inSlot && (s.atBoundary k f).isNone then .held 8
    else
      match if b = 0 then s.atBoundary k f else none with
      | some s' => .moved s'
      | none =>
        let f := if b = 0 then ((s.substStart k).fib? k).getD f else f
        if s.cycle < tri f.bound b then .held 4
        else
          match s.fetch k f with
          | .instr j =>
            if b = 0 && decide (s.cycle < f.bound.1 + f.checkDelay j) then .held 4
            else if b = 0 && f.wsMiss s.cycle j && decide (s.cycle < f.bound.1 + f.checkDelay j + 6) then
              (if f.wsHeld then .held 5 else .noted (s.modFib k fun f => { f with wsHeld := true }) 5)
            else if b = 0 && s.queueHeld k i st j then .held 6
            else .beat (s.beatIssue c i slot k f j)
          | r => .moved (s.notFetched k f st r)
  | _, _ => .moved (s.modSpindle c i fun sp => { sp with slots := lset sp.slots slot none })

/-- Whether the carding controller of a cluster's die has a trial pending for the partition: SUBST_CTL.EN, no compaction, and an entry
that has passed its 64 samples (R71, R408, R421). -/
def State.trialPending (s : State) (c : Nat) : Option Nat :=
  (s.owner c).bind fun p =>
    if substEn (s.part p).substCtl && !(s.part p).cmpPark && s.clusters.any fun x =>
        clusterDie x.1 == clusterDie c && x.2.sampler.any fun e =>
          (e.map fun y => y.part == p && !y.done && s.sampled x.1 y).getD false
    then some p else none

/-- A cycle in which no fibre of a spindle can issue carries a beat of a pending trial, or nothing (R71; log entry 10). -/
def State.idleBeat (s : State) (c : Nat) : State :=
  match s.trialPending c with
  | some p => if Config.trialBeat c s.cycle then (s.count c 0x01 1).modPart p fun x => { x with trialBeats := x.trialBeats + 1 } else s
  | none => s

/-- Look at slots in order until one issues a beat; `why` is the first reason of Table 20.1 for which an occupied one was held. -/
def State.slotScan (s : State) (c i : Nat) : List Nat → Option Nat → State
  | [], why =>
    let s := (s.count c 0x02 1).idleBeat c
    match why with
    | some e => if e < 8 then s.count c e 1 else s
    | none => s
  | n :: rest, why =>
    match ((s.spindle c i).slots[n]?).join with
    | none => s.slotScan c i rest why
    | some k =>
      match s.slotTry c i n k with
      | .beat s' => s'
      | .moved s' => s'.slotScan c i rest why
      | .held e => s.slotScan c i rest (some (min e (why.getD e)))
      | .noted s' e => s'.slotScan c i rest (some (min e (why.getD e)))

/-- One spindle in one cycle (R70): the slots in cyclic order from the one after the last that issued. -/
def State.spindleBeat (s : State) (c i : Nat) : State :=
  let sp := s.spindle c i
  let s := s.count c 0x03 (sp.slots.filter (·.isNone)).length
  if s.cycle < sp.hold then
    if sp.hold = s.cycle + 1 then s.count c 0x00 1 else (s.count c 0x02 1).count c 0x07 1
  else s.slotScan c i ((List.range 8).map fun n => (sp.last + 1 + n) % 8) none

/-- Clusters that belong to a partition. -/
def State.ownedClusters (s : State) : List Nat := (s.parts.flatMap fun p => s.clustersOf p.1).eraseDups

/-- The fibre that issues a beat 0 on a spindle in this cycle, with the cycle in which it does. -/
def State.beatZero (s : State) (c i : Nat) : Option (Nat × Nat) :=
  let t := s.spindleBeat c i
  (t.spindle c i).slots.findSome? fun x => x.bind fun k => (t.fib? k).bind fun f =>
    match f.beats with
    | [b] => if s.cycle ≤ b then some (b, k) else none
    | _ => none

/-- The spindles of a cluster in the order in which their executions begin: by the cycle of beat 0, then by skein id and path (R405). -/
def State.spindleOrder (s : State) (c : Nat) : List Nat :=
  if ((s.owner c).map fun p => substEn (s.part p).substCtl).getD false then
    ((List.range 4).foldl (fun a i => ins (s.beatZero c i, i) a) []).map (·.2)
  else List.range 4
where
  /-- Whether one beat 0 comes before another; a spindle without one comes last. -/
  before : Option (Nat × Nat) → Option (Nat × Nat) → Bool
    | some a, some b => decide (a.1 < b.1) || (a.1 == b.1 && decide (a.2 < b.2))
    | some _, none => true
    | none, _ => false
  /-- Insert in that order. -/
  ins (x : Option (Nat × Nat) × Nat) : List (Option (Nat × Nat) × Nat) → List (Option (Nat × Nat) × Nat)
    | [] => [x]
    | y :: ys => if before x.1 y.1 then x :: y :: ys else y :: ins x ys

/-- The beats of a cycle, on every spindle. -/
def State.beatPhase (s : State) : State :=
  let s := s.ownedClusters.foldl (fun a c => (a.spindleOrder c).foldl (fun a i => a.spindleBeat c i) a) s
  { s with beaten := true }

/-! ### What is due in the present cycle -/

/-- Whether a fibre that is READY must stop (R438, R440, R442): it stands at a boundary. -/
def State.readyStop (s : State) (k : Nat) (f : Fibre) : Option Nat :=
  if f.state != .ready || f.passStop || f.inBody || f.wait.entering then none
  else if f.stopReq || f.stepReq then some 90
  else if (s.cluster (fibCluster k)).trace.holding && s.traced k then some 91
  else none

/-- What a fibre does by itself in this cycle: a publish wait or a trap entry ends (R62, R321), a stop takes place, or its stop
record is written (R441). -/
def State.fibreDue (s : State) (k : Nat) (f : Fibre) : Option State :=
  if f.saved then none
  else if s.stopRecDue k then some (s.stopWritten k)
  else
    match s.readyStop k f, s.strand? (fibStrand k) with
    | some e, _ => some (s.stopFibre k e 0)
    | none, some st =>
      match f.wait with
      | .trap tr resume start act =>
        (st.lastLanding f.laneSet (fun _ => true) s.cycle).bind fun t =>
          if t ≤ s.cycle then some (s.enterHandler k tr resume start act t) else none
      | .none => if f.state == .parked && st.pubsLanded f s.cycle then some (s.ready k) else none
      | .fence kind scope =>
        if f.state == .parked && s.fenceMet k kind then some ((s.fenceSync k kind scope).ready k) else none
      | _ => none
    | none, none => none

/-- A PART_WR that waits is made again once it need not wait (R182, R452). -/
def State.mailboxDue (s : State) : Option State :=
  match s.mbWait with
  | none => none
  | some (part, ctx, sr, v) =>
    match execPartWr part ctx sr v s with
    | .next s' => if s'.mbWait.isNone then some s' else none
    | _ => none

/-- What a fibre, or the mailbox, does by itself in this cycle. -/
def State.selfDue (s : State) : Option State :=
  (s.allFibs.findSome? fun f => s.fibreDue f.1 f.2).orElse fun _ => s.mailboxDue

/-- Events of a parked fibre that may be due. -/
def waitEvents (k : Nat) (f : Fibre) : List Instr :=
  if f.saved || f.state != .parked then []
  else
    match f.wait with
    | .miss _ => [.missDataLands k]
    | .atomic _ => [.atomicReturn k]
    | .waiteq .. => [.waiteqWake k, .waiteqTimeout k]
    | .fifo .. => [.fifoTimeout k]
    | .yield _ => [.yieldWake k]
    | .sleept .. => [.sleeptWake k]
    | .ifence _ => [.ifenceDone k]
    | .code _ => [.codeArrival k, .codeUnarrived k]
    | .push => [.taskPushAccept k]
    | _ => []

/-- Events of the units of a cluster that may be due. -/
def clusterEvents (c : Nat) (x : Cluster) : List Instr :=
  (x.spindles.zipIdx.flatMap fun sp =>
    (if sp.1.sfu.isEmpty then [] else [Instr.sfuResultLands c sp.2]) ++
      (List.range sp.1.stores.length).map fun n => Instr.storePerformed c sp.2 n) ++
    (x.banks.zipIdx.filterMap fun b => if b.1.next.isSome then some (Instr.bankModeChangeEnd c b.2) else none) ++
    ((x.fnq.filter (·.held.isSome)) ++ (x.fnq.filter (·.held.isNone)).take 1).map (fun o => Instr.fnOpPerform o.strand) ++
    x.copies.map (fun o => Instr.engineOpComplete o.strand o.cls o.num) ++
    ((List.range x.mxq.length).flatMap fun n => [Instr.matrixOpPerform c n, .mxAccExhausted c n, .mxPinTimeout c n]) ++
    (if x.trace.staged.isEmpty && !x.trace.holding then [] else [Instr.traceDrain c])

/-- Events of a partition and its contexts that may be due; a switched-out context waits for the outside (R328). -/
def partEvents (s : State) (p : Nat) (x : Partition) : List Instr :=
  [Instr.lqRecall p, .launchAccept p false, .launchAccept p true, .cmpFwdDone p, .ckptTake p, .measurePassEnd p, .skeinPlace p] ++
    (if x.fetchws.isEmpty then [] else [Instr.fetchwReply p 0]) ++
    (List.range 16).flatMap fun n =>
      let k := ctxKey p n
      (if (s.ctx k).pre == .in_ then [Instr.contextRestore k] else []) ++
        [Instr.sliceEnd k, .instructionLevelHalt k, .contextSaveEnd k, .kill k, .xlInvDone k] ++
        (List.range 4).map fun d => Instr.pageRequestDrain d k

/-- Events of the device that may be due, in the order in which they are tried. -/
def State.candidates (s : State) : List Instr :=
  ((List.range 4).filterMap fun d => (s.nextWalk d).map fun w => Instr.walkComplete w.1 w.2) ++
    (s.allFibs.flatMap fun f => waitEvents f.1 f.2) ++
    (s.clusters.flatMap fun c => clusterEvents c.1 c.2) ++
    (s.skeins.flatMap fun k => if k.2.asked && !k.2.granted then [Instr.poolEntryGrant 2 (k.1 / 4096), .skeinGrant k.1] else []) ++
    (s.launches.flatMap fun l => (l.2.frontier.map fun f => f.inflight.filterMap fun p => match p.at_ with
      | .ended sk => some (Instr.pointComplete sk)
      | _ => none).getD []) ++
    (s.parts.flatMap fun p => partEvents s p.1 p.2) ++
    (Instr.poolEntryGrant 0 0 :: (List.range 4).flatMap fun d => [Instr.poolEntryGrant 4 d, .poolEntryGrant 5 d, .poolEntryGrant 6 d])

/-- Whether an event changes the state now. -/
def State.changes (s : State) (e : Instr) : Bool :=
  match exec e s with
  | .next s' => decide (s' ≠ s)
  | _ => false

/-- The event that takes place next in the present cycle, as soon as its unit can: none when every unit is at rest. -/
def State.dueEvent (s : State) : Option Instr := s.candidates.find? s.changes

/-! ### The next cycle -/

/-- The event code that counts a parked fibre's cycles (Table 20.1). -/
def parkedCode : Wait → Option Nat
  | .miss _ | .atomic _ | .walk => some 0x09
  | .none => some 0x0A
  | .bar .. | .sem _ | .acq | .claim _ => some 0x0B
  | .waiteq .. | .fifo .. => some 0x0C
  | .waitc .. | .sleept .. | .mwait .. => some 0x0D
  | .faultQ _ => some 0x0E
  | _ => none

/-- Codes of events of units whose state the model does not hold, or whose durations are not stated (log entry 30). -/
def unitCodes : List Nat := [0x20, 0x26, 0x28, 0x2A, 0x30, 0x31, 0x32, 0x33]

/-- The counts of a cycle that has passed on one cluster (R430). -/
def State.cycleCounts (s : State) (c : Nat) : State :=
  let parked := s.allFibs.filterMap fun f => if fibCluster f.1 == c && f.2.state == .parked then parkedCode f.2.wait else none
  let s := parked.foldl (fun a e => a.count c e 1) s
  let s := s.count c 0x1E (if (s.cluster c).mxq.any (·.pinAt.isSome) then 1 else 0)
  let s := s.count c 0x1F (if (s.cluster c).mxq.any (·.bindAt.isSome) then 1 else 0)
  unitCodes.foldl (fun a e => a.count c e (Config.unitEvents c e a.cycle)) s

/-- The first beat of an instruction under way in a strand, or the present cycle: no read of the strand comes before it. -/
def State.readFloor (s : State) (st : Strand) : Nat := st.paths.foldl (fun a p => min a (p.2.beats.headD a)) s.cycle

/-- Fold what has landed into the register files. -/
def State.settleAll (s : State) : State := { s with strands := s.strands.map fun e => (e.1, e.2.settle (s.readFloor e.2)) }

/-- Free slots that a ready fibre takes at the start of a cycle (R72). -/
def State.handouts (s : State) : List Instr :=
  s.ownedClusters.flatMap fun c => (List.range 4).flatMap fun i =>
    if (s.nextHand c i).isNone then []
    else ((s.spindle c i).slots.zipIdx.filter (·.1.isNone)).map fun x => Instr.slotHandout c i x.2

/-- One cycle of the chip counter, and the reference tick of 10 ns when one passes (R12, R484): a cycle lasts 32 / (25 · k) of it. -/
def State.clockStep (s : State) : State :=
  let fr := s.refFrac + 32 * 720720 / s.clkK
  if 25 * 720720 ≤ fr then { s with cycle := s.cycle + 1, refFrac := fr - 25 * 720720, refCount := s.refCount + 1 }
  else { s with cycle := s.cycle + 1, refFrac := fr }

/-- The start of the next cycle (R12, R72): nothing is left to do in the present one. -/
def State.tick (s : State) : State :=
  let s := s.clusters.foldl (fun a c => a.traceFlush c.1) s
  let s := s.ownedClusters.foldl State.cycleCounts s
  let s := s.settleAll.clockStep
  let s := s.clusters.foldl (fun a c => (((a.l1Evict c.1).pfArrive c.1).keepPromises c.1).keepLate c.1) s
  let s := s.parts.foldl (fun a p => a.ephDrain p.1 16) s
  let eph := if (List.range 32).any s.ephDue then [Instr.ephemerisTick] else []
  let arb := if s.cycle % 64 = 0 then [Instr.arbAgeStep] else []
  { s with beaten := false, agenda := eph ++ arb ++ s.handouts }

/-! ### An instruction's beat-2 moment -/

/-- Whether the fibre of an issue still stands at the beats it names. -/
def State.stillAt (s : State) (is : Issue) : Bool := ((s.fib? is.fib).map fun f => f.beats == [is.r0, is.r1, is.r2]).getD false

/-- Instructions before whose effect the fibre's queued stores are performed: releases and the issues of the engines (R211, R253, R273,
R315, R317, R318, R346, R382), a write of CMP_CTL (R469), and scratch atomics, which those to their bytes precede (R221). -/
def drains : Instr → Bool
  | .copy .. | .gather _ | .coll .. | .bar _ | .bara _ | .semv _ | .ifence _ | .fnld _ | .fnst _ | .launch _ | .fpush _
  | .ckpt _ | .tspawn _ | .tdone _ | .atoms .. | .atom .. | .atomc _ | .mma .. | .mmas .. | .mcomp _ | .msacc _ | .mrel _ | .mzero _
  | .mrda _ | .mwra _ | .msta _ | .mlda _ => true
  | .srwr f => f.sr == 0x11B
  | _ => false

/-- The bank in change that an instruction must wait for, since it would perform a queued store there (R186). -/
def State.drainWait (s : State) (k : Nat) (i : Instr) : Option Nat := if drains i then s.drainBusy k else none

/-- The instruction of an issue has its effect; one whose fibre has gone is dropped, and one whose fibre's stores use a bank in change
issues again after it. -/
def State.runIssue (s : State) (is : Issue) : Host.Outcome State Fault Refusal :=
  let s := { s with issues := s.issues.erase is }
  if !s.stillAt is then .next s
  else
    match s.fib? is.fib, s.strand? (fibStrand is.fib) with
    | some f, some st =>
      match s.fetch is.fib f with
      | .instr i =>
        match s.drainWait is.fib i with
        | some n => .next (s.stall is.fib (.bank n))
        | none => exec i { s.noteErrs is i with cur := some is }
      | r => .next (s.notFetched is.fib f st r)
    | _, _ => .next s

/-- The issue whose moment has come, the earliest in the order of R7. -/
def State.issueNow (s : State) : Option Issue := s.issues.find? fun is => decide (is.r2 ≤ s.cycle)

/-- An entry of the agenda takes place; an instruction is no event. -/
def State.runEvent (s : State) (e : Instr) : Host.Outcome State Fault Refusal := if e.isEvent then exec e s else .next s

end Sys2Proof.Machine
end

