-- ==== Sys2Proof/Machine/Step.lean ====
section
/-! DEFINITION. One step of the device: what the agenda names, or an instruction whose beat 2 has come, or the beats of the cycle, or a
unit that can act, or the next cycle; and a state in which a given instruction comes next. -/

namespace Sys2Proof.Machine

/-- One step. -/
def step (s : State) : Host.Outcome State Fault Refusal :=
  match s.agenda with
  | e :: rest => { s with agenda := rest }.runEvent e
  | [] =>
    match s.issueNow with
    | some is => s.runIssue is
    | none =>
      if !s.beaten then .next s.beatPhase
      else
        match s.selfDue with
        | some s' => .next s'
        | none =>
          match s.dueEvent with
          | some e => exec e s
          | none => .next s.tick

/-- A state in which one instruction is about to have its effect: skein 0 of cluster 0 with one strand of 30 register blocks, its
fibre of all 96 lanes at beat 2 of the text of code object 0 at virtual and physical address 0x1000, which the cluster has
translated. It stands for a launch (log entry 32). -/
def State.withFetchWord (s : State) (nbits w : Nat) : State :=
  let all : Lanes := lanesOf fun _ => true
  let is : Issue := { fib := 0, r0 := s.cycle, r1 := s.cycle + 1, r2 := s.cycle + 2 }
  let fib : Fibre := { laneSet := all, pc := 0, state := .running, beats := [is.r0, is.r1, is.r2] }
  let st : Strand := { blocks := 30, paths := [(0, fib)] }
  let st := (List.range 3).foldl (fun a e => a.poke (253 + e) (groupLanes e) fun _ => 1) st
  let page : Xlat :=
    { part := 0, ctx := 0, vbase := 0x1000, size := 12, frame := 0x1000, loc := 0, ord := 0, code := true, spriv := false, x := true
      w := false }
  let entry := bytesOfNat 8 0x1000 ++ bytesOfNat 4 4096 ++ bytesOfNat 4 1 ++ List.replicate 48 0
  let s := s.modCluster 0 fun c =>
    { c with tlb := page :: c.tlb, spindles := lset c.spindles 0 { slots := some 0 :: List.replicate 7 none } }
  let mem := cellsWrite (cellsWrite s.mem (s.part 0).baseTbl.toNat entry) 0x1000 (bytesOfNat 16 (w % 2 ^ nbits))
  { s with
    cycle := s.cycle + 2, mem := mem, ics := tset s.ics 0 {}
    strands := tset s.strands 0 st
    skeins := tset s.skeins 0 { launch := 0, index := 0, part := 0, ctx := 0, pro := (30, 64, 4, 0), full := (30, 64, 4, 0), granted := true }
    agenda := [], issues := [is] }

end Sys2Proof.Machine
end

