-- ==== Sys2Proof/Safety.lean ====
section
/-! DEFINITION. What counts as a safe run, the invariants that claims use, and the vocabulary of frames: what an instruction may
change. -/

namespace Sys2Proof.Machine

/-! ### Runs -/

/-- `n` steps lead from `s` to `t`. -/
def Runs (n : Nat) (s t : State) : Prop := Sys2Proof.core.run n s = .next t

/-- A safe run: however many steps are made, the machine goes on. -/
def Safe (s : State) : Prop := ∀ n, ∃ t, Runs n s t

/-! ### Invariants -/

/-- The memories have their canonical form: rising addresses, and nothing listed that an unlisted address reads as; and the slots of
swizzled areas are whole blocks of 4 KiB (R216). -/
def MemOk (s : State) : Prop :=
  memWf s.mem = true ∧ ∀ e ∈ s.skeins, memWf e.2.scratch = true ∧ ∀ x ∈ e.2.scrcfg, x.2.1 % 4096 = 0 ∧ x.2.2 % 4096 = 0

/-- Issue numbers in a strand: those of its writes in flight were all given out (R99). -/
def Strand.SeqOk (st : Strand) : Prop := ∀ f ∈ st.flights, f.seq < st.seq

/-! ### The moment of an instruction -/

/-- Instruction `i` has its beat 2 in state `s`, sees context `c`, and passes every check that every instruction makes before its
effect: steps 12 to 17 of Table 2.7, R85, R68 and R332. -/
def Issues (i : Instr) (s : State) (c : Ctx) : Prop := ∃ is, s.cur = some is ∧ mkCtx i s is = some c ∧ c.check = none

/-- The instruction's beat 2, whether or not the checks pass. -/
def AtBeat2 (i : Instr) (s : State) (c : Ctx) : Prop := ∃ is, s.cur = some is ∧ mkCtx i s is = some c

/-- Terminator `i` has its beat 2 in `s` and passes every check, and the tests of its run (R403, R406, R412, R415) raise no trap and leave
`u`, from which it takes effect. Where substitution observes no run, `u` is `s`; else it differs in the sampler, the substitution
table, the counters and the provenance. -/
def Ends (i : Instr) (s : State) (c : Ctx) (u : State) : Prop := Issues i s c ∧ c.substEnd s = (u, none)

/-! ### Frames -/

/-- Writes were issued to a strand, and nothing else was changed. -/
def State.withFlights (s : State) (strand : Nat) (new : List Flight) : State :=
  s.modStrand strand fun st => { st with flights := st.flights ++ new, seq := st.seq + new.length }

/-- From `s` to `t` the instruction of `c` issued writes to registers `rs` only, in lanes of act only, and went on to the next
instruction; nothing else changed. -/
def OnlyWrites (c : Ctx) (s t : State) (rs : List Nat) : Prop :=
  ∃ new : List Flight, t = c.advance (s.withFlights c.strand new) ∧ ∀ x ∈ new, x.reg ∈ rs ∧ x.lanes &&& ~~~c.act = 0

/-- `t` is `s` but for strands: no memory, no special register, no queue, no counter has changed. -/
def OnlyStrands (s t : State) : Prop := t = { s with strands := t.strands }

/-- A strand other than `k` is as it was. -/
def OtherStrands (k : Nat) (s t : State) : Prop := ∀ n, n ≠ k → t.strand? n = s.strand? n

/-- Every byte of memory, of scratch too, reads as before. -/
def MemSame (s t : State) : Prop := t.mem = s.mem ∧ ∀ l, t.locRead l = s.locRead l

/-- Every byte of memory outside the keys `ks` reads as before. -/
def MemSameBut (ks : List Nat) (s t : State) : Prop := ∀ a, a ∉ ks → t.memRead a = s.memRead a

/-- A location outside the region of a partition's undo log, which the log engine writes (R337). -/
def OffLog (s : State) (part : Nat) (l : Loc) : Prop :=
  ∀ k, l = .mem k → k < (s.part part).undoAt 0 ∨ (s.part part).undoAt 0 + (s.part part).ckSize.toNat * 2 ^ 20 ≤ k

/-- Every register of every strand holds what it held, with the same writes in flight. -/
def RegsSame (s t : State) : Prop :=
  ∀ k st, s.strand? k = some st → ∃ st', t.strand? k = some st' ∧ st'.regs = st.regs ∧ st'.flights = st.flights

/-- Every special-purpose register of contexts and partitions is as it was. -/
def SpecialsSame (s t : State) : Prop := t.ctxs = s.ctxs ∧ t.parts = s.parts

/-! ### Results of instructions that write registers -/

/-- What an instruction leaves that writes `W` to the bits `cov` of D in the lanes of act, ORs `fl` into vfst there, and goes on:
both at latency `lat` (R99, R100, R103). -/
def Ctx.afterWrite (c : Ctx) (s : State) (d : BitVec 8) (cov : Word) (lat : Nat) (W : Nat → Word) (fl : Nat → Flags) : State :=
  c.advance (c.orFlags (c.putBits s d.toNat c.act W cov lat c.laneTag) fl lat)

/-- The same for the elements that DMASK enables (R39). -/
def Ctx.afterElems (c : Ctx) (s : State) (f : X64) (lat : Nat) (W : Nat → Word) (fl : Nat → Flags) : State :=
  c.afterWrite s f.d (dmaskBits (X64.w f) (X64.dm f (X64.w f))) lat W fl

/-- What an instruction leaves that writes `V` to the pair D, both members together, and goes on. -/
def Ctx.afterPair (c : Ctx) (s : State) (d : BitVec 8) (lat : Nat) (V : Nat → DWord) : State := c.advance (c.putPair s d V lat)

/-- Every element of a word, `w` bits wide, is the number `x i` reduced mod 2^w (R98). -/
def ElemsAre (w : Nat) (W : Word) (x : Nat → Int) : Prop := ∀ i, i < 32 / w → (el w W i : Int) = x i % 2 ^ w

/-- R100: every element is the number `x i`, reduced or (for `sat`) clamped; SAT is set exactly when the clamp changes an element
that DMASK writes, and no other flag. -/
def ElemsFit (sat sg : Bool) (w : Nat) (dm : BitVec 8) (W : Word) (fl : Flags) (x : Nat → Int) : Prop :=
  ElemsAre w W (fun i => if sat then max (minW sg w) (min (maxW sg w) (x i)) else x i) ∧
    ((sat = true ∧ ∃ i, i < 32 / w ∧ dm.getLsbD i = true ∧ (x i < minW sg w ∨ maxW sg w < x i)) → fl = fSAT) ∧
    ((¬ ∃ i, i < 32 / w ∧ dm.getLsbD i = true ∧ (x i < minW sg w ∨ maxW sg w < x i)) ∨ sat = false → fl = 0)

/-- `val` of element `i` of a word (R98). -/
def elVal (sg : Bool) (w : Nat) (x : Word) (i : Nat) : Int := val sg w (el w x i)

/-- The outcome of an instruction with floating-point traps (R138): an enabled cause is taken before any effect; otherwise `W` goes to
the bits `cov` of D, and the flags to vfst. -/
def FpOutcome (c : Ctx) (s : State) (i : Instr) (order : List Cause) (d : BitVec 8) (cov : Word) (lat : Nat) (W : Nat → Word)
    (fl : Nat → Flags) : Prop :=
  (∀ t, fpTrap c.st.ctl order c.act fl = some t →
    exec i s = .next (s.takeTrap c.k { t with word := some i.word0 } c.act c.len)) ∧
  (fpTrap c.st.ctl order c.act fl = none → exec i s = .next (c.afterWrite s d cov lat W fl))

/-- The outcome of an element-wise floating-point instruction: `res l i` is the code of element `i` in lane `l`, with its flags; only
elements that DMASK writes set flags (R135, R139). -/
def FpElems (c : Ctx) (s : State) (i : Instr) (f : X64) (order : List Cause) (res : Nat → Nat → Nat × Flags) : Prop :=
  ∃ W fl, FpOutcome c s i order f.d (dmaskBits (X64.w f) (X64.dm f (X64.w f))) 3 W fl ∧
    ∀ l, (∀ j, j < 32 / X64.w f → el (X64.w f) (W l) j = (res l j).1 % 2 ^ X64.w f) ∧
      ∀ b, (fl l).getLsbD b = true ↔
        ∃ j, j < 32 / X64.w f ∧ (X64.dm f (X64.w f)).getLsbD j = true ∧ (res l j).2.getLsbD b = true

/-- What an instruction that traps before any effect leaves: the trap is taken, with TFWORD its bits [31:0] (R7, R319, R321). -/
def Ctx.afterTrap (c : Ctx) (s : State) (i : Instr) (t : Trap) : State :=
  s.takeTrap c.k { t with word := some i.word0 } c.act c.len

/-! ### Ends of runs -/

/-- The run of a fibre ends with its terminator, and the next begins at `pc` once the publish list has landed (R56, R60 to R62). -/
def Ctx.goesTo (c : Ctx) (s : State) (pc : DWord) : State := ((c.closeRun s).endRun c.k pc).toReady c.k

/-- The run ends at its terminator, and the fibre parks in wait `w`; it will go on at the next instruction (R62, R83). -/
def Ctx.parksAt (c : Ctx) (s : State) (w : Wait) : State :=
  ((c.closeRun s).modFib c.k fun f => { f with after := some c.nextPc }).park c.k w

/-- Register `r` of strand `k` holds what it held, with the same writes in flight. -/
def RegKept (k r : Nat) (s t : State) : Prop :=
  ∀ st, s.strand? k = some st → ∃ st', t.strand? k = some st' ∧ st'.row r = st.row r ∧
    (st'.flights.filter fun x => x.reg == r) = st.flights.filter fun x => x.reg == r

/-! ### Results that are in flight -/

/-- State `t` holds, beside the writes `old` of a strand, a write of the words `val` to register `r` in `lanes`, which lands in beat
group b no earlier than `at_ b`; em_k takes bit j of the word of lane 32k + j, for lanes of the fibre's lane set `set` (R99); vz, vlane
and vrole take nothing. -/
def InFlight (t : State) (strand : Nat) (old : List Flight) (r : Nat) (set lanes : Lanes) (at_ : Nat → Nat) (val : Nat → Word) :
    Prop :=
  r < 248 ∨ 250 < r → ∃ st new x ld, t.strand? strand = some st ∧ st.flights = old ++ new ∧ x ∈ new ∧ x.reg = r ∧ x.orIn = false ∧
    x.cov = 0xFFFFFFFF ∧ x.land = some ld ∧ (∀ b, b < 3 → at_ b ≤ tri ld b) ∧
    (r < 253 → x.lanes = lanes ∧ ∀ l, l < 96 → lanes.getLsbD l = true → laneW x.vals l = val l) ∧
    (253 ≤ r → x.lanes = lanes &&& set &&& groupLanes (r - 253) ∧
      ∀ l, l < 96 → x.lanes.getLsbD l = true → laneW x.vals l = if (val l).getLsbD (l % 32) then 1 else 0)

/-- The fibre of `c` is where it was, its strand's registers and writes in flight are what they were but for registers `rs`, and no
byte of memory has changed. -/
def Ctx.Frame (c : Ctx) (rs : List Nat) (s t : State) : Prop :=
  MemSame s t ∧ OtherStrands c.strand s t ∧ ∀ r, r ∉ rs → RegKept c.strand r s t

/-- The fibre has gone on to the next instruction of its run. -/
def Ctx.WentOn (c : Ctx) (t : State) : Prop := ∃ u, t = c.advance u

/-- The fibre parked in wait `w`. -/
def ParkedIn (t : State) (k : Nat) (w : Wait) : Prop := ∃ g, t.fib? k = some g ∧ g.state = .parked ∧ g.wait = w

/-- The fibre parked in wait `w` at the instruction it stands at, which it will issue again. -/
def Ctx.ParksToRetry (c : Ctx) (t : State) (w : Wait) : Prop :=
  ∃ g, t.fib? c.k = some g ∧ g.state = .parked ∧ g.wait = w ∧ g.pc = c.f.pc ∧ g.runPos = c.f.runPos

/-- No register the instruction may read carries a taint tag. -/
def Ctx.Untagged (c : Ctx) : Prop := ∀ r l, c.tagOf r l = none

end Sys2Proof.Machine
end

