-- ==== Sys2Proof/Certificates/Slice0/Obligations.lean ====
section
/-! DEFINITION. The statements about the machine, for the provers. -/

open Sys2Proof Sys2Proof.Machine

/-! ### The whole machine -/

/-- R25, R26, R31, R45: the bytes of every well-formed instruction, whatever follows them in memory, decode to that instruction and to its
length. -/
def Obligations.DecodeReadsBackEncode : Prop :=
  ∀ (i : Instr) (rest : List Byte), WellFormed i → decode (encodeBytes i ++ rest) = .ok (i, i.bytes)

/-- R25 to R30, R33, R35: the parcels of instructions that the specification writes out, of every format and family, decode to the
instructions that it says they are. -/
def Obligations.WrittenOutWordsDecode : Prop :=
  let reads := fun (ws : List (BitVec 32)) (i : Instr) => decode (ws.flatMap fun w => bytesOfNat 4 w.toNat) = .ok (i, 4 * ws.length)
  reads [0x8141080A, 0x00144001, 0x03004900, 0x0000430C]
    (.iadd true { d := 4, a := 5, b := 6, c := 0, esz := 1, flg := 1, imm8 := 0, u := 0, stall := 2, ext := .l128 0x03004900 0x0000430C }) ∧
  reads [0x81430CC0, 0x1FFFFF50]
    (.icmpi .lt { d := 12, a := 5, imm26 := 0x07FFFFD, flg := 1, esz := 0, u := 0, stall := 0, ext := .l64 }) ∧
  reads [0x804250C4, 0x001000C0]
    (.ffma .f32 { d := 9, a := 1, b := 2, c := 3, esz := 0, flg := 1, imm8 := 0, u := 0, stall := 1, ext := .l64 }) ∧
  reads [0x0081D880, 0x00000000]
    (.sqrt { d := 7, a := 2, b := 0, c := 0, esz := 0, flg := 0, imm8 := 0, u := 0, stall := 0, ext := .l64 }) ∧
  reads [0x4182A001, 0x00600C02, 0x00000040]
    (.ld { ofs := 0x40, type := 0, xsc := 3, hint := 0, scope := 0, ord := 0, sz := 3, b := 9, a := 6, d := 10, u := 0, stall := 0, guard := none }) ∧
  reads [0x41812801, 0x1001A801, 0x00000010]
    (.atom .add { ofs := 16, type := 0x10, xsc := 0, hint := 0, scope := 3, ord := 1, sz := 2, b := 5, a := 6, d := 4, u := 0, stall := 0, guard := none }) ∧
  reads [0x01852C01, 0x00000282, 0x00000000]
    (.copy .lin { d := 20, a := 6, b := 8, c := 10, esz := 0, flg := 0, imm8 := 0, u := 0, stall := 0, ext := .l96 0 }) ∧
  reads [0x00043901, 0x00000140, 0x00F8F8F8]
    (.tpop { rsv := 0, yl := 0, el := 0, p2 := 248, p1 := 248, p0 := 248, imm26 := 5, flg := 0, b := 0, a := 16, r5 := 0, stall := 0, guard := none }) ∧
  reads [0x00003B01, 0x000001C0, 0x00F8F8F8]
    (.trap { rsv := 0, yl := 0, el := 0, p2 := 248, p1 := 248, p0 := 248, imm26 := 7, flg := 0, b := 0, a := 0, r5 := 0, stall := 0, guard := none }) ∧
  reads [0x00013BC0, 0x00000240]
    (.srrd { d := 4, a := 0, imm26 := 9, flg := 0, esz := 0, u := 0, stall := 0, ext := .l64 }) ∧
  reads [0x02803001, 0x00080383, 0x00000404]
    (.mma .facc { d := 0, a := 10, b := 12, c := 14, esz := 2, flg := 0, imm8 := 0, u := 0, stall := 0, ext := .l96 0x404 }) ∧
  reads [0x06082101, 0x0000043E, 0x00000000]
    (.ldt { ofs := 0, type := 0, xsc := 0, hint := 0, scope := 0, ord := 0, sz := 1, b := 248, a := 24, d := 32, u := 0, stall := 0, guard := none }) ∧
  reads [0x0000F741, 0x00000343, 0x00000000]
    (.fndom { d := 3, a := 0, b := 12, c := 13, esz := 0, flg := 0, imm8 := 0, u := 0, stall := 0, ext := .l96 0 }) ∧
  reads [0x4383DC0C, 0x60004002]
    (.shfl .up { d := 15, a := 14, b := 9, c := 0, esz := 0, flg := 0, imm8 := 0x60, u := 0, stall := 3, ext := .l64 }) ∧
  reads [0x0A4A3A00, 0x00000000]
    (.sbrd { d := 40, a := 41, b := 0, c := 0, esz := 0, flg := 0, imm8 := 0, u := 0, stall := 0, ext := .l64 }) ∧
  reads [0xC1C24101, 0xFFFFFD00, 0x00F8F8F8]
    (.bru .bclr { rsv := 0, yl := 0, el := 0, p2 := 248, p1 := 248, p0 := 248, imm26 := 0x3FFFFF4, flg := 0, b := 7, a := 9, r5 := 0, stall := 0, guard := none })

/-- R7, R26, R45, R64: when the beat 2 of a fibre's instruction has come, and its fetch gives the instruction its bytes decode to, the step
is that instruction's meaning in the same state, with the issue taken from those that wait and register errors found in lanes outside act
marked (R332), or the fibre waits where that would perform a queued store in a bank that is changing its mode (R186); an event at the head
of the agenda takes place; a fetch that traps takes the trap. Where it rests on a choice or an inference of the model: log entries 5, 20, 32 and 81. -/
def Obligations.StepRunsTheDecodedInstruction : Prop :=
  (∀ (s : State) (is : Issue) (f : Fibre) (st : Strand), s.agenda = [] → s.issues.find? (fun x => decide (x.r2 ≤ s.cycle)) = some is →
    s.fib? is.fib = some f → s.strand? (fibStrand is.fib) = some st → f.beats = [is.r0, is.r1, is.r2] →
    (∀ i, s.fetch is.fib f = .instr i →
      let u : State := { s with issues := s.issues.erase is }
      (u.drainWait is.fib i = none → step s = exec i { u.noteErrs is i with cur := some is }) ∧
      ∀ n, u.drainWait is.fib i = some n → step s = .next (u.stall is.fib (.bank n))) ∧
    ∀ t, s.fetch is.fib f = .trap t →
      step s = .next (({ s with issues := s.issues.erase is } : State).takeTrap is.fib t (st.mask f.laneSet (s.cycle, s.cycle, s.cycle)) 0)) ∧
  (∀ (s : State) (e : Instr) (rest : List Instr), s.agenda = e :: rest → e.isEvent = true → step s = exec e { s with agenda := rest }) ∧
  ∀ (s : State) (k : Nat) (f : Fibre) (x : Xlat) (i : Instr) (n : Nat),
    let e := s.fibEntry k f.pc
    f.run = none → pcOffset f.pc % 4 = 0 → pcHandle f.pc < 4096 → beValid e = true → pcOffset f.pc + n ≤ beLen e →
    s.tlbFind (fibCluster k) (s.strandCtx (fibStrand k)) (s.fetchAddr k f) = some x → x.x = true → x.code = true → x.loc = 0 →
    x.ord ≠ 3 → s.arrived k f.pc = true → decode (s.fetchBytes k f (x.key (s.fetchAddr k f))) = .ok (i, n) →
    s.fetch k f = .instr i

/-- No step stops the machine: every trap, every stop and every halt is a next state. Where it rests on a choice or an inference of the model: log entries 83 and 86. -/
def Obligations.EveryStepAnswersANextState : Prop := ∀ s : State, ∃ t, step s = .next t

/-- The memories keep their canonical form: rising addresses, and nothing listed that an unlisted address reads as; and the slots of the
swizzled areas stay whole blocks. -/
def Obligations.MemoryKeepsItsForm : Prop := ∀ s t : State, MemOk s → step s = .next t → MemOk t

/-- System registers whose reset value the specification states (R183, Tables 12.1, 18.7, 20.6, 22.1, 22.2). -/
def resetSr : List (Nat × Word) :=
  [(0x020, 5000), (0x021, 100000), (0x0C0, 0), (0x0C1, 0), (0x0E0, 0xA00), (0x0E7, 0x0C000000), (0x0EC, 0), (0x0F8, 0x10000000),
   (0x0FC, 1), (0x0FD, 0), (0x101, 1), (0x102, 1), (0x10A, 100000), (0x11B, 0), (0x200, 0), (0x201, 0), (0x202, 0), (0x204, 0),
   (0x205, 0), (0x206, 8), (0x208, 0), (0x209, 0), (0x20A, 0), (0x210, 0), (0x211, 0), (0x212, 64), (0x213, 0), (0x214, 0)]

/-- R12, R183, R186, R451, R457, R473: after package reset both counts are 0, no cluster is owned, all banks are in CACHE mode, and the
registers hold the values that the specification states; the memories are in their canonical form. -/
def Obligations.ResetIsAsStated : Prop :=
  let s := State.reset
  s.cycle = 0 ∧ s.refCount = 0 ∧ MemOk s ∧ (∀ p c, s.owns p c = false) ∧
    (∀ c, (s.cluster c).banks.length = 16 ∧ ∀ b ∈ (s.cluster c).banks, b.mode = .cache) ∧
    (∀ ctx cl fib, ∀ e ∈ resetSr, s.regRead { ctx := ctx, cluster := cl, fib := fib } e.1 = e.2) ∧
    (∀ u l q, s.poolLim u l q = (0, poolSize u)) ∧
    ∀ p, (s.part p).lqEn = false ∧ (s.part p).lqBase = 0 ∧ (s.part p).lqSize = 16 ∧ (s.part p).lqExpect = 0 ∧
      (s.part p).lqRecall = 100

/-- R66, R99: a write of latency L to a register with nothing in flight is seen by a beat of group g from 3 · L cycles after the write's own
beat of that group on, in its lanes and bits, and not before; of two writes to one register the later issued stays. Where it rests on a choice or an inference of the model: log entries 36, 43 and 92. -/
def Obligations.WritesBecomeVisible : Prop :=
  (∀ (s : State) (c : Ctx) (r : Nat) (lanes : Lanes) (val : Nat → Word) (cov : Word) (lat : Nat) (tag : Nat → Option Tag),
    s.strand? c.strand = some c.st → r < 248 → (∀ x ∈ c.st.flights, x.reg ≠ r) →
    let old := fun (l : Nat) => laneW (c.st.row r).vals l
    ∃ st, (c.putBits s r lanes val cov lat tag).strand? c.strand = some st ∧ ∀ l g n, l < 96 → g < 3 →
      (n < tri c.t g + 3 * lat → (st.view r l g n).w = old l) ∧
      (tri c.t g + 3 * lat ≤ n →
        (st.view r l g n).w = if lanes.getLsbD l = true then (old l &&& ~~~cov) ||| (val l &&& cov) else old l)) ∧
  ∀ (s : State) (c d : Ctx) (r l g n la lb : Nat) (lanes : Lanes) (a b : Nat → Word) (tag : Nat → Option Tag),
    s.strand? c.strand = some c.st → r < 248 → (∀ x ∈ c.st.flights, x.reg ≠ r) → d.k = c.k → l < 96 → lanes.getLsbD l = true → g < 3 →
    tri c.t g + 3 * la ≤ n → tri d.t g + 3 * lb ≤ n →
    ∃ st, (d.putBits (c.putBits s r lanes a 0xFFFFFFFF la tag) r lanes b 0xFFFFFFFF lb tag).strand? c.strand = some st ∧
      (st.view r l g n).w = b l

/-- R7, R43, R45, R58, R85, R323, Table 2.7: an instruction that fails a check takes its trap before any effect: the 25th instruction of a
run that is no terminator RUN_LONG, then one above the fibre's level PRIV, then a reserved field its cause, then a v-register
outside the allotment REG_RANGE. -/
def Obligations.FailedChecksTrapFirst : Prop :=
  ∀ (s : State) (i : Instr) (c : Ctx), i.isEvent = false → AtBeat2 i s c →
    let long := 24 ≤ c.f.runPos ∧ i.isTerminator = false
    let level := fun (n : Nat) (w : Bool) => ((srInfo n).map fun x => if w = true then x.wr else x.rd).getD .user
    let low := (c.f.level = .user ∧ i.superOnly = true) ∨
      (∃ f, i = .srrd f ∧ c.f.level.rank < (level f.sr false).rank) ∨ ∃ f, i = .srwr f ∧ c.f.level.rank < (level f.sr true).rank
    (long → exec i s = .next (c.afterTrap s i { cause := .runLong })) ∧
    (¬ long → low → ∃ a, exec i s = .next (c.afterTrap s i { cause := .priv, addr := a }) ∧ (i.superOnly = true → a = 0) ∧
      ((∃ f, i = .srrd f ∧ a = BitVec.ofNat 64 f.sr) ∨ (∃ f, i = .srwr f ∧ a = BitVec.ofNat 64 f.sr) ∨ i.superOnly = true)) ∧
    (¬ long → ¬ low → ∀ e, i.fieldCheck = some e → (∀ f, i ≠ .vote .ballot f ∧ i ≠ .matchLanes f) →
      exec i s = .next (c.afterTrap s i { cause := e })) ∧
    (¬ long → ¬ low → i.fieldCheck = none → (∀ f, i ≠ .vote .ballot f ∧ i ≠ .matchLanes f) →
      ∀ pre v post, i.named = pre ++ v :: post → (∀ x ∈ pre, 240 ≤ x.1 ∨ x.1 + x.2 ≤ 8 * c.st.blocks) →
        v.1 < 240 → 8 * c.st.blocks < v.1 + v.2 →
        exec i s = .next (c.afterTrap s i { cause := .regRange, addr := BitVec.ofNat 64 v.1 }))

/-! ### What register instructions leave alone -/

/-- The registers that an instruction may write that touches registers only, beside the flags it ORs into vfst (252): D, the pair or the triple
D, or D and vamax (251). -/
def writesTo : Instr → Option (List Nat)
  | .iadd _ f | .isub _ f | .imul f | .imulh f | .imad _ f | .idiv f | .irem f | .imin f | .imax f | .iabs f | .ineg f | .and f | .or f
  | .xor f | .andn f | .orn f | .xnor f | .shl f | .shrl f | .shra f | .fshr f | .bfx f | .bfi f | .popc f | .clz f | .ctz f | .brev f
  | .icmp _ f | .sel f | .mov f | .cvta .toscr f | .cvta .cls f | .permb f | .pack f | .unpack f | .fadd _ f | .fsub _ f | .fmul _ f
  | .ffma _ f | .fmin f | .fmax f | .fminn f | .fmaxn f | .fcmp _ f | .fclass f | .fabs f | .fneg f | .fcopysign f | .frnd _ f
  | .fscalb _ f | .fdot2 _ f | .fdot4q f | .cvtfi _ f | .cvtif _ f | .cvtff _ f | .cvtdq f | .shfl _ f | .bcast f | .vote .any f | .vote .all f
  | .lred _ f | .lscan _ f | .leader f | .evrd f => some [f.d.toNat]
  | .iaddi _ f | .andi f | .ori f | .xori f | .shli f | .shrli f | .shrai f | .icmpi _ f | .movi f => some [f.d.toNat]
  | .imadw f | .lea f | .iadd64 f | .isub64 f | .cvta .scr f | .cvta .prv f | .ftwosum f | .cycrd f => some [f.d.toNat, f.d.toNat + 1]
  | .vote .ballot f | .matchLanes f => some [f.d.toNat, f.d.toNat + 1, f.d.toNat + 2]
  | .cvtq f => some [f.d.toNat, 251]
  | _ => none

/-- R39, R58, R64, R100, R103: an instruction that touches registers only, when it does not trap, goes on to the next instruction, and
changes nothing else but that writes are in flight to the registers it names, and flags to vfst, in lanes of act: no other register,
no byte of memory or of scratch, no special register, no queue or counter, no other fibre and no other strand. -/
def Obligations.RegisterInstructionsKeepTheRest : Prop :=
  ∀ (s t : State) (c : Ctx) (i : Instr) (rs : List Nat), Issues i s c → writesTo i = some rs → exec i s = .next t →
    (∃ tr, t = c.afterTrap s i tr) ∨
    (OnlyStrands s t ∧ MemSame s t ∧ SpecialsSame s t ∧ OtherStrands c.strand s t ∧ c.WentOn t ∧ (∀ k, k ≠ c.k → t.fib? k = s.fib? k) ∧
      ∃ st new, t.strand? c.strand = some st ∧ st.regs = c.st.regs ∧ st.flights = c.st.flights ++ new ∧
        ∀ x ∈ new, (x.reg ∈ rs ∨ x.reg = 252 ∧ x.orIn = true) ∧ x.lanes &&& ~~~c.act = 0)

/-! ### Integer, logical and address instructions (chapter 4) -/

/-- R105: IADD, ISUB and IADDI write, in every element that DMASK enables in the lanes of act, the sum or the difference of the
prepared elements mod 2^w, or clamped for `.sat` with SAT set exactly when the clamp changes one (R98 to R101). -/
def Obligations.AddAndSubtractWriteSums : Prop :=
  ∀ (s : State) (c : Ctx) (sat : Bool),
    (∀ f : X64, Issues (.iadd sat f) s c →
      ∃ W fl, exec (.iadd sat f) s = .next (c.afterElems s f 2 W fl) ∧
        ∀ l, ElemsFit sat (X64.sg f) (X64.w f) (X64.dm f (X64.w f)) (W l) (fl l) fun i =>
          elVal (X64.sg f) (X64.w f) (c.srcA .int (X64.w f) f l) i + elVal (X64.sg f) (X64.w f) (c.srcB .int (X64.w f) f l) i) ∧
    (∀ f : X64, Issues (.isub sat f) s c →
      ∃ W fl, exec (.isub sat f) s = .next (c.afterElems s f 2 W fl) ∧
        ∀ l, ElemsFit sat (X64.sg f) (X64.w f) (X64.dm f (X64.w f)) (W l) (fl l) fun i =>
          elVal (X64.sg f) (X64.w f) (c.srcA .int (X64.w f) f l) i - elVal (X64.sg f) (X64.w f) (c.srcB .int (X64.w f) f l) i) ∧
    (∀ f : I64, Issues (.iaddi sat f) s c →
      ∃ W fl, exec (.iaddi sat f) s = .next (c.afterWrite s f.d (dmaskBits (I64.w f) 0xFF) 2 W fl) ∧
        ∀ l, ElemsFit sat (I64.sg f) (I64.w f) 0xFF (W l) (fl l) fun i =>
          elVal (I64.sg f) (I64.w f) (c.rdA f.a.toNat l) i +
            val (I64.sg f) (I64.w f) (f.imm26.toInt % 2 ^ (I64.w f)).toNat)

/-- R106 to R108: IMUL writes the product of the prepared elements mod 2^w, IMULH the upper w bits of its 2w bits, IMAD the product
plus the third element, reduced or clamped at the end only, and IMADW the 64-bit sum to the pair D, both members together. -/
def MultiplyWritesProducts : Prop :=
  ∀ (s : State) (c : Ctx) (f : X64),
    (Issues (.imul f) s c → ∃ W, exec (.imul f) s = .next (c.afterElems s f 3 W fun _ => 0) ∧
      ∀ l, ElemsAre (X64.w f) (W l) fun i =>
        elVal (X64.sg f) (X64.w f) (c.srcA .int (X64.w f) f l) i * elVal (X64.sg f) (X64.w f) (c.srcB .int (X64.w f) f l) i) ∧
    (Issues (.imulh f) s c → ∃ W, exec (.imulh f) s = .next (c.afterElems s f 3 W fun _ => 0) ∧
      ∀ l, ElemsAre (X64.w f) (W l) fun i =>
        elVal (X64.sg f) (X64.w f) (c.srcA .int (X64.w f) f l) i *
          elVal (X64.sg f) (X64.w f) (c.srcB .int (X64.w f) f l) i / 2 ^ (X64.w f)) ∧
    (∀ sat, Issues (.imad sat f) s c → ∃ W fl, exec (.imad sat f) s = .next (c.afterElems s f 3 W fl) ∧
      ∀ l, ElemsFit sat (X64.sg f) (X64.w f) (X64.dm f (X64.w f)) (W l) (fl l) fun i =>
        elVal (X64.sg f) (X64.w f) (c.srcA .int (X64.w f) f l) i *
            elVal (X64.sg f) (X64.w f) (c.srcB .int (X64.w f) f l) i +
          elVal (X64.sg f) (X64.w f) (c.srcC .int (X64.w f) f l) i) ∧
    (Issues (.imadw f) s c → ∃ V, exec (.imadw f) s = .next (c.afterPair s f.d 3 V) ∧
      ∀ l, ((V l).toNat : Int) =
        (val (X64.sg f) 32 (c.srcA .int 32 f l).toNat * val (X64.sg f) 32 (c.srcB .int 32 f l).toNat +
          val (X64.sg f) 64 (c.rdPair f.c.toNat l).toNat) % 2 ^ 64)

/-- R109: IDIV and IREM trap with INT_DIVZERO before any effect when an element that DMASK enables, in a lane of act, has a zero
divisor, TFMASK holding those lanes; otherwise they write the quotient truncated toward zero, or x − y·q, mod 2^w. -/
def DivideTruncatesOrTraps : Prop :=
  ∀ (s : State) (c : Ctx) (f : X64) (rem : Bool), Issues (if rem then .irem f else .idiv f) s c →
    ∃ Z : Lanes,
      (∀ l, l < 96 → (Z.getLsbD l = true ↔
        c.act.getLsbD l = true ∧
          ∃ i, i < 32 / X64.w f ∧ (X64.dm f (X64.w f)).getLsbD i = true ∧ el (X64.w f) (c.srcB .int (X64.w f) f l) i = 0)) ∧
      (Z ≠ 0 → exec (if rem then .irem f else .idiv f) s =
        .next (c.afterTrap s (if rem then .irem f else .idiv f) { cause := .intDivzero, mask := some Z })) ∧
      (Z = 0 → ∃ W, exec (if rem then .irem f else .idiv f) s = .next (c.afterElems s f 12 W fun _ => 0) ∧
        ∀ l, ElemsAre (X64.w f) (W l) fun i =>
          let x := elVal (X64.sg f) (X64.w f) (c.srcA .int (X64.w f) f l) i
          let y := elVal (X64.sg f) (X64.w f) (c.srcB .int (X64.w f) f l) i
          if rem then x - y * x.tdiv y else x.tdiv y)

/-- The two statements `MultiplyWritesProducts` and `DivideTruncatesOrTraps`. -/
def Obligations.ProductsAndQuotients : Prop := MultiplyWritesProducts ∧ DivideTruncatesOrTraps

/-- R110: IMIN and IMAX write the smaller or the larger number, IABS the absolute value and INEG the negation, the last two reduced
mod 2^w, or clamped with FLG1 = 1. -/
def MinMaxAbsNegResults : Prop :=
  ∀ (s : State) (c : Ctx) (f : X64),
    (Issues (.imin f) s c → ∃ W, exec (.imin f) s = .next (c.afterElems s f 2 W fun _ => 0) ∧
      ∀ l, ElemsAre (X64.w f) (W l) fun i =>
        min (elVal (X64.sg f) (X64.w f) (c.srcA .int (X64.w f) f l) i) (elVal (X64.sg f) (X64.w f) (c.srcB .int (X64.w f) f l) i)) ∧
    (Issues (.imax f) s c → ∃ W, exec (.imax f) s = .next (c.afterElems s f 2 W fun _ => 0) ∧
      ∀ l, ElemsAre (X64.w f) (W l) fun i =>
        max (elVal (X64.sg f) (X64.w f) (c.srcA .int (X64.w f) f l) i) (elVal (X64.sg f) (X64.w f) (c.srcB .int (X64.w f) f l) i)) ∧
    (Issues (.iabs f) s c → ∃ W fl, exec (.iabs f) s = .next (c.afterElems s f 2 W fl) ∧
      ∀ l, ElemsFit (f.flg.getLsbD 1) (X64.sg f) (X64.w f) (X64.dm f (X64.w f)) (W l) (fl l) fun i =>
        |elVal (X64.sg f) (X64.w f) (c.srcA .int (X64.w f) f l) i|) ∧
    (Issues (.ineg f) s c → ∃ W fl, exec (.ineg f) s = .next (c.afterElems s f 2 W fl) ∧
      ∀ l, ElemsFit (f.flg.getLsbD 1) (X64.sg f) (X64.w f) (X64.dm f (X64.w f)) (W l) (fl l) fun i =>
        -elVal (X64.sg f) (X64.w f) (c.srcA .int (X64.w f) f l) i)

/-- R111: the logical instructions combine A with B, or with immw in every element, bit by bit. -/
def LogicCombinesBits : Prop :=
  ∀ (s : State) (c : Ctx),
    (∀ (f : X64) (i : Instr) (op : Bool → Bool → Bool),
      (i, op) ∈ [(Instr.and f, fun a b => a && b), (.or f, fun a b => a || b), (.xor f, fun a b => a ^^ b),
        (.andn f, fun a b => a && !b), (.orn f, fun a b => a || !b), (.xnor f, fun a b => !(a ^^ b))] →
      Issues i s c → ∃ W, exec i s = .next (c.afterElems s f 2 W fun _ => 0) ∧
        ∀ l k, k < 32 → (W l).getLsbD k =
          op ((c.srcA .raw (X64.w f) f l).getLsbD k) ((c.srcB .raw (X64.w f) f l).getLsbD k)) ∧
    (∀ (f : I64) (i : Instr) (op : Bool → Bool → Bool),
      (i, op) ∈ [(Instr.andi f, fun a b => a && b), (.ori f, fun a b => a || b), (.xori f, fun a b => a ^^ b)] →
      Issues i s c → ∃ W, exec i s = .next (c.afterWrite s f.d 0xFFFFFFFF 2 W fun _ => 0) ∧
        ∀ l k, k < 32 → (W l).getLsbD k = op ((c.rdA f.a.toNat l).getLsbD k) (f.imm26.toInt.testBit (k % I64.w f)))

/-- The result of a shift of element `a` by `k` (R112). -/
def shiftOf (op : ShiftOp) (w a k : Nat) : Int :=
  match op with
  | .shl => if k < w then (a : Int) * 2 ^ k else 0
  | .shrl => if k < w then (a : Int) / 2 ^ k else 0
  | .shra => if k < w then val true w a / 2 ^ k else if a.testBit (w - 1) then -1 else 0

/-- R112, R113: the shifts, with their results for amounts of w and more, and the funnel shift. -/
def ShiftsWriteShiftedElements : Prop :=
  ∀ (s : State) (c : Ctx),
    (∀ (f : X64) (i : Instr) (op : ShiftOp), (i, op) ∈ [(Instr.shl f, ShiftOp.shl), (.shrl f, .shrl), (.shra f, .shra)] →
      Issues i s c → ∃ W, exec i s = .next (c.afterElems s f 2 W fun _ => 0) ∧
        ∀ l, ElemsAre (X64.w f) (W l) fun j =>
          shiftOf op (X64.w f) (el (X64.w f) (c.srcA .raw (X64.w f) f l) j) (el (X64.w f) (c.srcB .raw (X64.w f) f l) j)) ∧
    (∀ (f : I64) (i : Instr) (op : ShiftOp), (i, op) ∈ [(Instr.shli f, ShiftOp.shl), (.shrli f, .shrl), (.shrai f, .shra)] →
      Issues i s c → (f.imm26.extractLsb' 0 5).toNat < I64.w f ∧ f.imm26.extractLsb' 5 21 = 0 ∧
        ∃ W, exec i s = .next (c.afterWrite s f.d (dmaskBits (I64.w f) 0xFF) 2 W fun _ => 0) ∧
          ∀ l, ElemsAre (I64.w f) (W l) fun j =>
            shiftOf op (I64.w f) (el (I64.w f) (c.rdA f.a.toNat l) j) (f.imm26.extractLsb' 0 5).toNat) ∧
    (∀ f : X64, Issues (.fshr f) s c → ∃ W, exec (.fshr f) s = .next (c.afterElems s f 2 W fun _ => 0) ∧
      ∀ l, ElemsAre (X64.w f) (W l) fun j =>
        (((el (X64.w f) (c.srcA .raw (X64.w f) f l) j * 2 ^ X64.w f + el (X64.w f) (c.srcB .raw (X64.w f) f l) j) /
          2 ^ (el (X64.w f) (c.srcC .raw (X64.w f) f l) j % X64.w f) : Nat) : Int))

/-- The two statements `LogicCombinesBits` and `ShiftsWriteShiftedElements`. -/
def Obligations.LogicAndShiftsActOnBits : Prop := LogicCombinesBits ∧ ShiftsWriteShiftedElements

/-- R114, R115: the bit-field instructions, bit by bit of each element, and the counts. `p` and `k` are the position and the length
of the field, clamped to the element. -/
def BitFieldsAndCounts : Prop :=
  ∀ (s : State) (c : Ctx) (f : X64),
    let w := X64.w f
    let p := fun l j => min (el w (c.srcB .raw w f l) j) w
    let k := fun l j => min (el w (c.srcC .raw w f l) j) (w - p l j)
    let a := fun l j => el w (c.srcA .raw w f l) j
    (Issues (.bfx f) s c → ∃ W, exec (.bfx f) s = .next (c.afterElems s f 2 W fun _ => 0) ∧
      ∀ l j b, j < 32 / w → b < w → (el w (W l) j).testBit b =
        (if b < k l j then (a l j).testBit (p l j + b)
          else X64.sg f && decide (0 < k l j) && (a l j).testBit (p l j + k l j - 1))) ∧
    (Issues (.bfi f) s c → ∃ W, exec (.bfi f) s = .next (c.afterElems s f 2 W fun _ => 0) ∧
      ∀ l j b, j < 32 / w → b < w → (el w (W l) j).testBit b =
        (if p l j ≤ b ∧ b < p l j + k l j then (a l j).testBit (b - p l j) else (el w (c.rd f.d.toNat l) j).testBit b)) ∧
    (Issues (.popc f) s c → ∃ W, exec (.popc f) s = .next (c.afterElems s f 2 W fun _ => 0) ∧
      ∀ l j, j < 32 / w → el w (W l) j = ((List.range w).filter fun b => (a l j).testBit b).length) ∧
    (Issues (.clz f) s c → ∃ W, exec (.clz f) s = .next (c.afterElems s f 2 W fun _ => 0) ∧
      ∀ l j, j < 32 / w → a l j < 2 ^ (w - el w (W l) j) ∧ (a l j ≠ 0 → 2 ^ (w - el w (W l) j) ≤ 2 * a l j) ∧
        (a l j = 0 → el w (W l) j = w)) ∧
    (Issues (.ctz f) s c → ∃ W, exec (.ctz f) s = .next (c.afterElems s f 2 W fun _ => 0) ∧
      ∀ l j, j < 32 / w → a l j % 2 ^ el w (W l) j = 0 ∧ (a l j ≠ 0 → (a l j).testBit (el w (W l) j) = true) ∧
        (a l j = 0 → el w (W l) j = w)) ∧
    (Issues (.brev f) s c → ∃ W, exec (.brev f) s = .next (c.afterElems s f 2 W fun _ => 0) ∧
      ∀ l j b, j < 32 / w → b < w → (el w (W l) j).testBit b = (a l j).testBit (w - 1 - b))

/-- The comparison that SUB names (R116). -/
def compares (cc : Cmp) (x y : Int) : Prop :=
  match cc with
  | .eq => x = y
  | .ne => x ≠ y
  | .lt => x < y
  | .le => x ≤ y
  | .gt => x > y
  | .ge => x ≥ y

/-- R116, R117: ICMP and ICMPI write one bit for each element at bit number b and above, and leave the other bits of D as they are
read; SEL takes each element from A or B by the bits of C. Where it rests on a choice or an inference of the model: log entry 15. -/
def CompareWritesPredicateBits : Prop :=
  ∀ (s : State) (c : Ctx) (cc : Cmp),
    (∀ f : X64, Issues (.icmp cc f) s c → f.imm8.toNat + 32 / X64.w f ≤ 32 ∧
      ∃ W, exec (.icmp cc f) s = .next (c.afterWrite s f.d 0xFFFFFFFF 2 W fun _ => 0) ∧
        ∀ l b, b < 32 →
          (f.imm8.toNat ≤ b ∧ b < f.imm8.toNat + 32 / X64.w f →
            ((W l).getLsbD b = true ↔
              compares cc (elVal (X64.sg f) (X64.w f) (c.srcA .int (X64.w f) f l) (b - f.imm8.toNat))
                (elVal (X64.sg f) (X64.w f) (c.srcB .int (X64.w f) f l) (b - f.imm8.toNat)))) ∧
          (b < f.imm8.toNat ∨ f.imm8.toNat + 32 / X64.w f ≤ b → (W l).getLsbD b = (c.rd f.d.toNat l).getLsbD b)) ∧
    (∀ f : I64, Issues (.icmpi cc f) s c →
      let b0 := (f.imm26.extractLsb' 21 5).toNat
      let imm := (val (I64.sg f) 21 (f.imm26.extractLsb' 0 21).toNat % 2 ^ I64.w f).toNat
      b0 + 32 / I64.w f ≤ 32 ∧
      ∃ W, exec (.icmpi cc f) s = .next (c.afterWrite s f.d 0xFFFFFFFF 2 W fun _ => 0) ∧
        ∀ l b, b < 32 →
          (b0 ≤ b ∧ b < b0 + 32 / I64.w f →
            ((W l).getLsbD b = true ↔
              compares cc (elVal (I64.sg f) (I64.w f) (c.rdA f.a.toNat l) (b - b0)) (val (I64.sg f) (I64.w f) imm))) ∧
          (b < b0 ∨ b0 + 32 / I64.w f ≤ b → (W l).getLsbD b = (c.rd f.d.toNat l).getLsbD b)) ∧
    (∀ f : X64, Issues (.sel f) s c →
      ∃ W, exec (.sel f) s = .next (c.afterElems s f 2 W fun _ => 0) ∧
        ∀ l j, j < 32 / X64.w f → el (X64.w f) (W l) j =
          if (c.rd f.c.toNat l).getLsbD (f.imm8.toNat + j) then el (X64.w f) (c.srcA .raw (X64.w f) f l) j
          else el (X64.w f) (c.srcB .raw (X64.w f) f l) j)

/-- The two statements `MinMaxAbsNegResults` and `CompareWritesPredicateBits`. -/
def Obligations.MinMaxAndComparesOfIntegers : Prop := MinMaxAbsNegResults ∧ CompareWritesPredicateBits

/-- R118 to R121: MOV copies the prepared A, MOVI writes immw to every element or word 1 to the register, LEA and the 64-bit sums write
the pair D. -/
def MovesAndPairSums : Prop :=
  ∀ (s : State) (c : Ctx),
    (∀ f : X64, Issues (.mov f) s c →
      exec (.mov f) s = .next (c.afterElems s f 2 (fun l => c.srcA .raw (X64.w f) f l) fun _ => 0)) ∧
    (∀ f : I64, Issues (.movi f) s c → ∃ W, exec (.movi f) s = .next (c.afterWrite s f.d 0xFFFFFFFF 2 (fun _ => W) fun _ => 0) ∧
      (f.ext = .l64 → ElemsAre (I64.w f) W fun _ => f.imm26.toInt) ∧ (f.ext ≠ .l64 → W = f.ext.w1)) ∧
    (∀ f : X64, Issues (.lea f) s c → ∃ V, exec (.lea f) s = .next (c.afterPair s f.d 2 V) ∧
      ∀ l, ((V l).toNat : Int) = ((c.rdPairA f.a.toNat l).toNat +
        val (X64.sg f) 32 (c.srcB .int 32 f l).toNat * 2 ^ (f.imm8.extractLsb' 0 3).toNat) % 2 ^ 64) ∧
    (∀ f : X64, Issues (.iadd64 f) s c →
      exec (.iadd64 f) s = .next (c.afterPair s f.d 2 fun l => c.rdPairA f.a.toNat l + c.rdPair f.b.toNat l)) ∧
    (∀ f : X64, Issues (.isub64 f) s c →
      exec (.isub64 f) s = .next (c.afterPair s f.d 2 fun l => c.rdPairA f.a.toNat l - c.rdPair f.b.toNat l))

/-- The window class of a generic address (Table 1.6): 0 global, 1 scratch, 2 private, 3 malformed. -/
def windowClass (a : Nat) : Nat :=
  if a < 2 ^ 56 ∨ 0xFF * 2 ^ 56 ≤ a then 0
  else if 0xFE * 2 ^ 56 ≤ a ∧ a < 0xFE * 2 ^ 56 + 2 ^ 32 then 1
  else if 0xFD * 2 ^ 56 ≤ a ∧ a < 0xFD * 2 ^ 56 + 2 ^ 40 then 2
  else 3

/-- R122: CVTA forms and takes apart window addresses; SUB 1 and 2 trap with WIN_RANGE when a lane of act fails, TFMASK holding those
lanes and TFADDR the address of the lowest, and write nothing. -/
def CvtaConvertsOrTraps : Prop :=
  ∀ (s : State) (c : Ctx) (f : X64),
    let A := fun l => c.rdPairA f.a.toNat l
    (Issues (.cvta .scr f) s c → ∃ V, exec (.cvta .scr f) s = .next (c.afterPair s f.d 2 V) ∧
      ∀ l, (V l).toNat = 0xFE * 2 ^ 56 + (c.rdA f.a.toNat l).toNat) ∧
    (∀ k, k = .prv ∨ k = .toscr → Issues (.cvta k f) s c →
      let bad := fun l => if k = .prv then 2 ^ 40 ≤ (A l).toNat else windowClass (A l).toNat ≠ 1
      ((∃ l, l < 96 ∧ c.act.getLsbD l = true ∧ bad l) →
        ∃ (Z : Lanes) (m : Nat), exec (.cvta k f) s =
            .next (c.afterTrap s (.cvta k f) { cause := .winRange, addr := A m, mask := some Z }) ∧
          (∀ l, l < 96 → (Z.getLsbD l = true ↔ c.act.getLsbD l = true ∧ bad l)) ∧
          m < 96 ∧ Z.getLsbD m = true ∧ ∀ l, l < m → Z.getLsbD l = false) ∧
      ((∀ l, l < 96 → c.act.getLsbD l = true → ¬ bad l) →
        (k = .prv → ∃ V, exec (.cvta k f) s = .next (c.afterPair s f.d 2 V) ∧
          ∀ l, (V l).toNat = 0xFD * 2 ^ 56 + (A l).toNat % 2 ^ 40) ∧
        (k = .toscr → exec (.cvta k f) s = .next (c.afterWrite s f.d 0xFFFFFFFF 2 (fun l => lo32 (A l)) fun _ => 0)))) ∧
    (Issues (.cvta .cls f) s c → exec (.cvta .cls f) s =
      .next (c.afterWrite s f.d 0xFFFFFFFF 2 (fun l => BitVec.ofNat 32 (windowClass (A l).toNat)) fun _ => 0))

/-- The two statements `MovesAndPairSums` and `CvtaConvertsOrTraps`. -/
def Obligations.MovesPairsAndWindowAddresses : Prop := MovesAndPairSums ∧ CvtaConvertsOrTraps

/-- R123, R124: PERMB writes the bytes that C selects from B and A, PACK narrows the elements of A and B, and UNPACK widens half of the
elements of A. -/
def BytesPackAndUnpack : Prop :=
  ∀ (s : State) (c : Ctx) (f : X64),
    (Issues (.permb f) s c → ∃ W, exec (.permb f) s = .next (c.afterWrite s f.d (dmaskBits 8 (f.dmask 4)) 2 W fun _ => 0) ∧
      ∀ l j, j < 4 → el 8 (W l) j =
        let sel := el 4 (c.rd f.c.toNat l) j
        if 8 ≤ sel then 0 else if 4 ≤ sel then el 8 (c.rd f.b.toNat l) (sel - 4) else el 8 (c.rdA f.a.toNat l) sel) ∧
    (Issues (.pack f) s c → ∃ W fl, exec (.pack f) s = .next (c.afterElems s f 2 W fl) ∧
      ∀ l, ElemsFit (f.flg.getLsbD 1) (X64.sg f) (X64.w f) (X64.dm f (X64.w f)) (W l) (fl l) fun i =>
        let n := 32 / X64.w f
        val (X64.sg f) (2 * X64.w f)
          (if i < n / 2 then el (2 * X64.w f) (c.rdA f.a.toNat l) i else el (2 * X64.w f) (c.rd f.b.toNat l) (i - n / 2))) ∧
    (Issues (.unpack f) s c → ∃ W, exec (.unpack f) s = .next (c.afterWrite s f.d 0xFFFFFFFF 2 W fun _ => 0) ∧
      ∀ l, ElemsAre (2 * X64.w f) (W l) fun j =>
        val (X64.sg f) (X64.w f)
          (el (X64.w f) (c.rdA f.a.toNat l) ((f.imm8.extractLsb' 0 1).toNat * (32 / X64.w f / 2) + j)))

/-- The two statements `BitFieldsAndCounts` and `BytesPackAndUnpack`. -/
def Obligations.BitFieldsCountsAndBytes : Prop := BitFieldsAndCounts ∧ BytesPackAndUnpack

/-! ### Floating-point and quantisation instructions (chapter 5) -/

/-- R131 for the IEEE formats, `r` the code and the flags of the rounded number `x`: in round-to-nearest no number of the format is
nearer, and of two that are equally near the one with bit 0 of its code clear is taken; in RTZ, RDN and RUP the result lies on the
side the mode names and no number of the format lies between; NX says whether the result differs. A magnitude that rounds above the
largest finite value gives the overflow result and flags of Table 5.5. -/
def Obligations.RoundingIsCorrect : Prop :=
  ∀ (t : FType) (m : RMode) (x : ℚ), x ≠ 0 →
    let n := decide (x < 0)
    let r := t.fmt.rnd (.fin n x) m false
    let values := fun (z : ℚ) => ∃ (c : Nat) (k : Bool), c < 2 ^ t.fmt.bits ∧ t.fmt.val c = .fin k z
    (r.2 &&& fOF = 0 →
      ∃ y, t.fmt.val r.1 = .fin n y ∧ (r.2 &&& fNX = 0 ↔ y = x) ∧
        ∀ z, values z →
          match m with
          | .rne => |y - x| ≤ |z - x| ∧ (z ≠ y → |y - x| = |z - x| → r.1 % 2 = 0)
          | .rtz => |y| ≤ |x| ∧ (|z| ≤ |x| ∧ (0 ≤ z ↔ 0 ≤ x) → |z| ≤ |y|)
          | .rdn => y ≤ x ∧ (z ≤ x → z ≤ y)
          | .rup => x ≤ y ∧ (x ≤ z → y ≤ z)) ∧
    (r.2 &&& fOF ≠ 0 →
      let toInf := m = .rne ∨ m = .rdn ∧ x < 0 ∨ m = .rup ∧ 0 < x
      r.2 = fOF ||| fNX ∧ (∀ z, values z → |z| < |x|) ∧ (toInf → t.fmt.val r.1 = .inf n) ∧
        (¬ toInf → ∃ y, t.fmt.val r.1 = .fin n y ∧ ∀ z, values z → |z| ≤ |y|))

/-- exact(a × b) of R133, with NV. -/
def exactProduct (a b : Val) : Val × Flags :=
  match a, b with
  | .nan _, _ => (.nan false, 0)
  | _, .nan _ => (.nan false, 0)
  | .inf x, .inf y => (.inf (x != y), 0)
  | .inf x, .fin y q => if q = 0 then (.nan false, fNV) else (.inf (x != y), 0)
  | .fin x p, .inf y => if p = 0 then (.nan false, fNV) else (.inf (x != y), 0)
  | .fin x p, .fin y q => (.fin (x != y) (p * q), 0)

/-- exact(a + b) of R133, with NV and the sign of a zero in mode `m`. -/
def exactSum (m : RMode) (a b : Val) : Val × Flags :=
  match a, b with
  | .nan _, _ => (.nan false, 0)
  | _, .nan _ => (.nan false, 0)
  | .inf x, .inf y => if x = y then (.inf x, 0) else (.nan false, fNV)
  | .inf x, .fin _ _ => (.inf x, 0)
  | .fin _ _, .inf y => (.inf y, 0)
  | .fin x p, .fin y q =>
    if p + q = 0 then (.fin (decide (m = .rdn) || (decide (p = 0) && x && decide (q = 0) && y)) 0, 0)
    else (.fin (decide (p + q < 0)) (p + q), 0)

/-- One rounding of an exact result with its NV, and NV for a signalling operand (R131, R134). -/
def roundOnce (t : Fmt) (m : RMode) (x : Val × Flags) (nv : Flags) (ops : List Val) : Nat × Flags :=
  ((t.rnd x.1 m false).1, (t.rnd x.1 m false).2 ||| x.2 ||| nv ||| if Val.nan true ∈ ops then fNV else 0)

/-- R141: FADD, FSUB, FMUL and FFMA round the exact result of each element once in mode FLG[1:0], with the special values, flags and
traps of R133 to R138. Where it rests on a choice or an inference of the model: log entry 67. -/
def Obligations.FloatArithmeticRoundsOnce : Prop :=
  ∀ (s : State) (c : Ctx) (t : FType) (f : X64),
    let m := X64.mode f
    let a := fun l j => t.fmt.val (el (X64.w f) (c.srcA .flt (X64.w f) f l) j)
    let b := fun l j => t.fmt.val (el (X64.w f) (c.srcB .flt (X64.w f) f l) j)
    let d := fun l j => t.fmt.val (el (X64.w f) (c.srcC .flt (X64.w f) f l) j)
    (Issues (.fadd t f) s c → FpElems c s (.fadd t f) f ordArith fun l j =>
      roundOnce t.fmt m (exactSum m (a l j) (b l j)) 0 [a l j, b l j]) ∧
    (Issues (.fsub t f) s c → FpElems c s (.fsub t f) f ordArith fun l j =>
      roundOnce t.fmt m (exactSum m (a l j) (b l j).neg) 0 [a l j, (b l j).neg]) ∧
    (Issues (.fmul t f) s c → FpElems c s (.fmul t f) f ordArith fun l j =>
      roundOnce t.fmt m (exactProduct (a l j) (b l j)) 0 [a l j, b l j]) ∧
    (Issues (.ffma t f) s c → FpElems c s (.ffma t f) f ordArith fun l j =>
      roundOnce t.fmt m (exactSum m (exactProduct (a l j) (b l j)).1 (d l j)) (exactProduct (a l j) (b l j)).2
        [a l j, b l j, d l j])

/-- The classes of R144, from the fields of an IEEE code. -/
def classOf (t : Fmt) (code : Nat) : Nat :=
  let neg := 2 ^ (t.bits - 1) ≤ code
  let mag := code % 2 ^ (t.bits - 1)
  if t.maxCode + 1 < mag then (if mag.testBit (t.p - 2) then 9 else 8)
  else if mag = t.maxCode + 1 then (if neg then 0 else 7)
  else if mag = 0 then (if neg then 3 else 4)
  else if mag < 2 ^ (t.p - 1) then (if neg then 2 else 5)
  else if neg then 1 else 6

/-- R144, R145: FCLASS writes exactly the bit of the operand's class, FABS and FNEG act on the sign bit alone, and FCOPYSIGN takes the
sign bit of B; none of them sets a flag. -/
def ClassAndSignBits : Prop :=
  ∀ (s : State) (c : Ctx) (f : X64),
    let w := X64.w f
    let a := fun l j => el w (c.srcA .flt w f l) j
    let b := fun l j => el w (c.srcB .flt w f l) j
    (Issues (.fclass f) s c → ∃ W, exec (.fclass f) s = .next (c.afterElems s f 3 W fun _ => 0) ∧
      ∀ l j, j < 32 / w → el w (W l) j = 2 ^ classOf (X64.ftype f).fmt (a l j)) ∧
    (Issues (.fabs f) s c → ∃ W, exec (.fabs f) s = .next (c.afterElems s f 3 W fun _ => 0) ∧
      ∀ l j k, j < 32 / w → k < w → (el w (W l) j).testBit k = ((a l j).testBit k && decide (k ≠ w - 1))) ∧
    (Issues (.fneg f) s c → ∃ W, exec (.fneg f) s = .next (c.afterElems s f 3 W fun _ => 0) ∧
      ∀ l j k, j < 32 / w → k < w → (el w (W l) j).testBit k = ((a l j).testBit k ^^ decide (k = w - 1))) ∧
    (Issues (.fcopysign f) s c → ∃ W, exec (.fcopysign f) s = .next (c.afterElems s f 3 W fun _ => 0) ∧
      ∀ l j k, j < 32 / w → k < w → (el w (W l) j).testBit k = if k = w - 1 then (b l j).testBit k else (a l j).testBit k)

/-- A value no NaN, compared as a number with −0 below +0 (R142). -/
def atMost (x y : Val) : Prop :=
  match x, y with
  | .inf true, .inf _ => True
  | .inf true, .fin _ _ => True
  | .inf false, .inf n => n = false
  | .inf false, .fin _ _ => False
  | .fin _ _, .inf n => n = false
  | .fin n p, .fin k q => p < q ∨ p = q ∧ (p ≠ 0 ∨ n = true ∨ k = false)
  | _, _ => False

/-- R142: FMIN, FMAX, FMINN and FMAXN give the operand that is at most, or at least, the other; a NaN operand gives the canonical NaN,
or the other operand's bits in FMINN and FMAXN; NV is set for a signalling NaN, and no other flag. -/
def MinimumAndMaximum : Prop :=
  ∀ (s : State) (c : Ctx) (f : X64) (i : Instr) (big num : Bool),
    (i, big, num) ∈ [(Instr.fmin f, false, false), (.fmax f, true, false), (.fminn f, false, true), (.fmaxn f, true, true)] →
    Issues i s c →
      let t := (X64.ftype f).fmt
      let a := fun l j => el (X64.w f) (c.srcA .flt (X64.w f) f l) j
      let b := fun l j => el (X64.w f) (c.srcB .flt (X64.w f) f l) j
      ∃ res, FpElems c s i f [.fpInvalid] res ∧ ∀ l j, j < 32 / X64.w f →
        (res l j).2 = (if t.val (a l j) = .nan true ∨ t.val (b l j) = .nan true then fNV else 0) ∧
        (∀ g h, t.val (a l j) = .nan g → t.val (b l j) = .nan h → (res l j).1 = t.nan) ∧
        (∀ g, t.val (a l j) = .nan g → (t.val (b l j)).isNan = false → (res l j).1 = if num then b l j else t.nan) ∧
        (∀ g, t.val (b l j) = .nan g → (t.val (a l j)).isNan = false → (res l j).1 = if num then a l j else t.nan) ∧
        ((t.val (a l j)).isNan = false → (t.val (b l j)).isNan = false →
          ((res l j).1 = a l j ∨ (res l j).1 = b l j) ∧
          (big = false → atMost (t.val (res l j).1) (t.val (a l j)) ∧ atMost (t.val (res l j).1) (t.val (b l j))) ∧
          (big = true → atMost (t.val (a l j)) (t.val (res l j).1) ∧ atMost (t.val (b l j)) (t.val (res l j).1)))

/-- The predicates of R143 on two values. -/
def holdsFor (cc : FCmp) (x y : Val) : Prop :=
  let u := x.isNan = true ∨ y.isNan = true
  let lt := fun (p q : Val) => match p, q with
    | .inf n, .inf k => n = true ∧ k = false
    | .inf n, .fin _ _ => n = true
    | .fin _ _, .inf k => k = false
    | .fin _ p, .fin _ q => p < q
    | _, _ => False
  match cc with
  | .eq => ¬u ∧ ¬lt x y ∧ ¬lt y x
  | .ne => u ∨ lt x y ∨ lt y x
  | .lt => ¬u ∧ lt x y
  | .le => ¬u ∧ ¬lt y x
  | .gt => ¬u ∧ lt y x
  | .ge => ¬u ∧ ¬lt x y
  | .un => u
  | .ord => ¬u

/-- R143: FCMP writes bit IMM8 + i of D for each element i and leaves the others as they are read; NV is set for a signalling NaN, and in
.lt, .le, .gt and .ge for a quiet one. Where it rests on a choice or an inference of the model: log entry 15. -/
def FloatCompareWritesBits : Prop :=
  ∀ (s : State) (c : Ctx) (cc : FCmp) (f : X64), Issues (.fcmp cc f) s c →
    let w := X64.w f
    let t := (X64.ftype f).fmt
    let a := fun l j => t.val (el w (c.srcA .flt w f l) j)
    let b := fun l j => t.val (el w (c.srcB .flt w f l) j)
    ∃ W fl, FpOutcome c s (.fcmp cc f) [.fpInvalid] f.d 0xFFFFFFFF 3 W fl ∧
      ∀ l, (∀ k, k < 32 →
          (f.imm8.toNat ≤ k ∧ k < f.imm8.toNat + 32 / w →
            ((W l).getLsbD k = true ↔ holdsFor cc (a l (k - f.imm8.toNat)) (b l (k - f.imm8.toNat)))) ∧
          (k < f.imm8.toNat ∨ f.imm8.toNat + 32 / w ≤ k → (W l).getLsbD k = (c.rd f.d.toNat l).getLsbD k)) ∧
        ((∃ j, j < 32 / w ∧ (a l j = .nan true ∨ b l j = .nan true ∨
            ((a l j).isNan = true ∨ (b l j).isNan = true) ∧ (cc = .lt ∨ cc = .le ∨ cc = .gt ∨ cc = .ge))) → fl l = fNV) ∧
        ((¬ ∃ j, j < 32 / w ∧ (a l j = .nan true ∨ b l j = .nan true ∨
            ((a l j).isNan = true ∨ (b l j).isNan = true) ∧ (cc = .lt ∨ cc = .le ∨ cc = .gt ∨ cc = .ge))) → fl l = 0)

/-- The two statements `MinimumAndMaximum` and `FloatCompareWritesBits`. -/
def Obligations.FloatMinMaxAndCompares : Prop := MinimumAndMaximum ∧ FloatCompareWritesBits

/-- R146, R147, R152, R153: FRND gives an integral value with the sign of its operand, FSCALB, CVTIF and CVTFF round the scaled value, the
integer and the converted value once. -/
def RoundScaleAndConvert : Prop :=
  ∀ (s : State) (c : Ctx) (t : FType) (f : X64),
    let w := X64.w f
    let m := X64.mode f
    (Issues (.frnd t f) s c → ∃ res, FpElems c s (.frnd t f) f [.fpInvalid, .fpInexact] res ∧
      ∀ l j, j < 32 / w →
        match t.fmt.val (el w (c.srcA .flt w f l) j) with
        | .nan sig => res l j = (t.fmt.nan, if sig then fNV else 0)
        | .inf _ => res l j = (el w (c.srcA .flt w f l) j, 0)
        | .fin n q => ∃ k : Int, t.fmt.val (res l j).1 = .fin n k ∧ |q - k| < 1 ∧
            (m = .rne → |q - k| ≤ 1 / 2 ∧ (|q - k| = 1 / 2 → k % 2 = 0)) ∧ (m = .rtz → |(k : ℚ)| ≤ |q|) ∧ (m = .rdn → (k : ℚ) ≤ q) ∧
            (m = .rup → q ≤ k) ∧ (res l j).2 = if f.flg.getLsbD 2 = true ∧ q ≠ k then fNX else 0) ∧
    (Issues (.fscalb t f) s c → ∃ res, FpElems c s (.fscalb t f) f ordArith res ∧
      ∀ l j, j < 32 / w →
        let k := elVal true w (c.srcB .raw w f l) j
        match t.fmt.val (el w (c.srcA .flt w f l) j) with
        | .fin n q => res l j = t.fmt.rnd (.fin n (q * 2 ^ k)) m false
        | v => res l j = roundOnce t.fmt m (v, 0) 0 [v]) ∧
    (Issues (.cvtif t f) s c → FpElems c s (.cvtif t f) f [.fpOverflow, .fpInexact] fun l j =>
      t.fmt.rnd (.fin false (elVal (f.flg.getLsbD 2) w (c.srcA .int w f l) j : ℚ)) m false) ∧
    (∀ k u v, (k, u, v) ∈ [(CvtffKind.f16ToBf16, fmt16, fmtBf), (.bf16ToF16, fmtBf, fmt16)] → Issues (.cvtff k f) s c →
      FpElems c s (.cvtff k f) f ordArith fun l j =>
        roundOnce v m (u.val (el 16 (c.srcA .flt 16 f l) j), 0) 0 [u.val (el 16 (c.srcA .flt 16 f l) j)]) ∧
    (∀ k v, (k, v) ∈ [(CvtffKind.toF16, fmt16), (.toBf16, fmtBf)] → Issues (.cvtff k f) s c →
      FpElems c s (.cvtff k f) f ordArith fun l j =>
        let x := val32 (if j = 0 then c.srcA .flt 32 f l else c.srcB .flt 32 f l)
        roundOnce v m (x, 0) 0 [x]) ∧
    (∀ k u, (k, u) ∈ [(CvtffKind.fromF16, fmt16), (.fromBf16, fmtBf)] → Issues (.cvtff k f) s c →
      let x := fun l => u.val (el 16 (prepWord .flt 16 f.moda (c.rdA f.a.toNat l)) (f.imm8.toNat % 2))
      let r := fun l => roundOnce fmt32 .rne (x l, 0) 0 [x l]
      FpOutcome c s (.cvtff k f) ordArith f.d 0xFFFFFFFF 3 (fun l => BitVec.ofNat 32 (r l).1) fun l => (r l).2)

/-- R151: CVTFI converts to the integer of its mode, clamped with NV, NaN giving 0; with `.chk` it traps with CVT_RANGE before any effect
when a written element is NaN or out of range. `k l j` is the integral value in the mode. -/
def ConvertToIntegerClampsOrTraps : Prop :=
  ∀ (s : State) (c : Ctx) (t : FType) (f : X64), Issues (.cvtfi t f) s c →
    let w := X64.w f
    let sg := f.flg.getLsbD 2
    let a := fun l j => t.fmt.val (el w (c.srcA .flt w f l) j)
    let out := fun l j => match a l j with
      | .fin _ q => decide ((roundInt q (X64.mode f)).1 < minW sg w) || decide (maxW sg w < (roundInt q (X64.mode f)).1)
      | _ => true
    ∃ Z : Lanes,
      (∀ l, l < 96 → (Z.getLsbD l = true ↔
        c.act.getLsbD l = true ∧ ∃ j, j < 32 / w ∧ (X64.dm f w).getLsbD j = true ∧ out l j = true)) ∧
      (f.flg.getLsbD 3 = true → Z ≠ 0 → exec (.cvtfi t f) s =
        .next (c.afterTrap s (.cvtfi t f) { cause := .cvtRange, mask := some Z })) ∧
      (f.flg.getLsbD 3 = false ∨ Z = 0 → ∃ res, FpElems c s (.cvtfi t f) f [.fpInvalid, .fpInexact] res ∧
        ∀ l j, j < 32 / w →
          match a l j with
          | .nan _ => res l j = (0, fNV)
          | .inf n => ((res l j).1 : Int) = (if n then minW sg w else maxW sg w) % 2 ^ w ∧ (res l j).2 = fNV
          | .fin _ q =>
            ((res l j).1 : Int) = max (minW sg w) (min (maxW sg w) (roundInt q (X64.mode f)).1) % 2 ^ w ∧
              (res l j).2 = if out l j then fNV else if ((roundInt q (X64.mode f)).1 : ℚ) ≠ q then fNX else 0)

/-- The two statements `RoundScaleAndConvert` and `ConvertToIntegerClampsOrTraps`. -/
def Obligations.RoundingScalingConversion : Prop := RoundScaleAndConvert ∧ ConvertToIntegerClampsOrTraps

/-- R148 to R150: FTWOSUM writes the rounded sum and its exact error to the pair D, and FDOT2 and FDOT4Q round the sum of the products and
C once to FP32. Where it rests on a choice or an inference of the model: log entries 21 and 67. -/
def Obligations.TwoSumAndDotProducts : Prop :=
  ∀ (s : State) (c : Ctx) (f : X64),
    (Issues (.ftwosum f) s c →
      let a := fun l => val32 (c.srcA .flt 32 f l)
      let b := fun l => val32 (c.srcB .flt 32 f l)
      let sum := fun l => roundOnce fmt32 .rne (exactSum .rne (a l) (b l)) 0 [a l, b l]
      (∀ t, fpTrap c.st.ctl ordArith c.act (fun l => (sum l).2) = some t →
        exec (.ftwosum f) s = .next (c.afterTrap s (.ftwosum f) t)) ∧
      (fpTrap c.st.ctl ordArith c.act (fun l => (sum l).2) = none → ∃ V,
        exec (.ftwosum f) s = .next (c.advance (c.orFlags (c.putPair s f.d V 3) (fun l => (sum l).2) 3)) ∧
        ∀ l, (lo32 (V l)).toNat = (sum l).1 ∧
          (∀ n p k q j r, a l = .fin n p → b l = .fin k q → fmt32.val (sum l).1 = .fin j r →
            (hi32 (V l)).toNat = (fmt32.rnd (.fin false (p + q - r)) .rne false).1) ∧
          ((∀ j r, fmt32.val (sum l).1 ≠ .fin j r) → (hi32 (V l)).toNat = fmt32.nan))) ∧
    (∀ bf, Issues (.fdot2 bf f) s c →
      let u := if bf then fmtBf else fmt16
      let a := fun l j => u.val (el 16 (c.srcA .flt 16 f l) j)
      let b := fun l j => u.val (el 16 (c.srcB .flt 16 f l) j)
      FpOutcome c s (.fdot2 bf f) ordArith f.d 0xFFFFFFFF 3
        (fun l => BitVec.ofNat 32
          (dotRnd fmt32 [(a l 0, b l 0), (a l 1, b l 1)] [val32 (c.srcC .flt 32 f l)] (X64.mode f)).1)
        (fun l => (dotRnd fmt32 [(a l 0, b l 0), (a l 1, b l 1)] [val32 (c.srcC .flt 32 f l)] (X64.mode f)).2)) ∧
    (Issues (.fdot4q f) s c → ∃ u, qType? f.imm8.toNat = some u ∧
      let a := fun l j => u.val (el 8 (c.srcA .flt 8 f l) j)
      let b := fun l j => u.val (el 8 (c.srcB .flt 8 f l) j)
      let r := fun l => dotRnd fmt32 [(a l 0, b l 0), (a l 1, b l 1), (a l 2, b l 2), (a l 3, b l 3)]
        [val32 (c.srcC .flt 32 f l)] (X64.mode f)
      FpOutcome c s (.fdot4q f) ordArith f.d 0xFFFFFFFF 3 (fun l => BitVec.ofNat 32 (r l).1) fun l => (r l).2) ∧
    (∀ (m : RMode) (ps : List (ℚ × ℚ)) (x : ℚ) (sg : ℚ → Bool), (ps.map fun p => p.1 * p.2).sum + x ≠ 0 →
      dotRnd fmt32 (ps.map fun p => (.fin (sg p.1) p.1, .fin (sg p.2) p.2)) [.fin (sg x) x] m =
        fmt32.rndQ ((ps.map fun p => p.1 * p.2).sum + x) m false)

/-- R154 to R156: CVTQ and CVTDQ trap with SCALE_INVALID when the scale of a lane of act is NaN, infinite, zero or negative; CVTQ keeps the
running magnitude in vamax, writes its byte where DMASK enables it and traps, for a byte that is written, by its own order of causes
(a signalling NaN's NV with a float type is the model's reading, log entry 91); CVTDQ rounds the product of
its byte and the scale. Where it rests on a choice or an inference of the model: log entries 25 and 91. -/
def Obligations.QuantiseWithScales : Prop :=
  ∀ (s : State) (c : Ctx) (f : X64) (i : Instr), i = .cvtq f ∨ i = .cvtdq f → Issues i s c →
    let scale := fun l => val32 (c.rd f.b.toNat l)
    let k := (f.moda.extractLsb' 0 3).toNat
    ∃ Z u, qType? f.imm8.toNat = some u ∧
      (∀ l, l < 96 → (Z.getLsbD l = true ↔ c.act.getLsbD l = true ∧ ¬ ∃ n q, scale l = .fin n q ∧ 0 < q)) ∧
      (Z ≠ 0 → exec i s = .next (c.afterTrap s i { cause := .scaleInvalid, mask := some Z })) ∧
      (Z = 0 → i = .cvtdq f →
        let r := fun l => mulRnd fmt32 (u.val (el 8 (c.rdA f.a.toNat l) k)) (scale l) (X64.mode f)
        FpOutcome c s i [.fpOverflow, .fpUnderflow, .fpInexact] f.d 0xFFFFFFFF 3 (fun l => BitVec.ofNat 32 (r l).1) fun l => (r l).2) ∧
      (Z = 0 → i = .cvtq f →
        let a := fun l => prepWord .flt 32 (f.moda &&& 0xC0) (c.rdA f.a.toNat l)
        let on := (f.dmask 4).getLsbD k
        let q := fun l => quantByte u (exactProduct (val32 (a l)) (scale l)).1 (f.flg.getLsbD 0) (f.flg.getLsbD 1)
        let r := fun l => ((q l).1, (q l).2 ||| if val32 (a l) = .nan true then fNV else 0)
        let fl := fun l => (if (val32 (a l)).isNan then fAMAXNAN else 0) ||| if on then (r l).2 else 0
        let order : List Cause := [.amaxNan, .quantSat, .fpInvalid, .fpOverflow, .fpUnderflow, .fpInexact]
        let trap := fpTrap c.st.ctl order c.act fun l => if on then fl l else 0
        (∀ t, trap = some t → exec i s = .next (c.afterTrap s i t)) ∧
        (trap = none → ∃ up : Lanes,
          (∀ l, l < 96 → (up.getLsbD l = true ↔ c.act.getLsbD l = true ∧ (val32 (a l)).isNan = false ∧
            ((val32 (c.rd 251 l)).isNan = true ∨ holdsFor .gt (val32 (a l &&& 0x7FFFFFFF)) (val32 (c.rd 251 l))))) ∧
          let t := c.putBits s 251 up (fun l => a l &&& 0x7FFFFFFF) 0xFFFFFFFF 3 fun _ => none
          exec i s = .next (c.advance (c.orFlags (if on then
              c.putBits t f.d.toNat c.act (fun l => BitVec.ofNat 32 ((r l).1 * 2 ^ (8 * k)))
                (BitVec.ofNat 32 (255 * 2 ^ (8 * k))) 3 c.laneTag
            else t) fl 3))))

/-- R138: the trap is the first cause in the instruction's order whose enable bit of STRAND_CTL is set and whose flag some lane of act would
set, with exactly those lanes; with none there is no trap. -/
def FpTrapIsTheFirstEnabledCause : Prop :=
  ∀ (ctl : Word) (order : List Cause) (act : Lanes) (fl : Nat → Flags),
    let hit := fun (e : Cause) => ctl.getLsbD (fpEnable e).1 = true ∧
      ∃ l, l < 96 ∧ act.getLsbD l = true ∧ fl l &&& (fpEnable e).2 ≠ 0
    (∀ t, fpTrap ctl order act fl = some t →
      ∃ pre post, order = pre ++ t.cause :: post ∧ hit t.cause ∧ (∀ e ∈ pre, ¬ hit e) ∧ t.next = false ∧
        ∃ m, t.mask = some m ∧ ∀ l, l < 96 → (m.getLsbD l = true ↔ act.getLsbD l = true ∧ fl l &&& (fpEnable t.cause).2 ≠ 0)) ∧
    (fpTrap ctl order act fl = none → ∀ e ∈ order, ¬ hit e)

/-- The two statements `ClassAndSignBits` and `FpTrapIsTheFirstEnabledCause`. -/
def Obligations.ClassesSignsAndFpTraps : Prop := ClassAndSignBits ∧ FpTrapIsTheFirstEnabledCause

/-! ### Special-function and cross-lane instructions (chapter 6) -/

/-- What R162 gives for element values `a` and `b` before rounding, beside the rounding itself: Table 6.2's special operands with their
flags. -/
def sfuSpecial (i : Instr) (a b : Val) : Option (Val × Flags) :=
  match i, a, b with
  | .rcp _, .fin n q, _ => if q = 0 then some (.inf n, fDZ) else none
  | .rcp _, .inf n, _ => some (.fin n 0, 0)
  | .rsq _, .fin n q, _ => if q = 0 then some (.inf n, fDZ) else if q < 0 then some (.nan false, fNV) else none
  | .rsq _, .inf n, _ => some (if n then (.nan false, fNV) else (.fin false 0, 0))
  | .sqrt _, .fin n q, _ => if q = 0 then some (.fin n 0, 0) else if q < 0 then some (.nan false, fNV) else none
  | .sqrt _, .inf n, _ => some (if n then (.nan false, fNV) else (.inf false, 0))
  | .div _, .fin n p, .fin k q =>
    if q = 0 then some (if p = 0 then (.nan false, fNV) else (.inf (n != k), fDZ))
    else if p = 0 then some (.fin (n != k) 0, 0) else none
  | .div _, .inf _, .inf _ => some (.nan false, fNV)
  | .div _, .inf n, .fin k _ => some (.inf (n != k), 0)
  | .div _, .fin n _, .inf k => some (.fin (n != k) 0, 0)
  | .exp2 _, .inf n, _ => some (if n then (.fin false 0, 0) else (.inf false, 0))
  | .exp2 _, .fin _ q, _ => if q = 0 then some (.fin false 1, 0) else none
  | .log2 _, .fin _ q, _ =>
    if q = 0 then some (.inf true, fDZ) else if q < 0 then some (.nan false, fNV) else if q = 1 then some (.fin false 0, 0) else none
  | .log2 _, .inf n, _ => some (if n then (.nan false, fNV) else (.inf false, 0))
  | .sinpi _, .inf _, _ => some (.nan false, fNV)
  | .sinpi _, .fin n q, _ => if q = 0 then some (.fin n 0, 0) else if q.den = 1 then some (.fin (decide (q < 0)) 0, 0) else none
  | .cospi _, .inf _, _ => some (.nan false, fNV)
  | .cospi _, .fin _ q, _ => if (q - 1 / 2).den = 1 then some (.fin false 0, 0) else none
  | .tanh _, .fin n q, _ => if q = 0 then some (.fin n 0, 0) else none
  | .tanh _, .inf n, _ => some (.fin n (if n then -1 else 1), 0)
  | .sigm _, .inf n, _ => some (.fin false (if n then 0 else 1), 0)
  | .sigm _, .fin _ q, _ => if q = 0 then some (.fin false (1 / 2), 0) else none
  | _, _, _ => none

/-- `r` is the code and the flags of a real number rounded to nearest, ties to even: it lies between two bounds all numbers between which
round so, or no precision that the model uses decides, and the value is free (R162; log entry 22). -/
def RoundsReal (t : Fmt) (r : Nat × Flags) (x : ℝ) : Prop :=
  (∃ (neg : Bool) (lo hi : ℚ), (neg = true ↔ x < 0) ∧ (lo : ℝ) ≤ |x| ∧ |x| ≤ (hi : ℝ) ∧ t.rndBetween neg (lo, hi) = some r) ∨
    r = (Config.undecided % 2 ^ t.bits, fNX)

/-- An SFU instruction enters the queue of its spindle with one entry, its writes of D, whose elements are those of `res`, and of the flags
of `res` to vfst in flight until the entry lands, the trap of an enabled flag withheld, and the fibre goes on at once (R157, R160). -/
def SfuQueues (s : State) (c : Ctx) (f : X64) (i : Instr) (res : Nat → Nat → Nat × Flags) : Prop :=
  let w := X64.w f
  ∃ (W : Nat → Word) (fl : Nat → Flags) (d v : State × List Nat),
    exec i s = .next (c.advance (v.1.modSpindle c.cluster c.st.spindle fun sp =>
      { sp with sfu := sp.sfu ++ [{ fib := c.k, seqs := d.2 ++ v.2, notBefore := c.is.r2 + 18
                                    withheld := (fpTrap c.st.ctl fpCauses c.act fl).map fun t =>
                                      { t with addr := c.f.pc, defer := true, word := some i.word0 } }] })) ∧
    d = c.putLater s f.d.toNat c.act W (dmaskBits w (X64.dm f w)) ∧ v = c.orLater d.1 fl ∧
    ∀ l, (∀ j, j < 32 / w → el w (W l) j = (res l j).1) ∧
      ∀ k, (fl l).getLsbD k = true ↔ ∃ j, j < 32 / w ∧ (X64.dm f w).getLsbD j = true ∧ (res l j).2.getLsbD k = true

/-- R157, R160, R162: an SFU instruction enters the queue of its spindle. NaN operands give the canonical NaN, Table 6.2's special operands
their values and flags, RCP and DIV of other numbers the quotient rounded once, and SQRT and RSQ of other positive numbers the root, or its
inverse, rounded once. Where it rests on a choice or an inference of the model: log entries 22, 23 and 95. -/
def SfuResultsEnterTheQueue : Prop :=
  ∀ (s : State) (c : Ctx) (f : X64) (i : Instr),
    i ∈ [.rcp f, .rsq f, .sqrt f, .div f, .exp2 f, .log2 f, .sinpi f, .cospi f, .tanh f, .sigm f] → Issues i s c →
    let t := (X64.ftype f).fmt
    let w := X64.w f
    let a := fun l j => t.val (el w (c.srcA .flt w f l) j)
    let b := fun l j => t.val (el w (c.srcB .flt w f l) j)
    ∃ res, SfuQueues s c f i res ∧ ∀ l j, j < 32 / w →
        (((a l j).isNan = true ∨ i = .div f ∧ (b l j).isNan = true) →
          res l j = (t.nan, if a l j = .nan true ∨ i = .div f ∧ b l j = .nan true then fNV else 0)) ∧
        (∀ x, (a l j).isNan = false → (i = .div f → (b l j).isNan = false) → sfuSpecial i (a l j) (b l j) = some x →
          res l j = ((t.rnd x.1 .rne false).1, x.2)) ∧
        (∀ n q, i = .rcp f → a l j = .fin n q → q ≠ 0 → res l j = t.rndQ (1 / q) .rne false) ∧
        (∀ n p k q, i = .div f → a l j = .fin n p → b l j = .fin k q → p ≠ 0 → q ≠ 0 →
          res l j = t.rndQ (p / q) .rne false) ∧
        (∀ n q p, a l j = .fin n q → 0 < p →
          (i = .sqrt f ∧ q = p * p → res l j = t.rndQ p .rne false) ∧
          (i = .rsq f ∧ q * (p * p) = 1 → res l j = t.rndQ p .rne false)) ∧
        (∀ n q, a l j = .fin n q → 0 < q → (¬ ∃ p : ℚ, q = p * p) →
          (i = .sqrt f → RoundsReal t (res l j) (Real.sqrt q)) ∧ (i = .rsq f → RoundsReal t (res l j) (1 / Real.sqrt q)))

/-- The real number that a transcendental function of Table 6.2 gives for a number whose result is no rational number, in the range in which
the result is not a constant of the format. -/
def sfuReal (i : Instr) (q : ℚ) (x : ℝ) : Prop :=
  match i with
  | .exp2 _ => |q| ≤ 400 ∧ q.den ≠ 1 ∧ x = (2 : ℝ) ^ (q : ℝ)
  | .log2 _ => 0 < q ∧ (∀ k : ℤ, q ≠ (2 : ℚ) ^ k) ∧ x = Real.logb 2 q
  | .sinpi _ => (2 * q).den ≠ 1 ∧ x = Real.sin (Real.pi * q)
  | .cospi _ => (2 * q).den ≠ 1 ∧ x = Real.cos (Real.pi * q)
  | .tanh _ => q ≠ 0 ∧ |q| < 64 ∧ x = Real.tanh q
  | .sigm _ => q ≠ 0 ∧ |q| < 200 ∧ x = 1 / (1 + Real.exp (-(q : ℝ)))
  | _ => False

/-- The rational number that such a function gives, or one in whose rounding cell the result lies where the operand is large. -/
def sfuRat (i : Instr) (q x : ℚ) : Prop :=
  match i with
  | .exp2 _ => (∃ k : ℤ, q = k ∧ |k| ≤ 400 ∧ x = (2 : ℚ) ^ k) ∨ 400 < q ∧ x = 2 ^ 400 ∨ q < -400 ∧ x = 1 / 2 ^ 400
  | .log2 _ => ∃ k : ℤ, k ≠ 0 ∧ q = (2 : ℚ) ^ k ∧ x = k
  | .sinpi _ => ∃ k : ℤ, q = 1 / 2 + k ∧ x = if k % 2 = 0 then 1 else -1
  | .cospi _ => ∃ k : ℤ, q = k ∧ x = if k % 2 = 0 then 1 else -1
  | .tanh _ => 64 ≤ q ∧ x = 1 - 1 / 2 ^ 100 ∨ q ≤ -64 ∧ x = -(1 - 1 / 2 ^ 100)
  | .sigm _ => 200 ≤ q ∧ x = 1 - 1 / 2 ^ 100 ∨ q ≤ -200 ∧ x = 1 / 2 ^ 280
  | _ => False

/-- R157, R162: EXP2, LOG2, SINPI, COSPI, TANH and SIGM of ordinary operands write, in the elements that DMASK enables in the lanes of act,
the real result rounded once to nearest: every number between two bounds of it rounds to the code written, or no bounds that the model
makes decide. A rational result is rounded as it is. Where it rests on a choice or an inference of the model: log entry 22. -/
def Obligations.TranscendentalsRoundOnce : Prop :=
  ∀ (s : State) (c : Ctx) (f : X64) (i : Instr), i ∈ [.exp2 f, .log2 f, .sinpi f, .cospi f, .tanh f, .sigm f] → Issues i s c →
    let t := (X64.ftype f).fmt
    let w := X64.w f
    ∃ res, SfuQueues s c f i res ∧ ∀ ln j, j < 32 / w →
        ∀ n q, t.val (el w (c.srcA .flt w f ln) j) = .fin n q →
          (∀ x : ℝ, sfuReal i q x → RoundsReal t (res ln j) x) ∧ ∀ x : ℚ, sfuRat i q x → res ln j = t.rndQ x .rne false

/-- R157, R158, R160: SFU_RESULT_LANDS takes the oldest result of the queue that is not held there, once it is due: its writes become
visible to beats that issue after the present cycle, or, where its trap was withheld, they are dropped, and the trap joins the fibre's
deferred ones, or stays in its entry while the fibre holds 16, which the next result then passes. -/
def SfuResultLands : Prop :=
  ∀ (s : State) (cl sp : Nat) (e : SfuEntry) (pre rest : List SfuEntry), (s.spindle cl sp).sfu = pre ++ e :: rest →
    (∀ x ∈ pre, x.held = true) →
    let q := fun l => s.modSpindle cl sp fun x => { x with sfu := l }
    let join := fun (u : State) (t : Trap) => u.modFib e.fib fun f => { f with deferred := insertDeferred (e.seqs.headD 0, t) f.deferred }
    ((∀ x ∈ pre ++ e :: rest, x.held = true → s.deferRoom x.fib = false) → e.held = false → e.notBefore ≤ s.cycle →
      let drop := fun (u : State) => u.modStrand (fibStrand e.fib) fun st => { st with flights := st.flights.filter fun f => f.seq ∉ e.seqs }
      (e.withheld = none → exec (.sfuResultLands cl sp) s =
        .next ((q (pre ++ rest)).modStrand (fibStrand e.fib) fun st =>
          { st with flights := st.flights.map fun f =>
              if f.seq ∈ e.seqs then { f with land := some (s.cycle + 1, s.cycle + 1, s.cycle + 1) } else f })) ∧
      ∀ t, e.withheld = some t →
        (e.live = false → exec (.sfuResultLands cl sp) s = .next (drop (q (pre ++ rest)))) ∧
        (e.live = true → s.deferRoom e.fib = true → exec (.sfuResultLands cl sp) s = .next (drop (join (q (pre ++ rest)) t))) ∧
        (e.live = true → s.deferRoom e.fib = false →
          exec (.sfuResultLands cl sp) s = .next (drop (q (pre ++ { e with held := true } :: rest))))) ∧
    ∀ t, e.held = true → e.live = true → e.withheld = some t → s.deferRoom e.fib = true → (∀ x ∈ pre, s.deferRoom x.fib = false) →
      exec (.sfuResultLands cl sp) s = .next (join (q (pre ++ rest)) t)

/-- The two statements `SfuResultsEnterTheQueue` and `SfuResultLands`. -/
def Obligations.SfuResultsQueueAndLand : Prop := SfuResultsEnterTheQueue ∧ SfuResultLands

/-- The lane that lane `l` reads in SHFL (R165). -/
def shflFrom (m : ShflMode) (w l : Nat) (x : Int) : Int :=
  let s : Int := (l / w * w : Nat)
  match m with
  | .idx => s + x
  | .up => l - x
  | .down => l + x
  | .xor => s + ((l - l / w * w) ^^^ x.toNat : Nat)

/-- R163, R165 to R167, R170: the lane moves and votes write whole words in the lanes of act, at the latency of R163. SHFL reads its own
lane where the source lies outside the segment or outside act; BCAST traps with LANE_INDEX when its lane is not in act. -/
def Obligations.CrossLaneMovesAndVotes : Prop :=
  ∀ (s : State) (c : Ctx) (f : X64),
    let A := fun l => c.rd f.a.toNat l
    (∀ m, Issues (.shfl m f) s c → ∃ W tag, exec (.shfl m f) s = .next (c.advance (c.putBits s f.d.toNat c.act W 0xFFFFFFFF 4 tag)) ∧
      ∀ l, l < 96 →
        let j := shflFrom m f.imm8.toNat l (c.rd f.b.toNat l).toNat
        let s0 : Nat := l / f.imm8.toNat * f.imm8.toNat
        W l = if s0 ≤ j ∧ j < s0 + f.imm8.toNat ∧ c.act.getLsbD j.toNat then A j.toNat else A l) ∧
    (Issues (.bcast f) s c →
      (c.act ≠ 0 → c.act.getLsbD f.imm8.toNat = false → exec (.bcast f) s =
        .next (c.afterTrap s (.bcast f) { cause := .laneIndex, addr := f.imm8.zeroExtend 64, mask := some c.act })) ∧
      (c.act = 0 ∨ c.act.getLsbD f.imm8.toNat = true → ∃ tag, exec (.bcast f) s =
        .next (c.advance (c.putBits s f.d.toNat c.act (fun _ => A f.imm8.toNat) 0xFFFFFFFF 4 tag)))) ∧
    (∀ m : VoteMode, Issues (.vote m f) s c → ∃ P : Lanes,
      (∀ l, l < 96 → (P.getLsbD l = true ↔ c.act.getLsbD l = true ∧ (A l).getLsbD f.imm8.toNat = true)) ∧
      (m = .any → ∃ tag, exec (.vote m f) s =
        .next (c.advance (c.putBits s f.d.toNat c.act (fun _ => if P ≠ 0 then 1 else 0) 0xFFFFFFFF 4 tag))) ∧
      (m = .all → ∃ tag, exec (.vote m f) s =
        .next (c.advance (c.putBits s f.d.toNat c.act (fun _ => if P = c.act then 1 else 0) 0xFFFFFFFF 4 tag))) ∧
      (m = .ballot → ∃ tag, exec (.vote m f) s =
        .next (c.advance (c.putSpan s f.d.toNat 3 (fun k _ => P.extractLsb' (32 * k) 32) 4 tag)))) ∧
    (Issues (.matchLanes f) s c → ∃ (P : Nat → Lanes) (tag : Nat → Option Tag),
      (∀ l j, l < 96 → j < 96 → ((P l).getLsbD j = true ↔ c.act.getLsbD j = true ∧ A j = A l)) ∧
      exec (.matchLanes f) s =
        .next (c.advance (c.putSpan s f.d.toNat 3 (fun k l => (P l).extractLsb' (32 * k) 32) 4 tag))) ∧
    (Issues (.leader f) s c → ∃ (m : Nat) (tag : Nat → Option Tag),
      (c.act ≠ 0 → m < 96 ∧ c.act.getLsbD m = true ∧ ∀ l, l < m → c.act.getLsbD l = false) ∧
      exec (.leader f) s = .next (c.advance (c.putBits s f.d.toNat c.act (fun _ => BitVec.ofNat 32 m) 0xFFFFFFFF 4 tag)))

/-- R168, R169: LRED combines the lanes of act, the identity standing for the others, by a fixed tree, and writes the result to every lane
of act; LSCAN writes to each the combination of the lanes at or below it, or below it with `.excl`, in rising order. A signalling NaN among
the lanes combined sets NV, an enabled flag traps before any effect, and a NaN is written as the canonical one. For the integer operations,
whose grouping does not matter, no flag is set and the results are the folds over the lanes. Where it rests on a choice or an inference of the model: log entry 24. -/
def Obligations.ReductionsAndScans : Prop :=
  ∀ (s : State) (c : Ctx) (f : X64) (op : LaneOp),
    let sg := f.flg.getLsbD 0
    let f2 := fun x y => (laneCombine op sg x y).1
    let v := fun l => if c.act.getLsbD l then c.rd f.a.toNat l else laneIdentity op sg
    let nv := fun (n : Nat) => if laneFloat op && (List.range 96).any fun l =>
        decide (l < n) && c.act.getLsbD l && val32 (c.rd f.a.toNat l) == .nan true then fNV else (0 : Flags)
    let tree := lredTree (laneCombine op sg) v
    let redFl := fun (_ : Nat) => tree.2 ||| nv 96
    let below := fun (l : Nat) => if f.flg.getLsbD 1 then l else l + 1
    let scan := fun (l : Nat) => (scanUpTo (laneCombine op sg) v (below l)).getD (laneIdentity op sg, 0)
    let scanW := fun (l : Nat) => if laneFloat op && (val32 (scan l).1).isNan then BitVec.ofNat 32 fmt32.nan else (scan l).1
    let scanFl := fun (l : Nat) => (scan l).2 ||| nv (below l)
    (Issues (.lred op f) s c →
      (∀ t, fpTrap c.st.ctl (laneOrder op) c.act redFl = some t → exec (.lred op f) s = .next (c.afterTrap s (.lred op f) t)) ∧
      (fpTrap c.st.ctl (laneOrder op) c.act redFl = none → ∃ tag, exec (.lred op f) s =
        .next (c.advance (c.orFlags (c.putBits s f.d.toNat c.act (fun _ => tree.1) 0xFFFFFFFF 4 tag) redFl 4)))) ∧
    (Issues (.lscan op f) s c →
      (∀ t, fpTrap c.st.ctl (laneOrder op) c.act scanFl = some t → exec (.lscan op f) s = .next (c.afterTrap s (.lscan op f) t)) ∧
      (fpTrap c.st.ctl (laneOrder op) c.act scanFl = none → ∃ tag, exec (.lscan op f) s =
        .next (c.advance (c.orFlags (c.putBits s f.d.toNat c.act scanW 0xFFFFFFFF 4 tag) scanFl 4)))) ∧
    (laneFloat op = false →
      fpTrap c.st.ctl (laneOrder op) c.act redFl = none ∧ fpTrap c.st.ctl (laneOrder op) c.act scanFl = none ∧
      (∀ l, redFl l = 0 ∧ scanFl l = 0) ∧ tree.1 = ((List.range 96).map v).foldl f2 (laneIdentity op sg) ∧
      ∀ l, scanW l = ((List.range (below l)).map v).foldl f2 (laneIdentity op sg))

/-! ### Control: runs, branches, fibres (chapter 3) -/

/-- R402, R403: a terminator that passes its checks first tests the run it ends, and takes the trap of a test that fails, with what the test
leaves. One with EL set whose run is not eligible takes SUBST_INELIGIBLE, unless a table entry is used or its tests were made before. -/
def terminatorsTest : Prop :=
  (∀ (s v : State) (c : Ctx) (i : Instr) (t : Trap), Issues i s c → i.isTerminator = true → c.substEnd s = (v, some t) →
    exec i s = .next (c.afterTrap v i t)) ∧
  ∀ (s : State) (c : Ctx) (r : RunRec) (f : T96), c.i.fields = .t f → c.f.run = some r → r.told = false → r.use = none → r.bad = none →
    f.el = 1 → runEligible (r.instrs.map (·.instr)) c.i = false →
    c.substEnd s = (s, some { cause := .substIneligible, addr := r.start })

/-- R56, R60, R62, R83: a run that ends leaves the fibre with its next run at the target: run position 0, q0 to q7 zero, every other
register and all memory as they were, READY once every published register has landed and PARKED until then. A terminator tests its run before it takes effect, and an ineligible run with EL set takes
SUBST_INELIGIBLE (R402, R403). -/
def RunEndsAndTheNextBegins : Prop :=
  terminatorsTest ∧ ∀ (s : State) (c : Ctx) (pc : DWord), s.strand? c.strand = some c.st → s.fib? c.k = some c.f →
    let t := c.goesTo s pc
    let landed := ∀ r ∈ c.i.pubs, ∀ x ∈ c.st.flights, x.reg = r → x.lanes &&& c.f.laneSet ≠ 0 →
      x.seen 0 s.cycle = true ∧ x.seen 1 s.cycle = true ∧ x.seen 2 s.cycle = true
    (∃ g st', t.fib? c.k = some g ∧ t.strand? c.strand = some st' ∧ g.pc = pc ∧ g.runPos = 0 ∧ g.laneSet = c.f.laneSet ∧
      g.level = c.f.level ∧ g.tokens = c.f.tokens ∧
      (∀ q l b n, q < 8 → c.f.laneSet.getLsbD l = true → l < 96 → (st'.view (240 + q) l b n).w = 0) ∧
      (landed → g.state = .ready) ∧
      ((∀ r ∈ c.i.pubs, r < 240 ∨ 247 < r) → ¬ landed → g.state = .parked ∧ g.wait = .none ∧ g.pubs = c.i.pubs)) ∧
    (∀ r, r < 240 ∨ 247 < r → RegKept c.strand r s t) ∧ MemSame s t ∧ OtherStrands c.strand s t

/-- R64, R83, R89: after an instruction that is no terminator the fibre stands at the next instruction, one further in its run, its beats to
issue no earlier than 3 · (1 + STALL) cycles after this one's; NOP does nothing else. -/
def NopAdvances : Prop :=
  (∀ (s : State) (c : Ctx) (f : X64), Issues (.nop f) s c → exec (.nop f) s = .next (c.advance s)) ∧
  ∀ (s : State) (c : Ctx), s.fib? c.k = some c.f → (c.f.run = none) →
    (c.advance s).fib? c.k = some
      { c.f with pc := BitVec.ofNat 64 (pcHandle c.f.pc * 2 ^ 40 + (pcOffset c.f.pc + c.i.bytes) % 2 ^ 40)
                 runPos := c.f.runPos + 1, beats := [], issued := true, walks := [], noPromise := false, passStop := false
                 passBrk := false
                 bound :=
                  let p := 3 * (1 + c.i.stall)
                  if c.i.crossLane then (max (c.is.r2 + p) (c.is.r2 + 1), c.is.r2 + p, c.is.r2 + p)
                  else (max (c.is.r0 + p) (c.is.r2 + 1), c.is.r1 + p, c.is.r2 + p) }

/-- The address of a transfer by IMM26 words from the instruction, within the 40 bits of an offset (R85). -/
def transfersTo (c : Ctx) (f : T96) (t : DWord) : Prop :=
  ∃ o : Nat, o < 2 ^ 40 ∧ (o : Int) = (pcOffset c.f.pc : Int) + 4 * f.imm26.toInt ∧
    t = BitVec.ofNat 64 (pcHandle c.f.pc * 2 ^ 40 + o)

/-- The lanes of act in which the condition of a conditional branch holds (R92). -/
def HoldIn (c : Ctx) (k : Cond) (f : T96) (T : Lanes) : Prop :=
  ∀ l, l < 96 → (T.getLsbD l = true ↔ c.act.getLsbD l = true ∧
    match k with
    | .nz => c.rd f.a.toNat l ≠ 0
    | .z => c.rd f.a.toNat l = 0
    | .bset => (c.rd f.a.toNat l).getLsbD f.b.toNat = true
    | .bclr => (c.rd f.a.toNat l).getLsbD f.b.toNat = false)

/-- R85, R90 to R92: RUNEND goes on at the next instruction, BRA at the target, and BRU, BRANY and BRALL at the one or the other by their
conditions (the lowest lane of act, any lane of act, every lane of a nonempty act). A target outside the 40 bits traps with
PC_WRAP. The tests of the run that ends come first (R403, R412). -/
def Obligations.BranchesGoWhereTheyName : Prop :=
  ∀ (s u : State) (c : Ctx) (f : T96),
    (Ends (.runend f) s c u → c.fallsOff = false → exec (.runend f) s = .next (c.goesTo u c.nextPc)) ∧
    (∀ t, Ends (.bra f) s c u → transfersTo c f t → exec (.bra f) s = .next (c.goesTo u t)) ∧
    (∀ (i : Instr) (taken : Prop), Ends i s c u →
      (∃ k, i = .bru k f ∧ (taken ↔ ∃ T, HoldIn { c with act := lanesOf fun l => l == c.low } k f T ∧ T ≠ 0) ∨
        i = .brany k f ∧ (taken ↔ ∃ T, HoldIn c k f T ∧ T ≠ 0) ∨ i = .brall k f ∧ (taken ↔ c.act ≠ 0 ∧ HoldIn c k f c.act)) →
      ∀ t, transfersTo c f t →
        (taken → exec i s = .next (c.goesTo (c.branchNote u c.f.laneSet) t)) ∧
        (¬ taken → c.fallsOff = false → exec i s = .next (c.goesTo (c.branchNote u 0) c.nextPc))) ∧
    (∀ i, (i = .bra f ∨ ∃ k, i = .brc k f ∨ i = .bru k f ∨ i = .brany k f ∨ i = .brall k f) → Ends i s c u →
      (¬ ∃ t, transfersTo c f t) → exec i s = .next (c.afterTrap s i { cause := .pcWrap }))

/-- R79, R80: BRC sends the whole fibre one way when all of its lanes go that way; otherwise the smaller of T and F (T when they are equal)
is detached as a new fibre at the lowest free path, with all its lanes in its mask, both carry the token, and each goes on at its
own address. Where it rests on a choice or an inference of the model: log entry 42. -/
def Obligations.BrcSplitsTheFibre : Prop :=
  ∀ (s u : State) (c : Ctx) (k : Cond) (f : T96) (t : DWord) (T : Lanes), Ends (.brc k f) s c u → transfersTo c f t → HoldIn c k f T →
    let F := c.mask &&& ~~~T
    (T = 0 → c.fallsOff = false → exec (.brc k f) s = .next (c.goesTo (c.branchNote u 0) c.nextPc)) ∧
    (T ≠ 0 → F = 0 → exec (.brc k f) s = .next (c.goesTo (c.branchNote u T) t)) ∧
    (T ≠ 0 → F ≠ 0 → c.fallsOff = false →
      let D := if laneCount T ≤ laneCount F then T else F
      let pcs := if laneCount T ≤ laneCount F then (t, c.nextPc) else (c.nextPc, t)
      ∃ v p g st', exec (.brc k f) s = .next v ∧ v.strand? c.strand = some st' ∧ v.fib? c.k = some p ∧
        (∀ n, n < 97 → (∀ m, m < n → tget? c.st.paths m ≠ none) → tget? c.st.paths n = none → v.fib? (mkFib c.strand n) = some g) ∧
        g.laneSet = D ∧ g.pc = pcs.1 ∧ g.runPos = 0 ∧ g.level = c.f.level ∧ p.laneSet = c.f.laneSet &&& ~~~D ∧ p.pc = pcs.2 ∧
        p.runPos = 0 ∧ g.tokens = p.tokens ∧
        (∀ j, j < 16 → (p.tokens.getLsbD j = true ↔ c.f.tokens.getLsbD j = true ∨ f.flg ≠ 0 ∧ j = f.flg.toNat)) ∧
        (∀ l b n, l < 96 → D.getLsbD l = true → (st'.view (253 + l / 32) l b n).w = 1) ∧ MemSame s v)

/-- R84, R93: JMPI and RET transfer to the code reference of the pair A in the lowest lane of act, CALL by IMM26 and CALLI to the pair B, both
leaving the address of the next instruction in the pair A of the lanes of act. A reference that fails a check of R84 traps, with no
transfer and no link. -/
def Obligations.JumpsCallsAndReturns : Prop :=
  ∀ (s u : State) (c : Ctx) (f : T96),
    let link := BitVec.ofNat 64 (pcHandle c.f.pc * 2 ^ 40 + (pcOffset c.f.pc + c.i.bytes) % 2 ^ 40)
    (∀ (i : Instr) (r : DWord) (s' : State), Ends i s c u →
      ((i = .jmpi f ∨ i = .ret f) ∧ r = c.rdPairLow f.a.toNat ∧ s' = u ∨
        i = .calli f ∧ c.fallsOff = false ∧ r = c.rdPairLow f.b.toNat ∧ s' = c.putPair u f.a (fun _ => link) 2) →
      (∀ e, u.refCheck c.cluster (s.strandPart c.strand) r = some e →
        exec i s = .next (c.afterTrap s i { cause := e, addr := r })) ∧
      (u.refCheck c.cluster (s.strandPart c.strand) r = none → ∃ t g, exec i s = .next t ∧ t.fib? c.k = some g ∧ g.pc = r ∧ g.runPos = 0 ∧
        g.laneSet = c.f.laneSet ∧ MemSame s t ∧ ∀ n, n < 240 ∨ 247 < n → RegKept c.strand n s' t)) ∧
    (∀ t, Ends (.call f) s c u → transfersTo c f t → c.fallsOff = false →
      exec (.call f) s = .next (c.goesTo (c.putPair u f.a (fun _ => link) 2) t))

/-- R81, R94: RCVG of a token that the fibre carries parks it while another carrier is still to come; for the last carrier the merge test
is made at once, and where it leaves the fibre at its RCVG the fibre parks. Once every carrier of the token stands at an RCVG of it, all at
one address, they merge into the fibre with the lowest path, which gathers their lanes and tokens, drops this token and goes on; the
others' path entries are free. Without the token RCVG only ends the run. Where it rests on a choice or an inference of the model: log entry 42. -/
def RcvgParksAndMerges : Prop :=
  (∀ (s u : State) (c : Ctx) (f : T96), Ends (.rcvg f) s c u → c.fallsOff = false →
    let k := f.flg.toNat
    let away := ∃ p ∈ c.st.paths, p.1 ≠ fibPath c.k ∧ p.2.tokens.getLsbD k = true ∧ p.2.wait ≠ .rcvg k
    (c.f.tokens.getLsbD k = false → exec (.rcvg f) s = .next (c.goesTo u c.nextPc)) ∧
    (c.f.tokens.getLsbD k = true → away → exec (.rcvg f) s = .next (c.parksAt u (.rcvg k)) ∧
      ∃ g, (c.parksAt u (.rcvg k)).fib? c.k = some g ∧ g.state = .parked ∧ g.wait = .rcvg k ∧ g.after = some c.nextPc) ∧
    (c.f.tokens.getLsbD k = true → ¬ away → exec (.rcvg f) s =
      .next (((((c.closeRun u).modFib c.k fun f => { f with after := some c.nextPc, wait := .rcvg k }).unslot c.k).tryMerge c.strand
        k).parkLeft c.k k))) ∧
  ∀ (s : State) (strand k p0 : Nat) (st : Strand) (f0 : Fibre) (pc : DWord), s.strand? strand = some st →
    (st.paths.map (·.1)).Pairwise (· < ·) → (∀ p ∈ st.paths, p.1 < 97) → (p0, f0) ∈ st.paths → f0.after = some pc →
    f0.tokens.getLsbD k = true →
    (∀ p ∈ st.paths, p.2.tokens.getLsbD k = true → p.2.wait = .rcvg k ∧ p.2.pc = f0.pc ∧ p0 ≤ p.1 ∧ (p.2.task = none ∨ p.1 = p0)) →
    ∃ g, (s.tryMerge strand k).fib? (mkFib strand p0) = some g ∧ g.pc = pc ∧ g.runPos = 0 ∧
      (∀ l, g.laneSet.getLsbD l = true ↔ ∃ p ∈ st.paths, p.2.tokens.getLsbD k = true ∧ p.2.laneSet.getLsbD l = true) ∧
      (∀ j, g.tokens.getLsbD j = true ↔ j ≠ k ∧ ∃ p ∈ st.paths, p.2.tokens.getLsbD k = true ∧ p.2.tokens.getLsbD j = true) ∧
      ∀ p ∈ st.paths, p.2.tokens.getLsbD k = true → p.1 ≠ p0 → (s.tryMerge strand k).fib? (mkFib strand p.1) = none

/-- R82, R95, R302: ENDK of a fibre that holds no task ends it: its path entry is free; one that holds a task traps with
TASK_QUEUE_INVALID and does not end. Memory is untouched but for what the end of the strand completes. Where it rests on a choice or an inference of the model: log entries 42 and 68. -/
def EndkEndsTheFibre : Prop :=
  ∀ (s u : State) (c : Ctx) (f : T96), Ends (.endk f) s c u →
    (∀ t, c.f.task = some t → exec (.endk f) s =
      .next (c.afterTrap s (.endk f) { cause := .taskQueueInvalid, addr := BitVec.ofNat 64 t.queue })) ∧
    (c.f.task = none → exec (.endk f) s = .next (u.endFibre c.k) ∧
      ((∃ p ∈ c.st.paths, p.1 ≠ fibPath c.k) → (∀ p ∈ c.st.paths, p.2.tokens = 0) →
        (u.endFibre c.k).fib? c.k = none ∧ MemSame s (u.endFibre c.k)))

/-- The two statements `RcvgParksAndMerges` and `EndkEndsTheFibre`. -/
def Obligations.FibresMergeAndEnd : Prop := RcvgParksAndMerges ∧ EndkEndsTheFibre

/-- R96: YIELD parks the fibre until 3 · IMM26 cycles after its beat 2 and marks its next hand-out; YIELD_WAKE ends that wait when the cycle
has come, and does nothing before. -/
def YieldParksAndWakes : Prop :=
  (∀ (s u : State) (c : Ctx) (f : T96), Ends (.yield f) s c u → c.fallsOff = false →
    ∃ t g, exec (.yield f) s = .next t ∧ t.fib? c.k = some g ∧ g.state = .parked ∧ g.wait = .yield (c.is.r2 + 3 * f.imm26.toNat) ∧
      g.after = some c.nextPc ∧ g.last3 = true ∧ MemSame s t ∧ ∀ r, RegKept c.strand r s t) ∧
  ∀ (s : State) (k n : Nat) (g : Fibre), s.fib? k = some g → g.state = .parked → g.wait = .yield n →
    (n ≤ s.cycle → exec (.yieldWake k) s = .next (s.waitDone k)) ∧ (s.cycle < n → exec (.yieldWake k) s = .next s)

/-- The two statements `NopAdvances` and `YieldParksAndWakes`. -/
def Obligations.NopAdvancesYieldParks : Prop := NopAdvances ∧ YieldParksAndWakes

/-- R56, R62: a wait that is over ends the run of the terminator that began it: the fibre goes on at the address after it. -/
def WaitDoneResumesAfterTheTerminator : Prop :=
  ∀ (s : State) (k : Nat) (g : Fibre) (st : Strand) (pc : DWord), s.strand? (fibStrand k) = some st → s.fib? k = some g →
    g.after = some pc →
    ∃ h, (s.waitDone k).fib? k = some h ∧ h.pc = pc ∧ h.after = none ∧ h.runPos = 0 ∧ (h.state = .ready ∨ h.state = .parked) ∧
      h.wait = .none ∧ MemSame s (s.waitDone k)

/-- The two statements `RunEndsAndTheNextBegins` and `WaitDoneResumesAfterTheTerminator`. -/
def Obligations.RunsEndAndResume : Prop := RunEndsAndTheNextBegins ∧ WaitDoneResumesAfterTheTerminator

/-! ### Memory (chapters 7 and 8) -/

/-- The entries of a store queue but for what they know, which a write of an earlier one adds to (R228). -/
def unviewed (q : List StoreEntry) : List StoreEntry := q.map fun e => { e with view := {} }

/-- The access that a load or a store makes: whether it stores, its bytes and alignment, the address of each lane, how a lane's bytes are
laid out, the data register and the bytes of it that are moved (R193 to R197, R206 to R208). -/
def accessOf (c : Ctx) : Instr → Option (Bool × Nat × Nat × (Nat → DWord) × (LaneAcc → LaneAcc) × BitVec 8 × Nat)
  | .ld f => some (false, 2 ^ f.sz.toNat, min (2 ^ f.sz.toNat) 4, c.ea f, id, f.d, 2 ^ f.sz.toNat)
  | .lds f => some (false, 2 ^ f.sz.toNat, min (2 ^ f.sz.toNat) 4, c.eaScr f, id, f.d, 2 ^ f.sz.toNat)
  | .ldt f => some (false, 128 * (4 / 2 ^ f.sz.toNat - 1) + 2 ^ f.sz.toNat, 2 ^ f.sz.toNat, c.eaScr f, transposed f.sz, f.d, 4)
  | .st f => some (true, 2 ^ f.sz.toNat, min (2 ^ f.sz.toNat) 4, c.ea f, id, f.d, 2 ^ f.sz.toNat)
  | .sts f => some (true, 2 ^ f.sz.toNat, min (2 ^ f.sz.toNat) 4, c.eaScr f, id, f.d, 2 ^ f.sz.toNat)
  | .stt f => some (true, 128 * (4 / 2 ^ f.sz.toNat - 1) + 2 ^ f.sz.toNat, 2 ^ f.sz.toNat, c.eaScr f, transposed f.sz, f.d, 4)
  | _ => none

/-- The form of a load, and the scope at which it is an acquire, if it is one (R197, R208, Table 2.5). -/
def loadForm : Instr → Option (LoadForm × Option Nat)
  | .ld f | .lds f =>
    some ({ dst := f.d.toNat, sz := f.sz.toNat, sx := f.hint.getLsbD 2 }, if f.ord.getLsbD 0 then some f.scope.toNat else none)
  | .ldt f => some ({ dst := f.d.toNat, sz := 2, sx := false, ldt := true }, none)
  | _ => none

/-- Word `r` that a load gives lane `l` (R197), where each piece of its access reads what the free value `free` lets it find. -/
def loadedWord (s : State) (k : Nat) (free : Nat → Nat) (form : LoadForm) (as : List LaneAcc) (r l : Nat) : Word :=
  (((s.lookLanes k free as).find? fun a => a.1.lane == l).map fun a => (form.words (a.2.flatMap (·.bytes))).getD r 0).getD 0

/-- The same, from the pieces that a parked load has performed (R220). -/
def gotWord (m : MissLoad) (r l : Nat) : Word :=
  ((m.lanes.find? fun a => a.lane == l).map fun a =>
    (m.form.words (a.pieces.flatMap fun p =>
      ((m.got.find? fun g => g.1 == a.lane && g.2.1 == p.1).map (·.2.2)).getD (List.replicate p.2 0))).getD r 0).getD 0

/-- R59, R186, R197 to R200, R202, R206 to R208, R220: a load whose checks fail traps; one whose page must be walked parks and is made
again; with no lane in act it does nothing; one of a bank in change waits in its slot. A store of the fibre that a UO line still keeps
goes home before a read of its byte by another kind, and the fibre's scratch atomics of its bytes are performed before it. From SRAM the words land after 8 periods (scratch) or 10; otherwise the fibre parks
until its pieces have been read, and with the last its words land and it is ready. A bad row of scratch defers MEM_POISON for the lanes that
read it. Memory and every other register stay. Where no older values are kept, what a piece reads is what `State.laneBytes` gives. Where it rests on a choice or an inference of the model: log entries 6, 9, 81 and 116. -/
def LoadsFillRegisters : Prop :=
  (∀ (s : State) (c : Ctx) (i : Instr) (n al : Nat) (ea : Nat → DWord) (trim : LaneAcc → LaneAcc) (d : BitVec 8) (w : Nat) (form : LoadForm)
    (acq : Option Nat),
    Issues i s c → accessOf c i = some (false, n, al, ea, trim, d, w) → loadForm i = some (form, acq) →
    (∀ t, s.checkAccess c.k .load n al false (c.addrs ea) c.f.walks = .trap t → exec i s = .next (c.afterTrap s i t)) ∧
    (∀ va, s.checkAccess c.k .load n al false (c.addrs ea) c.f.walks = .walk va →
      ∃ t, exec i s = .next t ∧ c.ParksToRetry t .walk ∧ c.Frame [] s t) ∧
    (∀ as, s.checkAccess c.k .load n al false (c.addrs ea) c.f.walks = .ok as →
      let bs := as.map trim
      let u := (s.lateFirst c.k (bs.flatMap (·.bytes))).uoYield c.k (bs.flatMap (·.bytes))
      let v := if acq.isSome then u.syncLines c.k else u
      (bs = [] → exec i s = .next (c.advance s)) ∧
      (∀ b, bs ≠ [] → c.busy s bs = some b → exec i s = .next (s.stall c.k (.bank b))) ∧
      (bs ≠ [] → c.busy s bs = none → (u.loadMay c.k bs && u.present c.cluster bs) = true → ∃ (t : State) (free : Nat → Nat) (W : Nat → Nat → Word), exec i s = .next t ∧
        c.WentOn t ∧ (∀ r l, (∀ a ∈ bs, a.lane = l → u.badLane a = none) → W r l = loadedWord v c.k free form bs r l) ∧
        (s.launchFlag c.k 5 = false → c.Frame ((List.range form.span).map (form.dst + ·)) u t ∧
          ∀ st r, u.strand? c.strand = some st → r < form.span → InFlight t c.strand st.flights (form.dst + r) c.f.laneSet c.act
            (fun b => tri c.t b + 3 * (if bs.all fun x => x.bytes.all fun y => y.kind == .scr then 8 else 10)) (W r)) ∧
        ((∃ a ∈ bs, u.badLane a ≠ none) → ∃ g tr, t.fib? c.k = some g ∧ (c.st.seq, tr) ∈ g.deferred ∧
          tr.cause = .memPoison ∧ tr.defer = true ∧
          ∀ m, tr.mask = some m → ∀ l, l < 96 → (m.getLsbD l = true ↔ ∃ a ∈ bs, a.lane = l ∧ u.badLane a ≠ none))) ∧
      (bs ≠ [] → c.busy s bs = none → (u.loadMay c.k bs && u.present c.cluster bs) = false → ∃ t m, exec i s = .next t ∧
        ParkedIn t c.k (.miss m) ∧ m.form = form ∧ m.lanes = bs ∧ m.act = c.act ∧ m.seq = c.st.seq ∧ m.acq = acq.isSome ∧
        m.scope = acq.getD 0 ∧ m.got = [] ∧ m.pend = bs.flatMap (fun a => a.pieces.map fun p => (a.lane, p.1, p.2)) ∧ c.Frame [] u t)) ∧
    ∀ bs, ((s.cluster c.cluster).uo = [] → s.uoYield c.k bs = s) ∧
      ((∀ e ∈ s.myStores c.k, e.late = none) → s.lateFirst c.k bs = s)) ∧
  (∀ (s : State) (k : Nat) (g : Fibre) (st : Strand) (m : MissLoad), s.fib? k = some g → s.strand? (fibStrand k) = some st →
    g.wait = .miss m → g.state = .parked →
    let may := fun (p : Nat × Nat × Nat) =>
      s.readMay k (m.pieceBytes p) = true ∧ (s.cluster (fibCluster k)).busyBank (m.pieceBytes p) = none
    ((s.cycle < m.due ∨ m.pend ≠ [] ∧ ∀ p ∈ m.pend, ¬ may p) → exec (.missDataLands k) s = .next s) ∧
    (m.due ≤ s.cycle → (∃ p ∈ m.pend, may p) → ∃ t h, exec (.missDataLands k) s = .next t ∧ t.fib? k = some h ∧ h.pc = g.pc ∧
      (h.state = .ready ∨ ∃ m', h.state = .parked ∧ h.wait = .miss m' ∧ m'.pend.length < m.pend.length ∧
        m'.lanes = m.lanes ∧ m'.form = m.form ∧ m'.act = m.act)) ∧
    ∀ p, m.due ≤ s.cycle → m.pend = [p] → may p →
      let u := s.readPiece k m p
      let v := (s.goHomes (fibCluster k) (s.awayBytes (fibCluster k) ((m.pieceBytes p).take 1))).bringLines k m.hint (m.pieceBytes p)
      ∃ t h n, exec (.missDataLands k) s = .next t ∧ t.fib? k = some h ∧ h.state = .ready ∧ h.pc = g.pc ∧
        u.2.got = m.got ++ [(p.1, p.2.1, (v.look k n (m.pieceBytes p)).bytes)] ∧
        (s.launchFlag k 5 = false → MemSame u.1 t ∧
          (u.2.bad = [] → h.deferred = g.deferred ∧ ∀ r, r < m.form.span →
            InFlight t (fibStrand k) st.flights (m.form.dst + r) g.laneSet m.act (fun _ => s.cycle) (gotWord u.2 r)))) ∧
  (∀ (s : State) (k n : Nat) (bs : List ByteAt), s.hist = [] →
    (s.look k n bs).bytes = s.laneBytes k { lane := 0, addr := 0, bytes := bs }) ∧
  ∀ (sx : Bool) (bs : List Byte),
    (∀ b, bs = [b] → ({ dst := 0, sz := 0, sx := sx } : LoadForm).words bs = [if sx then b.signExtend 32 else b.zeroExtend 32]) ∧
    (∀ a b, bs = [a, b] → ({ dst := 0, sz := 1, sx := sx } : LoadForm).words bs =
      [if sx then (b ++ a).signExtend 32 else (b ++ a).zeroExtend 32]) ∧
    (∀ a b c d, bs = [a, b, c, d] → ({ dst := 0, sz := 2, sx := sx } : LoadForm).words bs = [d ++ c ++ b ++ a])

/-- R197, R198, R200, R206 to R208: a store whose checks fail traps, and one whose page must be walked parks and is made again; with
no lane in act it does nothing; otherwise its bytes, those of D in little-endian order at each lane's address, enter the fibre's
store queue, and no byte of memory and no register changes yet. -/
def Obligations.StoresEnterTheQueue : Prop :=
  ∀ (s : State) (c : Ctx) (i : Instr) (n al : Nat) (ea : Nat → DWord) (trim : LaneAcc → LaneAcc) (d : BitVec 8) (w : Nat),
    Issues i s c → accessOf c i = some (true, n, al, ea, trim, d, w) → c.st.spindle < (s.cluster c.cluster).spindles.length →
    (∀ t, s.checkAccess c.k .store n al false (c.addrs ea) c.f.walks = .trap t → exec i s = .next (c.afterTrap s i t)) ∧
    (∀ va, s.checkAccess c.k .store n al false (c.addrs ea) c.f.walks = .walk va →
      ∃ t, exec i s = .next t ∧ c.ParksToRetry t .walk ∧ c.Frame [] s t) ∧
    (∀ as, s.checkAccess c.k .store n al false (c.addrs ea) c.f.walks = .ok as →
      let bs := as.map trim
      (bs = [] → exec i s = .next (c.advance s)) ∧
      (bs ≠ [] → c.Untagged → ∃ t e, exec i s = .next t ∧ c.WentOn t ∧ c.Frame [] s t ∧
        (t.spindle c.cluster c.st.spindle).stores = (s.spindle c.cluster c.st.spindle).stores ++ [e] ∧
        e.strand = c.strand ∧ e.owners = [c.k] ∧ e.red = none ∧ e.cctl = none ∧ e.lines = [] ∧
        (∀ f, i = .st f ∨ i = .sts f → e.release = f.ord.getLsbD 1 ∧ (e.release = true → e.scope = f.scope.toNat)) ∧
        (∀ f, i = .stt f → e.release = false) ∧
        e.bytes = bs.flatMap fun a => a.bytes.zip ((List.range w).map fun j =>
          (c.rd (d.toNat + j / 4) a.lane).extractLsb' (8 * (j % 4)) 8)))

/-- R200, R201, R218, R220, R221, R226, R238: STORE_PERFORMED performs parts of a queued store, RED or CCTL that nothing holds back, and
does nothing where each of them is held back by an earlier store of the fibre or by a bank in change. No byte of memory changes but those
of the entry, of dirty UO lines of the cluster that leave before, and of the undo log. With the last part the entry leaves the queue: of a
store, every byte of the part that is not of a UO page and not in a bad line is in memory; of a RED, the new value of the lane operation. -/
def Obligations.StoresArePerformedAtTheirPlace : Prop :=
  ∀ (s : State) (cl sp i : Nat) (e : StoreEntry), MemOk s → (s.spindle cl sp).stores[i]? = some e →
    let may := fun (n : Nat) => e.partMay (s.spindle cl sp).stores n = true ∧ (s.cluster cl).busyBank (e.partLocs n) = none
    let one := ∀ x ∈ (s.spindle cl sp).stores, x.id = e.id → x = e
    let off := fun (l : Loc) => ∀ p, OffLog s p l
    (∀ u ∈ (s.cluster cl).uo, ∀ x ∈ u.2.stores, x.ofs < 128) →
    ((s.cycle < e.due ∨ e.size ≠ 0 ∧ ∀ n, n < e.size → ¬ may n) → exec (.storePerformed cl sp i) s = .next s) ∧
    (e.due ≤ s.cycle → (∃ n, n < e.size ∧ may n ∧ ∀ m, m < n → shareByte (e.partLocs m) (e.partLocs n) = false) → one →
      ∃ t, exec (.storePerformed cl sp i) s = .next t ∧
        (unviewed (t.spindle cl sp).stores = unviewed ((s.spindle cl sp).stores.filter fun x => x.id != e.id) ∨
          ∃ x ∈ (t.spindle cl sp).stores, x.id = e.id ∧ x.size < e.size ∧ ∀ b ∈ x.locs, b ∈ e.locs) ∧
        ((∃ st, s.strand? e.strand = some st ∧ st.paths ≠ []) → (e.late = none ∨ s.launchFlag (mkFib e.strand 0) 5 = false) →
          ∀ l, (∀ b ∈ e.locs, b.loc ≠ l) → off l →
          (∀ k, l = .mem k → tget? (s.cluster cl).uo (lineOf k) = none) → t.locRead l = s.locRead l)) ∧
    (e.due ≤ s.cycle → e.size = 1 → may 0 → one → (∃ st, s.strand? e.strand = some st ∧ st.paths ≠ []) →
      (∀ b ∈ e.locs, b.kind ≠ .uo ∧ s.badByte b = none ∧ off b.loc ∧ ∀ sk o, b.loc = .scr sk o → (s.skein? sk).isSome = true) →
      (e.locs.map (·.loc)).Nodup → (s.cluster cl).uo = [] →
      ∃ t, exec (.storePerformed cl sp i) s = .next t ∧
        (e.red = none → e.cctl = none → ∀ b ∈ e.bytes, t.locRead b.1.loc = b.2) ∧
        ∀ q a, e.red = some q → q.lanes = [a] →
          natOfBytes (t.homeBytes a.acc) =
            atomNew q.op q.type (natOfBytes (s.homeBytes a.acc)) a.operand.toNat a.expected.toNat % 2 ^ (8 * a.acc.bytes.length))

/-- R192, R209, R212, R213, R221, R225: a prefetch changes nothing that a program reads; REGPF sets a window that is filled until 6
cycles after its beat 2; CCTL stands in the store queue with the lines it names, and the fibre goes on; when it is performed, it writes the
dirty bytes of each line back (not for INV) and drops the line (not for WB). Where it rests on a choice or an inference of the model: log entries 47 and 96. -/
def Obligations.PrefetchWindowsAndCacheControl : Prop :=
  (∀ (s : State) (c : Ctx) (f : A96), Issues (.pf f) s c → ∃ t, exec (.pf f) s = .next t ∧ c.WentOn t ∧ c.Frame [] s t ∧ SpecialsSame s t) ∧
  (∀ (s : State) (c : Ctx) (w1 : Bool) (f : A96), Issues (.regpf w1 f) s c → ∃ t g, exec (.regpf w1 f) s = .next t ∧ c.WentOn t ∧
    c.Frame [] s t ∧ t.fib? c.k = some g ∧ g.wb0 = (if w1 then c.f.wb0 else f.ofs.toNat) ∧
    g.wb1 = (if w1 then f.ofs.toNat else c.f.wb1) ∧ (f.ofs.toNat, c.is.r2 + 6) ∈ g.fills ∧
      ∀ e ∈ c.f.fills, c.is.r2 < e.2 → e ∈ g.fills) ∧
  (∀ (s : State) (c : Ctx) (op : CctlOp) (f : A96), Issues (.cctl op f) s c → c.st.spindle < (s.cluster c.cluster).spindles.length →
    let ck := s.checkAccess c.k (if op = .wb then .load else .cctlInv) 1 1 false (c.addrs (c.ea f)) c.f.walks
    (∀ t, ck = .trap t → exec (.cctl op f) s = .next (c.afterTrap s (.cctl op f) t)) ∧
    (∀ va, ck = .walk va → ∃ t, exec (.cctl op f) s = .next t ∧ c.ParksToRetry t .walk ∧ c.Frame [] s t) ∧
    ∀ as, ck = .ok as →
      let lines := linesOf as
      let busy := (s.cluster c.cluster).busyBank (lines.flatMap lineBytes)
      (∀ n, busy = some n → exec (.cctl op f) s = .next (s.stall c.k (.bank n))) ∧
      (busy = none → lines = [] → exec (.cctl op f) s = .next (c.advance s)) ∧
      (busy = none → lines ≠ [] → ∃ t e, exec (.cctl op f) s = .next t ∧ c.WentOn t ∧ c.Frame [] s t ∧
        (t.spindle c.cluster c.st.spindle).stores = (s.spindle c.cluster c.st.spindle).stores ++ [e] ∧
        e.strand = c.strand ∧ e.owners = [c.k] ∧ e.red = none ∧ e.cctl = some op ∧ e.lines = lines ∧ e.pieces = [] ∧ e.release = false)) ∧
  ∀ (s : State) (cl sp i line : Nat) (e : StoreEntry) (op : CctlOp), MemOk s → (s.spindle cl sp).stores[i]? = some e →
    e.red = none → e.cctl = some op → e.lines = [line] → e.due ≤ s.cycle → e.partMay (s.spindle cl sp).stores 0 = true →
    (s.cluster cl).busyBank (lineBytes line) = none → (∀ x ∈ (s.spindle cl sp).stores, x.id = e.id → x = e) →
    (∃ st, s.strand? e.strand = some st ∧ st.paths ≠ []) → (∀ u ∈ (s.cluster cl).uo, ∀ x ∈ u.2.stores, x.ofs < 128) →
    ∃ t, exec (.storePerformed cl sp i) s = .next t ∧
      (op ≠ .wb → tget? (t.cluster cl).l1 line = none ∧ tget? (t.cluster cl).uo line = none) ∧
      ∀ a, (∀ p, OffLog s p (.mem a)) → (s.linkDown && hostKey a) = false →
        t.memRead a = match tget? (s.cluster cl).uo line with
          | some u =>
            if op ≠ .inv ∧ lineOf a = line then
              (((u.stores.filter fun x => x.dirty && x.ofs == a % 128).getLast?).map (·.val)).getD (s.memRead a)
            else s.memRead a
          | none => s.memRead a

/-- R189, R210, R211: FPUSH puts the words of D at the end of the bank's queue while it holds fewer than 512 entries and no one waits,
and FPOP takes the first entry into D after 8 periods; a full or an empty bank parks the fibre, one whose mode is changing holds it in its
slot (what a scratch atomic of the fibre that acquires has still to perform comes before an FPOP), a bank that is no FIFO of its context traps with BANK_MODE, and after 2^24 cycles the wait traps with FIFO_TIMEOUT. Where it rests on a choice or an inference of the model: log entry 104. -/
def FifoBanksPushPopAndTimeOut : Prop :=
  (∀ (s : State) (c : Ctx) (i : Instr) (f : A96), (i = .fpush f ∨ i = .fpop f) → Issues i s c → c.Untagged →
    let n := (f.ofs.extractLsb' 0 4).toNat
    let b := (s.cluster c.cluster).banks.getD n {}
    n < (s.cluster c.cluster).banks.length →
    (b.next ≠ none → exec i s = .next (s.stall c.k (.bank n))) ∧
    (b.next = none → (b.mode ≠ .fifo ∨ b.owner ≠ some (s.strandCtx c.strand)) →
      exec i s = .next (c.afterTrap s i { cause := .bankMode, addr := BitVec.ofNat 64 n })) ∧
    (b.next = none → b.mode = .fifo → b.owner = some (s.strandCtx c.strand) →
      (c.act = 0 → exec i s = .next (c.advance s)) ∧
      (c.act ≠ 0 → i = .fpush f → b.fifo.length < 512 → s.fifoWaiters c.cluster n true = [] → s.fifoWaiters c.cluster n false = [] →
        s.myStores c.k = [] → ∃ t row, exec i s = .next t ∧ c.WentOn t ∧ MemSame s t ∧ (∀ r, RegKept c.strand r s t) ∧
          ((t.cluster c.cluster).banks.getD n {}).fifo = b.fifo ++ [row] ∧
          ∀ l, l < 96 → laneW row.vals l = if c.act.getLsbD l then c.rd f.d.toNat l else 0) ∧
      (c.act ≠ 0 → i = .fpop f → ∀ e rest, b.fifo = e :: rest → s.fifoWaiters c.cluster n false = [] →
        s.fifoWaiters c.cluster n true = [] → let u := s.lateFirst c.k []
          ∃ t, exec i s = .next t ∧ c.WentOn t ∧ c.Frame [f.d.toNat] u t ∧
          ((t.cluster c.cluster).banks.getD n {}).fifo = rest ∧ ∀ st, u.strand? c.strand = some st →
          InFlight t c.strand st.flights f.d.toNat c.f.laneSet c.act (fun g => tri c.t g + 24) (laneW e.vals)) ∧
      (c.act ≠ 0 → (i = .fpush f → 512 ≤ b.fifo.length) → (i = .fpop f → b.fifo = []) → ∃ t row, exec i s = .next t ∧
        c.Frame [] s t ∧ ParkedIn t c.k (.fifo n c.is.r2 c.is.r2 row (if i = .fpop f then f.d.toNat else 248) c.act c.nextPc (c.tagsIn c.act))))) ∧
  (∀ (s : State) (k n since beat2 dst : Nat) (g : Fibre) (row : Option Row) (act : Lanes) (nxt : DWord) (tags : List (Nat × Tag)),
    s.fib? k = some g → g.wait = .fifo n since beat2 row dst act nxt tags →
    (since + 2 ^ 24 ≤ s.cycle → exec (.fifoTimeout k) s =
      .next (s.takeTrap k { cause := .fifoTimeout, addr := BitVec.ofNat 64 n, word := some g.word } act 0)) ∧
    (s.cycle < since + 2 ^ 24 → exec (.fifoTimeout k) s = .next s))

/-- R186, R214, R216 (Table 7.11): BANKMODE begins the change of a bank that is in another mode, holds no scratch and no queue entries; the
fibre goes on, and when the change ends the bank has the new mode and an empty queue. A bank that may not change traps with
BANK_MODE. SCRCFG sets or clears a slot of the swizzled area, and traps with SCRATCH_RANGE outside the allotment. Where it rests on a choice or an inference of the model: log entry 48. -/
def BankModesAndSwizzledAreas : Prop :=
  (∀ (s : State) (c : Ctx) (m : BankMode) (f : X64), Issues (.bankmode m f) s c →
    let n := (f.imm8.extractLsb' 0 4).toNat
    let b := (s.cluster c.cluster).banks.getD n {}
    n < (s.cluster c.cluster).banks.length →
    (b.next ≠ none → exec (.bankmode m f) s = .next (s.stall c.k (.bank n))) ∧
    (b.next = none → b.mode = .fifo → b.owner ≠ some (s.strandCtx c.strand) →
      exec (.bankmode m f) s = .next (c.afterTrap s (.bankmode m f) { cause := .bankMode, addr := BitVec.ofNat 64 n })) ∧
    (b.next = none → (b.mode = .fifo → b.owner = some (s.strandCtx c.strand)) →
      (b.mode = m → exec (.bankmode m f) s = .next (c.advance s)) ∧
      (b.mode ≠ m → (b.mode = .scratch ∧ s.bankHeld c.cluster n = true ∨ b.mode = .fifo ∧ b.fifo ≠ []) →
        exec (.bankmode m f) s = .next (c.afterTrap s (.bankmode m f) { cause := .bankMode, addr := BitVec.ofNat 64 n })) ∧
      (b.mode ≠ m → (b.mode = .scratch → s.bankHeld c.cluster n = false) →
        (b.mode = .fifo → b.fifo = [] ∧ s.fifoWaiters c.cluster n true = [] ∧ s.fifoWaiters c.cluster n false = []) →
        ∃ t, exec (.bankmode m f) s = .next t ∧ c.WentOn t ∧ c.Frame [] s t ∧
          ((t.cluster c.cluster).banks.getD n {}).next = some m))) ∧
  (∀ (s : State) (cl n : Nat) (m : BankMode), n < (s.cluster cl).banks.length →
    (((s.cluster cl).banks.getD n {}).next = none → exec (.bankModeChangeEnd cl n) s = .next s) ∧
    (((s.cluster cl).banks.getD n {}).next = some m → s.fifoWaiters cl n true = [] → ∃ t, exec (.bankModeChangeEnd cl n) s = .next t ∧
      let b := (t.cluster cl).banks.getD n {}
      b.mode = m ∧ b.next = none ∧ b.fifo = [])) ∧
  (∀ (s : State) (c : Ctx) (f : X64) (sk : Skein), s.skein? c.skein = some sk →
    let slot := (f.imm8.extractLsb' 0 2).toNat
    let a := (c.rdLow f.a.toNat).toNat
    let n := (c.rdLow f.b.toNat).toNat
    let kept := fun (t : State) (k : Skein) => t.skein? c.skein = some k ∧ k.scratch = sk.scratch ∧ t.mem = s.mem ∧
      OtherStrands c.strand s t ∧ ∀ r, RegKept c.strand r s t
    (∀ clr, Issues (.scrcfg clr f) s c → c.act = 0 → exec (.scrcfg clr f) s = .next (c.advance s)) ∧
    (Issues (.scrcfg true f) s c → c.act ≠ 0 → ∃ t k, exec (.scrcfg true f) s = .next t ∧ c.WentOn t ∧ kept t k ∧ tget? k.scrcfg slot = none) ∧
    (Issues (.scrcfg false f) s c → c.act ≠ 0 → a % 4096 = 0 → n % 4096 = 0 → 0 < n → a + n ≤ sk.scratchBytes →
      ∃ t k, exec (.scrcfg false f) s = .next t ∧ c.WentOn t ∧ kept t k ∧
        tget? k.scrcfg slot = some (a, n)) ∧
    (Issues (.scrcfg false f) s c → c.act ≠ 0 → (a % 4096 ≠ 0 ∨ n % 4096 ≠ 0 ∨ n = 0 ∨ sk.scratchBytes < a + n) →
      ∃ x, exec (.scrcfg false f) s = .next (c.afterTrap s (.scrcfg false f) { cause := .scratchRange, addr := x })))

/-- The two statements `FifoBanksPushPopAndTimeOut` and `BankModesAndSwizzledAreas`. -/
def Obligations.BanksQueueAndChangeMode : Prop := FifoBanksPushPopAndTimeOut ∧ BankModesAndSwizzledAreas

/-! ### Atomic operations, fences and WAITEQ (chapter 9) -/

/-- What an atomic instruction does: its operation, its fields, what its access is checked as, and its addresses (R234, R237, R241 to
R245). -/
def atomicOf (c : Ctx) : Instr → Option (AtomOp × A96 × Acc × (Nat → DWord))
  | .atom op f => some (op, f, .atomic, c.eaAtom f)
  | .atomc f => some (.cas, f, .atomic, c.eaAtom f)
  | .atomsc op f => some (op, f, .atomicSc, c.eaAtom f)
  | .red op f => some (op, f, .atomic, c.eaAtom f)
  | .atoms op f => some (op, f, .atomic, c.eaAtomScr f)
  | _ => none

/-- The lane operations of an atomic instruction, in ascending lane order: operand B, expected value D (R235, R238, R242). -/
def laneOps (c : Ctx) (f : A96) (as : List LaneAcc) : List AtomLane :=
  as.map fun a => { acc := a, operand := c.rdSz f.sz f.b.toNat a.lane, expected := c.rdSz f.sz f.d.toNat a.lane }

/-- The old value of a lane among the lane operations performed. -/
def oldValue (xs : List (LaneAcc × Nat × Option Cause)) (l : Nat) : Nat :=
  ((xs.find? fun x => x.1.lane == l).map (·.2.1)).getD 0

/-- R237 to R239, R241 to R245: an atomic instruction is checked as one access within a line for each lane; RED enters the store queue;
the others park until the old values return, ATOMSC with a ticket for each lane; in scratch the old values land 10 periods after each
group's beat, and the lanes are performed at once, lane after lane, or one of them is, which no earlier one must precede, and the others
stand in the queue in which the fibre's accesses are performed. Where it rests on a choice or an inference of the model: log entries 37 and 45. -/
def Obligations.AtomicsAreTakenUpInLaneOrder : Prop :=
  ∀ (s : State) (c : Ctx) (i : Instr) (op : AtomOp) (f : A96) (acc : Acc) (ea : Nat → DWord),
    Issues i s c → atomicOf c i = some (op, f, acc, ea) → c.st.spindle < (s.cluster c.cluster).spindles.length →
    let n := 2 ^ f.sz.toNat
    (∀ t, s.checkAccess c.k acc n (min n 4) true (c.addrs ea) c.f.walks = .trap t → exec i s = .next (c.afterTrap s i t)) ∧
    (∀ va, s.checkAccess c.k acc n (min n 4) true (c.addrs ea) c.f.walks = .walk va →
      ∃ t, exec i s = .next t ∧ c.ParksToRetry t .walk ∧ c.Frame [] s t) ∧
    (∀ as, s.checkAccess c.k acc n (min n 4) true (c.addrs ea) c.f.walks = .ok as →
      (as = [] → exec i s = .next (c.advance s)) ∧
      (as ≠ [] → c.Untagged →
        (i = .red op f → ∃ t e r, exec i s = .next t ∧ c.WentOn t ∧ c.Frame [] s t ∧
          (t.spindle c.cluster c.st.spindle).stores = (s.spindle c.cluster c.st.spindle).stores ++ [e] ∧ e.owners = [c.k] ∧
          e.release = f.ord.getLsbD 1 ∧ e.red = some r ∧ r.op = op ∧ r.type = (aTypeOf f.type).getD .n32 ∧ r.dst = none ∧ r.lanes = laneOps c f as) ∧
        (i ≠ .red op f → (∃ a ∈ as, ∃ b ∈ a.bytes, b.kind ≠ .scr) → ∃ t r, exec i s = .next t ∧ ParkedIn t c.k (.atomic r) ∧
          c.Frame [] s t ∧ r.op = op ∧ r.type = (aTypeOf f.type).getD .n32 ∧ r.dst = some f.d.toNat ∧ r.lanes = laneOps c f as ∧
          r.done = [] ∧ r.seq = c.st.seq ∧ r.ticket = (if acc = .atomicSc then some s.ticketCtr else none) ∧
          t.ticketCtr = s.ticketCtr + if acc = .atomicSc then as.length else 0) ∧
        (i ≠ .red op f → acc = .atomic → (∀ a ∈ as, ∀ b ∈ a.bytes, b.kind = .scr ∧ ∃ sk o, b.loc = .scr sk o) → s.myStores c.k = [] →
          s.launchFlag c.k 5 = false → (∀ a ∈ as, s.badLane a = none) → ∃ t r is, exec i s = .next t ∧ c.WentOn t ∧ r.op = op ∧
            r.type = (aTypeOf f.type).getD .n32 ∧ r.lanes = laneOps c f as ∧ r.done = [] ∧
            (∀ x, x ∉ [f.d.toNat, f.d.toNat + 1] → RegKept c.strand x s t) ∧
            let u := s.atomLanes c.k r is
            let lands := fun (V : Nat → Nat → Word) => ∀ j, j < (if r.type.is64 then 2 else 1) →
              InFlight t c.strand c.st.flights (f.d.toNat + j) c.f.laneSet (lanesOf fun l => as.any fun a => a.lane == l)
                (fun g => tri c.t g + 30) (V j)
            (∀ x, t.locRead x = u.1.locRead x) ∧
            ((is = List.range as.length ∧ lands fun j l => BitVec.ofNat 32 (oldValue u.2.done l / 2 ^ (32 * j))) ∨
              ∃ n e, is = [n] ∧ n < as.length ∧ (∀ m, m < n → shareByte (r.locs m) (r.locs n) = false) ∧ (∃ V, lands V) ∧
                (t.spindle c.cluster c.st.spindle).stores = (s.spindle c.cluster c.st.spindle).stores ++ [e] ∧ e.owners = [c.k] ∧
                e.red = some { u.2 with late := some (c.is.r0 + 30, c.is.r1 + 30, c.is.r2 + 30) } ∧
                u.2.lanes = (laneOps c f as).eraseIdx n ∧ u.2.done.length = 1))))

/-- The new value of an integer operation of `n` bits (Table 9.11). -/
def atomicValue (op : AtomOp) (sg : Bool) (n old b e : Nat) : Nat :=
  match op with
  | .add => (old + b) % 2 ^ n
  | .and => old &&& b
  | .or => old ||| b
  | .xor => old ^^^ b
  | .min => if val sg n b < val sg n old then b else old
  | .max => if val sg n old < val sg n b then b else old
  | .exch => b
  | .incw => if b ≤ old then 0 else old + 1
  | .decw => if old = 0 ∨ b < old then b else old - 1
  | .cas => if old = e then b else old

/-- R236, R238 to R240 and Table 9.11: one lane operation, once the cluster's UO lines that hold its bytes have left, reads the old value
at the home of its bytes and writes the new one there and, but for the undo log, nowhere else; a bad line leaves memory as it was. A parked
atomic performs its lane operations in turn, an ATOMSC not before its turn; with the last its old values land and the fibre is ready. With
the last lane of a scratch atomic that was left to the queue its old values are in the writes that have been in flight since its issue. -/
def Obligations.AtomicsReturnOldValues : Prop :=
  (∀ (s : State) (cl : Nat) (part : Option Nat) (op : AtomOp) (t : AType) (a : AtomLane) (rels : List Rel), MemOk s →
    let v := s.uoLeave cl a.acc.bytes
    let off := fun (l : Loc) => ∀ p, part = some p → OffLog s p l
    ((s.cluster cl).uo = [] → v = s) ∧
    (∀ e, s.badLane a.acc = some e → s.atomPerform cl part op t a rels = (s, 0, some e)) ∧
    (s.badLane a.acc = none → (∀ b ∈ a.acc.bytes, b.kind ≠ .uo ∧ off b.loc ∧ ∀ sk o, b.loc = .scr sk o → (s.skein? sk).isSome = true) →
      (a.acc.bytes.map (·.loc)).Nodup →
      ∃ u old, s.atomPerform cl part op t a rels = (u, old, none) ∧ old = natOfBytes (a.acc.bytes.map fun b => v.locRead b.loc) ∧
        (∀ j b, a.acc.bytes[j]? = some b →
          u.locRead b.loc = BitVec.ofNat 8 (atomNew op t old a.operand.toNat a.expected.toNat / 2 ^ (8 * j))) ∧
        ∀ l, (∀ b ∈ a.acc.bytes, b.loc ≠ l) → off l → u.locRead l = v.locRead l)) ∧
  (∀ (op : AtomOp) (t : AType) (old b e : Nat), atypeFmt t = none → old < 2 ^ atypeBits t → b < 2 ^ atypeBits t →
    atomNew op t old b e = atomicValue op (t == .s32 || t == .s64) (if t.is64 then 64 else 32) old b e) ∧
  (∀ (s : State) (cl sp i k : Nat) (e : StoreEntry) (st : Strand) (r : AtomReq) (a : AtomLane) (l : Nat × Nat × Nat),
    (s.spindle cl sp).stores[i]? = some e → e.due ≤ s.cycle → e.partMay (s.spindle cl sp).stores 0 = true →
    (s.cluster cl).busyBank a.acc.bytes = none → strandCluster e.strand = cl → fibStrand k = e.strand → e.owners = [k] → e.red = some r →
    r.late = some l → r.lanes = [a] → r.acq = false → (∀ x ∈ (s.spindle cl sp).stores, x.id = e.id → x = e) → s.launchFlag k 5 = false → s.strand? e.strand = some st → st.paths ≠ [] →
    let u := s.atomLanes k r [0] (some e)
    ∃ t st', exec (.storePerformed cl sp i) s = .next t ∧ (∀ x, t.locRead x = u.1.locRead x) ∧ t.strand? e.strand = some st' ∧
      unviewed (t.spindle cl sp).stores = unviewed ((s.spindle cl sp).stores.filter fun x => x.id != e.id) ∧
      st'.flights.map (fun x => (x.seq, x.reg, x.lanes, x.land)) = st.flights.map (fun x => (x.seq, x.reg, x.lanes, x.land)) ∧
      ∀ (n : Nat) (x y : Flight), st.flights[n]? = some x → st'.flights[n]? = some y →
        (x.seq ≠ r.seq → y = x) ∧
        ∀ d j l, r.dst = some d → x.seq = r.seq → j < (if r.type.is64 then 2 else 1) → x.reg = d + j → x.reg < 248 → l < 96 →
          (∀ z ∈ u.2.done, z.1.lane = l → z.2.2 = none) → laneW y.vals l = BitVec.ofNat 32 (oldValue u.2.done l / 2 ^ (32 * j))) ∧
  ∀ (s : State) (k : Nat) (g : Fibre) (st : Strand) (r : AtomReq), s.fib? k = some g → s.strand? (fibStrand k) = some st →
    g.wait = .atomic r → g.state = .parked →
    let may := fun (a : AtomLane) => s.storesBefore k a.acc.bytes r.rel = [] ∧ (s.cluster (fibCluster k)).busyBank a.acc.bytes = none
    ((s.ticketTurn r = false ∨ s.cycle < r.due ∨ r.lanes ≠ [] ∧ ∀ a ∈ r.lanes, ¬ may a) → exec (.atomicReturn k) s = .next s) ∧
    (s.ticketTurn r = true → r.due ≤ s.cycle → (∃ a rest, r.lanes = a :: rest ∧ may a) →
      ∃ t h, exec (.atomicReturn k) s = .next t ∧ t.fib? k = some h ∧ h.pc = g.pc ∧
        (h.state = .ready ∨ ∃ r', h.state = .parked ∧ h.wait = .atomic r' ∧ r'.lanes.length < r.lanes.length ∧ r'.op = r.op ∧
          r'.type = r.type ∧ r'.dst = r.dst ∧ r'.ticket = r.ticket)) ∧
    ∀ a, s.ticketTurn r = true → r.due ≤ s.cycle → r.lanes = [a] → may a → s.launchFlag k 5 = false →
      let u := s.atomLanes k r [0]
      ((s.cluster (fibCluster k)).uo = [] → s.badLane a.acc = none →
        u.2.done = r.done ++ [(a.acc, natOfBytes (s.homeBytes a.acc), none)]) ∧
      ∃ t h, exec (.atomicReturn k) s = .next t ∧ t.fib? k = some h ∧ h.state = .ready ∧ h.pc = g.pc ∧
        (∀ x, t.locRead x = u.1.locRead x) ∧
        ((∀ x ∈ u.2.done, x.2.2 = none) → h.deferred = g.deferred ∧ ∀ d j, r.dst = some d → j < (if r.type.is64 then 2 else 1) →
          InFlight t (fibStrand k) st.flights (d + j) g.laneSet (lanesOf fun l => u.2.done.any fun x => x.1.lane == l)
            (fun _ => s.cycle) fun l => BitVec.ofNat 32 (oldValue u.2.done l / 2 ^ (32 * j)))

/-- R186, R221, R246, R247: a FENCE waits until the fibre's earlier stores have been performed, an acquire only until those that count as
reads have been, REDs and CCTLs that drop lines; WAITEQ goes on with the values in D when the fibre's stores that come before its reads
have been performed and every lane of act meets its condition, and otherwise parks; it is tried again, and after 2^24 cycles it traps with
WAITEQ_TIMEOUT. Where it rests on a choice or an inference of the model: log entry 44. -/
def Obligations.FencesAndWaiteqWait : Prop :=
  (∀ (s : State) (c : Ctx) (k : FenceKind) (f : X64), Issues (.fence k f) s c →
    let met := ∀ e ∈ s.myStores c.k, k = .acq ∧ e.red = none ∧ (e.cctl = none ∨ e.cctl = some .wb)
    (met → ∃ t, exec (.fence k f) s = .next t ∧ c.WentOn t ∧ c.Frame [] s t) ∧
    (¬ met → ∃ t, exec (.fence k f) s = .next t ∧ ParkedIn t c.k (.fence k (f.imm8.toNat % 8)) ∧ c.Frame [] s t)) ∧
  (∀ (s : State) (c : Ctx) (ne : Bool) (f : A96) (w : WaitEq), Issues (.waiteq ne f) s c →
    let n := 2 ^ f.sz.toNat
    let u := (s.lateFirst c.k (w.lanes.flatMap (·.bytes))).waitEqBring c.k w
    let v := fun (l : Nat) =>
      (((u.waitEqLook c.k w).find? fun x => x.1.lane == l).map fun x => natOfBytes (x.2.flatMap (·.bytes))).getD 0
    let meets := fun (a : LaneAcc) => (v a.lane = (c.rdSz f.sz f.b.toNat a.lane).toNat ↔ ne = false)
    (c.act = 0 → exec (.waiteq ne f) s = .next (c.advance s)) ∧
    (∀ t, c.act ≠ 0 → s.checkAccess c.k .waiteq n (min n 4) true (c.addrs (c.eaAtom f)) c.f.walks = .trap t →
      exec (.waiteq ne f) s = .next (c.afterTrap s (.waiteq ne f) t)) ∧
    (∀ va, c.act ≠ 0 → s.checkAccess c.k .waiteq n (min n 4) true (c.addrs (c.eaAtom f)) c.f.walks = .walk va →
      ∃ t, exec (.waiteq ne f) s = .next t ∧ c.ParksToRetry t .walk ∧ c.Frame [] s t) ∧
    (∀ as, c.act ≠ 0 → s.checkAccess c.k .waiteq n (min n 4) true (c.addrs (c.eaAtom f)) c.f.walks = .ok as → w.lanes = as →
      (∀ b, c.busy s as = some b → exec (.waiteq ne f) s = .next (s.stall c.k (.bank b))) ∧
      (c.busy s as = none → (∀ a ∈ as, u.badLane a = none) →
        (u.loadMay c.k as = true → (∀ a ∈ as, meets a) → s.launchFlag c.k 5 = false → ∃ t, exec (.waiteq ne f) s = .next t ∧
          c.WentOn t ∧ c.Frame [f.d.toNat, f.d.toNat + 1] u t ∧ ∀ st j, u.strand? c.strand = some st → j < (if f.sz = 3 then 2 else 1) →
            InFlight t c.strand st.flights (f.d.toNat + j) c.f.laneSet (lanesOf fun l => as.any fun a => a.lane == l)
              (fun _ => c.is.r2 + if as.all fun a => a.bytes.all fun b => b.kind == .scr then 24 else 30)
              fun l => BitVec.ofNat 32 (v l / 2 ^ (32 * j))) ∧
        ((u.loadMay c.k as = false ∨ ∃ a ∈ as, ¬ meets a) → ∃ t w', exec (.waiteq ne f) s = .next t ∧
          ParkedIn t c.k (.waiteq w' c.is.r2) ∧ w'.lanes = as ∧ w'.ne = ne ∧ w'.nxt = c.nextPc ∧ c.Frame [] u t)))) ∧
  ∀ (s : State) (k since : Nat) (g : Fibre) (w : WaitEq), s.fib? k = some g → g.wait = .waiteq w since → g.state = .parked →
    let u := s.waitEqBring k w
    let ls := u.waitEqLook k w
    let may := s.loadMay k w.lanes = true ∧ (s.cluster (fibCluster k)).busyBank (w.lanes.flatMap (·.bytes)) = none
    (¬ may → exec (.waiteqWake k) s = .next s) ∧
    (may → u.waitEqHolds k w ls = true → ∃ t h, exec (.waiteqWake k) s = .next t ∧ t.fib? k = some h ∧
      h.state = .ready ∧ h.pc = w.nxt ∧ h.runPos = g.runPos + 1) ∧
    (may → u.waitEqHolds k w ls = false → ∃ t w', exec (.waiteqWake k) s = .next t ∧
      ParkedIn t k (.waiteq w' since) ∧ w'.lanes = w.lanes ∧ MemSame u t ∧ RegsSame s t) ∧
    (s.cycle < since + 2 ^ 24 → exec (.waiteqTimeout k) s = .next s) ∧
    (since + 2 ^ 24 ≤ s.cycle → ∃ a, exec (.waiteqTimeout k) s = .next (s.takeTrap k
      { cause := .waiteqTimeout, addr := a, mask := some w.failing, word := some w.word } w.failing 0) ∧
      ∀ x, (w.lanes.find? fun y => w.failing.getLsbD y.lane) = some x → a = x.addr)

/-- R220, R221, R224, R225, R227 to R231: a read finds at once the newest values of its bytes, or those as of an older moment after which
no write to them is known to the fibre (and for an SO page to the order S); a byte of an own queued store or of a UO line is read as it is.
A write keeps the value it replaces, under its number, where older values are kept. An acquire makes the fibre know what the releases it has
read know, where each of the two lies in the scope instance of the other; an acquire FENCE does so with all releases its earlier reads have
read; and after a release FENCE the fibre's writes carry what it knew there. Where it rests on a choice or an inference of the model: log entry 116. -/
def ReadsFindKnownValues : Prop :=
  (∀ (s : State) (k n : Nat) (bs : List ByteAt),
    let r := s.look k n bs
    let v := if bs.any (·.kind == .so) then (s.viewOf k).join s.soView else s.viewOf k
    r.bytes.length = bs.length ∧
    (r.bytes = s.laneBytes k { lane := 0, addr := 0, bytes := bs } ∨
      ∃ t, (∀ w ∈ s.hist, (∃ b ∈ bs, b.loc = w.loc) → t < w.num → v.num w.loc < w.num) ∧
        (∀ b ∈ bs, b.kind ≠ .uo ∧ forwarded (s.storesOf k) k b.loc = none) ∧
        r.bytes = bs.map fun b => s.valueAt t b.loc (s.locRead b.loc))) ∧
  (∀ (s : State) (key : Nat) (b : Byte) (rels : List Rel), (s.linkDown && hostKey key) = false →
    let t := (s.beginWrite rels).memPut none key b
    (Config.keepsHistory = true → t.hist = { loc := .mem key, num := s.writeNo + 1, old := s.memRead key, rels := rels } :: s.hist) ∧
    (Config.keepsHistory = false → t.hist = [])) ∧
  (∀ (r : Rel) (scope a b : Nat), r.strand = some a → (r.meets scope b = true ↔ ∀ n ∈ [r.scope, scope],
    (n = 0 → a = b) ∧ (n = 1 → strandSkein a = strandSkein b) ∧ (n = 2 → strandCluster a / 12 = strandCluster b / 12) ∧
      (n = 3 → clusterDie (strandCluster a) = clusterDie (strandCluster b)))) ∧
  (∀ (s : State) (k scope : Nat) (f : Fibre) (rels : List Rel), s.fib? k = some f → ∃ g, (s.acquire k scope rels).fib? k = some g ∧
    (∀ l, f.view.num l ≤ g.view.num l) ∧
    ∀ r ∈ rels, r.meets scope (fibStrand k) = true → ∀ l, r.view.num l ≤ g.view.num l) ∧
  ∀ (s : State) (c : Ctx) (kind : FenceKind) (f : X64), Issues (.fence kind f) s c → s.fenceMet c.k kind = true →
    ∃ t g, exec (.fence kind f) s = .next t ∧ t.fib? c.k = some g ∧ (∀ l, c.f.view.num l ≤ g.view.num l) ∧
      (kind ≠ .rel → ∀ r ∈ c.f.pend, r.meets (f.imm8.toNat % 8) c.strand = true → ∀ l, r.view.num l ≤ g.view.num l) ∧
      (kind ≠ .acq → ∃ r ∈ g.fences, r.scope = f.imm8.toNat % 8 ∧ r.strand = some c.strand ∧ r.view = g.view)

/-- The two statements `LoadsFillRegisters` and `ReadsFindKnownValues`. -/
def Obligations.LoadsReadAndFillRegisters : Prop := LoadsFillRegisters ∧ ReadsFindKnownValues

/-! ### Engines, waits, barriers and semaphores (chapter 10) -/

/-- What an engine instruction issues, by its operands: class, operation, the first check of R257 that fails, and the address of its escape
record (R265 to R267). -/
def engineOf (s : State) (c : Ctx) : Instr → Option (OpClass × EngKind × Option OperandErr × DWord)
  | .copy .lin f =>
    let dst := c.rdPairLow f.a.toNat
    let src := c.rdPairLow f.b.toNat
    let n := (c.rdLow f.c.toNat).toNat
    some (.c, .lin dst.toNat src.toNat n,
      s.operandErr c.strand [dst, src] [(dst.toNat, dst), (src.toNat, src), (n, 0)] [(dst, n), (src, n)] false, dst)
  | .copy .pat f =>
    let dst := c.rdPairLow f.a.toNat
    let src := c.rdPairLow f.b.toNat
    let p := s.pattern? (s.launchOf c.k) (s.strandCtx c.strand) (c.rdLow f.c.toNat).toNat
    some (.c, .pat dst.toNat src.toNat (p.getD { rowb := 0, rows := 0, planes := 0, srs := 0, drs := 0, sps := 0, dps := 0 }),
      s.operandErr c.strand [dst, src] [(dst.toNat, dst), (src.toNat, src)] [(dst, 1), (src, 1)] p.isNone, dst)
  | .copy .peer f =>
    let get := f.ext.w1.getLsbD 16
    let idx := (f.ext.w1.extractLsb' 0 16).toNat
    let dst := c.rdPairLow f.a.toNat
    let src := c.rdPairLow f.b.toNat
    let n := (c.rdLow f.c.toNat).toNat
    let ofs := if get then src else dst
    let loc := if get then dst else src
    let e := s.peerEntry (s.strandPart c.strand) idx
    some (.c, .peer idx get ofs.toNat loc.toNat n,
      s.operandErr c.strand [loc] [(dst.toNat, dst), (src.toNat, src), (n, 0)] [(loc, n)]
        (!peerValid e || decide (peerSize e < ofs.toNat + n)), dst)
  | .gather f =>
    let base := c.rdPairLow f.a.toNat
    let dst := c.rdPairLow f.d.toNat
    let o := c.rdLow f.b.toNat
    let n := (c.rdLow f.c.toNat).toNat
    let rowb := (f.ext.w1.extractLsb' 0 16).toNat
    some (.g, .gather dst.toNat base.toNat o.toNat n rowb,
      s.operandErr c.strand [base, dst] [(o.toNat, cat32 0xFE000000 o)] [(cat32 0xFE000000 o, 4 * n), (dst, n * rowb)] false, dst)
  | .coll op f =>
    let src := c.rdPairLow f.a.toNat
    let dst := c.rdPairLow f.d.toNat
    let n := (c.rdLow f.b.toNat).toNat
    let g := (f.ext.w1.extractLsb' 0 8).toNat
    let t := (aTypeOf (f.ext.w1.extractLsb' 8 8)).getD .n32
    let root := (f.ext.w1.extractLsb' 24 8).toNat
    let me := (s.strandMember c.strand).getD (0, 0)
    let grp := s.groupOfLaunch me.1 g
    let rank := grp.idxOf? me.2
    let span := collSpan op grp.length n (rank == some root)
    some (.x, .coll op t (f.ext.w1.extractLsb' 16 4).toNat root g (((s.skein? c.skein).bind fun k => tget? k.colls g).getD 0)
        dst.toNat src.toNat n,
      s.operandErr c.strand [dst, src] [] [(dst, span.2 * (collBits t / 8)), (src, span.1 * (collBits t / 8))]
        (rank.isNone || (op == .bcast && decide (grp.length ≤ root))), dst)
  | _ => none

/-- R249 to R253, R257, R263, R265 to R267, R418, R461: COPY, GATHER and COLL do nothing with act empty, wait while their counter or the
queue is full, and trap at the first check that fails, an operand error filling the failure record; else, once the escape record of a tainted
operand is written, they go on, their operation at the end of the copy engine's queue with the next issue number of its class, whose count
goes up by one. COPY writes its promise to D and PROMISE_LAST. COPY.PAT reads its pattern after the fibre's earlier stores. Where it rests on a choice or an inference of the model: log entries 7 and 97. -/
def EngineOperationsAreIssued : Prop :=
  ∀ (s : State) (c : Ctx) (i : Instr) (k : OpClass) (kind : EngKind) (err : Option OperandErr) (dst : DWord), Issues i s c →
    let pat := match i with
      | .copy .pat _ => true
      | _ => false
    let v := if pat = true ∧ c.act ≠ 0 ∧ s.drainBusy c.k = none then s.drainStores c.k else s
    engineOf v c i = some (k, kind, err, dst) →
    (c.act = 0 → exec i s = .next (c.advance s)) ∧
    (c.act ≠ 0 → v.engineReady c.strand k = false → exec i s = .next (v.modFib c.k fun f => { f with beats := [] })) ∧
    (c.act ≠ 0 → v.engineReady c.strand k = true → ∀ e a, err = some (.cause e a) →
      exec i s = .next (c.afterTrap s i { cause := e, addr := a })) ∧
    (c.act ≠ 0 → v.engineReady c.strand k = true → err = some .operand →
      let e : Cause := if k = .c then .copyFault else if k = .g then .gatherFault else .collFault
      let u := v.modStrand c.strand fun st =>
        { st with
          afAddr := 0, afDone := 0
          afInfo := BitVec.ofNat 32 (e.code.toNat + k.ctorIdx * 256 + 1024 + st.nextNum k % 4096 * 4096) }
      exec i s = .next (c.afterTrap u i { cause := e })) ∧
    (c.act ≠ 0 → v.engineReady c.strand k = true → err = none →
      (∀ t, c.escapeLow v dst = .error t → exec i s = .next (c.afterTrap s i t)) ∧
      (∀ u, c.escapeLow v dst = .ok u → ∃ t, exec i s = .next t ∧ c.WentOn t) ∧
      (c.Untagged → s.myStores c.k = [] →
        ∃ t st o, exec i s = .next t ∧ c.WentOn t ∧ MemSame s t ∧ OtherStrands c.strand s t ∧ t.strand? c.strand = some st ∧
          (t.cluster c.cluster).copies = (s.cluster c.cluster).copies ++ [o] ∧
          (o.strand, o.cls, o.num, o.kind) = (c.strand, k, c.st.nextNum k, kind) ∧ o.plan = none ∧ o.done = 0 ∧
          o.flying = [] ∧ o.ending = none ∧
          st.cnt k = c.st.cnt k + 1 ∧ (∀ j, j ≠ k → st.cnt j = c.st.cnt j) ∧
          (c.st.issued.length = 4 → st.nextNum k = c.st.nextNum k + 1) ∧
          (∀ j f, i = .copy j f → InFlight t c.strand c.st.flights f.d.toNat c.f.laneSet c.act (fun b => tri c.t b + 6)
            (fun _ => st.promiseLast)) ∧
          ∀ r, (∀ j f, i = .copy j f → r ≠ f.d.toNat) → RegKept c.strand r s t))

/-- Whether the operation `num` of a class of a strand stands in the copy engine's queue as `x`. -/
def inQueue (t : State) (strand num : Nat) (k : OpClass) (x : EngOp) : Prop :=
  x ∈ (t.cluster (strandCluster strand)).copies ∧ x.strand = strand ∧ x.cls = k ∧ x.num = num

/-- R218, R249, R251, R254, R255, R258, R337: when the engine makes the burst of a linear copy of at most one block of 4 KiB, whose pages
are translated, whose bytes can all be reached and whose ranges do not overlap, either every byte of the destination holds what its source
byte held and no other byte outside the partition's undo log changes, and the operation leaves the queue, then or when the engine next looks
at it; or the parts of the burst, which are the bytes of both ranges, wait to be performed in any order. When parts are performed, their
destination bytes hold what their source bytes held, and nothing else changes; with the last of an operation that makes no further burst
the operation leaves the queue. Where it rests on a choice or an inference of the model: log entries 8, 9 and 61. -/
def CopiesMoveTheirBytes : Prop :=
  (∀ (s : State) (strand num dst src n : Nat) (o : EngOp) (st : Strand) (bs ds : List ByteAt), MemOk s → s.linkDown = false →
    (s.cluster (strandCluster strand)).copies.find? (fun x => x.strand == strand && x.cls == .c && x.num == num) = some o →
    o.kind = .lin dst src n → o.plan = none → (o.idx, o.pos, o.done) = (0, 0, 0) → o.flying = [] → o.ending = none →
    s.strand? strand = some st → st.paths ≠ [] →
    s.launchFlag (mkFib strand 0) 5 = false → (s.ctx (s.strandCtx strand)).halting = false → o.due ≤ s.cycle → s.engMay o = true →
    0 < n → src % 4096 + n ≤ 4096 → dst % 4096 + n ≤ 4096 → (src + n ≤ dst ∨ dst + n ≤ src) →
    s.engMiss strand o.walks src 0 = none → s.engMiss strand o.walks dst 0 = none →
    s.engBytes strand o.walks false src 0 n = .ok bs → s.engBytes strand o.walks true dst 0 n = .ok ds →
    (∀ b ∈ bs, s.badByte b = none) → (ds.map (·.loc)).Nodup → (∀ d ∈ ds, OffLog s (s.strandPart strand) d.loc) →
    ∃ t, exec (.engineOpComplete strand .c num) s = .next t ∧
      ((∀ (j : Nat) (b d : ByteAt), bs[j]? = some b → ds[j]? = some d → t.locRead d.loc = s.locRead b.loc) ∧
        (∀ l, (∀ (d : ByteAt), d ∈ ds → d.loc ≠ l) → OffLog s (s.strandPart strand) l → t.locRead l = s.locRead l) ∧
        ((∀ x, ¬ inQueue t strand num .c x) ∨ ∃ x, inQueue t strand num .c x ∧ x.done = n ∧ x.flying = []) ∨
      (∀ l, t.locRead l = s.locRead l) ∧ ∃ x, inQueue t strand num .c x ∧ x.done = n ∧ x.flying.flatMap (·.dst) = ds ∧
        x.flying.flatMap (·.src) = bs ∧ ∀ p ∈ x.flying, p.poison = false ∧ p.src.length = p.dst.length ∧ 0 < p.dst.length)) ∧
  ∀ (s : State) (strand num : Nat) (k : OpClass) (o : EngOp) (st : Strand), MemOk s → s.linkDown = false →
    (s.cluster (strandCluster strand)).copies.find? (fun x => x.strand == strand && x.cls == k && x.num == num) = some o →
    s.strand? strand = some st → st.paths ≠ [] → o.flying ≠ [] →
    let ds := o.flying.flatMap (·.dst)
    (s.cycle < o.due → exec (.engineOpComplete strand k num) s = .next s) ∧
    (o.due ≤ s.cycle → (ds.map (·.loc)).Nodup → (∀ d ∈ ds, OffLog s (s.strandPart strand) d.loc) →
      (∀ d ∈ ds, ∀ sk i, d.loc = .scr sk i → (s.skein? sk).isSome = true) →
      (∀ p ∈ o.flying, (p.src = [] → p.vals.length = p.dst.length) ∧ (p.src ≠ [] → p.src.length = p.dst.length) ∧
        ∀ b ∈ p.src, OffLog s (s.strandPart strand) b.loc ∧ ∀ d ∈ ds, d.loc ≠ b.loc) →
      ∃ (t : State) (now : List EngPiece), exec (.engineOpComplete strand k num) s = .next t ∧ now ≠ [] ∧ now.Sublist o.flying ∧
        (∀ p ∈ now, ∀ (j : Nat) (d : ByteAt), p.dst[j]? = some d → t.locRead d.loc =
          ((if p.src = [] then p.vals else p.src.map fun b => s.locRead b.loc)[j]?).getD 0) ∧
        (∀ l, (∀ p ∈ now, ∀ (d : ByteAt), d ∈ p.dst → d.loc ≠ l) → OffLog s (s.strandPart strand) l → t.locRead l = s.locRead l) ∧
        (now = o.flying → o.ending ≠ none → ∀ x, ¬ inQueue t strand num k x) ∧
        ((now ≠ o.flying ∨ o.ending = none) → ∃ x, inQueue t strand num k x ∧ x.flying.length + now.length = o.flying.length))

/-- The two statements `EngineOperationsAreIssued` and `CopiesMoveTheirBytes`. -/
def Obligations.EngineOperationsIssueAndMove : Prop := EngineOperationsAreIssued ∧ CopiesMoveTheirBytes

/-- R255, R259, R263, R268, R269: WAITC goes on when the count of its class is low enough and no failure is to be reported, and parks
otherwise; SLEEPT parks until its promise is reached, and then it is done, or waits as WAITC does, or takes PROMISE_MISSED. -/
def WaitsForEnginesEnd : Prop :=
  (∀ (s u : State) (c : Ctx) (k : OpClass) (f : T96), Ends (.waitc k f) s c u → c.fallsOff = false → (k = .m → c.st.mxOpen.ops = 0) →
    (c.st.cnt k ≤ f.imm26.toNat → (k ≠ .m → ∀ x ∈ c.st.fails, x.1 ≠ k) →
      exec (.waitc k f) s = .next (c.goesTo (u.syncPoint c.k) c.nextPc)) ∧
    (f.imm26.toNat < c.st.cnt k → (k = .m → ∀ b ∈ c.st.batches, b.stopped = false) →
      exec (.waitc k f) s = .next (c.parksAt u (.waitc k f.imm26.toNat))) ∧
    (∀ e, k ≠ .m → c.st.cnt k ≤ f.imm26.toNat → c.st.fails.find? (fun x => x.1 == k) = some e →
      ∃ v st, v.strand? c.strand = some st ∧ st.fails = (c.st.fails.filter fun x => x != e) ∧ st.afAddr = e.2.2.addr ∧
        st.afDone = BitVec.ofNat 32 (min e.2.2.done (2 ^ 32 - 1)) ∧
        st.afInfo = BitVec.ofNat 32 (e.2.2.cause.code.toNat + k.ctorIdx * 256 + e.2.2.kind * 1024 + e.2.1 % 4096 * 4096) ∧
        exec (.waitc k f) s = .next (c.afterTrap v (.waitc k f) { cause := classCause k e.2.2, addr := e.2.2.addr }))) ∧
  (∀ (s u : State) (c : Ctx) (f : T96), Ends (.waitc .m f) s c u → c.st.mxOpen.ops ≠ 0 →
    exec (.waitc .m f) s = .next (c.afterTrap s (.waitc .m f) { cause := .waitcClass })) ∧
  (∀ (s u : State) (c : Ctx) (f : T96), Ends (.sleept f) s c u → c.fallsOff = false →
    exec (.sleept f) s = .next (c.parksAt u (.sleept (c.rdLow f.a.toNat) f.imm26.toNat))) ∧
  ∀ (s : State) (k n : Nat) (p : Word) (g : Fibre) (st : Strand), s.fib? k = some g → s.strand? (fibStrand k) = some st →
    g.wait = .sleept p n → g.state = .parked →
    let reached := (BitVec.ofNat 32 s.cycle - p).toNat < 2 ^ 31
    (¬ reached → exec (.sleeptWake k) s = .next s) ∧
    (reached → st.cnt .c ≤ n → (∀ x ∈ st.fails, x.1 ≠ .c) → exec (.sleeptWake k) s = .next ((s.syncPoint k).waitDone k)) ∧
    (reached → n < st.cnt .c → (st.ctl.getLsbD 8 = false ∨ g.noPromise = true ∨ ∃ o ∈ st.ops, o.cls = .c ∧ o.saved = true) →
      ∃ t, exec (.sleeptWake k) s = .next t ∧ ParkedIn t k (.waitc .c n) ∧ MemSame s t ∧ RegsSame s t) ∧
    (reached → n < st.cnt .c → st.ctl.getLsbD 8 = true → g.noPromise = false →
      (∀ o ∈ st.ops, o.cls = .c → o.saved = false) → exec (.sleeptWake k) s = .next (s.trapWaiter k
        { cause := .promiseMissed, addr := cat32 p (BitVec.ofNat 32 s.cycle) }))

/-- R264, R270 to R273: an arrival adds the fibre's lanes to the barrier's count; the one that reaches the target begins the next phase
with a count of 0. BAR waits for the phase it arrived in, BARA writes that phase to every lane of the fibre, BARW waits for the
phase it reads. A barrier that does not exist, or a target out of range or not the one in use, traps with BARRIER_INVALID. -/
def BarriersCountLanes : Prop :=
  (∀ (s u : State) (c : Ctx) (i : Instr) (m : Bool) (a b : BitVec 8),
    (∃ f : T96, i = .bar f ∧ m = f.flg.getLsbD 0 ∧ a = f.a ∧ b = f.b ∧ c.fallsOff = false ∧ Ends i s c u) ∨
      (∃ f : X64, i = .bara f ∧ m = f.flg.getLsbD 0 ∧ a = f.a ∧ b = f.b ∧ Issues i s c) →
    let ref := barRef m a
    (s.barrier? c.k ref = none → exec i s = .next (c.afterTrap s i { cause := .barrierInvalid, addr := a.zeroExtend 64 })) ∧
    ∀ bar, s.barrier? c.k ref = some bar →
      let t := c.barTarget s ref bar b
      let n := bar.count + laneCount c.f.laneSet
      ((t.1 = 0 ∨ t.2 < t.1 ∨ ∃ x, bar.target = some x ∧ x ≠ t.1) →
        exec i s = .next (c.afterTrap s i { cause := .barrierInvalid, addr := a.zeroExtend 64 })) ∧
      (t.1 ≠ 0 → t.1 ≤ t.2 → (∀ x, bar.target = some x → x = t.1) → s.myStores c.k = [] →
        (t.1 ≤ n → ∃ v x g, exec i s = .next v ∧ MemSame s v ∧ v.barrier? c.k ref = some x ∧ x.phase = bar.phase + 1 ∧ x.count = 0 ∧
          x.target = none ∧ v.fib? c.k = some g ∧ ((∃ f, i = .bar f) → g.pc = c.nextPc ∧ g.runPos = 0) ∧
          ∀ f, i = .bara f → c.WentOn v ∧
            (f.d.toNat < 240 → ∃ old, old.length = c.st.flights.length ∧
              InFlight v c.strand old f.d.toNat c.f.laneSet c.f.laneSet (fun j => tri c.t j + 6) (fun _ => bar.phase))) ∧
        (n < t.1 → ∃ v x, exec i s = .next v ∧ MemSame s v ∧ v.barrier? c.k ref = some x ∧ x.phase = bar.phase ∧ x.count = n ∧
          x.target = some t.1 ∧ ((∃ f, i = .bar f) → ParkedIn v c.k (.bar ref bar.phase)) ∧
          ∀ f, i = .bara f → c.WentOn v ∧
            (f.d.toNat < 240 → ∃ old, old.length = c.st.flights.length ∧
              InFlight v c.strand old f.d.toNat c.f.laneSet c.f.laneSet (fun j => tri c.t j + 6) (fun _ => bar.phase))))) ∧
  ∀ (s u : State) (c : Ctx) (f : T96), Ends (.barw f) s c u → c.fallsOff = false →
    let ref := barRef (f.flg.getLsbD 0) f.a
    (s.barrier? c.k ref = none →
      exec (.barw f) s = .next (c.afterTrap s (.barw f) { cause := .barrierInvalid, addr := f.a.zeroExtend 64 })) ∧
    ∀ bar, s.barrier? c.k ref = some bar →
      let d := (bar.phase - c.rdLow f.b.toNat).toNat
      (1 ≤ d ∧ d ≤ 2 ^ 31 → exec (.barw f) s = .next (c.goesTo (u.syncPoint c.k) c.nextPc)) ∧
      (¬ (1 ≤ d ∧ d ≤ 2 ^ 31) → exec (.barw f) s = .next (c.parksAt u (.bar ref (c.rdLow f.b.toNat))))

/-- R274: SEMP takes its amount from the count when no one waits before it and the count is enough, and otherwise parks at the end of
the queue; SEMV adds its amount. A semaphore that does not exist, or a count that would leave 32 bits, traps with SEM_INVALID. -/
def SemaphoresCount : Prop :=
  (∀ (s u : State) (c : Ctx) (f : T96), Ends (.semp f) s c u →
    let l := s.launchNum c.k
    let n := f.a.toNat
    (s.sem? l n = none → exec (.semp f) s = .next (c.afterTrap s (.semp f) { cause := .semInvalid, addr := BitVec.ofNat 64 n })) ∧
    ∀ m, s.sem? l n = some m → c.fallsOff = false →
      (m.queue = [] → f.imm26.toNat ≤ m.count → ∃ t x g, exec (.semp f) s = .next t ∧ MemSame s t ∧ t.sem? l n = some x ∧
        x.count = m.count - f.imm26.toNat ∧ x.queue = [] ∧ t.fib? c.k = some g ∧ g.pc = c.nextPc ∧ g.runPos = 0) ∧
      ((m.queue = [] ∧ m.count < f.imm26.toNat ∨ ∃ h rest, m.queue = h :: rest ∧ m.count < h.2) →
        ∃ t x, exec (.semp f) s = .next t ∧ MemSame s t ∧ ParkedIn t c.k (.sem n) ∧ t.sem? l n = some x ∧ x.count = m.count ∧
          x.queue = m.queue ++ [(c.k, f.imm26.toNat)])) ∧
  ∀ (s : State) (c : Ctx) (f : X64), Issues (.semv f) s c →
    let l := s.launchNum c.k
    let n := f.a.toNat
    (c.act = 0 → exec (.semv f) s = .next (c.advance s)) ∧
    (c.act ≠ 0 → (s.sem? l n = none ∨ ∃ m, s.sem? l n = some m ∧ 2 ^ 32 ≤ m.count + f.imm8.toNat) →
      exec (.semv f) s = .next (c.afterTrap s (.semv f) { cause := .semInvalid, addr := BitVec.ofNat 64 n })) ∧
    ∀ m, c.act ≠ 0 → s.sem? l n = some m → m.count + f.imm8.toNat < 2 ^ 32 → s.myStores c.k = [] →
      (m.queue = [] ∨ ∃ h rest, m.queue = h :: rest ∧ m.count + f.imm8.toNat < h.2) →
      ∃ t x, exec (.semv f) s = .next t ∧ c.WentOn t ∧ c.Frame [] s t ∧ t.sem? l n = some x ∧ x.count = m.count + f.imm8.toNat ∧
        x.queue = m.queue

/-- The two statements `BarriersCountLanes` and `SemaphoresCount`. -/
def Obligations.BarriersAndSemaphoresCount : Prop := BarriersCountLanes ∧ SemaphoresCount

/-- A 32-bit word of a skein's scratch at a byte offset. -/
def scratchWord (s : State) (sk o : Nat) : Nat :=
  match s.skein? sk with
  | some k => natOfBytes ((List.range 4).map fun j => cellRead k.scratch (k.physOfs (o + j)))
  | none => 0

/-- R275, R276: FETCHW hands a request to the distributor; its reply writes the four words of the mailbox: 1 and the coordinates of
a skein that is withdrawn from placement, 2 where none is left, 3 for no such launch. IFENCE parks its fibre until the
partition's lines and entries are out of the instruction caches of its scope. Where it rests on a choice or an inference of the model: log entry 63. -/
def FetchwAndIfence : Prop :=
  (∀ (s : State) (c : Ctx) (f : X64) (sk : Skein), Issues (.fetchw f) s c → s.skein? c.skein = some sk →
    let o := (c.rdLow f.a.toNat).toNat
    (c.act = 0 → exec (.fetchw f) s = .next (c.advance s)) ∧
    (c.act ≠ 0 → (o % 16 ≠ 0 ∨ sk.scratchBytes < o + 16) →
      exec (.fetchw f) s = .next (c.afterTrap s (.fetchw f) { cause := .fetchwInvalid, addr := BitVec.ofNat 64 o })) ∧
    (c.act ≠ 0 → o % 16 = 0 → o + 16 ≤ sk.scratchBytes → ∃ t, exec (.fetchw f) s = .next t ∧ c.WentOn t ∧ c.Frame [] s t ∧
      (t.part (s.strandPart c.strand)).fetchws = (s.part (s.strandPart c.strand)).fetchws ++
        [{ skein := c.skein, ofs := o, seq := c.rdPairLow f.b.toNat }])) ∧
  (∀ (s : State) (part idx : Nat) (r : FetchReq) (k : Skein), MemOk s → (s.part part).fetchws[idx]? = some r → r.ofs % 16 = 0 →
    s.skein? r.skein = some k →
    let words := fun (t : State) (w x y z : Nat) => scratchWord t r.skein r.ofs = w ∧ scratchWord t r.skein (r.ofs + 4) = x % 2 ^ 32 ∧
      scratchWord t r.skein (r.ofs + 8) = y % 2 ^ 32 ∧ scratchWord t r.skein (r.ofs + 12) = z % 2 ^ 32
    ∃ t, exec (.fetchwReply part idx) s = .next t ∧ t.mem = s.mem ∧ t.strands = s.strands ∧
      (t.part part).fetchws = (s.part part).fetchws.eraseIdx idx ∧
      ((∀ l ∈ s.launches, ¬ (l.2.part = part ∧ l.2.seq = r.seq)) → words t 3 0 0 0) ∧
      ∀ n l, s.launches.find? (fun l => l.2.part == part && l.2.seq == r.seq) = some (n, l) → l.frontier = none →
        (l.total ≤ l.placed → words t 2 0 0 0) ∧
        (l.placed < l.total → words t 1 (l.coords l.placed).1 (l.coords l.placed).2.1 (l.coords l.placed).2.2)) ∧
  (∀ (s u : State) (c : Ctx) (f : T96), Ends (.ifence f) s c u → c.fallsOff = false →
    exec (.ifence f) s = .next (c.parksAt (u.drainStores c.k) (.ifence f.flg.toNat))) ∧
  ∀ (s : State) (k scope : Nat) (g : Fibre) (pc : DWord), s.fib? k = some g → g.wait = .ifence scope → g.state = .parked →
    g.after = some pc →
    ∃ t h, exec (.ifenceDone k) s = .next t ∧ t.fib? k = some h ∧ h.pc = pc ∧ h.runPos = 0 ∧ MemSame s t ∧
      ∀ q ∈ ifenceQuads (fibCluster k) scope, ∀ e ∈ (t.ic q).items, e.part ≠ s.strandPart (fibStrand k)

/-- The two statements `WaitsForEnginesEnd` and `FetchwAndIfence`. -/
def Obligations.WaitsRepliesAndCodeFences : Prop := WaitsForEnginesEnd ∧ FetchwAndIfence

/-! ### Matrix operations and batches (chapter 13) -/

/-- What a matrix instruction issues, by its operands: whether its types go together, its operand regions, the values that must be
multiples, the operation, and the address of its escape record (R363, R370 to R372, R375, R376, R418). -/
def matrixOf (c : Ctx) (i : Instr) : Option (Bool × List Region × List (Nat × Nat) × MxKind × DWord) :=
  let pair := fun (r : BitVec 8) => (c.rdPairLow r.toNat).toNat
  let word := fun (r : BitVec 8) => (c.rdLow r.toNat).toNat
  let stride := fun (r : BitVec 8) (n : Nat) => ((c.rdLow r.toNat).extractLsb' (16 * n) 16).toNat
  let type := fun (f : X64) (n : Nat) => (f.ext.w1.extractLsb' (8 * n) 8).toNat
  let bits := fun (f : X64) => ((qType? (type f 0)).map (·.bits)).getD 8
  let depth := fun (f : X64) => 3072 / bits f
  let rows := lanesIn c.act
  let scr := 0xFE * 2 ^ 56
  let move := fun (f : X64) (out sc : Bool) =>
    let base := if sc then word f.a else pair f.a
    let at_ := if sc then scr + base else base
    some (true, [rowRegion sc base (word f.b) (64 * if f.flg.toNat % 4 = 0 then 4 else 2) rows], [(base, 4), (word f.b, 4)],
      MxKind.move out f.d.toNat (f.flg.toNat % 4) at_ (word f.b), if out then BitVec.ofNat 64 at_ else 0)
  match i with
  | .mma m f =>
    some (mxTypesOk m (type f 0) (type f 1),
      [rowRegion false (pair f.a) (stride f.c 0) 384 rows, rowRegion false (pair f.b) (stride f.c 1) (8 * bits f) (List.range (depth f))],
      [(pair f.a, 4), (pair f.b, 4), (stride f.c 0, 4), (stride f.c 1, 4)],
      .mma m (type f 0) (type f 1) f.d.toNat (pair f.a) (pair f.b) (stride f.c 0) (stride f.c 1) none, 0)
  | .mmas m f =>
    let info := (c.rdLow (f.c.toNat + 1)).toNat
    some (mxTypesOk m (type f 0) (type f 1),
      [rowRegion false (pair f.a) (stride f.c 0) 768 rows, rowRegion false (pair f.b) (stride f.c 1) (8 * bits f) (List.range (depth f)),
        rowRegion false (pair f.b + info) 32 32 (List.range (depth f / 2))],
      [(pair f.a, 4), (pair f.b, 4), (stride f.c 0, 4), (stride f.c 1, 4), (info, 4)],
      .mma m (type f 0) (type f 1) f.d.toNat (pair f.a) (pair f.b) (stride f.c 0) (stride f.c 1) (some info), 0)
  | .mcomp f =>
    let info := (c.rdLow (f.c.toNat + 1)).toNat
    some (true,
      if c.act = 0 then []
      else
        [rowRegion false (pair f.a) (stride f.c 0) (8 * bits f) (List.range (2 * depth f)),
          rowRegion false (pair f.d) (stride f.c 1) (8 * bits f) (List.range (depth f)),
          rowRegion false (pair f.d + info) 32 32 (List.range (depth f / 2))],
      [(pair f.d, 4), (pair f.a, 4), (stride f.c 0, 4), (stride f.c 1, 4), (info, 4)],
      .mcomp (type f 0) (pair f.d) (pair f.a) (stride f.c 0) (stride f.c 1) info, BitVec.ofNat 64 (pair f.d))
  | .msacc f =>
    some (true, [rowRegion true (word f.b) 2 2 rows, rowRegion true (word f.c) 2 2 (List.range 64)], [(word f.b, 2), (word f.c, 2)],
      .msacc f.d.toNat f.a.toNat (scr + word f.b) (scr + word f.c), 0)
  | .mrel f => some (true, [], [], .mrel f.d.toNat, 0)
  | .mzero f => some (true, [], [], .mzero f.d.toNat, 0)
  | .mrda f => move f true true
  | .mwra f => move f false true
  | .msta f => move f true false
  | .mlda f => move f false false
  | _ => none

/-- Row `l` among the rows an operation reads, as a number. -/
def rowIn (s : State) (rs : List (Nat × List ByteAt)) (l : Nat) : Nat :=
  ((rs.find? fun r => r.1 == l).map fun r => natOfBytes (r.2.map fun b => s.locRead b.loc)).getD 0

/-- R347, R359, R363, R418: a matrix instruction that finds an entry traps with MX_TYPE, MX_BATCH_RANGE or the first check of its regions
that fails, in that order; otherwise, its escape record written, its operation stands at the end of the cluster's queue and in the
open batch, and nothing else has changed. MATRIX_OP_PERFORM: an operation does not go on before its time, nor where an earlier one stands
before it (R358), nor begin in a context at its halt (R367); where its fetch can pin none of the 512 lines it waits, else it pins (R349).
MZERO writes zeros to the rows of its row set and leaves the others, and a dense integer MMA in `.wrap` mode adds the exact sums of products
mod 2^32 (R354, R375); MREL unbinds its name (R351); one that waits in bind, or whose fetch can pin no line, for 2^20 cycles aborts (R349,
R350); where one aborts, the strand's operations are left as ones that have not begun, and no line is pinned for them (R364, R367). Where it rests on a choice or an inference of the model: log entries 39 and 40. -/
def Obligations.MatrixOperationsJoinTheOpenBatch : Prop :=
  (∀ (s : State) (c : Ctx) (i : Instr) (types : Bool) (rs : List Region) (al : List (Nat × Nat)) (kind : MxKind) (dst : DWord),
    Issues i s c → matrixOf c i = some (types, rs, al, kind, dst) → (s.cluster c.cluster).mxq.length < 128 →
    (types = false → exec i s = .next (c.afterTrap s i { cause := .mxType, addr := BitVec.ofNat 64 (kind.accs.headD 0) })) ∧
    (types = true → 32 ≤ c.st.mxOpen.ops →
      exec i s = .next (c.afterTrap s i { cause := .mxBatchRange, addr := BitVec.ofNat 64 c.st.mxNext })) ∧
    (types = true → ∀ t, c.mxCheck s rs al = some t → exec i s = .next (c.afterTrap s i t)) ∧
    (types = true → c.mxCheck s rs al = none → ∀ t, c.escapeLow s dst = .error t → exec i s = .next (c.afterTrap s i t)) ∧
    (types = true → c.mxCheck s rs al = none → ∀ u, c.escapeLow s dst = .ok u → ∃ t, exec i s = .next t ∧ c.WentOn t) ∧
    (types = true → c.mxCheck s rs al = none → c.Untagged → s.myStores c.k = [] →
      ∃ t st o, exec i s = .next t ∧ c.WentOn t ∧ c.Frame [] s t ∧
        (t.cluster c.cluster).mxq = (s.cluster c.cluster).mxq ++ [o] ∧
        (o.strand, o.batch, o.idx, o.rows, o.kind) = (c.strand, c.st.mxNext, c.st.mxOpen.ops, c.act, kind) ∧
        (o.begun, o.aborted, o.bindAt, o.pins) = (false, false, none, 0) ∧ s.cycle ≤ o.due ∧
        t.strand? c.strand = some st ∧ st.mxOpen.ops = c.st.mxOpen.ops + 1 ∧ st.mxOpen.left = c.st.mxOpen.left + 1 ∧
        st.mxFlags = c.st.mxFlags ∧ st.mxNext = c.st.mxNext)) ∧
  (∀ (s : State) (cl i : Nat) (o : MxOp), (s.cluster cl).mxq[i]? = some o →
    let sk := strandSkein o.strand
    let goes := o.due ≤ s.cycle ∧ (o.begun = true ∨ o.bindAt ≠ none ∨ (s.ctx (s.strandCtx o.strand)).halting = false)
    ((¬ goes ∨ s.mxMayFetch cl i = false) → exec (.matrixOpPerform cl i) s = .next s) ∧
    (goes → s.mxMayFetch cl i = true → s.mxMiss o = none → o.pins = 0 → o.lines ≠ 0 → s.bindWaits o = false →
      ∃ t, exec (.matrixOpPerform cl i) s = .next t ∧ MemSame s t ∧ RegsSame s t ∧ ∃ x, (t.cluster cl).mxq[i]? = some x ∧ x.begun = true ∧
        x.pins = min o.lines (512 - (s.cluster cl).pinned) ∧
        (512 ≤ (s.cluster cl).pinned → x.pinAt = some (o.pinAt.getD s.cycle)) ∧ ((s.cluster cl).pinned < 512 → x.pinAt = none)) ∧
    (goes → s.mxMay cl i = true → (∃ st, s.strand? o.strand = some st ∧ st.paths ≠ []) →
      (∀ acc n, o.kind = .mzero acc → s.slotOf sk acc = some n → o.rows ≠ 0 → ∃ t, exec (.matrixOpPerform cl i) s = .next t ∧
        (∀ l j, l < 96 → o.rows.getLsbD l = true → (t.accRow sk acc l).getD j 0 = 0) ∧
        (∀ l, l < 96 → o.rows.getLsbD l = false → t.accRow sk acc l = s.accRow sk acc l) ∧ MemSame s t) ∧
      (∀ acc, o.kind = .mrel acc → ∃ t, exec (.matrixOpPerform cl i) s = .next t ∧ t.slotOf sk acc = none ∧ MemSame s t) ∧
      (∀ ta tb acc pa pb sa sb ga gb e n ra rb, o.kind = .mma .wrap ta tb acc pa pb sa sb none → o.rows ≠ 0 →
        s.mxMiss o = none → (o.pins ≠ 0 ∨ o.lines = 0) →
        s.slotOf sk acc = some n → qType? ta = some (.int ga e) → qType? tb = some (.int gb e) → s.launchFlag (mkFib o.strand 0) 5 = false →
        s.mxRows o false pa sa 384 (lanesIn o.rows) = .ok ra →
        s.mxRows o false pb sb (8 * e) (List.range (3072 / e)) = .ok rb →
        (∀ r ∈ ra ++ rb, ∀ b ∈ r.2, s.badByte b = none) →
        ∃ t, exec (.matrixOpPerform cl i) s = .next t ∧ MemSame s t ∧
          (∀ l j, l < 96 → o.rows.getLsbD l = true → j < 64 → j < (s.accRow sk acc l).length →
            (t.accRow sk acc l).getD j 0 = BitVec.ofInt 32 (((s.accRow sk acc l).getD j 0).toInt +
              ((List.range (3072 / e)).map fun k =>
                val ga e (rowIn s ra l / 2 ^ (e * k) % 2 ^ e) * val gb e (rowIn s rb k / 2 ^ (e * j) % 2 ^ e)).sum)) ∧
          ∀ l, l < 96 → o.rows.getLsbD l = false → t.accRow sk acc l = s.accRow sk acc l)) ∧
    (goes → s.mxMay cl i = true → s.mxBegin cl i o = none → ∀ e a w, s.mxEffect o = .abort e a w →
      exec (.matrixOpPerform cl i) s = .next (s.mxAbort cl i o e a w)) ∧
    (o.pinAt = none → exec (.mxPinTimeout cl i) s = .next s) ∧
    (∀ b, o.pinAt = some b →
      (s.mxMayFetch cl i = true → b + 2 ^ 20 ≤ s.cycle → exec (.mxPinTimeout cl i) s = .next (s.mxAbort cl i o .mxPinTimeout 0)) ∧
      ((s.mxMayFetch cl i = false ∨ s.cycle < b + 2 ^ 20) → exec (.mxPinTimeout cl i) s = .next s)) ∧
    (s.mxMay cl i = true → ∀ b a, o.bindAt = some b → o.kind.binds = some a →
      (b + 2 ^ 20 ≤ s.cycle → exec (.mxAccExhausted cl i) s = .next (s.mxAbort cl i o .mxAccExhausted a)) ∧
      (s.cycle < b + 2 ^ 20 → exec (.mxAccExhausted cl i) s = .next s))) ∧
  ∀ (s : State) (cl i : Nat) (o : MxOp) (e : Cause) (a : Nat) (w : Bool),
    (∃ st, s.strand? o.strand = some st ∧ st.paths ≠ []) → MemSame s (s.mxAbort cl i o e a w) ∧
      ∀ p ∈ ((s.mxAbort cl i o e a w).cluster cl).mxq, p.strand = o.strand → (p.begun, p.bindAt, p.pins, p.pinAt) = (false, none, 0, none)

/-- Bits [13:0] of a batch's status word: the cause and the index of its first aborted operation (R374). -/
def statusOf (b : Batch) : Nat :=
  match b.status with
  | some (e, _, i) => e.code.toNat + 256 * (i % 64)
  | none => 0

/-- R359, R360, R365, R373, R374, R377: MBATCH closes the open batch under its number, which it writes to D in every lane of the
fibre; an empty batch is reported at once. MWAIT and MSTAT trap with MX_BATCH_RANGE for a number that is not valid. Where no batch up to
that of an MWAIT is stopped, one that is reported writes its status and goes on, and one that is not parks; a stopped one, or the batch itself
reported with a status other than zero, traps with the cause of its first aborted operation, the failure record filled. An MWAIT that asks
for the status only discards the aborted operations of the stopped batch instead, and one whose batch has trapped already has it made again.
MSTAT writes the state of the batch. Where it rests on a choice or an inference of the model: log entry 38. -/
def Obligations.BatchesCloseAndReport : Prop :=
  (∀ (s : State) (c : Ctx) (f : X64), Issues (.mbatch f) s c → s.engineReady c.strand .m = true → c.st.issued.length = 4 →
    (∀ p ∈ c.st.paths, (∀ b o d g, p.2.wait ≠ .mwait b o d g) ∧ ∀ n, p.2.wait ≠ .waitc .m n) → c.st.unreported = [] →
    c.st.mxOpen.reported = false →
    ∃ t st x, exec (.mbatch f) s = .next t ∧ c.WentOn t ∧ MemSame s t ∧ t.strand? c.strand = some st ∧
      st.mxNext = (c.st.mxNext + 1) % 4096 ∧ st.mxClosed = c.st.mxClosed + 1 ∧ st.mxOpen = { num := (c.st.mxNext + 1) % 4096 } ∧
      st.batch? c.st.mxNext = some x ∧ statusOf x = statusOf c.st.mxOpen ∧
      InFlight t c.strand c.st.flights f.d.toNat c.f.laneSet c.f.laneSet (fun b => tri c.t b + 6)
        (fun _ => BitVec.ofNat 32 c.st.mxNext) ∧
      (c.st.mxOpen.left = 0 ∧ c.st.mxOpen.stopped = false → x.reported = true ∧ st.cnt .m = c.st.cnt .m) ∧
      (c.st.mxOpen.left ≠ 0 ∨ c.st.mxOpen.stopped = true → x.reported = false ∧ st.cnt .m = c.st.cnt .m + 1)) ∧
  (∀ (s u : State) (c : Ctx) (f : T96), Ends (.mwait f) s c u →
    let b := (c.rdLow f.a.toNat).toNat % 4096
    let stops := fun (y : Batch) (e : Cause) (a : DWord) =>
      ∃ v st, v.strand? c.strand = some st ∧ st.afDone = 0 ∧ st.afInfo = BitVec.ofNat 32 (e.code.toNat + y.num % 4096 * 4096) ∧
        exec (.mwait f) s = .next (c.afterTrap v (.mwait f)
          { cause := e, addr := if e = .mxMeta ∨ e = .mxPinTimeout then BitVec.ofNat 64 y.num else a })
    (c.st.batchValid b = false → exec (.mwait f) s =
      .next (c.afterTrap s (.mwait f) { cause := .mxBatchRange, addr := BitVec.ofNat 64 b })) ∧
    (c.st.batchValid b = true → ∀ t, c.escapeLow u 0 = .error t → t.next = false → exec (.mwait f) s = .next (c.afterTrap s (.mwait f) t)) ∧
    (c.Untagged → ∀ x, c.st.batchValid b = true → c.fallsOff = false → c.st.batch? b = some x → x.reported = true →
      c.st.stopUpTo b = none → (f.flg.getLsbD 0 = true ∨ x.status = none ∨ x.reissue = true) →
      exec (.mwait f) s = .next (c.goesTo ((c.putBits u f.b.toNat c.f.laneSet (fun _ => BitVec.ofNat 32 (statusOf x)) 0xFFFFFFFF 2
        c.laneTag).syncPoint c.k) c.nextPc)) ∧
    (c.Untagged → ∀ x, c.st.batchValid b = true → c.fallsOff = false → c.st.batch? b = some x → x.reported = false →
      (∀ y ∈ c.st.batches, y.stopped = false) →
      exec (.mwait f) s = .next (c.parksAt u (.mwait b (f.flg.getLsbD 0) f.b.toNat (c.tagsIn c.f.laneSet)))) ∧
    (c.Untagged → ∀ x e a n, c.st.batchValid b = true → c.st.batch? b = some x → x.reported = true → c.st.stopUpTo b = none →
      f.flg.getLsbD 0 = false → x.status = some (e, a, n) → x.reissue = false → stops x e a) ∧
    (c.Untagged → ∀ y e a n, c.st.batchValid b = true → f.flg.getLsbD 0 = false → c.st.stopUpTo b = some y → y.reissue = false →
      y.status = some (e, a, n) → stops y e a) ∧
    (c.Untagged → ∀ y, c.st.batchValid b = true → c.fallsOff = false → f.flg.getLsbD 0 = true → c.st.stopUpTo b = some y →
      y.reissue = false →
      let v := u.mxDiscard c.strand y.num
      ∀ st x, v.strand? c.strand = some st → st.batch? b = some x →
        (x.reported = true → exec (.mwait f) s = .next (c.goesTo ((c.putBits v f.b.toNat c.f.laneSet
          (fun _ => BitVec.ofNat 32 (statusOf x)) 0xFFFFFFFF 2 c.laneTag).syncPoint c.k) c.nextPc)) ∧
        (x.reported = false → exec (.mwait f) s = .next (c.parksAt v (.mwait b true f.b.toNat (c.tagsIn c.f.laneSet))))) ∧
    (c.Untagged → ∀ y, c.st.batchValid b = true → c.fallsOff = false → c.st.stopUpTo b = some y → y.reissue = true →
      exec (.mwait f) s = .next (c.parksAt (u.mxReissue c.strand y.num)
        (.mwait b (f.flg.getLsbD 0) f.b.toNat (c.tagsIn c.f.laneSet)))) ∧
    ∀ x, c.st.stopUpTo b = some x → x.stopped = true ∧ x ∈ c.st.batches) ∧
  ∀ (s : State) (c : Ctx) (f : X64), Issues (.mstat f) s c →
    let b := (c.rdLow f.a.toNat).toNat % 4096
    (c.st.batchValid b = false → exec (.mstat f) s =
      .next (c.afterTrap s (.mstat f) { cause := .mxBatchRange, addr := BitVec.ofNat 64 b })) ∧
    ∀ x, c.st.batchValid b = true → c.st.batch? b = some x → exec (.mstat f) s =
      .next (c.afterWrite s f.d 0xFFFFFFFF 2 (fun _ => BitVec.ofNat 32 (statusOf x + (if x.reported then 2 ^ 31 else 0) +
        (if x.stopped then 2 ^ 30 else 0) + (if x.reissue then 2 ^ 29 else 0))) fun _ => 0)

/-! ### The function unit (chapter 15) -/

/-- The function-unit instructions with the v-registers they write (Table 15.3). -/
def functionOp (i : Instr) (f : X64) (outs : List Nat) : Prop :=
  let d := f.d.toNat
  (i, outs) ∈ [(.fnld f, []), (.fnst f, [d]), (.fnfit f, []), (.fneval f, [d]), (.fnadd f, []), (.fnsub f, []), (.fnmul f, []),
    (.fnaff f, []), (.fncomp f, []), (.fndiff f, []), (.fnint f, []), (.fnquad f, [d]), (.fnroot f, [d, f.b.toNat]), (.fndom f, []),
    (.fninfo f, [d, d + 1, d + 2]), (.fnrel f, [])]

/-- A finite FP32 number. -/
def isNumber (w : Word) (q : ℚ) : Prop := ∃ n, val32 w = .fin n q

/-- The ends of an interval (R378). -/
def isInterval (lo hi : Word) : Prop := ∃ p q, isNumber lo p ∧ isNumber hi q ∧ p < q

/-- The condition under which a function-unit instruction raises nothing at issue (R389, R390, R392, R395, R400). -/
def functionClear (s : State) (c : Ctx) (i : Instr) (f : X64) : Prop :=
  let lo := c.rdLow f.c.toNat
  let hi := c.rdLow (f.c.toNat + 1)
  let reached := fun (acc : Acc) (n : Nat) => (c.rdPairLow f.a.toNat).toNat / 2 ^ 56 ≠ 0xFD ∧
    ∃ as, s.checkAccess c.k acc (4 * n) 4 false [(c.low, c.rdPairLow f.a.toNat)] c.f.walks = .ok as ∧ ∀ x ∈ as, s.sprivAcc c.k x = false
  (i = .fnld f → (1 ≤ (c.rdLow f.b.toNat).toNat ∧ (c.rdLow f.b.toNat).toNat ≤ 128) ∧ isInterval lo hi ∧
    reached .load (c.rdLow f.b.toNat).toNat) ∧
  (i = .fnst f → (1 ≤ lo.toNat ∧ lo.toNat ≤ 128) ∧ reached .store lo.toNat) ∧
  (i = .fnfit f → isInterval lo hi ∧ ∀ l, l < f.imm8.toNat → l < 96 → c.act.getLsbD l = true ∧ ∃ q, isNumber (c.rd f.a.toNat l) q) ∧
  (i = .fnaff f → (∃ q, isNumber (c.rdLow f.b.toNat) q) ∧ ∃ q, isNumber lo q) ∧
  (i = .fndom f → isInterval (c.rdLow f.b.toNat) lo)

/-- `v` is the value of a function at x: Σ c_k T_k(t) on its interval (R379). -/
def chebyshevIs (g : FnVal) (lo hi x v : ℚ) : Prop :=
  v = ((List.range g.coef.length).map fun k =>
    codeQ (g.coef.getD k 0).toNat * (Polynomial.Chebyshev.T ℚ (k : ℤ)).eval ((2 * x - lo - hi) / (hi - lo))).sum

/-- R381 to R384, R389 to R395, R400, R401: a function-unit instruction that finds an entry and raises nothing at issue puts its operation
at the end of the queue, its results in flight without a landing, and goes on. Performed, FNREL empties its register, FNEVAL
lands the value of its function rounded once, or the canonical NaN outside the interval, FNADD and FNSUB write the rounded sums
of coefficients; an empty source or different intervals leave everything unchanged and defer FN_EMPTY or FN_DOMAIN, which the operation's entry keeps while
the fibre holds 16 causes (R160, R384). Where it rests on a choice or an inference of the model: log entries 22 and 84. -/
def Obligations.FunctionUnitOperations : Prop :=
  (∀ (s : State) (c : Ctx) (i : Instr) (f : X64) (outs : List Nat), Issues i s c → functionOp i f outs →
    (s.cluster c.cluster).fnq.length < 32 → functionClear s c i f → c.Untagged → s.myStores c.k = [] →
    ∃ t st o, exec i s = .next t ∧ c.WentOn t ∧ c.Frame outs s t ∧ t.strand? c.strand = some st ∧ st.fns = c.st.fns ∧
      (t.cluster c.cluster).fnq = (s.cluster c.cluster).fnq ++ [o] ∧ o.strand = c.strand ∧ o.fib = c.k ∧ o.instr = i ∧ o.act = c.act ∧
      o.ref = c.f.pc ∧ o.ctl = c.st.ctl ∧ o.live = true ∧
      ∀ r ∈ outs, r < 240 → ∃ x ∈ st.flights, x.reg = r ∧ x.lanes = c.act ∧ x.land = none ∧ c.st.seq ≤ x.seq ∧ x.seq ∈ o.flights) ∧
  (∀ (s : State) (c : Ctx) (f : X64), (s.cluster c.cluster).fnq.length < 32 →
    (∀ i, (i = .fnld f ∧ ((c.rdLow f.b.toNat).toNat = 0 ∨ 128 < (c.rdLow f.b.toNat).toNat)) → Issues i s c →
      exec i s = .next (c.afterTrap s i { cause := .fnFitCount, addr := f.d.zeroExtend 64 })) ∧
    (∀ i, (i = .fnst f ∧ ((c.rdLow f.c.toNat).toNat = 0 ∨ 128 < (c.rdLow f.c.toNat).toNat)) → Issues i s c →
      exec i s = .next (c.afterTrap s i { cause := .fnFitCount, addr := f.b.zeroExtend 64 })) ∧
    (∀ i, (i = .fnfit f ∧ ¬ isInterval (c.rdLow f.c.toNat) (c.rdLow (f.c.toNat + 1)) ∨
        i = .fnld f ∧ (1 ≤ (c.rdLow f.b.toNat).toNat ∧ (c.rdLow f.b.toNat).toNat ≤ 128) ∧
          ¬ isInterval (c.rdLow f.c.toNat) (c.rdLow (f.c.toNat + 1)) ∨
        i = .fndom f ∧ ¬ isInterval (c.rdLow f.b.toNat) (c.rdLow f.c.toNat)) → Issues i s c →
      exec i s = .next (c.afterTrap s i { cause := .fnInterval, addr := f.d.zeroExtend 64 })) ∧
    ∀ i, i = .fnaff f → Issues i s c → ¬ ((∃ q, isNumber (c.rdLow f.b.toNat) q) ∧ ∃ q, isNumber (c.rdLow f.c.toNat) q) →
      exec i s = .next (c.afterTrap s i { cause := .fnNonfinite, addr := f.d.zeroExtend 64 })) ∧
  ∀ (s : State) (k : Nat) (o : FnOp) (st : Strand), (s.cluster (strandCluster k)).fnq.find? (fun x => x.strand == k) = some o →
    o.strand = k → s.strand? k = some st → st.paths ≠ [] →
    (∀ x ∈ (s.cluster (strandCluster k)).fnq, x.strand = k → x.held = none) →
    (∀ f, o.instr = .fnrel f → ∃ t u, exec (.fnOpPerform k) s = .next t ∧ t.strand? k = some u ∧ MemSame s t ∧
      (∀ n, tget? u.fns n = if n = f.d.toNat then none else tget? st.fns n) ∧
      (t.cluster (strandCluster k)).fnq = (s.cluster (strandCluster k)).fnq.erase o) ∧
    (∀ f g lo hi x, o.instr = .fneval f → tget? st.fns f.a.toNat = some g → isNumber g.lo lo → isNumber g.hi hi →
      (∀ e ∈ [Cause.fpOverflow, .fpUnderflow, .fpInexact], o.ctl.getLsbD (fpEnable e).1 = false) →
      x ∈ st.flights → x.land = none → o.flights = [x.seq] →
      ∃ t u y, exec (.fnOpPerform k) s = .next t ∧ t.strand? k = some u ∧ MemSame s t ∧ y ∈ u.flights ∧ y.seq = x.seq ∧ y.reg = x.reg ∧
        y.lanes = x.lanes ∧ y.land = some (s.cycle + 1, s.cycle + 1, s.cycle + 1) ∧
        ∀ l, l < 96 →
          (∀ q v, isNumber (laneW o.lanes l) q → lo ≤ q → q ≤ hi → chebyshevIs g lo hi q v →
            laneW y.vals l = BitVec.ofNat 32 (fmt32.rnd (.fin (decide (v < 0)) v) .rne false).1) ∧
          ((∀ q, isNumber (laneW o.lanes l) q → ¬ (lo ≤ q ∧ q ≤ hi)) → laneW y.vals l = 0x7FC00000)) ∧
    (∀ (f : X64) (sgn : ℚ) (a b : FnVal), (o.instr = .fnadd f ∧ sgn = 1 ∨ o.instr = .fnsub f ∧ sgn = -1) →
      tget? st.fns f.a.toNat = some a → tget? st.fns f.b.toNat = some b →
      let sum := fun (j : Nat) => codeQ (a.coef.getD j 0).toNat + sgn * codeQ (b.coef.getD j 0).toNat
      let r := fun (j : Nat) => BitVec.ofNat 32 (fmt32.rnd (.fin (decide (sum j < 0)) (sum j)) .rne false).1
      let n := max a.coef.length b.coef.length
      (a.lo ≠ b.lo ∨ a.hi ≠ b.hi → ∃ t, exec (.fnOpPerform k) s = .next t ∧ MemSame s t ∧
        (∃ u, t.strand? k = some u ∧ u.fns = st.fns) ∧
        ∀ g, o.live = true → s.fib? o.fib = some g → s.deferRoom o.fib = true →
          ∃ h tr, t.fib? o.fib = some h ∧ (o.seq, tr) ∈ h.deferred ∧ tr.cause = .fnDomain ∧
          tr.addr = f.b.zeroExtend 64 ∧ tr.defer = true ∧ tr.fref = o.ref) ∧
      (a.lo = b.lo → a.hi = b.hi → n ≤ 128 → f.ext.w1.extractLsb' 0 6 = 0 → (∀ j, j < n → ∃ q, isNumber (r j) q) →
        (∃ sk : Skein, s.skein? (strandSkein k) = some sk ∧ s.fnHeld (strandSkein k) + 2 ≤ sk.fnLimit) →
        ∃ t u g, exec (.fnOpPerform k) s = .next t ∧ t.strand? k = some u ∧ MemSame s t ∧ tget? u.fns f.d.toNat = some g ∧
          g.lo = a.lo ∧ g.hi = a.hi ∧ g.coef.length = n ∧ ∀ j, j < n → g.coef[j]? = some (r j))) ∧
    ∀ f, o.instr = .fneval f → tget? st.fns f.a.toNat = none → ∃ t, exec (.fnOpPerform k) s = .next t ∧ MemSame s t ∧
      (∃ u, t.strand? k = some u ∧ u.fns = st.fns) ∧
      ∀ g, o.live = true → s.fib? o.fib = some g →
        let mine := fun (tr : Trap) => tr.cause = .fnEmpty ∧ tr.addr = f.a.zeroExtend 64 ∧ tr.defer = true ∧ tr.fref = o.ref
        (s.deferRoom o.fib = true → ∃ h tr, t.fib? o.fib = some h ∧ (o.seq, tr) ∈ h.deferred ∧ mine tr) ∧
        (s.deferRoom o.fib = false → ∃ x ∈ (t.cluster (strandCluster k)).fnq, ∃ tr, x.seq = o.seq ∧ x.held = some tr ∧ mine tr ∧
          ∃ h, t.fib? o.fib = some h ∧ h.deferred = g.deferred)

/-! ### Allotments, tasks and launches (chapter 11) -/

/-- R294, R312 to R314: ACQ goes on in a skein that has its grant and otherwise asks and parks; the grant adds to every strand what FULL
has above PRO, zeroed, up to 30 blocks (log entry 98), and its waiters go on. GIVE hands its highest k blocks to the pool, CLAIM takes k blocks from it or waits at the end
of the queue; what may not be traps with GIVE_UNDERFLOW or ALLOT_EXCEEDS. Where it rests on a choice or an inference of the model: log entry 98. -/
def AllotmentsGrowAndAreRedivided : Prop :=
  (∀ (s u : State) (c : Ctx) (f : T96) (k : Skein), Ends (.acq f) s c u → c.fallsOff = false → s.skein? c.skein = some k →
    (k.granted = true → exec (.acq f) s = .next (c.goesTo u c.nextPc)) ∧
    (k.granted = false → ∃ t x, exec (.acq f) s = .next t ∧ ParkedIn t c.k .acq ∧ MemSame s t ∧ RegsSame s t ∧
      t.skein? c.skein = some x ∧ x = { k with asked := true, askedAt := if k.asked then k.askedAt else s.cycle, listed := x.listed } ∧
      (k.listed = true → x.listed = true))) ∧
  (∀ (s : State) (sk : Nat) (k : Skein), s.skein? sk = some k → (s.strands.map (·.1)).Nodup →
    ((k.granted = true ∨ k.asked = false ∨ k.listed = false ∨ k.saved = true) → exec (.skeinGrant sk) s = .next s) ∧
    (k.granted = false → k.asked = true → k.listed = true → k.saved = false → ∃ t k', exec (.skeinGrant sk) s = .next t ∧ MemSame s t ∧
      t.skein? sk = some k' ∧ k'.granted = true ∧ k'.listed = false ∧
      (∀ n st, s.strand? n = some st → ∃ st', t.strand? n = some st' ∧
        (strandSkein n ≠ sk → st'.blocks = st.blocks) ∧
        (strandSkein n = sk → st'.blocks = st.blocks + min (k.full.1 - k.pro.1) (30 - st.blocks) ∧
          ∀ r l b m, 8 * st.blocks ≤ r → r < 8 * st'.blocks → l < 96 → (st'.view r l b m).w = 0)) ∧
      ∀ j g pc, s.fib? j = some g → fibSkein j = sk → g.wait = .acq → g.after = some pc →
        ∃ h, t.fib? j = some h ∧ h.pc = pc ∧ h.runPos = 0)) ∧
  (∀ (s : State) (c : Ctx) (f : X64) (sk : Skein), Issues (.give f) s c → s.skein? c.skein = some sk →
    let k := f.imm8.toNat
    (c.st.blocks ≤ k → exec (.give f) s = .next (c.afterTrap s (.give f) { cause := .giveUnderflow, addr := BitVec.ofNat 64 k })) ∧
    (k < c.st.blocks → sk.claims = [] → (∀ r, 8 * (c.st.blocks - k) ≤ r → r < 8 * c.st.blocks →
        c.st.regDone r c.is.r2 = true ∧ ∀ p ∈ c.st.paths, r ∉ p.2.awaits) →
      ∃ t st x, exec (.give f) s = .next t ∧ c.WentOn t ∧ MemSame s t ∧ OtherStrands c.strand s t ∧ t.strand? c.strand = some st ∧
        st.blocks = c.st.blocks - k ∧ t.skein? c.skein = some x ∧ x.pool = sk.pool + k ∧
        ∀ r, r < 8 * (c.st.blocks - k) ∨ 8 * c.st.blocks ≤ r → RegKept c.strand r s t)) ∧
  ∀ (s u : State) (c : Ctx) (f : T96) (sk : Skein), Ends (.claim f) s c u → s.skein? c.skein = some sk →
    let k := f.imm26.toNat
    (30 < c.st.blocks + k → exec (.claim f) s =
      .next (c.afterTrap s (.claim f) { cause := .allotExceeds, addr := BitVec.ofNat 64 k })) ∧
    (c.st.blocks + k ≤ 30 → c.fallsOff = false → sk.claims = [] →
      (k ≤ sk.pool → ∃ t st g x, exec (.claim f) s = .next t ∧ MemSame s t ∧ t.strand? c.strand = some st ∧ st.blocks = c.st.blocks + k ∧
        t.fib? c.k = some g ∧ g.pc = c.nextPc ∧ g.runPos = 0 ∧ t.skein? c.skein = some x ∧ x.pool = sk.pool - k ∧ x.claims = [] ∧
        ∀ r l b m, 8 * c.st.blocks ≤ r → r < 8 * st.blocks → l < 96 → (st.view r l b m).w = 0) ∧
      (sk.pool < k → ∃ t x, exec (.claim f) s = .next t ∧ MemSame s t ∧ ParkedIn t c.k (.claim k) ∧ t.skein? c.skein = some x ∧
        x.pool = sk.pool ∧ x.claims = [(c.k, k)]))

/-- R297, R299, R300, R315 to R317: TSPAWN reads the 32-byte record and parks until its queue takes it; TPOP takes the oldest record into
eight registers and the fibre holds the task, waits, or learns that the queue is idle; TDONE decrements the counts of its blocks,
starts a push at zero, and the fibre holds no task. A queue that is not the partition's, a second task, none at all, or a block
that fails its check traps. -/
def TasksArePushedPoppedAndDone : Prop :=
  (∀ (s : State) (c : Ctx) (f : X64), Issues (.tspawn f) s c →
    let q := f.imm8.toNat
    let d := clusterDie c.cluster
    let a := c.rdPairLow f.a.toNat
    (c.act = 0 → exec (.tspawn f) s = .next (c.advance s)) ∧
    (c.act ≠ 0 → ∀ t, s.checkAccess c.k .load 32 32 false [(c.low, a)] c.f.walks = .trap t →
      exec (.tspawn f) s = .next (c.afterTrap s (.tspawn f) t)) ∧
    (c.act ≠ 0 → ∀ va, s.checkAccess c.k .load 32 32 false [(c.low, a)] c.f.walks = .walk va →
      ∃ t, exec (.tspawn f) s = .next t ∧ c.ParksToRetry t .walk ∧ c.Frame [] s t) ∧
    ∀ x, c.act ≠ 0 → s.checkAccess c.k .load 32 32 false [(c.low, a)] c.f.walks = .ok [x] → s.sprivAcc c.k x = false →
      (s.tqUsable d q (s.strandPart c.strand) = false → exec (.tspawn f) s =
        .next (c.afterTrap s (.tspawn f) { cause := .taskQueueInvalid, addr := BitVec.ofNat 64 q })) ∧
      (s.tqUsable d q (s.strandPart c.strand) = true → c.Untagged → s.myStores c.k = [] →
        ∃ t, exec (.tspawn f) s = .next t ∧ c.WentOn t ∧ ParkedIn t c.k .push ∧ c.Frame [] s t ∧
          (t.die d).pushes = (s.die d).pushes ++ [{ fib := c.k, queue := q, rec_ := recWords (s.laneBytes c.k x), spawn := true }])) ∧
  (∀ (s : State) (d : Nat) (p : Push) (g : Fibre), d < 4 → (∀ e, e < 4 → (s.die e).pushes = if e = d then [p] else []) →
    s.fib? p.fib = some g → (s.tq d p.queue).poppers = [] → (s.tq d p.queue).low ≤ (s.tq d p.queue).high →
    (s.poolTakes 5 d 64 p.queue (fun j => (s.tq d j).recs.length) = false → exec (.taskPushAccept p.fib) s = .next s) ∧
    (s.poolTakes 5 d 64 p.queue (fun j => (s.tq d j).recs.length) = true →
      ∃ t h, exec (.taskPushAccept p.fib) s = .next t ∧ MemSame s t ∧ RegsSame s t ∧
        (t.tq d p.queue).recs = (s.tq d p.queue).recs ++ [p.rec_] ∧ (t.die d).pushes = [] ∧ t.fib? p.fib = some h ∧ h.pc = g.pc ∧
        (p.spawn = true → (s.tq d p.queue).high ≠ 0 → (s.tq d p.queue).high ≤ (s.tq d p.queue).recs.length →
          h.state = .parked ∧ h.wait = .high d p.queue) ∧
        (p.spawn = false ∨ (s.tq d p.queue).high = 0 ∨ (s.tq d p.queue).recs.length < (s.tq d p.queue).high → h.state = .ready))) ∧
  (∀ (s u : State) (c : Ctx) (f : T96), Ends (.tpop f) s c u →
    let q := f.imm26.toNat
    let d := clusterDie c.cluster
    (c.f.task ≠ none ∨ s.tqUsable d q (s.strandPart c.strand) = false → exec (.tpop f) s =
      .next (c.afterTrap s (.tpop f) { cause := .taskQueueInvalid, addr := BitVec.ofNat 64 q })) ∧
    (c.f.task = none → s.tqUsable d q (s.strandPart c.strand) = true → c.fallsOff = false → (s.tq d q).poppers = [] →
      (s.ctx (s.strandCtx c.strand)).pre = .in_ → c.f.saved = false → f.a.toNat + 8 ≤ 240 →
      (∀ r rest, (s.tq d q).recs = r :: rest → ∃ t st g, exec (.tpop f) s = .next t ∧ MemSame s t ∧ (t.tq d q).recs = rest ∧
        t.fib? c.k = some g ∧ g.pc = c.nextPc ∧ g.runPos = 0 ∧ g.task = some { die := d, queue := q, words := r } ∧
        t.strand? c.strand = some st ∧ ∀ i l b n, i < 8 → l < 96 → c.f.laneSet.getLsbD l = true →
          (st.view (f.a.toNat + i) l b n).w = if i = 5 then 0 else r.getD i 0) ∧
      ((s.tq d q).recs = [] → (s.taskHeld d q = true ∨ ∃ p ∈ (s.die d).pushes, p.queue = q) →
        ∃ t, exec (.tpop f) s = .next t ∧ MemSame s t ∧ ParkedIn t c.k (.tpop d q f.a.toNat (c.tagsIn c.f.laneSet)) ∧ (t.tq d q).poppers = [c.k]) ∧
      ((s.tq d q).recs = [] → s.taskHeld d q = false → (∀ p ∈ (s.die d).pushes, p.queue ≠ q) →
        ∃ t st g, exec (.tpop f) s = .next t ∧ MemSame s t ∧ t.fib? c.k = some g ∧ g.pc = c.nextPc ∧ g.task = none ∧
          t.strand? c.strand = some st ∧ ∀ i l b n, i < 8 → l < 96 → c.f.laneSet.getLsbD l = true →
            (st.view (f.a.toNat + i) l b n).w = if i = 5 then 1 else 0))) ∧
  ∀ (s : State) (c : Ctx) (f : X64), Issues (.tdone f) s c →
    let a := c.rdPairLow f.a.toNat
    let b := c.rdPairLow f.b.toNat
    (c.f.task = none → exec (.tdone f) s = .next (c.afterTrap s (.tdone f) { cause := .taskQueueInvalid, addr := 0 })) ∧
    ∀ k, c.f.task = some k → (s.tq k.die k.queue).poppers = [] →
      (c.blockCheck s a = .bad → (∀ va, c.blockCheck s b ≠ .walk va) → exec (.tdone f) s =
        .next (c.afterTrap s (.tdone f) { cause := .taskSuccessorFault, addr := a })) ∧
      (a = 0 → b = 0 → c.Untagged → s.myStores c.k = [] →
        ∃ t g, exec (.tdone f) s = .next t ∧ c.WentOn t ∧ MemSame s t ∧ t.fib? c.k = some g ∧ g.task = none) ∧
      (∀ x, c.blockCheck s a = .ok x → b = 0 → c.Untagged → s.myStores c.k = [] → MemOk s → x.bytes.length = 64 →
        (x.bytes.map (·.loc)).Nodup → (∀ y ∈ x.bytes, y.kind ≠ .uo ∧ OffLog s (s.strandPart c.strand) y.loc ∧
          ∃ key, y.loc = .mem key ∧ tget? (s.cluster c.cluster).uo (key / 128) = none) →
        let n := (BitVec.ofNat 32 (natOfBytes ((x.bytes.take 4).map fun y => s.locRead y.loc))).toInt
        let w := natOfBytes (((x.bytes.drop 4).take 4).map fun y => s.locRead y.loc)
        ∃ t g, exec (.tdone f) s = .next t ∧ c.WentOn t ∧ t.fib? c.k = some g ∧ g.task = none ∧
          (∀ (j : Nat) (y : ByteAt), j < 4 → x.bytes[j]? = some y →
            t.locRead y.loc = BitVec.ofNat 8 ((BitVec.ofInt 32 (n - 1)).toNat / 256 ^ j)) ∧
          (∀ l, (∀ y ∈ x.bytes.take 4, y.loc ≠ l) → OffLog s (s.strandPart c.strand) l → t.locRead l = s.locRead l) ∧
          (n ≠ 1 → (t.die (w / 256 % 4)).pushes = (s.die (w / 256 % 4)).pushes) ∧
          (n = 1 → (t.die (w / 256 % 4)).pushes = (s.die (w / 256 % 4)).pushes ++
            [{ fib := c.k, queue := w % 64, spawn := false
               rec_ := (List.range 8).map fun i => BitVec.ofNat 32 (natOfBytes (((x.bytes.drop (32 + 4 * i)).take 4).map fun y =>
                 s.locRead y.loc)) }]))

/-- The two statements `AllotmentsGrowAndAreRedivided` and `TasksArePushedPoppedAndDone`. -/
def Obligations.AllotmentsAndTasks : Prop := AllotmentsGrowAndAreRedivided ∧ TasksArePushedPoppedAndDone

/-- The preloaded word of register `r` in a lane of strand `i` of a skein placed on cluster `cl` (R287, Table 11.4). -/
def preloaded (l : Launch) (i cl : Nat) (xyz : Nat × Nat × Nat) (r lane : Nat) : Word :=
  let on := fun (b : Nat) => l.flags.testBit (8 + b) = true
  if r = 0 ∧ on 0 then BitVec.ofNat 32 (96 * i + lane)
  else if r = 1 ∧ on 1 then BitVec.ofNat 32 i
  else if r = 2 ∧ on 2 then BitVec.ofNat 32 xyz.1
  else if r = 3 ∧ on 3 then BitVec.ofNat 32 xyz.2.1
  else if r = 4 ∧ on 4 then BitVec.ofNat 32 xyz.2.2
  else if r = 5 ∧ on 5 then BitVec.ofNat 32 cl
  else if r = 6 ∧ on 6 then lo32 l.args
  else if r = 7 ∧ on 6 then hi32 l.args
  else 0

/-- R284 to R288, R292, R306, R318, R473, R474: LAUNCH hands a record whose checks hold to the front end and parks; the front end takes
the oldest record, numbers it and answers 0, or the cause of the check that fails; a host record is taken when a change of its line has been
reported and its SEQ is the expected one, and a change with another SEQ is ignored; LQ_RECALL reads the line that the host holds, and reads
it again at that interval. A skein is placed with every strand one fibre of all lanes at the entry, its registers preloaded or zero. A completed
point raises the height of its line. Where it rests on a choice or an inference of the model: log entries 64, 65, 79, 102 and 103. -/
def Obligations.LaunchesAreAcceptedAndPlaced : Prop :=
  (∀ (s : State) (c : Ctx) (f : X64), Issues (.launch f) s c →
    let a := c.rdPairLow f.a.toNat
    let part := s.strandPart c.strand
    (c.act = 0 → exec (.launch f) s = .next (c.advance s)) ∧
    (c.act ≠ 0 → ∀ t, s.checkAccess c.k .load 128 128 false [(c.low, a)] c.f.walks = .trap t →
      exec (.launch f) s = .next (c.afterTrap s (.launch f) t)) ∧
    ∀ x, c.act ≠ 0 → s.checkAccess c.k .load 128 128 false [(c.low, a)] c.f.walks = .ok [x] → s.myStores c.k = [] →
      let l := protoLaunch part (s.homeBytes x) 0 true
      let allowed := l.flags % 4 ≥ ((s.launchOf c.k).map (·.cls)).getD 0 ∧ l.ctxKey = s.strandCtx c.strand ∧
        (l.flags.testBit 16 = true → c.f.level ≠ .user)
      let fits := s.doneOk l = true → s.check1 l = true ∧ s.check2 l = true ∧ check3 l = true
      (¬ (allowed ∧ fits) → exec (.launch f) s = .next (c.afterTrap s (.launch f) { cause := .launchInvalid, addr := a })) ∧
      (allowed → fits → c.Untagged → ∃ t, exec (.launch f) s = .next t ∧ c.WentOn t ∧ c.Frame [] s t ∧
        ParkedIn t c.k (.launch (s.homeBytes x) f.d.toNat c.act [] s.cycle) ∧ (t.part part).devReqs = (s.part part).devReqs ++ [c.k])) ∧
  (∀ (s : State) (part k dst : Nat) (rest : List Nat) (g : Fibre) (st : Strand) (r : List Byte) (act : Lanes) (tg : List (Nat × Tag))
    (since : Nat), (s.part part).devReqs = k :: rest → s.fib? k = some g → s.strand? (fibStrand k) = some st →
    g.wait = .launch r dst act tg since →
    let s1 := s.modPart part fun x => { x with devReqs := rest }
    let s2 := s1.modPart part fun x => { x with devSeq := x.devSeq + 1 }
    let l := protoLaunch part r (BitVec.ofNat 64 ((s.part part).devSeq + 2 ^ 63)) true
    let answers := fun (t : State) (w : Nat) => exec (.launchAccept part true) s = .next t ∧
      (∃ h, t.fib? k = some h ∧ h.state = .ready ∧ h.pc = g.pc) ∧ (t.part part).devReqs = rest ∧
      InFlight t (fibStrand k) st.flights dst g.laneSet act (fun _ => s.cycle) (fun _ => BitVec.ofNat 32 w)
    (s.frontNext ≠ some (part, true) → exec (.launchAccept part true) s = .next s) ∧
    (s.frontNext = some (part, true) → s1.doneOk l = false → ∃ t, answers t Cause.launchInvalid.code.toNat ∧ t.launches = s.launches) ∧
    (s.frontNext = some (part, true) → s1.doneOk l = true → ∀ e, s2.recordCheck l = .error e → ∃ t, answers t e.2.code.toNat) ∧
    (s.frontNext = some (part, true) → s1.doneOk l = true → ∀ fr, s2.recordCheck l = .ok fr → ∃ t x, answers t 0 ∧
      t.launchCtr = s.launchCtr + 1 ∧ (t.part part).devSeq = (s.part part).devSeq + 1 ∧ tget? t.launches s.launchCtr = some x ∧
      x.rec_ = r ∧ x.seq = l.seq ∧ x.part = part ∧ x.device = true ∧ x.placed = 0 ∧ x.ended = 0)) ∧
  (∀ (s : State) (part : Nat),
    let p := s.part part
    let r := s.memReadBytes (p.lqBase.toNat + 128 * (p.lqExpect.toNat % p.lqSize.toNat)) 128
    let slot := p.lqBase.toNat + 128 * (p.lqExpect.toNat % p.lqSize.toNat)
    let woken := p.lqEn = true ∧ ∃ e ∈ p.lqChanged, e.1 = slot / 128
    let seq : DWord := BitVec.ofNat 64 (natOfBytes ((r.drop 120).take 8))
    let looked := fun (x : Partition) => { x with lqChanged := x.lqChanged.filter fun e => e.1 != slot / 128 }
    let s1 := s.modPart part fun x => { looked x with lqExpect := x.lqExpect + 1 }
    let l := protoLaunch part r p.lqExpect false
    (¬ woken → exec (.launchAccept part false) s = .next s) ∧
    (woken → seq ≠ p.lqExpect → exec (.launchAccept part false) s = .next (s.modPart part looked)) ∧
    (woken → seq = p.lqExpect → s.frontNext ≠ some (part, false) → exec (.launchAccept part false) s = .next s) ∧
    (woken → seq = p.lqExpect → s.frontNext = some (part, false) → ∃ t, exec (.launchAccept part false) s = .next t ∧ (t.part part).lqExpect = p.lqExpect + 1 ∧
      (s1.doneOk l = false → t.launches = s.launches ∧ ∃ e ∈ (t.die (s.frontierDie part)).prq ++ (t.die (s.frontierDie part)).prqWait,
        (e.part, e.ctx, e.addr, e.cause, e.irq) = (part, l.ctx, BitVec.ofNat 64 l.done, .launchInvalid, true)) ∧
      (s1.doneOk l = true → ∀ fr, s1.recordCheck l = .ok fr → ∃ x, tget? t.launches s.launchCtr = some x ∧ x.rec_ = r ∧
        x.seq = p.lqExpect ∧ x.device = false ∧ x.placed = 0))) ∧
  (∀ (s : State) (part : Nat) (dev : Bool), (∀ e ∈ s.parts, e.1 < 32) → s.frontNext = some (part, dev) →
    ∃ since, (since, part, dev) ∈ s.frontReqs ∧ s.frontOpen part = true ∧
      ∀ x ∈ s.frontReqs, s.frontOpen x.2.1 = true → since ≤ x.1) ∧
  (∀ (s : State) (part since : Nat) (bs : List Byte),
    let p := s.part part
    let line := (p.lqBase.toNat + 128 * (p.lqExpect.toNat % p.lqSize.toNat)) / 128
    p.lqEn = true → tget? s.hostOwned line = some (bs, since) →
    (s.nsPassed since p.lqRecall.toNat = false → exec (.lqRecall part) s = .next s) ∧
    (s.nsPassed since p.lqRecall.toNat = true → exec (.lqRecall part) s =
      exec (.launchAccept part false)
        ((({ s with hostOwned := tset s.hostOwned line (bs, s.wall) } : State).hostWrite (line * 128) bs).lqReport line))) ∧
  (∀ (s : State) (part : Nat),
    let d := s.frontierDie part
    ((∀ e ∈ (s.placeList d).launchOrder part, (s.placeList d).placeNext e.1 e.2 = none) → ∃ t, exec (.skeinPlace part) s = .next t ∧
      MemSame s t ∧ t.skeins = s.skeins ∧ t.strands = s.strands ∧ t.clusters = s.clusters) ∧
    ∀ n l rest cl, s.launchOrder part = (n, l) :: rest → tget? s.launches n = some l → s.mayStart n l = true → l.held = none →
      l.frontier = none → l.listed = true → l.placed < l.total → s.clusterFor l (some l.placed) = some cl →
      let x := s.ctx (ctxKey l.part l.ctx)
      let lane := 96 * 2 ^ x.privLane.toNat
      let first := x.privRoot.toNat + (cl * 4096 + s.newSkein cl) * 16 * lane
      ∃ t x k, exec (.skeinPlace part) s = .next t ∧
        ((∀ y ∈ s.leaves (ctxKey l.part l.ctx) first (l.nStrands * lane), y.spriv = false) → t.mem = s.mem) ∧
        tget? t.launches n = some x ∧ x.placed = l.placed + 1 ∧
        t.skein? (cl * 4096 + s.newSkein cl) = some k ∧ k.launch = n ∧ k.index = l.placed ∧ k.coords = l.coords l.placed ∧
        k.strands = l.nStrands ∧ k.pro = l.proA ∧ k.full = l.fullA ∧ k.scratch = [] ∧
        ∀ i, i < l.nStrands → ∃ st f, t.strand? ((cl * 4096 + s.newSkein cl) * 16 + i) = some st ∧ st.paths = [(0, f)] ∧
          st.blocks = l.proA.1 ∧ st.role = l.role i ∧
          st.ctl = (if l.flags.testBit 6 = true then 0x101 else 0x100) ∧ st.flights = [] ∧ f.laneSet = ~~~0 ∧ f.state = .ready ∧ f.runPos = 0 ∧
          f.pc = BitVec.ofNat 64 (l.code * 2 ^ 40 + l.entryOfs) ∧
          (∀ r ln b m, r < 248 → ln < 96 → (st.view r ln b m).w = preloaded l i cl (l.coords l.placed) r ln) ∧
          ∀ ln b m, ln < 96 → (st.view (253 + ln / 32) ln b m).w = 1) ∧
  (∀ (s : State) (sk n : Nat) (p : FPoint) (l : Launch) (fr : Frontier),
    ((∀ e ∈ s.launches, ∀ x, e.2.frontier = some x → ∀ q ∈ x.inflight, q.at_ ≠ .ended sk) → exec (.pointComplete sk) s = .next s) ∧
    (s.launches = [(n, l)] → l.frontier = some fr → fr.inflight.find? (fun q => q.at_ == .ended sk) = some p → p.line < 65536 →
      ∃ t, exec (.pointComplete sk) s = .next t ∧ ∀ x y, tget? t.launches n = some x → x.frontier = some y →
        x.ended = l.ended + 1 ∧ tget? y.heights p.line = some (p.p0 + 1) ∧ p ∉ y.inflight)) ∧
  ∀ (s : State) (d : Nat) (e : PrqEntry) (rest : List PrqEntry), (s.die d).prqWait = e :: rest →
    s.poolTakes 4 d 32 e.part (fun p => ((s.die d).prq.filter fun x => x.part == p).length) = true →
    ∃ t, exec (.poolEntryGrant 4 d) s = .next t ∧ (t.die d).prq = (s.die d).prq ++ [e] ∧ (t.die d).prqWait = rest ∧ MemSame s t

/-! ### System instructions (chapters 12 and 20) -/

/-- The shape that TRAP and BRK share: their run ends, and they trap to the handler with the next instruction as the resume reference
(R339, R340, R342). -/
def trapsNext (c : Ctx) (s : State) (i : Instr) (e : Cause) (f : T96) (t : State) : Prop :=
  t = c.afterTrap (c.closeRun s) i { cause := e, addr := BitVec.ofNat 64 f.imm26.toNat, next := true }

/-- R340 to R342, R440: TRAP and BRK deliver TRAP_SOFT and BREAK with TFADDR their code, to resume at the next instruction; a fibre of a
held context that is not let pass stops at a BRK before a beat of it issues, and a released one ends the run. The run ends as YL and STALL
say (R339). RTE goes to the reference of
the frame with mask and privilege of the trap slot, and with q0 to q7 and the run position when it goes back into its run; without a trap it
is ILL_FIELD. The tests of the run that ends come first (R403, R412). -/
def Obligations.TrapsBreaksAndReturns : Prop :=
  (∀ (s : State) (k cl i slot : Nat) (f : Fibre) (st : Strand) (b : T96), s.fib? k = some f → s.strand? (fibStrand k) = some st →
    s.fetch k f = .instr (.brk b) → f.beats = [] → f.inBody = false → f.wait.entering = false → s.mrHeld k = false → (s.ctx (s.strandCtx (fibStrand k))).halting = false →
    (s.ctx (s.strandCtx (fibStrand k))).dbgHold = true → f.passBrk = false →
    (f.passStop = true ∨ f.stopReq = false ∧ f.stepReq = false ∧ s.traced k = false ∧
      (s.ctx (s.strandCtx (fibStrand k))).bpMatch f.pc = none) →
    ∃ t g, s.slotTry cl i slot k = .moved t ∧ t.fib? k = some g ∧ g.state = .stopped ∧ g.stopCause = 15 ∧ g.pc = f.pc ∧
      g.runPos = f.runPos ∧ RegsSame s t) ∧
  ∀ (s u : State) (c : Ctx) (f : T96),
    (Ends (.trap f) s c u → c.fallsOff = false → ∃ t, exec (.trap f) s = .next t ∧ trapsNext c u (.trap f) .trapSoft f t) ∧
    (Ends (.brk f) s c u → c.fallsOff = false →
      (c.f.passBrk = true → exec (.brk f) s = .next (c.goesTo u c.nextPc)) ∧
      (c.f.passBrk = false → ∃ t, exec (.brk f) s = .next t ∧ trapsNext c u (.brk f) .break f t)) ∧
    (Ends (.rte f) s c u →
      (c.f.slot = none → exec (.rte f) s = .next (c.afterTrap s (.rte f) { cause := .illField })) ∧
      ∀ sl, c.f.slot = some sl →
        (∀ e, s.refCheck c.cluster (s.strandPart c.strand) c.f.frame.pc = some e →
          exec (.rte f) s = .next (c.afterTrap s (.rte f) { cause := e, addr := c.f.frame.pc })) ∧
        (s.refCheck c.cluster (s.strandPart c.strand) c.f.frame.pc = none → sl.qs.length = 8 →
          let inside := c.f.frame.pc = sl.resume ∧ sl.runStart = false
          ∃ t g st, exec (.rte f) s = .next t ∧ t.fib? c.k = some g ∧ t.strand? c.strand = some st ∧ MemSame s t ∧
            g.pc = c.f.frame.pc ∧ g.slot = none ∧ g.level = sl.level ∧ g.laneSet = c.f.laneSet ∧ g.tokens = c.f.tokens ∧
            (inside → g.runPos = sl.runPos) ∧ (¬ inside → g.runPos = 0) ∧
            (∀ l b n, l < 96 → c.f.laneSet.getLsbD l = true →
              (st.view (253 + l / 32) l b n).w = if sl.em.getLsbD l = true then 1 else 0) ∧
            (∀ q l b n, q < 8 → l < 96 → c.f.laneSet.getLsbD l = true →
              (inside → (st.view (240 + q) l b n).w = laneW (sl.qs.getD q {}).vals l) ∧
              (¬ inside → (st.view (240 + q) l b n).w = 0)) ∧
            ∀ r, r < 240 ∨ 247 < r ∧ r < 253 → RegKept c.strand r s t))

/-- The registers whose whole word a write stores, with the alignment of the low word of a base (Tables 7.8, 7.9, 12.1, 18.6, 20.5, 20.6
and 22.1). -/
def plainSr : List (Nat × Nat) :=
  [(0x002, 1), (0x003, 1), (0x008, 1), (0x010, 1), (0x020, 1), (0x021, 1), (0x022, 1), (0x028, 4096), (0x029, 1), (0x02A, 1),
   (0x030, 64), (0x031, 1), (0x0C2, 64), (0x0C3, 1), (0x0E2, 16), (0x0E3, 1), (0x0E5, 1), (0x0EB, 1), (0x0F0, 64), (0x0F1, 1),
   (0x0FA, 4096), (0x0FB, 1), (0x0FE, 4096), (0x0FF, 1), (0x108, 4096), (0x109, 1), (0x118, 8), (0x119, 1), (0x200, 1), (0x201, 1),
   (0x204, 4096), (0x205, 1), (0x208, 1), (0x209, 1), (0x210, 1), (0x211, 1), (0x214, 1)]

/-- R343 to R346, R448: SRRD writes the register's word to the lanes of act. SRWR stores the word of A in the lowest lane of act, traps
on a value out of range, is made again where it must wait, and does nothing with act empty; one of CMP_CTL reads the forwarding table after the fibre's earlier
stores (R469). CYCRD and EVRD read the counts of their
beat 2, TRMARK puts a MARK packet into the trace, and CKPT answers at once or parks until the checkpoint is taken, when a new epoch
opens with an empty log. Where it rests on a choice or an inference of the model: log entries 51, 54 and 93. -/
def Obligations.SystemRegistersAndCounts : Prop :=
  (∀ (s : State) (c : Ctx) (f : I64), Issues (.srrd f) s c →
    exec (.srrd f) s = .next (c.afterWrite s f.d 0xFFFFFFFF 3 (fun _ => s.regRead (c.regAt s) f.sr) fun _ => 0)) ∧
  (∀ (s : State) (c : Ctx) (f : I64), Issues (.srwr f) s c →
    let v := c.rdLow f.a.toNat
    (c.act = 0 → exec (.srwr f) s = .next (c.advance s)) ∧
    (c.act ≠ 0 → (s.regWrite (c.regAt s) f.sr v = .bad ∨ s.regWrite (c.regAt s) f.sr v = .refused) →
      exec (.srwr f) s = .next (c.afterTrap s (.srwr f) { cause := .illField })) ∧
    (c.act ≠ 0 → s.regWrite (c.regAt s) f.sr v = .wait →
      exec (.srwr f) s = .next (s.modFib c.k fun g => { g with wait := .unit, beats := [] })) ∧
    (∀ t, c.act ≠ 0 → c.Untagged → f.sr ≠ 0x11B → s.regWrite (c.regAt s) f.sr v = .ok t → exec (.srwr f) s = .next (c.advance t)) ∧
    (∀ t, c.act ≠ 0 → c.Untagged → f.sr = 0x11B → (∃ u, s.regWrite (c.regAt s) f.sr v = .ok u) →
      (s.drainStores c.k).regWrite (c.regAt (s.drainStores c.k)) f.sr v = .ok t → exec (.srwr f) s = .next (c.advance t)) ∧
    (c.act ≠ 0 → c.Untagged → ∀ e ∈ plainSr, e.1 = f.sr → v.toNat % e.2 = 0 →
      ∃ t, exec (.srwr f) s = .next t ∧ c.WentOn t ∧ MemSame s t ∧ t.regRead (c.regAt s) f.sr = v) ∧
    (c.act ≠ 0 → c.Untagged → f.sr = 0 →
      ∃ t, exec (.srwr f) s = .next t ∧ c.WentOn t ∧ MemSame s t ∧ t.regRead (c.regAt s) 0 = v &&& 0x3FF)) ∧
  (∀ (s : State) (c : Ctx) (f : X64),
    (Issues (.cycrd f) s c → exec (.cycrd f) s = .next (c.afterPair s f.d 2 fun _ =>
      BitVec.ofNat 64 (if f.imm8.getLsbD 0 = true then s.refCount else c.is.r2))) ∧
    (Issues (.evrd f) s c →
      let x := s.cluster c.cluster
      let k := f.imm8.toNat % 4
      exec (.evrd f) s = .next (c.afterWrite s f.d 0xFFFFFFFF 3
        (fun _ => BitVec.ofNat 32 ((tget? x.ev (x.evSel.toNat / 256 ^ k % 64)).getD 0) - BitVec.ofNat 32 (x.evBase.getD k 0))
        fun _ => 0)) ∧
    (Issues (.trmark f) s c →
      let v := if f.a = 248 then f.imm8.toNat else (c.rdLow f.a.toNat).toNat % 65536
      exec (.trmark f) s = .next (c.advance (s.packet c.k 7 (bytesOfNat 2 v))))) ∧
  (∀ (s : State) (c : Ctx) (f : X64), Issues (.ckpt f) s c →
    let p := s.part (s.strandPart c.strand)
    (p.ckSize = 0 → exec (.ckpt f) s = .next (c.afterWrite s f.d 0xFFFFFFFF 0 (fun _ => 0xFFFFFFFF) fun _ => 0)) ∧
    (p.ckSize ≠ 0 → p.ckPending ≠ none →
      exec (.ckpt f) s = .next (c.afterWrite s f.d 0xFFFFFFFF 0 (fun _ => 0xFFFFFFFE) fun _ => 0)) ∧
    (p.ckSize ≠ 0 → p.ckPending = none → s.myStores c.k = [] → ∃ t, exec (.ckpt f) s = .next t ∧ c.WentOn t ∧
      ParkedIn t c.k (.ckpt f.d.toNat c.act (c.tagsIn c.act)) ∧ (t.part (s.strandPart c.strand)).ckPending = some c.k ∧ c.Frame [] s t)) ∧
  ∀ (s : State) (part k dst : Nat) (act : Lanes) (tg : List (Nat × Tag)) (g : Fibre) (st : Strand),
    ((s.part part).ckPending = none → exec (.ckptTake part) s = .next s) ∧
    ((s.part part).ckPending = some k → s.fib? k = some g → s.strand? (fibStrand k) = some st → g.wait = .ckpt dst act tg →
      let others := ∃ l ∈ s.launches, l.2.part = part ∧ ¬ ∃ x, s.skein? (fibSkein k) = some x ∧ x.launch = l.1
      (others → exec (.ckptTake part) s = .next s) ∧
      (¬ others → ∃ t h, exec (.ckptTake part) s = .next t ∧ t.fib? k = some h ∧ h.state = .ready ∧ h.pc = g.pc ∧ MemSame s t ∧
        (t.part part).ckEpoch = (s.part part).ckEpoch + 1 ∧ (t.part part).undo = [] ∧ (t.part part).ckFull = false ∧
        (t.part part).ckPending = none ∧
        InFlight t (fibStrand k) st.flights dst g.laneSet act (fun _ => s.cycle) fun _ => (s.part part).ckEpoch + 1))

/-! ### Substitution (chapter 18) -/

/-- R422 to R427: SBRD writes word w of an entry's descriptor (Table 18.9) into lane w, and zeros for an entry that is free or of another
partition; ESCRD parks for the sixteen words of a record of the escape log, and for zeros beyond its count; SBWD rejects or
withdraws an entry in PROBATION or PROMOTED, and SBCLR frees entries of its own partition with the sampler entries of their runs. An
index above 63 traps with ILL_FIELD, and SBWD without EN with SUBST_DISABLED. That an entry that is free reads as zeros (R422 says so only
of another partition's), and that SBCLR.all frees every DONE sampler entry too, are the model's readings (log entries 55 and 28). -/
def SubstitutionTableInstructions : Prop :=
  ∀ (s : State) (c : Ctx) (f : X64),
    let part := s.strandPart c.strand
    let idx := (c.rdLow f.a.toNat).toNat
    let old := (s.cluster c.cluster).subst
    let ill := fun (i : Instr) => exec i s = .next (c.afterTrap s i { cause := .illField })
    (Issues (.sbrd f) s c →
      (63 < idx → ill (.sbrd f)) ∧
      (idx ≤ 63 → ∃ W, exec (.sbrd f) s = .next (c.afterWrite s f.d 0xFFFFFFFF 3 W fun _ => 0) ∧ ∀ l,
        let e := old.getD idx {}
        (e.state = .free ∨ e.part ≠ part ∨ 32 ≤ l → W l = 0) ∧
        (e.state ≠ .free → e.part = part → e.cand.length ≤ 8 → (∀ i ∈ e.cand, (encode i).length = 2) →
          (l = 0 → (W l).toNat = (e.id idx * 2 ^ 16 + e.part * 2 ^ 8 + e.state.code) % 2 ^ 32) ∧
          (l = 1 → W l = BitVec.ofNat 32 (pcHandle e.start)) ∧ (l = 2 → W l = BitVec.ofNat 32 (pcOffset e.start)) ∧
          (l = 3 → W l = BitVec.ofNat 32 (pcOffset e.start / 2 ^ 32)) ∧ (l = 4 → W l = BitVec.ofNat 32 e.serial) ∧
          (l = 5 → W l = BitVec.ofNat 32 e.clean) ∧ (l = 6 → W l = BitVec.ofNat 32 e.spot) ∧
          (l = 7 → (W l).toNat =
            (coverWord e.cover e.ins.length + e.ins.length * 2 ^ 8 + e.outs.length * 2 ^ 12 + e.cand.length * 2 ^ 16) % 2 ^ 32) ∧
          (∀ j, l = 8 → e.ins.length ≤ 4 → j < 4 → (W l).toNat / 256 ^ j % 256 = e.ins.getD j 0 % 256) ∧
          (∀ j, l = 9 → e.outs.length ≤ 2 → j < 4 → (W l).toNat / 256 ^ j % 256 = e.outs.getD j 0 % 256) ∧
          (10 ≤ l → l < 16 → W l = 0) ∧
          (∀ j i, e.cand[j]? = some i → (l = 16 + 2 * j → (encode i)[0]? = some (W l)) ∧
            (l = 17 + 2 * j → (encode i)[1]? = some (W l)))))) ∧
    (Issues (.escrd f) s c →
      let x := s.ctx (s.strandCtx c.strand)
      let base := x.escBase.toNat % 2 ^ 56 + 64 * idx
      ∃ t m, exec (.escrd f) s = .next t ∧ c.WentOn t ∧ ParkedIn t c.k (.miss m) ∧ c.Frame [] s t ∧
        m.form = { dst := f.d.toNat, sz := 2, sx := false } ∧ m.act = c.act ∧
        (x.escCount.toNat ≤ idx → m.lanes = []) ∧
        (idx < x.escCount.toNat → ∀ l, (∃ a ∈ m.lanes, a.lane = l) ↔ l < 16 ∧ c.act.getLsbD l = true) ∧
        ∀ a ∈ m.lanes, a.bytes.map (·.loc) = (List.range 4).map fun i => Loc.mem (base + 4 * a.lane + i)) ∧
    (Issues (.sbwd f) s c →
      (63 < idx → ill (.sbwd f)) ∧
      (idx ≤ 63 → (s.part part).substCtl.getLsbD 0 = false →
        exec (.sbwd f) s = .next (c.afterTrap s (.sbwd f) { cause := .substDisabled })) ∧
      (idx ≤ 63 → (s.part part).substCtl.getLsbD 0 = true →
        ∃ t, exec (.sbwd f) s = .next t ∧ c.WentOn t ∧ MemSame s t ∧ RegsSame s t ∧
          ∀ m e, old[m]? = some e → (t.cluster c.cluster).subst[m]? = some
            (if m = idx ∧ e.part = part ∧ (e.state = .probation ∨ e.state = .promoted) then
              { e with state := if f.imm8 = 3 then .rejected else .withdrawn } else e))) ∧
    (Issues (.sbclr f) s c →
      let all := f.imm8.getLsbD 0 = true
      let hit := fun (m : Nat) (e : SubEntry) => (all ∧ m < 64 ∨ ¬ all ∧ m = idx) ∧ e.part = part ∧ e.state ≠ .free
      (¬ all → 63 < idx → ill (.sbclr f)) ∧
      (all ∨ idx ≤ 63 → ∃ t, exec (.sbclr f) s = .next t ∧ c.WentOn t ∧ MemSame s t ∧ RegsSame s t ∧
        (∀ m e, old[m]? = some e →
          (hit m e → (t.cluster c.cluster).subst[m]? = some { installs := e.installs }) ∧
          (¬ hit m e → (t.cluster c.cluster).subst[m]? = some e)) ∧
        ∀ (j : Nat) (x : Sampler), (s.cluster c.cluster).sampler[j]? = some (some x) →
          let goes := x.part = part ∧ (all ∧ x.done = true ∨ ∃ m e, old[m]? = some e ∧ hit m e ∧ e.start = x.start)
          (goes → (t.cluster c.cluster).sampler[j]? = some none) ∧
          (¬ goes → (t.cluster c.cluster).sampler[j]? = some (some x))))

/-- R71, R405, R406, R408, R421: with SUBST_CTL.EN, 64 samples held, none of an earlier execution still to come, and in beats that idle cycles have carried, a trial runs the original text and a legal candidate
on the next sample, in its lane, and notes whether every output
agrees; a candidate that agreed on all 64 samples is installed in PROBATION in the lowest free entry and its sampler entry is
freed, and without a free entry, or without a candidate, the sampler entry is DONE. -/
def CandidatesAreTriedAndInstalled : Prop :=
  ∀ (s : State) (cl job : Nat) (x : Sampler) (ws : List (BitVec 64)) (is : List Instr),
    (s.cluster cl).sampler[job]? = some (some x) → candInstrs ws = some is →
    let at_ := match x.trial with
      | some (c, n) => if c = is then n else 0
      | none => 0
    let full := s.sampled cl x = true ∧ x.done = false
    let isJob := fun (t : State) (v : Option Sampler) => (t.cluster cl).sampler[job]? = some v
    let table := fun (t : State) => (t.cluster cl).subst
    (∀ n, let may := full ∧ (s.part x.part).cmpPark = false ∧ (s.part x.part).substCtl.getLsbD 0 = true ∧
        (s.part x.part).trialBeats ≠ 0 ∧ candOk is x.text x.ins x.outs = true ∧ at_ = n
      (¬ may → exec (.trial cl job n ws) s = .next s) ∧
      (may → ∃ t, exec (.trial cl job n ws) s = .next t ∧ MemSame s t ∧ RegsSame s t ∧ t.ctxs = s.ctxs ∧
        (∀ p, t.part p = if p = x.part then { s.part p with trialBeats := 0 } else s.part p) ∧ table t = table s ∧
        (x.samples.length ≤ n → isJob t (some { x with trial := none })) ∧
        ∀ smp, x.samples[n]? = some smp →
          let lanes : Lanes := lanesOf fun l => l == smp.2.1
          let ins := x.ins.zip (smp.2.2.map fun w => List.replicate 96 w)
          let agree := ∀ o ∈ (textOuts x.text ins lanes x.outs).zip (textOuts is ins lanes x.outs), laneW o.1 smp.2.1 = laneW o.2 smp.2.1
          (agree → isJob t (some { x with trial := some (is, n + 1) })) ∧ (¬ agree → isJob t (some { x with trial := none })))) ∧
    let install := exec (.candidateInstall cl job ws) s
    (¬ full → install = .next s) ∧
    (full → is ≠ [] → x.trial ≠ some (is, 64) → install = .next s) ∧
    (full → is = [] ∨ (x.trial = some (is, 64) ∧ ∀ e ∈ table s, e.state ≠ .free) →
      ∃ t, install = .next t ∧ MemSame s t ∧ RegsSame s t ∧ table t = table s ∧ isJob t (some { x with done := true, trial := none })) ∧
    ∀ (n : Nat) (e0 : SubEntry), full → is ≠ [] → x.trial = some (is, 64) → (table s)[n]? = some e0 → e0.state = .free →
      (∀ (m : Nat) (e : SubEntry), m < n → (table s)[m]? = some e → e.state ≠ .free) →
      ∃ (t : State) (e : SubEntry), install = .next t ∧ MemSame s t ∧ RegsSame s t ∧ isJob t none ∧ (table t)[n]? = some e ∧
        (∀ m, m ≠ n → (table t)[m]? = (table s)[m]?) ∧ e.state = .probation ∧ e.installs = e0.installs + 1 ∧ e.part = x.part ∧
        e.start = x.start ∧ e.ins = x.ins ∧ e.outs = x.outs ∧ e.cand = is ∧ e.text = x.text ∧ e.serial = 0 ∧ e.clean = 0

/-- The two statements `SubstitutionTableInstructions` and `CandidatesAreTriedAndInstalled`. -/
def Obligations.SubstitutionUnitActs : Prop := SubstitutionTableInstructions ∧ CandidatesAreTriedAndInstalled

/-! ### Traps, hand-out and walks -/

/-- R319 to R323, R325, Table 12.3: how a trap is taken. A HANDLE cause waits for the fibre's writes to land, the fibre in its state but
issuing nothing, and enters the handler at TVEC, at SUPER, with the resume reference and the detail in the frame, and q0 to q7, run position, run-start flag, mask and privilege in
the trap slot; a PARK cause, or any with the slot occupied or without a TVEC, leaves the fibre as it stands, parked in the fault
queue, with a record for it in its die's page-request queue. Where it rests on a choice or an inference of the model: log entries 34 and 35. -/
def Obligations.TrapsAreTakenOrParked : Prop :=
  ∀ (s : State) (k : Nat) (tr : Trap) (resume : DWord) (start : Bool) (act : Lanes) (f : Fibre) (st : Strand), s.fib? k = some f →
    s.strand? (fibStrand k) = some st →
    let t := s.deliver k tr resume start act
    let key := s.strandCtx (fibStrand k)
    let word := fun (g : Fibre) (park nest : Bool) => g.frame.addr = tr.addr ∧ g.frame.mask = tr.mask.getD act ∧
      g.frame.word = tr.word.getD 0 ∧ g.frame.cause.toNat = tr.cause.code.toNat + (if park then 256 else 0) +
        (if f.level = .super then 1024 else 0) + (if tr.defer = true then 2048 else 0) + if nest then 4096 else 0
    (∀ n, causeMode tr.cause = .handle → f.slot = none → (s.ctx key).tvec ≠ 0 →
      st.lastLanding f.laneSet (fun _ => true) s.cycle = some n → n ≤ s.cycle →
      ∃ sl g st', t.fib? k = some g ∧ t.strand? (fibStrand k) = some st' ∧ MemSame s t ∧ OtherStrands (fibStrand k) s t ∧
        g.slot = some sl ∧ sl.runPos = f.runPos ∧ sl.runStart = start ∧ sl.level = f.level ∧ sl.resume = resume ∧ sl.qs.length = 8 ∧
        (∀ q l, q < 8 → l < 96 → laneW (sl.qs.getD q {}).vals l = (st.view (240 + q) l (l / 32) n).w) ∧
        (∀ l, l < 96 → (sl.em.getLsbD l = true ↔ f.laneSet.getLsbD l = true ∧ (st.view (253 + l / 32) l (l / 32) n).w ≠ 0)) ∧
        g.frame.pc = resume ∧ word g false false ∧ g.level = .super ∧ g.pc = (s.ctx key).tvec ∧ g.runPos = 0 ∧
        g.laneSet = f.laneSet ∧ g.tokens = f.tokens ∧ g.wb0 = f.wb0 ∧ g.wb1 = f.wb1 ∧
        (∀ l b m, l < 96 → f.laneSet.getLsbD l = true →
          (∀ q, q < 8 → (st'.view (240 + q) l b m).w = 0) ∧ (st'.view (253 + l / 32) l b m).w = 1) ∧
        (∀ r, r < 240 ∨ 247 < r ∧ r < 253 → RegKept (fibStrand k) r s t) ∧
        g.state = .ready ∧ g.wait = .none) ∧
    (causeMode tr.cause = .handle → f.slot = none → (s.ctx key).tvec ≠ 0 →
      (∀ n, st.lastLanding f.laneSet (fun _ => true) s.cycle = some n → s.cycle < n) →
      t = s.modFib k fun g => { g with wait := .trap tr resume start act, beats := [], wsHeld := false }) ∧
    (causeMode tr.cause = .park ∨ (causeMode tr.cause = .handle ∧ (f.slot ≠ none ∨ (s.ctx key).tvec = 0)) →
      let d := clusterDie (fibCluster k)
      let nest := decide (causeMode tr.cause = .handle)
      ∃ g e, t.fib? k = some g ∧ MemSame s t ∧ OtherStrands (fibStrand k) s t ∧ (∀ r, RegKept (fibStrand k) r s t) ∧
        g.state = .parked ∧ g.wait = .faultQ (s.ctx key).prqSeq.toNat ∧ g.pc = f.pc ∧ g.runPos = f.runPos ∧ g.slot = f.slot ∧
        g.level = f.level ∧ g.laneSet = f.laneSet ∧ g.tokens = f.tokens ∧ (t.ctx key).prqSeq = (s.ctx key).prqSeq + 1 ∧
        ((t.die d).prq = (s.die d).prq ++ [e] ∧ (t.die d).prqWait = (s.die d).prqWait ∨
          (t.die d).prq = (s.die d).prq ∧ (t.die d).prqWait = (s.die d).prqWait ++ [e]) ∧
        e.part = key / 16 ∧ e.ctx = key % 16 ∧ e.addr = tr.addr ∧ e.seq = (s.ctx key).prqSeq ∧ e.cluster = fibCluster k ∧
        e.sid = strandSid (fibStrand k) ∧ e.path = fibPath k ∧ e.cause = tr.cause ∧
        (nest = true → f.slot ≠ none → g.frame = { f.frame with cause := f.frame.cause ||| 4096 }) ∧ (nest = true → f.slot = none → word g true true) ∧
        (nest = false → g.frame.pc = resume ∧ word g true false))

/-- R72, R160, R199, R384: a free slot goes to the READY fibre that comes first by class, ready stamp, skein id and path index, which is
then RUNNING; the oldest deferred cause of a fibre whose data has landed is delivered at a boundary of its own, its trap slot being free. -/
def SlotsAndDeferredTraps : Prop :=
  (∀ (s : State) (c i n : Nat),
    let may := fun (k : Nat) (f : Fibre) => (k, f) ∈ s.allFibs ∧ s.mayHand c i k f = true
    ((s.spindle c i).slots[n]? ≠ some none ∨ (∀ k f, ¬ may k f) → exec (.slotHandout c i n) s = .next s) ∧
    ∀ k f, (s.spindle c i).slots[n]? = some none → s.fib? k = some f → s.mayHand c i k f = true →
      (∀ j g, may j g → j ≠ k →
        let a := s.handKey k f
        let b := s.handKey j g
        a.1 < b.1 ∨ a.1 = b.1 ∧ (a.2.1 < b.2.1 ∨ a.2.1 = b.2.1 ∧ (a.2.2.1 < b.2.2.1 ∨ a.2.2.1 = b.2.2.1 ∧ a.2.2.2 < b.2.2.2))) →
      ∃ t, exec (.slotHandout c i n) s = .next t ∧ MemSame s t ∧ RegsSame s t ∧
        t.fib? k = some { f with state := .running, last3 := false, beats := [] } ∧
        (i < (s.cluster c).spindles.length → (t.spindle c i).slots = lset (s.spindle c i).slots n (some k))) ∧
  ∀ (s : State) (k : Nat) (f : Fibre) (st : Strand), s.fib? k = some f → s.strand? (fibStrand k) = some st →
    let at_ := f.slot = none ∧ f.wait.entering = false ∧ f.beats = [] ∧ f.state = .running ∧ s.stopCheck k f = none
    ((∀ e ∈ f.deferred, s.cycle < e.2.since) ∨ ¬ at_ → exec (.deferredTrapDelivery k) s = .next s) ∧
    ∀ pre n tr post, f.deferred = pre ++ (n, tr) :: post → (∀ e ∈ pre, s.cycle < e.2.since) → tr.since ≤ s.cycle → at_ →
      exec (.deferredTrapDelivery k) s = .next
        ((s.modFib k fun g => { g with deferred := pre ++ post }).deliver k tr f.pc (f.runPos == 0)
          (st.mask f.laneSet (s.cycle, s.cycle, s.cycle)))

/-- R179 to R182, R456, R463: a walk takes one of its die's 64 walkers in its turn, and one that ends lets the fibres that wait for it issue again, with the translation in the TLB or the failure
noted, unless an invalidation made it stale; a page-request record goes to the context's ring when there is room; at every
64th cycle the walk at the head of each cluster's queue ages by its partition's weight; a fibre that waits for code goes on when its page has arrived,
and after CODE_TMO takes CODE_UNARRIVED. Where it rests on a choice or an inference of the model: log entries 41, 46, 69, 99 and 100. -/
def WalksRequestsAndArrivals : Prop :=
  (∀ (s : State) (c i : Nat),
    ((s.cluster c).misses[i]? = none → exec (.walkComplete c i) s = .next s) ∧
    (∀ m, (s.cluster c).misses[i]? = some m → m.walker = false →
      let mine := s.nextGrant (clusterDie c) = some (c, i) ∧ s.walkers (clusterDie c) < 64
      (¬ mine → exec (.walkComplete c i) s = .next s) ∧
      (mine → ∃ t, exec (.walkComplete c i) s = .next t ∧ MemSame s t ∧ RegsSame s t ∧
        (t.cluster c).misses[i]? = some { m with walker := true })) ∧
    ∀ m, (s.cluster c).misses[i]? = some m → m.walker = true → m.pfs = [] → ∃ t, exec (.walkComplete c i) s = .next t ∧
      MemSame s t ∧ RegsSame s t ∧
      (t.cluster c).misses = (s.cluster c).misses.eraseIdx i ∧ (m.stale = true → (t.cluster c).tlb = (s.cluster c).tlb) ∧
      (∀ x, m.stale = false → s.walk (ctxKey m.part m.ctx) (m.page * 4096) = .ok x → x ∈ (t.cluster c).tlb) ∧
      ∀ k g, k ∈ m.fibs → fibCluster k = c → s.fib? k = some g → g.state = .parked → g.wait = .walk →
        ∃ h, t.fib? k = some h ∧ h.state = .ready ∧ h.pc = g.pc ∧
          (m.stale = false → s.walk (ctxKey m.part m.ctx) (m.page * 4096) = .invalid → (m.page, Cause.ldXlate) ∈ h.walks) ∧
          (m.stale = false → s.walk (ctxKey m.part m.ctx) (m.page * 4096) = .error → (m.page, Cause.walkError) ∈ h.walks)) ∧
  (∀ (s : State) (d x : Nat),
    let c := s.ctx x
    let mine := fun (e : PrqEntry) => ctxKey e.part e.ctx = x
    let room := c.en = true ∧ c.prqEn = true ∧ c.prqHead - c.prqTail ≠ c.prqSize
    ((∀ e ∈ (s.die d).prq, ¬ mine e) ∨ ¬ room → exec (.pageRequestDrain d x) s = .next s) ∧
    ∀ pre e post, (s.die d).prq = pre ++ e :: post → (∀ y ∈ pre, ¬ mine y) → mine e → room → (s.die d).prqWait = [] →
      ∃ t, exec (.pageRequestDrain d x) s = .next t ∧ (t.ctx x).prqHead = c.prqHead + 1 ∧ (t.die d).prq = pre ++ post ∧
        t.mem = (s.memWriteBytes (some e.part) (c.prqRing.toNat % 2 ^ 56 / 32 * 32 + 32 * (c.prqHead.toNat % c.prqSize.toNat))
          (bytesOfNat 8 e.addr.toNat ++ bytesOfNat 4 e.seq.toNat ++ bytesOfNat 2 e.cluster ++ bytesOfNat 2 e.sid ++
            [BitVec.ofNat 8 e.path, e.cause.code, BitVec.ofNat 8 e.part, BitVec.ofNat 8 e.flags] ++ List.replicate 12 0)).mem ∧
        let r := if c.prqIrq = true ∨ e.irq = true then s.raise (4 * e.part + 1) else s
        t.irqs = r.irqs ∧ t.msixPba = r.msixPba) ∧
  (∀ (s : State) (v : Nat), v < 128 →
    (s.vecMasked v = false → (s.raise v).irqs = s.irqs ++ [v] ∧ (s.raise v).msixPba = s.msixPba) ∧
    (s.vecMasked v = true → (s.raise v).irqs = s.irqs ∧ (s.raise v).msixPba.getLsbD v = true)) ∧
  (∀ s : State, (s.cycle % 64 ≠ 0 → exec .arbAgeStep s = .next s) ∧
    (s.cycle % 64 = 0 → ∃ t, exec .arbAgeStep s = .next t ∧ MemSame s t ∧ RegsSame s t ∧
      ∀ (c i : Nat) (m : Miss), (s.cluster c).misses[i]? = some m →
        (t.cluster c).misses[i]? = some
          (if m.walker = false ∧ ((s.cluster c).misses.take i).all (·.walker) = true then
            { m with age := min 65535 (m.age + (s.part m.part).qosWt.toNat % 128) } else m))) ∧
  ∀ (s : State) (k since : Nat) (g : Fibre) (st : Strand), s.fib? k = some g → s.strand? (fibStrand k) = some st →
    g.state = .parked → g.wait = .code since →
    (s.arrived k g.pc = false → exec (.codeArrival k) s = .next s) ∧
    (s.arrived k g.pc = true → ∃ t h, exec (.codeArrival k) s = .next t ∧ t.fib? k = some h ∧ h.state = .ready ∧ h.pc = g.pc ∧
      MemSame s t ∧ RegsSame s t) ∧
    (s.refCount < since + (s.part (s.strandPart (fibStrand k))).codeTmo.toNat → exec (.codeUnarrived k) s = .next s) ∧
    (since + (s.part (s.strandPart (fibStrand k))).codeTmo.toNat ≤ s.refCount → exec (.codeUnarrived k) s = .next
      (s.takeTrap k { cause := .codeUnarrived, addr := BitVec.ofNat 64 (s.fetchAddr k g), word := some 0 }
        (st.mask g.laneSet (s.cycle, s.cycle, s.cycle)) 0))

/-- The two statements `SlotsAndDeferredTraps` and `WalksRequestsAndArrivals`. -/
def Obligations.SlotsWalksAndArrivals : Prop := SlotsAndDeferredTraps ∧ WalksRequestsAndArrivals

/-! ### The Ephemeris, trace streams and measurement (chapter 20) -/

/-- R432, R433, R436, R438, R439, R447: at a tick every due partition's counters are latched, and its die's record of 272 bytes goes to the
ring; staged packets go to the segment while they fit, each before the head advances past it; a full staging buffer under
MODE 1 stops the cluster's traced fibres at their boundaries with cause 91; the end of a measured pass begins the next one with
memory restored, or ends the measurement with a new epoch. Where it rests on a choice or an inference of the model: log entries 30 and 78. -/
def Obligations.CountersTraceAndPasses : Prop :=
  (∀ s : State,
    let due := fun (p : Nat) => p < 32 ∧ (s.part p).ephEn = true ∧ s.cycle % 2 ^ (s.part p).ephK = 0
    ((∀ p, ¬ due p) → exec .ephemerisTick s = .next s) ∧
    (∃ t, exec .ephemerisTick s = .next t ∧ RegsSame s t ∧
      ∀ p, due p → (t.part p).ephClock = false ∧ ∀ c ∈ s.clustersOf p, (t.cluster c).evTick = (s.cluster c).ev) ∧
    ∀ p d, due p → (∀ q, due q → q = p) → s.clustersOf p ≠ [] → (∀ c ∈ s.clustersOf p, clusterDie c = d) →
      (s.part p).ephWait = [] → (s.part p).ephHead - (s.part p).ephTail ≠ (s.part p).ephSize →
      ∃ t, exec .ephemerisTick s = .next t ∧ (t.part p).ephHead = (s.part p).ephHead + 1 ∧ (t.part p).ephLost = 0 ∧
        t.mem = (s.memWriteBytes (some p) ((s.part p).ephBase.toNat % 2 ^ 56 + 272 * ((s.part p).ephHead.toNat % (s.part p).ephSize.toNat))
          ([0xE7, BitVec.ofNat 8 d, BitVec.ofNat 8 (s.part p).ephK,
              BitVec.ofNat 8 ((if (s.part p).ephLost = 0 then 0 else 1) + if (s.part p).ephClock = true then 2 else 0),
              BitVec.ofNat 8 p, 0] ++ bytesOfNat 2 (min 65535 (s.part p).ephLost) ++ bytesOfNat 8 (s.cycle / 2 ^ (s.part p).ephK) ++
            (List.range 64).flatMap fun i => bytesOfNat 4 (min (2 ^ 32 - 1)
              ((s.clustersOf p).map fun c => (tget? (s.cluster c).ev i).getD 0 - (tget? (s.cluster c).evTick i).getD 0).sum))).mem ∧
        let r := if (s.part p).ephIrq = true then s.raise (4 * p + 2) else s
        t.irqs = r.irqs ∧ t.msixPba = r.msixPba) ∧
  (∀ (s : State) (c : Nat),
    let tr := (s.cluster c).trace
    ((∀ p, p < 32 → s.owns p c = false) → exec (.traceDrain c) s = .next s) ∧
    ∀ p, p < 32 → s.owns p c = true → (∀ q, q < p → s.owns q c = false) →
      let x := s.part p
      let room := 2 ^ x.trSeg - (tr.head - tr.tail).toNat
      let at_ := fun (i : Nat) => x.trBase.toNat % 2 ^ 56 + 2 ^ x.trSeg * (c - x.rangeBase) + (tr.head.toNat + i) % 2 ^ x.trSeg
      (∀ h tl, tr.staged = h :: tl → packetLen h = tr.staged.length → packetLen h ≤ room → MemOk s → s.linkDown = false →
        tr.holding = false →
        (∀ i, i < packetLen h → OffLog s p (.mem (at_ i))) →
        ∃ t, exec (.traceDrain c) s = .next t ∧ (t.cluster c).trace.staged = [] ∧
          (t.cluster c).trace.head = tr.head + BitVec.ofNat 32 (packetLen h) ∧ RegsSame s t ∧
          (∀ i b, tr.staged[i]? = some b → t.memRead (at_ i) = b) ∧
          ∀ a, (∀ i, i < packetLen h → a ≠ at_ i) → OffLog s p (.mem a) → t.memRead a = s.memRead a) ∧
      ((∀ h tl, tr.staged = h :: tl → room < min (packetLen h) tr.staged.length) →
        (tr.holding = false → x.trMode = false ∨ tr.staged.length < 384 → exec (.traceDrain c) s = .next s) ∧
        (tr.holding = false → x.trMode = true → 384 ≤ tr.staged.length → ∃ t, exec (.traceDrain c) s = .next t ∧
          (t.cluster c).trace.holding = true ∧ ∀ k f, s.fib? k = some f → fibCluster k = c → f.state = .ready → f.inBody = false →
            f.wait.entering = false → s.traced k = true → ∃ g, t.fib? k = some g ∧ g.state = .stopped ∧ g.stopCause = 91 ∧ g.pc = f.pc))) ∧
  ∀ (s : State) (part : Nat),
    let p := s.part part
    ((p.mrLaunch = none ∨ ∃ n l, p.mrLaunch = some n ∧ tget? s.launches n = some l ∧ s.launchDone l = false) →
      exec (.measurePassEnd part) s = .next s) ∧
    ∀ n l, p.mrLaunch = some n → tget? s.launches n = some l → s.launchDone l = true →
      ∃ t, exec (.measurePassEnd part) s = .next t ∧ (l.frontier = none → (t.part part).undo = []) ∧
        (p.mrPass ≠ 0 → (t.part part).mrMismatch = p.mrMismatch ||| if p.mrSig = p.mrSig0 then 0 else BitVec.ofNat 32 (2 ^ p.mrPass)) ∧
        (p.mrPass = 0 → (t.part part).mrSig0 = p.mrSig) ∧
        (p.mrPass + 1 < p.mrPasses → p.ckFull = false → (t.part part).mrPass = p.mrPass + 1 ∧ (t.part part).mrSig = 0 ∧
          (t.part part).mrLaunch = some n ∧ ∃ x, tget? t.launches n = some x ∧ x.placed = 0 ∧ x.ended = 0 ∧ x.rec_ = l.rec_) ∧
        (p.mrPasses ≤ p.mrPass + 1 ∨ p.ckFull = true → (t.part part).mrLaunch = none ∧ (t.part part).mrEn = false ∧
          (t.part part).ckEpoch = p.ckEpoch + 1 ∧ (t.part part).ckFull = false)

/-! ### Pre-emption, kills and the halt line (chapter 12) -/

/-- R295, R309, R328 to R330, R334 to R336: a slice that ends raises a soft request, which saves the fibres parked at task boundaries; after
PRE_GRACE the running fibres halt; with everything settled the save area is written (Table 12.5) and the context is out; after PRE_KILL it is killed. A
context that is out is switched in again, and a halt cause stops the partition, kills its contexts and raises its management
vector. Where it rests on a choice or an inference of the model: log entries 29, 73 and 94. -/
def Obligations.ContextsLeaveAndReturn : Prop :=
  (∀ (s : State) (x : Nat),
    let c := s.ctx x
    let inCtx := fun (k : Nat) => s.strandIn x (fibStrand k) = true
    let ended := c.pre = .in_ ∧ c.slice ≠ 0 ∧ c.sliceAt + c.slice.toNat ≤ s.refCount
    (¬ ended → exec (.sliceEnd x) s = .next s) ∧
    (ended → ∃ t, exec (.sliceEnd x) s = .next t ∧ (t.ctx x).pre = .soft s.refCount ∧ MemSame s t ∧ RegsSame s t ∧
      ∀ k f, s.fib? k = some f → inCtx k → f.state = .parked → f.wait.taskBoundary = true →
        ∃ g, t.fib? k = some g ∧ g.saved = true ∧ g.wait = f.wait ∧ g.pc = f.pc) ∧
    (∀ since, c.pre = .soft since →
      (s.refCount < since + c.preGrace.toNat → exec (.instructionLevelHalt x) s = .next s) ∧
      (since + c.preGrace.toNat ≤ s.refCount → ∃ t, exec (.instructionLevelHalt x) s = .next t ∧ (t.ctx x).pre = .halt s.refCount ∧
        MemSame s t ∧ RegsSame s t ∧ ∀ k f, s.fib? k = some f → inCtx k → f.state = .running → f.beats = [] → f.inBody = false →
          ∃ g, t.fib? k = some g ∧ g.state = .ready ∧ g.pc = f.pc ∧ g.runPos = f.runPos)) ∧
    ((∀ n, c.pre ≠ .soft n) → exec (.instructionLevelHalt x) s = .next s) ∧
    ((∀ n, c.pre ≠ .halt n) → exec (.kill x) s = .next s) ∧
    (∀ since, c.pre = .halt since →
      (s.refCount < since + c.preKill.toNat → exec (.kill x) s = .next s) ∧
      (since + c.preKill.toNat ≤ s.refCount → ∃ t, exec (.kill x) s = .next t ∧ (t.ctx x).pre = .in_ ∧
        (∀ e ∈ t.skeins, ctxKey e.2.part e.2.ctx ≠ x) ∧ (∀ e ∈ t.strands, s.strandIn x e.1 = false) ∧
        ((s.launches.map (·.1)).Nodup → ∀ e ∈ t.launches, e.2.ctxKey = x → e.2.held ≠ none)))) ∧
  (∀ (s : State) (x : Nat), (∀ e ∈ s.skeins, e.2.point = none) → (∀ e ∈ s.launches, e.2.frontier = none) →
    (s.saveReady x = false → exec (.contextSaveEnd x) s = .next s) ∧
    (s.saveReady x = true →
      let head := bytesOfNat 4 0x43534156 ++ bytesOfNat 4 (if (s.ctx x).softAsked = true then 87 else 88) ++
        bytesOfNat 4 (s.skeinsIn x).length ++ bytesOfNat 4 0 ++ bytesOfNat 8 s.refCount ++ List.replicate 40 0
      let area := head ++ (s.skeinsIn x).flatMap fun e => s.skeinRecord e.1 e.2
      (s.agentWrite none x (s.ctx x).ctxSave.toNat area = none → exec (.contextSaveEnd x) s = .next s) ∧
        ∀ u, s.agentWrite none x (s.ctx x).ctxSave.toNat area = some u →
          ∃ t, exec (.contextSaveEnd x) s = .next t ∧ (t.ctx x).pre = .out ∧ t.mem = u.mem ∧ RegsSame s t ∧
            (∀ k sk, t.skein? k = some sk → ctxKey sk.part sk.ctx = x → sk.saved = true) ∧
            ∀ k f, s.fib? k = some f → s.strandIn x (fibStrand k) = true → ∃ g, t.fib? k = some g ∧ g.saved = true ∧ g.pc = f.pc)) ∧
  (∀ (s : State) (x : Nat),
    let c := s.ctx x
    let stays := (s.part (x / 16)).cmpPark = true ∨ (s.part (x / 16)).halted ≠ none ∨
      (c.pre ≠ .out ∧ (c.pre ≠ .in_ ∨ ∀ e ∈ s.skeins, ctxKey e.2.part e.2.ctx = x → e.2.saved = false))
    (stays → exec (.contextRestore x) s = .next s) ∧
    (¬ stays → (∀ e ∈ s.launches, e.2.frontier = none) → ∃ t, exec (.contextRestore x) s = .next t ∧ (t.ctx x).pre = .in_ ∧
      t.mem = s.mem ∧ (c.pre = .out → (t.ctx x).sliceAt = s.refCount) ∧
      ∀ sk k, s.skeins = [(sk, k)] → ctxKey k.part k.ctx = x → k.saved = true →
        s.admits (sk / 4096) (s.holds sk k) (s.owed sk k) = true →
        (∃ k', t.skein? sk = some k' ∧ k'.saved = false) ∧
        ∀ j f, s.fib? j = some f → fibSkein j = sk → (∀ d q r tg, f.wait ≠ .tpop d q r tg) → ∃ g, t.fib? j = some g ∧ g.saved = false ∧ g.pc = f.pc ∧ g.runPos = f.runPos)) ∧
  ∀ (s : State) (p : Nat) (e : Cause),
    let halts := e = .mcHaltLine ∨ e = .mcLink ∨ e = .mcHbm ∨ e = .mcInternal
    (¬ halts ∨ 32 ≤ p ∨ (s.part p).halted ≠ none → exec (.haltLine p e) s = .next s) ∧
    (halts → p < 32 → (s.part p).halted = none → ∃ t, exec (.haltLine p e) s = .next t ∧ (t.part p).halted = some e ∧
      (t.part p).stops = (s.stopRecords p).length ∧ 
        (4 * p + 3 ∈ t.irqs ∨ s.vecMasked (4 * p + 3) = true ∧ t.msixPba.getLsbD (4 * p + 3) = true) ∧ ∀ k ∈ t.skeins, k.2.ctx < 16 → k.2.part ≠ p)

/-! ### Register writes that do something -/

/-- R182, R325, R440 to R442: XL_INV drops every translation of the context that it covers and stays BUSY until no access may use an
old one; FQ_RESUME makes the fibres of the records it names READY; a stop takes a fibre at its next boundary with cause 90, and
a release lets it go on past that boundary once its stop record is written, for one instruction where it is a step; a BRK that it
stands at then acts as RUNEND. Where it rests on a choice or an inference of the model: log entry 58. -/
def Obligations.InvalidationsResumesAndStops : Prop :=
  (∀ (s : State) (x : Nat) (v : Word),
    let n := pszExp (v.toNat % 8)
    let b := (s.ctx x).xlInvVa.toNat % 2 ^ 57 / 2 ^ n * 2 ^ n
    let hit := fun (y : Xlat) => y.part = x / 16 ∧ y.ctx = x % 16 ∧
      (v.getLsbD 3 = true ∨ y.vbase < b + 2 ^ n ∧ b < y.vbase + 2 ^ y.size)
    (5 ≤ v.toNat % 8 ∨ (s.ctx x).xlInvBusy = true → exec (.xlInvWrite x v) s = .next s) ∧
    (v.toNat % 8 < 5 → (s.ctx x).xlInvBusy = false → ∃ t, exec (.xlInvWrite x v) s = .next t ∧ (t.ctx x).xlInvBusy = true ∧
      MemSame s t ∧ RegsSame s t ∧ ∀ c y, y ∈ (t.cluster c).tlb ↔ y ∈ (s.cluster c).tlb ∧ ¬ hit y) ∧
    ((s.ctx x).xlInvBusy = false ∨ s.xlBusy x = true → exec (.xlInvDone x) s = .next s) ∧
    ((s.ctx x).xlInvBusy = true → s.xlBusy x = false → ∃ t, exec (.xlInvDone x) s = .next t ∧ (t.ctx x).xlInvBusy = false ∧
      MemSame s t ∧ RegsSame s t ∧ ∀ k f, s.fib? k = some f → s.strandCtx (fibStrand k) = x → f.wait = .unit →
        t.fib? k = some { f with wait := .none })) ∧
  (∀ (s : State) (x : Nat) (v : Word), ∃ t, exec (.fqResume x v) s = .next t ∧
    ((∀ e ∈ s.launches, e.2.held = none) → MemSame s t ∧ RegsSame s t) ∧
    ∀ k f n, s.fib? k = some f → f.wait = .faultQ n → s.strandCtx (fibStrand k) = x →
      (v = 0xFFFFFFFF ∨ n = v.toNat → ∃ g, t.fib? k = some g ∧ g.state = .ready ∧ g.pc = f.pc ∧ g.runPos = f.runPos) ∧
      (v ≠ 0xFFFFFFFF → n ≠ v.toNat → (s.allFibs.map (·.1)).Nodup → t.fib? k = some f)) ∧
  (∀ (s : State) (x cl sid path : Nat),
    let k := mkFib (mkStrand cl sid) path
    let named := fun (f : Fibre) => s.fib? k = some f ∧ s.strandCtx (fibStrand k) = x ∧ path < 96 ∧ sid < 65536
    ((∀ f, ¬ named f) → exec (.dbgStop x cl sid path) s = .next s ∧ exec (.dbgRelease x cl sid path) s = .next s ∧
      exec (.dbgStep x cl sid path) s = .next s) ∧
    ∀ f, named f →
      (f.state = .stopped → exec (.dbgStop x cl sid path) s = .next s) ∧
      (f.state = .ready → f.inBody = false → f.wait.entering = false → ∃ t g, exec (.dbgStop x cl sid path) s = .next t ∧ t.fib? k = some g ∧
        g.state = .stopped ∧ g.stopCause = 90 ∧ g.pc = f.pc ∧ g.runPos = f.runPos ∧ RegsSame s t) ∧
      (f.state ≠ .stopped → ¬ (f.state = .ready ∧ f.inBody = false ∧ f.wait.entering = false) →
        exec (.dbgStop x cl sid path) s = .next (s.modFib k fun g => { g with stopReq := true })) ∧
      (f.state ≠ .stopped → exec (.dbgRelease x cl sid path) s = .next s ∧ exec (.dbgStep x cl sid path) s = .next s) ∧
      ∀ (i : Instr) (step : Bool), (i = .dbgRelease x cl sid path ∧ step = false ∨ i = .dbgStep x cl sid path ∧ step = true) →
        f.state = .stopped → f.saved = false →
        (f.stopRec ≠ none → exec i s = .next (s.modFib k fun g => { g with release := some step })) ∧
        (f.stopRec = none → ∃ t g, exec i s = .next t ∧ t.fib? k = some g ∧ g.state = .ready ∧ g.pc = f.pc ∧
          g.runPos = f.runPos ∧ g.passStop = true ∧ g.stepReq = step ∧ g.passBrk = true ∧ RegsSame s t)) ∧
  ∀ (s : State) (x : Nat), ∃ t u, exec (.dbgStopAll x) s = .next t ∧ exec (.dbgReleaseAll x) s = .next u ∧ RegsSame s t ∧ RegsSame s u ∧
    ∀ k f, s.fib? k = some f → s.strandCtx (fibStrand k) = x →
      (∃ g, t.fib? k = some g ∧ g.pc = f.pc ∧ (g.state = .stopped ∨ g.stopReq = true)) ∧
      (f.state = .stopped → f.saved = false → f.stopRec = none → ∃ g, u.fib? k = some g ∧ g.state = .ready ∧ g.pc = f.pc)

/-- R303, R431, R432, R446, R458, R468, R469, R473: the parking of a partition and the rewriting of its text addresses by a valid
forwarding table; pool limits, task queues, event codes, the Ephemeris, measurements and launch queues take a value in
range and refuse any other. Where it rests on a choice or an inference of the model: log entries 52, 53 and 57. -/
def Obligations.ConfigurationWrites : Prop :=
  (∀ (s : State) (p : Nat),
    let q := s.part p
    let parked := q.cmpPark = true ∧ ∀ f ∈ s.allFibs, s.strandPart (fibStrand f.1) = p → q.cmpExempt ≠ some f.1 → s.inSlot f.1 = false
    (∀ ex, ∃ t, exec (.cmpPark p ex) s = .next t ∧ MemSame s t ∧ RegsSame s t ∧ (t.part p).cmpPark = true ∧
      (t.part p).cmpExempt = (if q.cmpPark = true then q.cmpExempt else ex) ∧ (q.cmpPark = true → (t.part p).cmpUnpark = false)) ∧
    (∃ t, exec (.cmpUnpark p) s = .next t ∧ MemSame s t ∧ RegsSame s t ∧
      (q.cmpBusy = true → (t.part p).cmpPark = q.cmpPark ∧ (t.part p).cmpUnpark = true) ∧
      (q.cmpBusy = false → (t.part p).cmpPark = false ∧ (t.part p).cmpExempt = none)) ∧
    (¬ parked → exec (.cmpFwd p) s = .next s) ∧
    (parked → ∃ t, exec (.cmpFwd p) s = .next t ∧ MemSame s t ∧ RegsSame s t ∧ (t.part p).cmpBusy = true) ∧
    (q.cmpBusy = false → exec (.cmpFwdDone p) s = .next s) ∧
    (q.cmpBusy = true → (s.allFibs.map (·.1)).Nodup → ∃ t, exec (.cmpFwdDone p) s = .next t ∧ MemSame s t ∧ RegsSame s t ∧
      (t.part p).cmpBusy = false ∧
      (s.fwdTable p = none ∨ (∃ e, s.fwdTable p = some e ∧ fwdValid 0 e = false) → (t.part p).cmpErr = true ∧
        ∀ k f, s.fib? k = some f → ∃ g, t.fib? k = some g ∧ g.base = f.base) ∧
      ∀ e, s.fwdTable p = some e → fwdValid 0 e = true → (t.part p).cmpErr = false ∧
        (∀ n, n < 16 → ∀ e ∈ (t.ic n).items, e.part ≠ p) ∧
        ∀ k f b, s.fib? k = some f → s.strandPart (fibStrand k) = p → f.base = some b → ∃ g b', t.fib? k = some g ∧ g.pc = f.pc ∧
          g.base = some b' ∧
          (b'.toNat + pcOffset f.pc) % 2 ^ 64 = fwdAddr e ((b.toNat + pcOffset f.pc) % 2 ^ 64) % 2 ^ 64)) ∧
  (∀ (s : State) (p x : Nat) (v : Word),
    let w := (s.ctx (16 * p + x)).bpSel.toNat
    let unit := w / 2 ^ 21 % 8
    let loc := w / 2 ^ 24
    let q := if unit = 5 then w % 64 else w / 2 ^ 16 % 32
    let lo := v.toNat % 65536
    let cap := v.toNat / 65536
    let may := lo ≤ cap ∧ cap ≤ poolSize unit ∧
      ((List.range (poolQueues unit)).map fun j => if j = q then lo else (s.poolLim unit loc j).1).sum ≤ poolSize unit
    (¬ may → exec (.bpLimWrite p x v) s = .next s) ∧
    (may → ∃ t, exec (.bpLimWrite p x v) s = .next t ∧ t.poolLim unit loc q = (lo, cap))) ∧
  (∀ (s : State) (d q : Nat) (v : Word),
    let part := v.toNat / 2 ^ 24 % 32
    let high := v.toNat / 2 ^ 12 % 4096
    let low := v.toNat % 4096
    let may := (high = 0 ∨ low < high) ∧ (part = (s.tq d q).part ∨ (s.tq d q).recs = [])
    (¬ may → exec (.tqCfgWrite d q v) s = .next s) ∧
    (may → ∃ t, exec (.tqCfgWrite d q v) s = .next t ∧ MemSame s t ∧ (t.tq d q).en = v.getLsbD 31 ∧ (t.tq d q).part = part ∧
      (t.tq d q).high = high ∧ (t.tq d q).low = low)) ∧
  (∀ (s : State) (c : Nat) (v : Word),
    let code := fun (w : Word) (k : Nat) => w.toNat / 256 ^ k % 256
    ((∃ k, k < 4 ∧ 63 < code v k) → exec (.evSelWrite c v) s = .next s) ∧
    ((∀ k, k < 4 → code v k ≤ 63) → ∃ t, exec (.evSelWrite c v) s = .next t ∧ MemSame s t ∧ RegsSame s t ∧
      (t.cluster c).evSel = v ∧ ∀ k, k < 4 → (t.cluster c).counter k =
        if code v k = code (s.cluster c).evSel k then (s.cluster c).counter k else 0)) ∧
  (∀ (s : State) (p : Nat) (v : Word),
    let k := v.toNat / 256 % 32
    (k < 10 ∨ 24 < k → exec (.ephCtlWrite p v) s = .next s) ∧
    (10 ≤ k → k ≤ 24 → ∃ t, exec (.ephCtlWrite p v) s = .next t ∧ MemSame s t ∧ RegsSame s t ∧ (t.part p).ephK = k ∧
      (t.part p).ephIrq = v.getLsbD 1 ∧ (t.part p).ephEn = v.getLsbD 0 ∧
      (v.getLsbD 0 = true → (s.part p).ephEn = false → ∀ c ∈ s.clustersOf p, (t.cluster c).evTick = (s.cluster c).ev))) ∧
  (∀ (s : State) (p : Nat) (v : Word),
    let n := v.toNat % 32
    let may := 1 ≤ n ∧ n ≤ 16 ∧ ¬ (v.getLsbD 8 = true ∧ (s.part p).ckSize = 0)
    (¬ may → exec (.mrCtlWrite p v) s = .next s) ∧
    (may → ∃ t, exec (.mrCtlWrite p v) s = .next t ∧ MemSame s t ∧ RegsSame s t ∧ (t.part p).mrEn = v.getLsbD 8 ∧
      (t.part p).mrPasses = n)) ∧
  ∀ (s : State) (p : Nat),
    let q := s.part p
    let fits := q.lqBase.toNat % 4096 = 0 ∧ (∃ e, 4 ≤ e ∧ e ≤ 16 ∧ q.lqSize.toNat = 2 ^ e) ∧
      q.lqBase.toNat + 128 * q.lqSize.toNat ≤ hdmBytes ∧ 50 ≤ q.lqRecall.toNat ∧ q.lqRecall.toNat ≤ 10000
    let open_ := p < 32 ∧ (s.startStat.getLsbD 0 = true ∨ s.startStat.toNat / 65536 ≠ 0)
    (¬ open_ → ∀ en, exec (.lqEnable p en) s = .next s) ∧
    (open_ → (∃ t, exec (.lqEnable p false) s = .next t ∧ (t.part p).lqEn = false ∧ MemSame s t ∧ RegsSame s t) ∧
      (s.startStat.getLsbD 2 = true ∧ fits →
        ∃ t, exec (.lqEnable p true) s = .next t ∧ (t.part p).lqEn = true ∧ MemSame s t ∧ RegsSame s t) ∧
      (¬ (s.startStat.getLsbD 2 = true ∧ fits) → exec (.lqEnable p true) s = .next s))

/-! ### The mailbox, the start and the host (chapter 23) -/

/-- A mailbox command has run (R479, Table 23.5); MB_CMD keeps its partition field as written where the command names none (R5). -/
def mailboxRan (s t : State) (op : Nat) (part : Option Nat) (code : Nat) : Prop :=
  t.mbCmd = BitVec.ofNat 32 (part.getD (s.mbCmd.extractLsb' 8 8).toNat * 2 ^ 8 + op) ∧ t.mbRet = BitVec.ofNat 32 code ∧ t.mbWait = none ∧
    let r := match part with | some p => s.raise (4 * p + 3) | none => s
    t.irqs = r.irqs ∧ t.msixPba = r.msixPba

/-- R338, R452, R477, R479, R481: before the start of stage A has ended, and while it is busy, the mailbox takes no command; else each
command does what Table 23.5 says and leaves its return code, 2 for a partition above 31, and a partition's command raises its management
vector. What a register write through PART_WR comes to is the model's State.partWrite. The header of a firmware image (magic, version at
byte 8), the places of a telemetry reading, the layout of the undo log and code 2 for a log that has filled are the model's (log entries
13, 12, 16 and 76). -/
def Obligations.MailboxCommandsRun : Prop :=
  ∀ (s : State) (part x sr idx : Nat) (v : Word) (bs : List (BitVec 8)),
    let answers := s.startStat.getLsbD 0 = true ∨ s.startStat.toNat / 65536 ≠ 0
    let ready := answers ∧ s.mbWait = none
    let idle := 1 - s.fwActive
    let cmds : List Instr := [.fwLoad idx bs, .fwActivate, .partRd part x sr, .rollback part, .partReset part, .peerWr part idx bs,
      .neighWr idx bs, .powerLimit idx, .telemetry]
    let some_ := if part < 32 then some part else none
    (¬ ready → ∀ i ∈ cmds, exec i s = .next s) ∧
    (∀ i, (¬ answers ∨ (s.mbWait ≠ none ∧ s.mbWait ≠ some (part, x, sr, v))) → i = .partWr part x sr v →
      exec i s = .next s) ∧
    (answers → s.mbWait = none ∨ s.mbWait = some (part, x, sr, v) →
      ∃ t, exec (.partWr part x sr v) s = .next t ∧
        (∀ u, s.partWrite part x sr v = .ok u → u.irqs = s.irqs → u.msix = s.msix → u.msixPba = s.msixPba → mailboxRan s t 0x10 some_ 0 ∧ t.ctxs = u.ctxs ∧ t.parts = u.parts ∧
          t.mem = u.mem) ∧
        (s.partWrite part x sr v = .bad → mailboxRan s t 0x10 some_ 2 ∧ SpecialsSame s t ∧ MemSame s t) ∧
        (s.partWrite part x sr v = .refused → mailboxRan s t 0x10 some_ 3 ∧ SpecialsSame s t ∧ MemSame s t) ∧
        (s.partWrite part x sr v = .wait → t.mbWait = some (part, x, sr, v) ∧ t.mbCmd.toNat = (2 ^ 31 + part * 2 ^ 8 + 0x10) % 2 ^ 32) ∧
        (32 ≤ part ∨ 16 ≤ x ∨ srInfo sr = none → mailboxRan s t 0x10 some_ 2) ∧
        (part < 32 → x < 16 → sr = 0x202 → ((s.ctx (16 * part + x)).en = false ∨ v.getLsbD 2 = true) →
          mailboxRan s t 0x10 (some part) 0 ∧ (t.ctx (16 * part + x)).en = v.getLsbD 2 ∧
          (t.ctx (16 * part + x)).prqIrq = v.getLsbD 1 ∧ (t.ctx (16 * part + x)).prqEn = v.getLsbD 0) ∧
        (part < 32 → x < 16 → sr = 0x202 → (s.ctx (16 * part + x)).en = true → v.getLsbD 2 = false →
          ((∃ e ∈ s.skeins, ctxKey e.2.part e.2.ctx = 16 * part + x) ∨ (∃ e ∈ s.launches, e.2.ctxKey = 16 * part + x) →
            mailboxRan s t 0x10 (some part) 3) ∧
          ((∀ e ∈ s.skeins, ctxKey e.2.part e.2.ctx ≠ 16 * part + x) → (∀ e ∈ s.launches, e.2.ctxKey ≠ 16 * part + x) →
            mailboxRan s t 0x10 (some part) 0 ∧ (t.ctx (16 * part + x)).en = false))) ∧
    (ready →
      (∃ t, exec (.fwLoad idx bs) s = .next t ∧ mailboxRan s t 0x01 none 0 ∧ MemSame s t ∧ t.fwActive = s.fwActive ∧
        (idle < s.fwSlots.length → ∀ n, (t.fwSlots.getD idle []).getD n 0 =
          if idx ≤ n ∧ n < idx + bs.length then bs.getD (n - idx) 0 else (s.fwSlots.getD idle []).getD n 0)) ∧
      (let img := s.fwSlots.getD idle []
       let isOk := natOfBytes (img.take 4) = 0x4657494D ∧ (Config.blobMin s.blob).toNat ≤ natOfBytes ((img.drop 8).take 4)
       ∃ t, exec .fwActivate s = .next t ∧ MemSame s t ∧ t.fwActive = s.fwActive ∧ t.fwSlots = s.fwSlots ∧
        (isOk → Config.signaturesVerify img = true → mailboxRan s t 0x02 none 0 ∧ t.fwNext = idle) ∧
        (¬ isOk → mailboxRan s t 0x02 none 2 ∧ t.fwNext = s.fwNext) ∧
        (isOk → Config.signaturesVerify img = false → mailboxRan s t 0x02 none 5 ∧ t.fwNext = s.fwNext)) ∧
      (∃ t, exec (.partRd part x sr) s = .next t ∧ MemSame s t ∧ SpecialsSame s t ∧
        (32 ≤ part ∨ 16 ≤ x ∨ srInfo sr = none ∨ srLocal sr = true → mailboxRan s t 0x11 some_ 2) ∧
        (part < 32 → x < 16 → srInfo sr ≠ none → srLocal sr = false → mailboxRan s t 0x11 (some part) 0 ∧
          (t.mbData.drop 4).take 4 = bytesOfNat 4 (s.regRead { ctx := 16 * part + x, cluster := 0, fib := none } sr).toNat)) ∧
      (32 ≤ part → ∀ e ∈ [(Instr.rollback part, 0x20), (.partReset part, 0x21), (.peerWr part idx bs, 0x30)],
        ∃ t, exec e.1 s = .next t ∧ mailboxRan s t e.2 none 2 ∧ SpecialsSame s t ∧ MemSame s t) ∧
      (part < 32 →
        (∃ t, exec (.rollback part) s = .next t ∧
          ((s.part part).halted = none → mailboxRan s t 0x20 (some part) 4 ∧ MemSame s t) ∧
          ((s.part part).halted ≠ none → (s.part part).ckFull = true → mailboxRan s t 0x20 (some part) 2 ∧ MemSame s t) ∧
          ((s.part part).halted ≠ none → (s.part part).ckFull = false → MemOk s → (s.part part).undo.Nodup →
            (∀ n l, (s.part part).undo[n]? = some l → natOfBytes (s.memReadBytes ((s.part part).undoAt n) 8) = 128 * l ∧
              (128 * l + 128 ≤ (s.part part).undoAt 0 ∨ (s.part part).undoAt (s.part part).undo.length ≤ 128 * l) ∧
              ∀ i, i < 128 → (s.linkDown && hostKey (128 * l + i)) = false) →
            mailboxRan s t 0x20 (some part) 0 ∧ (t.part part).undo = [] ∧ (t.part part).ckEpoch = (s.part part).ckEpoch ∧
            (∀ n l i, (s.part part).undo[n]? = some l → i < 128 → t.memRead (128 * l + i) = s.memRead ((s.part part).undoAt n + 8 + i)) ∧
            (∀ a, a / 128 ∉ (s.part part).undo → t.memRead a = s.memRead a) ∧
            ∀ c ∈ s.clustersOf part, (t.cluster c).l1 = [] ∧ (t.cluster c).uo = [])) ∧
        (∃ t, exec (.partReset part) s = .next t ∧ MemSame s t ∧
          ((s.part part).halted = none → mailboxRan s t 0x21 (some part) 4) ∧
          ((s.part part).halted ≠ none → mailboxRan s t 0x21 (some part) 0 ∧ (t.part part).halted = none ∧ (t.part part).devSeq = 0)) ∧
        (∃ t, exec (.peerWr part idx bs) s = .next t ∧ MemSame s t ∧
          (65536 ≤ idx ∨ bs.length ≠ 32 → mailboxRan s t 0x30 (some part) 2 ∧ SpecialsSame s t) ∧
          (idx < 65536 → bs.length = 32 → mailboxRan s t 0x30 (some part) 0 ∧ tget? (t.part part).peers idx = some bs))) ∧
      (∃ t, exec (.neighWr idx bs) s = .next t ∧ mailboxRan s t 0x31 none 0 ∧ MemSame s t ∧ tget? t.neigh idx = some bs) ∧
      (∃ t, exec (.powerLimit idx) s = .next t ∧ MemSame s t ∧
        (400 ≤ idx → idx ≤ 1750 → mailboxRan s t 0x40 none 0 ∧ t.power = idx) ∧
        (idx < 400 ∨ 1750 < idx → mailboxRan s t 0x40 none 2 ∧ t.power = s.power)) ∧
      ∃ t, exec .telemetry s = .next t ∧ mailboxRan s t 0x41 none 0 ∧ MemSame s t ∧
        (t.mbData.drop 20).take 4 = bytesOfNat 4 (s.clkK % 2 ^ 32))

/-- R5, R12, R232, R470, R471, R473, R476, R478, R480, R481, R483, R484: reset releases every unit as after reset; the stages complete in
order or report an error; the clock is set in sixteenths; a register write takes effect where its register may be written; a link
loss raises every halt line; the host's and a peer's accesses are performed at the home; SPDM messages are answered. What the
memories, the flash and an SPDM reply hold is not stated (log entries 3, 12, 13). Where it rests on a choice or an inference of the model: log entries 11, 77 and 85. -/
def Obligations.StartHostAndPeers : Prop :=
  ∀ s : State,
    let stat := s.startStat.toNat
    let answers := s.startStat.getLsbD 0 = true ∨ stat / 65536 ≠ 0
    let valid := fun (n : Nat) =>
      let img := s.fwSlots.getD n []
      natOfBytes (img.take 4) = 0x4657494D ∧ (Config.blobMin s.blob).toNat ≤ natOfBytes ((img.drop 8).take 4) ∧ Config.signaturesVerify img = true
    (∃ t, exec .resetRelease s = .next t ∧ t.released = true ∧ t.cycle = 0 ∧ t.refCount = 0 ∧ t.startStat = 0 ∧ t.strands = [] ∧
      t.skeins = [] ∧ t.launches = [] ∧ t.clusters = State.reset.clusters ∧ t.dies = State.reset.dies ∧ t.ctxs = State.reset.ctxs ∧
      t.parts = State.reset.parts ∧ t.mem = s.mem ∧ t.fwSlots = s.fwSlots ∧ t.blob = s.blob ∧ t.fwActive = s.fwNext ∧
      (valid s.fwNext → t.fwRun = s.fwNext) ∧ (¬ valid s.fwNext → valid (1 - s.fwNext) → t.fwRun = 1 - s.fwNext)) ∧
    (∀ (err : Nat) (i : Instr) (bit needs : Nat), (i, bit, needs) ∈
        [(Instr.stageADone err, 0, 0), (.stageBDone err, 1, 1), (.stageCDone err, 2, 2), (.stageDDone err, 3, 2)] →
      let may := s.released = true ∧ stat / 65536 = 0 ∧ ∀ j, j < needs → s.startStat.getLsbD j = true
      (¬ may → exec i s = .next s) ∧
      (may → ∃ t e, exec i s = .next t ∧ MemSame s t ∧ RegsSame s t ∧ (err ≠ 0 ∨ bit ≠ 0 → e = err) ∧
        (err = 0 → bit = 0 → (¬ valid s.fwRun → e = 4) ∧ (valid s.fwRun → Config.signaturesVerify s.blob = false → e = 3) ∧
          (valid s.fwRun → Config.signaturesVerify s.blob = true → e = 0 ∧
            (s.startStat.getLsbD 0 = false → t.absent = Config.blobAbsent s.blob))) ∧
        (e = 0 → t.startStat.getLsbD bit = true ∧ (bit = 1 → t.memActive = true)) ∧
        (e = 0 → (t.startStat.getLsbD 4 = true ↔ s.startStat.getLsbD 4 = true ∨ ∀ j, j < 4 → t.startStat.getLsbD j = true)) ∧
        (∀ j, j < 4 → j ≠ bit ∨ e ≠ 0 → t.startStat.getLsbD j = s.startStat.getLsbD j) ∧
        (t.startStat.toNat / 65536 = if e = 0 then 0 else e % 65536))) ∧
    (∀ k, (k < 4 ∨ 16 < k ∨ k = s.clkK → exec (.clockChange k) s = .next s) ∧
      (4 ≤ k → k ≤ 16 → k ≠ s.clkK → ∃ t, exec (.clockChange k) s = .next t ∧ t.clkK = k ∧ MemSame s t ∧ RegsSame s t ∧
        ∀ p q, tget? s.parts p = some q → q.ephEn = true → (t.part p).ephClock = true)) ∧
    (∀ (part x cl n : Nat) (v : DWord),
      let w := s.regWrite { ctx := ctxKey part x, cluster := cl, fib := none } n (lo32 v)
      ((∀ t, w ≠ .ok t) → exec (.registerWrite (.sr part x cl n) v) s = .next s) ∧
      ∀ t, w = .ok t → exec (.registerWrite (.sr part x cl n) v) s = .next t) ∧
    (∀ (ofs : Nat) (v : DWord),
      let i := Instr.registerWrite (.bar0 ofs) v
      (¬ answers ∨ ofs < 0x2000 ∨ (0x3000 ≤ ofs ∧ ofs < 0x10000) ∨ 0x20800 ≤ ofs → exec i s = .next s) ∧
      (answers → ∀ part reg, part < 32 → ofs = 0x10000 + 0x40 * part + reg → reg < 0x40 →
        let q := s.part part
        ∃ t, exec i s = .next t ∧ MemSame s t ∧ RegsSame s t ∧
          (reg = 0x00 → (t.part part).lqBase = if q.lqEn = true then q.lqBase else v) ∧
          (reg = 0x08 → (t.part part).lqSize = if q.lqEn = true then q.lqSize else lo32 v) ∧
          (reg = 0x0C → v.getLsbD 0 = false → (t.part part).lqEn = false) ∧
          (reg = 0x10 → (t.part part).lqExpect = if q.lqEn = true then q.lqExpect else v) ∧
          (reg = 0x18 → (t.part part).lqRecall = lo32 v)) ∧
      (answers → ∀ n, n < 512 → ofs = 0x20000 + 4 * n → ∃ t, exec i s = .next t ∧ tget? t.msix n = some (lo32 v) ∧
        (n % 4 = 3 → s.msixPba.getLsbD (n / 4) = true → v.getLsbD 0 = false →
          t.irqs = s.irqs ++ [n / 4] ∧ t.msixPba.getLsbD (n / 4) = false) ∧
        MemSame s t ∧ RegsSame s t)) ∧
    (∀ i, i = .hostLinkLoss ∨ i = .ideIntegrityFail → ∃ t, exec i s = .next t ∧ t.linkDown = true ∧
      ∀ p, p < 32 → (t.part p).halted ≠ none ∧ ((s.part p).halted = none → (t.part p).halted = some .mcLink ∧
        (4 * p + 3 ∈ t.irqs ∨ t.msixPba.getLsbD (4 * p + 3) = true))) ∧
    (∀ n, isPort n = false → exec (.portDown n) s = .next s) ∧
    (∀ n, isPort n = true → ∃ t, exec (.portDown n) s = .next t ∧ n ∈ t.portsDown ∧ (∀ m ∈ s.portsDown, m ∈ t.portsDown) ∧ MemSame s t ∧ RegsSame s t) ∧
    (∀ (ofs len : Nat) (w : Option (List (BitVec 8))),
      let n := (w.map (·.length)).getD len
      let i := Instr.hostCxlMemAccess ofs w len
      (768 * 2 ^ 30 < ofs + n → exec i s = .next s) ∧
      (ofs + n ≤ 768 * 2 ^ 30 → ∃ t, exec i s = .next t ∧ RegsSame s t ∧
        (s.startStat.getLsbD 1 = false → MemSame s t ∧ (w = none → t.hostPoison = true)) ∧
        (s.startStat.getLsbD 1 = true → w = none → MemSame s t ∧ t.hostData = s.memReadBytes ofs len) ∧
        ∀ bs, s.startStat.getLsbD 1 = true → w = some bs → MemOk s →
          (∀ p j, j < bs.length → OffLog s p (.mem (ofs + j))) →
          (∀ j b, bs[j]? = some b → t.memRead (ofs + j) = b) ∧
          ∀ a, (∀ p, OffLog s p (.mem a)) → a < ofs ∨ ofs + bs.length ≤ a → t.memRead a = s.memRead a)) ∧
    (∀ (part idx ofs : Nat) (bs : List (BitVec 8)),
      let e := s.peerEntry part idx
      let win := Config.peerWindow part idx
      let may := peerValid e = true ∧ s.portUp (peerPort e) = true ∧ ofs + bs.length ≤ win.2
      (¬ may → exec (.peerWrite part idx ofs bs) s = .next s) ∧
      (may → MemOk s → (∀ j, j < bs.length → OffLog s part (.mem (win.1 + ofs + j)) ∧ (s.linkDown && hostKey (win.1 + ofs + j)) = false) →
        ∃ t, exec (.peerWrite part idx ofs bs) s = .next t ∧ RegsSame s t ∧
        (∀ j b, bs[j]? = some b → t.memRead (win.1 + ofs + j) = b) ∧
        ∀ a, OffLog s part (.mem a) → a < win.1 + ofs ∨ win.1 + ofs + bs.length ≤ a → t.memRead a = s.memRead a)) ∧
    ∀ (m : SpdmMsg) (bytes : List (BitVec 8)),
      let reply := fun (n : Nat) => Config.spdmReply n bytes (s.fwSlots.getD s.fwRun []) s.blob
      let takes := (m = .finish → s.spdm = .keyed) ∧ (m = .ideKm → s.spdm = .secured)
      (¬ answers → exec (.spdmMessage m bytes) s = .next s) ∧
      (answers → ∃ t, exec (.spdmMessage m bytes) s = .next t ∧ MemSame s t ∧ RegsSame s t ∧
        (¬ takes → t.doeOut = s.doeOut ++ [reply 10] ∧ t.spdm = s.spdm ∧ t.ideKm = s.ideKm) ∧
        (takes → t.doeOut = s.doeOut ++ [reply (spdmNum m)] ∧ t.spdm = s.spdm.after m ∧
          t.ideKm = s.ideKm ++ (if m = .ideKm then [bytes] else [])))

/-! ### Completion of the forms of the engines, units and commands -/

/-- Every form named here completes, under conditions on the state and the operands alone: LRED and LSCAN where no flag that they can trap
on is enabled (R138, R169); COPY, GATHER and COLL with their counter and the queue open and no check failing (R250, R251, R257);
ENGINE_OP_COMPLETE of an operation whose bursts are all made (R249, R255); SBRD, ESCRD, SBWD and SBCLR with an index of the table (R423 to
R427); STORE_PERFORMED of a part that nothing holds back (R200, R201); the Ephemeris tick, the trace drain and the end of a measured pass
(R432, R438, R447); a trial and an installation (R408); and the mailbox commands after stage A (R479). -/
def Obligations.FormsOfUnitsComplete : Prop :=
  (∀ (s : State) (c : Ctx) (f : X64) (op : LaneOp), (∀ e ∈ laneOrder op, c.st.ctl.getLsbD (fpEnable e).1 = false) →
    (Issues (.lred op f) s c → ∃ W fl tag, exec (.lred op f) s =
      .next (c.advance (c.orFlags (c.putBits s f.d.toNat c.act (fun _ => W) 0xFFFFFFFF 4 tag) (fun _ => fl) 4))) ∧
    (Issues (.lscan op f) s c → ∃ W fl tag, exec (.lscan op f) s =
      .next (c.advance (c.orFlags (c.putBits s f.d.toNat c.act W 0xFFFFFFFF 4 tag) fl 4)))) ∧
  (∀ (s : State) (c : Ctx) (i : Instr) (k : OpClass) (kind : EngKind) (dst : DWord), Issues i s c → c.act ≠ 0 → c.Untagged →
    let pat := match i with
      | .copy .pat _ => true
      | _ => false
    let v := if pat = true ∧ s.drainBusy c.k = none then s.drainStores c.k else s
    engineOf v c i = some (k, kind, none, dst) → v.engineReady c.strand k = true →
    (∃ t, exec i s = .next t ∧ c.WentOn t) ∧
    (s.myStores c.k = [] → ∃ t st, exec i s = .next t ∧ c.WentOn t ∧ t.strand? c.strand = some st ∧ st.cnt k = c.st.cnt k + 1)) ∧
  (∀ (s : State) (strand num : Nat) (k : OpClass) (o : EngOp) (st : Strand) (rs : List Range),
    (s.cluster (strandCluster strand)).copies.find? (fun x => x.strand == strand && x.cls == k && x.num == num) = some o →
    o.kind.collSig = none → o.flying = [] → o.ending = none → o.plan = some rs → rs.length ≤ o.idx → s.strand? strand = some st → st.paths ≠ [] →
    (s.ctx (s.strandCtx strand)).halting = false → o.due ≤ s.cycle → s.engMay o = true →
    ∃ t, exec (.engineOpComplete strand k num) s = .next t ∧
      ∀ x ∈ (t.cluster (strandCluster strand)).copies, ¬ (x.strand = strand ∧ x.cls = k ∧ x.num = num)) ∧
  (∀ (s : State) (c : Ctx) (f : X64),
    let part := s.strandPart c.strand
    let idx := (c.rdLow f.a.toNat).toNat
    let table := fun (t : State) => (t.cluster c.cluster).subst
    (Issues (.sbrd f) s c → idx ≤ 63 → ∃ W, exec (.sbrd f) s = .next (c.afterWrite s f.d 0xFFFFFFFF 3 W fun _ => 0)) ∧
    (Issues (.escrd f) s c → ∃ t m, exec (.escrd f) s = .next t ∧ c.WentOn t ∧ ParkedIn t c.k (.miss m) ∧ m.form.dst = f.d.toNat) ∧
    (Issues (.sbwd f) s c → idx ≤ 63 → (s.part part).substCtl.getLsbD 0 = true → ∃ t, exec (.sbwd f) s = .next t ∧ c.WentOn t ∧
      ∀ e, (table s)[idx]? = some e → e.part = part → e.state = .promoted → (table t)[idx]? =
        some { e with state := if f.imm8 = 3 then .rejected else .withdrawn }) ∧
    (Issues (.sbclr f) s c → idx ≤ 63 → ∃ t, exec (.sbclr f) s = .next t ∧ c.WentOn t ∧
      ∀ e, (table s)[idx]? = some e → e.part = part → e.state ≠ .free → (table t)[idx]? = some { installs := e.installs })) ∧
  (∀ (s : State) (cl sp i : Nat) (e : StoreEntry), (s.spindle cl sp).stores[i]? = some e → e.due ≤ s.cycle → e.size = 1 →
    e.partMay (s.spindle cl sp).stores 0 = true → (s.cluster cl).busyBank (e.partLocs 0) = none →
    ∃ t, exec (.storePerformed cl sp i) s = .next t ∧
      unviewed (t.spindle cl sp).stores = unviewed ((s.spindle cl sp).stores.filter fun x => x.id != e.id)) ∧
  (∀ s : State, ∃ t, exec .ephemerisTick s = .next t ∧ ∀ p, p < 32 → (s.part p).ephEn = true → s.cycle % 2 ^ (s.part p).ephK = 0 →
    ∀ c ∈ s.clustersOf p, (t.cluster c).evTick = (s.cluster c).ev) ∧
  (∀ (s : State) (c p : Nat) (h : Byte) (tl : List Byte), s.owner c = some p → (s.cluster c).trace.staged = h :: tl →
    packetLen h = tl.length + 1 → (s.cluster c).trace.holding = false →
    packetLen h ≤ 2 ^ (s.part p).trSeg - ((s.cluster c).trace.head - (s.cluster c).trace.tail).toNat →
    ∃ t, exec (.traceDrain c) s = .next t ∧ (t.cluster c).trace.staged = [] ∧
      (t.cluster c).trace.head = (s.cluster c).trace.head + BitVec.ofNat 32 (packetLen h)) ∧
  (∀ (s : State) (part n : Nat) (l : Launch), (s.part part).mrLaunch = some n → tget? s.launches n = some l → s.launchDone l = true →
    ∃ t, exec (.measurePassEnd part) s = .next t ∧
      ((s.part part).mrPass + 1 < (s.part part).mrPasses → (s.part part).ckFull = false →
        (t.part part).mrPass = (s.part part).mrPass + 1) ∧
      ((s.part part).mrPasses ≤ (s.part part).mrPass + 1 → (t.part part).mrLaunch = none)) ∧
  (∀ (s : State) (cl job n : Nat) (x : Sampler) (ws : List (BitVec 64)) (is : List Instr), (s.cluster cl).sampler[job]? = some (some x) →
    candInstrs ws = some is → s.sampled cl x = true → x.done = false →
    ((s.part x.part).cmpPark = false → (s.part x.part).substCtl.getLsbD 0 = true → (s.part x.part).trialBeats ≠ 0 →
      candOk is x.text x.ins x.outs = true → x.trial = some (is, n) → ∃ t, exec (.trial cl job n ws) s = .next t ∧
        (t.part x.part).trialBeats = 0) ∧
    (is = [] → ∃ t, exec (.candidateInstall cl job ws) s = .next t ∧
      (t.cluster cl).sampler[job]? = some (some { x with done := true, trial := none })) ∧
    (is ≠ [] → x.trial = some (is, 64) → ∀ (e : SubEntry), (s.cluster cl).subst[0]? = some e → e.state = .free →
      ∃ t y, exec (.candidateInstall cl job ws) s = .next t ∧ (t.cluster cl).subst[0]? = some y ∧ y.state = .probation ∧ y.cand = is)) ∧
  ∀ (s : State) (part x sr idx : Nat) (v : Word) (bs : List (BitVec 8)), s.startStat.getLsbD 0 = true → s.mbWait = none → part < 32 →
    (∃ t, exec (.fwLoad idx bs) s = .next t ∧ mailboxRan s t 0x01 none 0) ∧
    (∃ t code, exec .fwActivate s = .next t ∧ mailboxRan s t 0x02 none code) ∧
    (∀ u, s.partWrite part x sr v = .ok u → u.irqs = s.irqs → u.msix = s.msix → u.msixPba = s.msixPba → ∃ t, exec (.partWr part x sr v) s = .next t ∧
      mailboxRan s t 0x10 (some part) 0 ∧ t.mem = u.mem ∧ t.parts = u.parts ∧ t.ctxs = u.ctxs) ∧
    (x < 16 → srInfo sr ≠ none → srLocal sr = false → ∃ t, exec (.partRd part x sr) s = .next t ∧ mailboxRan s t 0x11 (some part) 0) ∧
    ((s.part part).halted ≠ none →
      ((s.part part).ckFull = false → ∃ t, exec (.rollback part) s = .next t ∧ mailboxRan s t 0x20 (some part) 0 ∧ (t.part part).undo = []) ∧
      ∃ t, exec (.partReset part) s = .next t ∧ mailboxRan s t 0x21 (some part) 0 ∧ (t.part part).halted = none) ∧
    (idx < 65536 → bs.length = 32 → ∃ t, exec (.peerWr part idx bs) s = .next t ∧ mailboxRan s t 0x30 (some part) 0 ∧
      tget? (t.part part).peers idx = some bs) ∧
    (∃ t, exec (.neighWr idx bs) s = .next t ∧ mailboxRan s t 0x31 none 0 ∧ tget? t.neigh idx = some bs) ∧
    (400 ≤ idx → idx ≤ 1750 → ∃ t, exec (.powerLimit idx) s = .next t ∧ mailboxRan s t 0x40 none 0 ∧ t.power = idx) ∧
    ∃ t, exec .telemetry s = .next t ∧ mailboxRan s t 0x41 none 0
end

