-- ==== Sys2Proof/Laws/Elements.lean ====
section
/-! SUPPORT. Elements of words: what a word made from elements holds in each of them. -/

namespace Sys2Proof.Machine

/-- The number that a list of elements stands for. -/
def elemsNat (w : Nat) (es : List Nat) : Nat := es.foldr (fun e a => e % 2 ^ w + 2 ^ w * a) 0

theorem elemsNat_lt (w : Nat) (es : List Nat) : elemsNat w es < 2 ^ (w * es.length) := by
  induction es with
  | nil => simp [elemsNat]
  | cons e es ih =>
    have h1 : e % 2 ^ w < 2 ^ w := Nat.mod_lt _ (by positivity)
    have h2 : elemsNat w (e :: es) = e % 2 ^ w + 2 ^ w * elemsNat w es := rfl
    rw [h2, List.length_cons, Nat.mul_add, Nat.mul_one, pow_add, Nat.mul_comm (2 ^ (w * es.length))]
    nlinarith

theorem elemsNat_div (w : Nat) (es : List Nat) (i : Nat) (hi : i < es.length) :
    elemsNat w es / 2 ^ (w * i) % 2 ^ w = es[i] % 2 ^ w := by
  induction es generalizing i with
  | nil => simp at hi
  | cons e es ih =>
    have h2 : elemsNat w (e :: es) = e % 2 ^ w + 2 ^ w * elemsNat w es := rfl
    have hp : 0 < 2 ^ w := by positivity
    cases i with
    | zero => simp [h2]
    | succ n =>
      rw [h2, Nat.mul_succ, pow_add, Nat.mul_comm (2 ^ (w * n)), ← Nat.div_div_eq_div_mul, Nat.add_mul_div_left _ _ hp,
        Nat.div_eq_of_lt (Nat.mod_lt _ hp), Nat.zero_add]
      simpa using ih n (by simpa using hi)

/-- Element `i` of a word made from elements. -/
theorem el_fromElems (w : Nat) (es : List Nat) (i : Nat) (hi : i < es.length) (hw : w * es.length ≤ 32) :
    el w (fromElems w es) i = es[i] % 2 ^ w := by
  have h : elemsNat w es < 2 ^ 32 := lt_of_lt_of_le (elemsNat_lt w es) (Nat.pow_le_pow_right (by norm_num) hw)
  have h' : (fromElems w es).toNat = elemsNat w es := by
    show (BitVec.ofNat 32 (elemsNat w es)).toNat = _
    rw [BitVec.toNat_ofNat, Nat.mod_eq_of_lt h]
  unfold el
  rw [h', elemsNat_div w es i hi]

/-- An element is below 2^w. -/
theorem el_lt (w : Nat) (x : Word) (i : Nat) : el w x i < 2 ^ w := Nat.mod_lt _ (by positivity)

/-- The widths of R98 divide a word. -/
theorem elemBits_mul (e : BitVec 2) : elemBits e * (32 / elemBits e) = 32 := by revert e; decide

/-- The elements of a word, by index. -/
@[simp] theorem elems_length (w : Nat) (x : Word) : (elems w x).length = 32 / w := by simp [elems]

@[simp] theorem elems_getElem (w : Nat) (x : Word) (i : Nat) (h : i < (elems w x).length) : (elems w x)[i] = el w x i := by
  simp [elems]

/-- Reducing a number to `w` bits. -/
theorem wrapW_cast (w : Nat) (x : Int) : ((wrapW w x : Nat) : Int) = x % 2 ^ w := by
  unfold wrapW
  rw [Int.toNat_of_nonneg (Int.emod_nonneg _ (by positivity))]

theorem wrapW_lt (w : Nat) (x : Int) : wrapW w x < 2 ^ w := by
  have := wrapW_cast w x
  have h2 := Int.emod_lt_of_pos x (show (0 : Int) < 2 ^ w by positivity)
  zify
  rw [this]
  exact_mod_cast h2

end Sys2Proof.Machine
end

