-- ==== Sys2Proof/Laws/Tables.lean ====
section
/-! SUPPORT. What the operations on tables by number answer. -/

namespace Sys2Proof.Machine

@[simp] theorem tget?_nil {α : Type} (n : Nat) : tget? ([] : Table α) n = none := rfl

theorem tget?_cons {α : Type} (k n : Nat) (v : α) (t : Table α) :
    tget? ((k, v) :: t) n = if k = n then some v else tget? t n := rfl

/-- An entry that was set is there. -/
@[simp] theorem tget?_tset_self {α : Type} (t : Table α) (n : Nat) (a : α) : tget? (tset t n a) n = some a := by
  induction t with
  | nil => simp [tset, tget?]
  | cons e t ih =>
    obtain ⟨k, v⟩ := e
    unfold tset
    split
    · simp [tget?]
    · split
      · simp [tget?]
      · next h => simp [tget?, Ne.symm h, ih]

/-- Setting an entry leaves the others alone. -/
theorem tget?_tset_ne {α : Type} (t : Table α) {n m : Nat} (a : α) (h : m ≠ n) : tget? (tset t n a) m = tget? t m := by
  induction t with
  | nil => simp [tset, tget?, h.symm]
  | cons e t ih =>
    obtain ⟨k, v⟩ := e
    unfold tset
    split
    · simp [tget?, h.symm]
    · split
      · next hk => subst hk; simp [tget?, h.symm]
      · simp [tget?, ih]

/-- Changing an entry changes what is found there. -/
@[simp] theorem tget?_tmod_self {α : Type} (t : Table α) (n : Nat) (f : α → α) : tget? (tmod t n f) n = (tget? t n).map f := by
  induction t with
  | nil => rfl
  | cons e t ih =>
    obtain ⟨k, v⟩ := e
    by_cases hk : k = n <;> simp [tmod, tget?, hk, ih]

/-- Changing an entry leaves the others alone. -/
theorem tget?_tmod_ne {α : Type} (t : Table α) {n m : Nat} (f : α → α) (h : m ≠ n) : tget? (tmod t n f) m = tget? t m := by
  induction t with
  | nil => rfl
  | cons e t ih =>
    obtain ⟨k, v⟩ := e
    by_cases hk : k = n
    · subst hk; simp [tmod, tget?, h.symm]
    · simp [tmod, tget?, hk, ih]

/-- Two changes of one entry are one. -/
@[simp] theorem tmod_tmod {α : Type} (t : Table α) (n : Nat) (f g : α → α) : tmod (tmod t n f) n g = tmod t n fun a => g (f a) := by
  induction t with
  | nil => rfl
  | cons e t ih =>
    obtain ⟨k, v⟩ := e
    by_cases hk : k = n <;> simp [tmod, hk, ih]

/-- Only the value found at a key matters to a change of it. -/
theorem tmod_congr {α : Type} (t : Table α) (n : Nat) (f g : α → α) (h : ∀ a, tget? t n = some a → f a = g a) :
    tmod t n f = tmod t n g := by
  induction t with
  | nil => rfl
  | cons e t ih =>
    obtain ⟨k, v⟩ := e
    by_cases hk : k = n
    · simp [tmod, hk, h v (by simp [tget?, hk])]
    · simp only [tmod, hk, if_false]; rw [ih fun a ha => h a (by simp [tget?, hk, ha])]

/-- A change that changes nothing. -/
theorem tmod_id {α : Type} (t : Table α) (n : Nat) (f : α → α) (h : ∀ a, tget? t n = some a → f a = a) : tmod t n f = t := by
  induction t with
  | nil => rfl
  | cons e t ih =>
    obtain ⟨k, v⟩ := e
    by_cases hk : k = n
    · simp [tmod, hk, h v (by simp [tget?, hk])]
    · simp only [tmod, hk, if_false]; rw [ih fun a ha => h a (by simp [tget?, hk, ha])]

/-- An erased entry is gone. -/
@[simp] theorem tget?_terase_self {α : Type} (t : Table α) (n : Nat) : tget? (terase t n) n = none := by
  induction t with
  | nil => rfl
  | cons e t ih =>
    obtain ⟨k, v⟩ := e
    by_cases hk : k = n
    · subst hk; simpa [terase] using ih
    · simpa [terase, tget?, hk] using ih

end Sys2Proof.Machine
end

