-- ==== Sys2Proof/Laws/State.lean ====
section
/-! SUPPORT. One lemma for each field of the state under each update: what an update does not name, it leaves alone. -/

namespace Sys2Proof.Machine

theorem core_run_zero (s : State) : Sys2Proof.core.run 0 s = .next s := rfl

/-! ### modStrand -/

@[simp] theorem State.modStrand_cycle (s : State) (k : Nat) (f : Strand → Strand) : (s.modStrand k f).cycle = s.cycle := rfl
@[simp] theorem State.modStrand_refCount (s : State) (k : Nat) (f : Strand → Strand) : (s.modStrand k f).refCount = s.refCount := rfl
@[simp] theorem State.modStrand_mem (s : State) (k : Nat) (f : Strand → Strand) : (s.modStrand k f).mem = s.mem := rfl
@[simp] theorem State.modStrand_poison (s : State) (k : Nat) (f : Strand → Strand) : (s.modStrand k f).poison = s.poison := rfl
@[simp] theorem State.modStrand_hostErr (s : State) (k : Nat) (f : Strand → Strand) : (s.modStrand k f).hostErr = s.hostErr := rfl
@[simp] theorem State.modStrand_writeNo (s : State) (k : Nat) (f : Strand → Strand) : (s.modStrand k f).writeNo = s.writeNo := rfl
@[simp] theorem State.modStrand_writeRels (s : State) (k : Nat) (f : Strand → Strand) : (s.modStrand k f).writeRels = s.writeRels := rfl
@[simp] theorem State.modStrand_hist (s : State) (k : Nat) (f : Strand → Strand) : (s.modStrand k f).hist = s.hist := rfl
@[simp] theorem State.modStrand_soView (s : State) (k : Nat) (f : Strand → Strand) : (s.modStrand k f).soView = s.soView := rfl
@[simp] theorem State.modStrand_scView (s : State) (k : Nat) (f : Strand → Strand) : (s.modStrand k f).scView = s.scView := rfl
@[simp] theorem State.modStrand_l2 (s : State) (k : Nat) (f : Strand → Strand) : (s.modStrand k f).l2 = s.l2 := rfl
@[simp] theorem State.modStrand_strands (s : State) (k : Nat) (f : Strand → Strand) :
    (s.modStrand k f).strands = tmod s.strands k f := rfl
@[simp] theorem State.modStrand_skeins (s : State) (k : Nat) (f : Strand → Strand) : (s.modStrand k f).skeins = s.skeins := rfl
@[simp] theorem State.modStrand_clusters (s : State) (k : Nat) (f : Strand → Strand) : (s.modStrand k f).clusters = s.clusters := rfl
@[simp] theorem State.modStrand_ctxs (s : State) (k : Nat) (f : Strand → Strand) : (s.modStrand k f).ctxs = s.ctxs := rfl
@[simp] theorem State.modStrand_parts (s : State) (k : Nat) (f : Strand → Strand) : (s.modStrand k f).parts = s.parts := rfl
@[simp] theorem State.modStrand_launches (s : State) (k : Nat) (f : Strand → Strand) : (s.modStrand k f).launches = s.launches := rfl
@[simp] theorem State.modStrand_launchCtr (s : State) (k : Nat) (f : Strand → Strand) : (s.modStrand k f).launchCtr = s.launchCtr := rfl
@[simp] theorem State.modStrand_irqs (s : State) (k : Nat) (f : Strand → Strand) : (s.modStrand k f).irqs = s.irqs := rfl
@[simp] theorem State.modStrand_dies (s : State) (k : Nat) (f : Strand → Strand) : (s.modStrand k f).dies = s.dies := rfl
@[simp] theorem State.modStrand_ics (s : State) (k : Nat) (f : Strand → Strand) : (s.modStrand k f).ics = s.ics := rfl
@[simp] theorem State.modStrand_bpLim (s : State) (k : Nat) (f : Strand → Strand) : (s.modStrand k f).bpLim = s.bpLim := rfl
@[simp] theorem State.modStrand_beaten (s : State) (k : Nat) (f : Strand → Strand) : (s.modStrand k f).beaten = s.beaten := rfl
@[simp] theorem State.modStrand_issues (s : State) (k : Nat) (f : Strand → Strand) : (s.modStrand k f).issues = s.issues := rfl
@[simp] theorem State.modStrand_cur (s : State) (k : Nat) (f : Strand → Strand) : (s.modStrand k f).cur = s.cur := rfl
@[simp] theorem State.modStrand_agenda (s : State) (k : Nat) (f : Strand → Strand) : (s.modStrand k f).agenda = s.agenda := rfl
@[simp] theorem State.modStrand_freeCtr (s : State) (k : Nat) (f : Strand → Strand) : (s.modStrand k f).freeCtr = s.freeCtr := rfl
@[simp] theorem State.modStrand_ticketCtr (s : State) (k : Nat) (f : Strand → Strand) : (s.modStrand k f).ticketCtr = s.ticketCtr := rfl
@[simp] theorem State.modStrand_neigh (s : State) (k : Nat) (f : Strand → Strand) : (s.modStrand k f).neigh = s.neigh := rfl
@[simp] theorem State.modStrand_hostOwned (s : State) (k : Nat) (f : Strand → Strand) : (s.modStrand k f).hostOwned = s.hostOwned := rfl
@[simp] theorem State.modStrand_portsDown (s : State) (k : Nat) (f : Strand → Strand) : (s.modStrand k f).portsDown = s.portsDown := rfl
@[simp] theorem State.modStrand_peerOut (s : State) (k : Nat) (f : Strand → Strand) : (s.modStrand k f).peerOut = s.peerOut := rfl
@[simp] theorem State.modStrand_absent (s : State) (k : Nat) (f : Strand → Strand) : (s.modStrand k f).absent = s.absent := rfl
@[simp] theorem State.modStrand_refFrac (s : State) (k : Nat) (f : Strand → Strand) : (s.modStrand k f).refFrac = s.refFrac := rfl
@[simp] theorem State.modStrand_clkK (s : State) (k : Nat) (f : Strand → Strand) : (s.modStrand k f).clkK = s.clkK := rfl
@[simp] theorem State.modStrand_power (s : State) (k : Nat) (f : Strand → Strand) : (s.modStrand k f).power = s.power := rfl
@[simp] theorem State.modStrand_startStat (s : State) (k : Nat) (f : Strand → Strand) : (s.modStrand k f).startStat = s.startStat := rfl
@[simp] theorem State.modStrand_released (s : State) (k : Nat) (f : Strand → Strand) : (s.modStrand k f).released = s.released := rfl
@[simp] theorem State.modStrand_mbCmd (s : State) (k : Nat) (f : Strand → Strand) : (s.modStrand k f).mbCmd = s.mbCmd := rfl
@[simp] theorem State.modStrand_mbRet (s : State) (k : Nat) (f : Strand → Strand) : (s.modStrand k f).mbRet = s.mbRet := rfl
@[simp] theorem State.modStrand_mbData (s : State) (k : Nat) (f : Strand → Strand) : (s.modStrand k f).mbData = s.mbData := rfl
@[simp] theorem State.modStrand_mbWait (s : State) (k : Nat) (f : Strand → Strand) : (s.modStrand k f).mbWait = s.mbWait := rfl
@[simp] theorem State.modStrand_fwSlots (s : State) (k : Nat) (f : Strand → Strand) : (s.modStrand k f).fwSlots = s.fwSlots := rfl
@[simp] theorem State.modStrand_fwActive (s : State) (k : Nat) (f : Strand → Strand) : (s.modStrand k f).fwActive = s.fwActive := rfl
@[simp] theorem State.modStrand_fwNext (s : State) (k : Nat) (f : Strand → Strand) : (s.modStrand k f).fwNext = s.fwNext := rfl
@[simp] theorem State.modStrand_fwRun (s : State) (k : Nat) (f : Strand → Strand) : (s.modStrand k f).fwRun = s.fwRun := rfl
@[simp] theorem State.modStrand_doeOut (s : State) (k : Nat) (f : Strand → Strand) : (s.modStrand k f).doeOut = s.doeOut := rfl
@[simp] theorem State.modStrand_msix (s : State) (k : Nat) (f : Strand → Strand) : (s.modStrand k f).msix = s.msix := rfl
@[simp] theorem State.modStrand_msixPba (s : State) (k : Nat) (f : Strand → Strand) : (s.modStrand k f).msixPba = s.msixPba := rfl
@[simp] theorem State.modStrand_hdmBase (s : State) (k : Nat) (f : Strand → Strand) : (s.modStrand k f).hdmBase = s.hdmBase := rfl
@[simp] theorem State.modStrand_memActive (s : State) (k : Nat) (f : Strand → Strand) : (s.modStrand k f).memActive = s.memActive := rfl
@[simp] theorem State.modStrand_linkDown (s : State) (k : Nat) (f : Strand → Strand) : (s.modStrand k f).linkDown = s.linkDown := rfl
@[simp] theorem State.modStrand_blob (s : State) (k : Nat) (f : Strand → Strand) : (s.modStrand k f).blob = s.blob := rfl
@[simp] theorem State.modStrand_spdm (s : State) (k : Nat) (f : Strand → Strand) : (s.modStrand k f).spdm = s.spdm := rfl
@[simp] theorem State.modStrand_ideKm (s : State) (k : Nat) (f : Strand → Strand) : (s.modStrand k f).ideKm = s.ideKm := rfl
@[simp] theorem State.modStrand_hostData (s : State) (k : Nat) (f : Strand → Strand) : (s.modStrand k f).hostData = s.hostData := rfl
@[simp] theorem State.modStrand_hostPoison (s : State) (k : Nat) (f : Strand → Strand) : (s.modStrand k f).hostPoison = s.hostPoison := rfl

/-! ### modFib -/

@[simp] theorem State.modFib_cycle (s : State) (k : Nat) (f : Fibre → Fibre) : (s.modFib k f).cycle = s.cycle := rfl
@[simp] theorem State.modFib_refCount (s : State) (k : Nat) (f : Fibre → Fibre) : (s.modFib k f).refCount = s.refCount := rfl
@[simp] theorem State.modFib_mem (s : State) (k : Nat) (f : Fibre → Fibre) : (s.modFib k f).mem = s.mem := rfl
@[simp] theorem State.modFib_poison (s : State) (k : Nat) (f : Fibre → Fibre) : (s.modFib k f).poison = s.poison := rfl
@[simp] theorem State.modFib_hostErr (s : State) (k : Nat) (f : Fibre → Fibre) : (s.modFib k f).hostErr = s.hostErr := rfl
@[simp] theorem State.modFib_writeNo (s : State) (k : Nat) (f : Fibre → Fibre) : (s.modFib k f).writeNo = s.writeNo := rfl
@[simp] theorem State.modFib_writeRels (s : State) (k : Nat) (f : Fibre → Fibre) : (s.modFib k f).writeRels = s.writeRels := rfl
@[simp] theorem State.modFib_hist (s : State) (k : Nat) (f : Fibre → Fibre) : (s.modFib k f).hist = s.hist := rfl
@[simp] theorem State.modFib_soView (s : State) (k : Nat) (f : Fibre → Fibre) : (s.modFib k f).soView = s.soView := rfl
@[simp] theorem State.modFib_scView (s : State) (k : Nat) (f : Fibre → Fibre) : (s.modFib k f).scView = s.scView := rfl
@[simp] theorem State.modFib_l2 (s : State) (k : Nat) (f : Fibre → Fibre) : (s.modFib k f).l2 = s.l2 := rfl
@[simp] theorem State.modFib_skeins (s : State) (k : Nat) (f : Fibre → Fibre) : (s.modFib k f).skeins = s.skeins := rfl
@[simp] theorem State.modFib_clusters (s : State) (k : Nat) (f : Fibre → Fibre) : (s.modFib k f).clusters = s.clusters := rfl
@[simp] theorem State.modFib_ctxs (s : State) (k : Nat) (f : Fibre → Fibre) : (s.modFib k f).ctxs = s.ctxs := rfl
@[simp] theorem State.modFib_parts (s : State) (k : Nat) (f : Fibre → Fibre) : (s.modFib k f).parts = s.parts := rfl
@[simp] theorem State.modFib_launches (s : State) (k : Nat) (f : Fibre → Fibre) : (s.modFib k f).launches = s.launches := rfl
@[simp] theorem State.modFib_launchCtr (s : State) (k : Nat) (f : Fibre → Fibre) : (s.modFib k f).launchCtr = s.launchCtr := rfl
@[simp] theorem State.modFib_irqs (s : State) (k : Nat) (f : Fibre → Fibre) : (s.modFib k f).irqs = s.irqs := rfl
@[simp] theorem State.modFib_dies (s : State) (k : Nat) (f : Fibre → Fibre) : (s.modFib k f).dies = s.dies := rfl
@[simp] theorem State.modFib_ics (s : State) (k : Nat) (f : Fibre → Fibre) : (s.modFib k f).ics = s.ics := rfl
@[simp] theorem State.modFib_bpLim (s : State) (k : Nat) (f : Fibre → Fibre) : (s.modFib k f).bpLim = s.bpLim := rfl
@[simp] theorem State.modFib_beaten (s : State) (k : Nat) (f : Fibre → Fibre) : (s.modFib k f).beaten = s.beaten := rfl
@[simp] theorem State.modFib_issues (s : State) (k : Nat) (f : Fibre → Fibre) : (s.modFib k f).issues = s.issues := rfl
@[simp] theorem State.modFib_cur (s : State) (k : Nat) (f : Fibre → Fibre) : (s.modFib k f).cur = s.cur := rfl
@[simp] theorem State.modFib_agenda (s : State) (k : Nat) (f : Fibre → Fibre) : (s.modFib k f).agenda = s.agenda := rfl
@[simp] theorem State.modFib_freeCtr (s : State) (k : Nat) (f : Fibre → Fibre) : (s.modFib k f).freeCtr = s.freeCtr := rfl
@[simp] theorem State.modFib_ticketCtr (s : State) (k : Nat) (f : Fibre → Fibre) : (s.modFib k f).ticketCtr = s.ticketCtr := rfl
@[simp] theorem State.modFib_neigh (s : State) (k : Nat) (f : Fibre → Fibre) : (s.modFib k f).neigh = s.neigh := rfl
@[simp] theorem State.modFib_hostOwned (s : State) (k : Nat) (f : Fibre → Fibre) : (s.modFib k f).hostOwned = s.hostOwned := rfl
@[simp] theorem State.modFib_portsDown (s : State) (k : Nat) (f : Fibre → Fibre) : (s.modFib k f).portsDown = s.portsDown := rfl
@[simp] theorem State.modFib_peerOut (s : State) (k : Nat) (f : Fibre → Fibre) : (s.modFib k f).peerOut = s.peerOut := rfl
@[simp] theorem State.modFib_absent (s : State) (k : Nat) (f : Fibre → Fibre) : (s.modFib k f).absent = s.absent := rfl
@[simp] theorem State.modFib_refFrac (s : State) (k : Nat) (f : Fibre → Fibre) : (s.modFib k f).refFrac = s.refFrac := rfl
@[simp] theorem State.modFib_clkK (s : State) (k : Nat) (f : Fibre → Fibre) : (s.modFib k f).clkK = s.clkK := rfl
@[simp] theorem State.modFib_power (s : State) (k : Nat) (f : Fibre → Fibre) : (s.modFib k f).power = s.power := rfl
@[simp] theorem State.modFib_startStat (s : State) (k : Nat) (f : Fibre → Fibre) : (s.modFib k f).startStat = s.startStat := rfl
@[simp] theorem State.modFib_released (s : State) (k : Nat) (f : Fibre → Fibre) : (s.modFib k f).released = s.released := rfl
@[simp] theorem State.modFib_mbCmd (s : State) (k : Nat) (f : Fibre → Fibre) : (s.modFib k f).mbCmd = s.mbCmd := rfl
@[simp] theorem State.modFib_mbRet (s : State) (k : Nat) (f : Fibre → Fibre) : (s.modFib k f).mbRet = s.mbRet := rfl
@[simp] theorem State.modFib_mbData (s : State) (k : Nat) (f : Fibre → Fibre) : (s.modFib k f).mbData = s.mbData := rfl
@[simp] theorem State.modFib_mbWait (s : State) (k : Nat) (f : Fibre → Fibre) : (s.modFib k f).mbWait = s.mbWait := rfl
@[simp] theorem State.modFib_fwSlots (s : State) (k : Nat) (f : Fibre → Fibre) : (s.modFib k f).fwSlots = s.fwSlots := rfl
@[simp] theorem State.modFib_fwActive (s : State) (k : Nat) (f : Fibre → Fibre) : (s.modFib k f).fwActive = s.fwActive := rfl
@[simp] theorem State.modFib_fwNext (s : State) (k : Nat) (f : Fibre → Fibre) : (s.modFib k f).fwNext = s.fwNext := rfl
@[simp] theorem State.modFib_fwRun (s : State) (k : Nat) (f : Fibre → Fibre) : (s.modFib k f).fwRun = s.fwRun := rfl
@[simp] theorem State.modFib_doeOut (s : State) (k : Nat) (f : Fibre → Fibre) : (s.modFib k f).doeOut = s.doeOut := rfl
@[simp] theorem State.modFib_msix (s : State) (k : Nat) (f : Fibre → Fibre) : (s.modFib k f).msix = s.msix := rfl
@[simp] theorem State.modFib_msixPba (s : State) (k : Nat) (f : Fibre → Fibre) : (s.modFib k f).msixPba = s.msixPba := rfl
@[simp] theorem State.modFib_hdmBase (s : State) (k : Nat) (f : Fibre → Fibre) : (s.modFib k f).hdmBase = s.hdmBase := rfl
@[simp] theorem State.modFib_memActive (s : State) (k : Nat) (f : Fibre → Fibre) : (s.modFib k f).memActive = s.memActive := rfl
@[simp] theorem State.modFib_linkDown (s : State) (k : Nat) (f : Fibre → Fibre) : (s.modFib k f).linkDown = s.linkDown := rfl
@[simp] theorem State.modFib_blob (s : State) (k : Nat) (f : Fibre → Fibre) : (s.modFib k f).blob = s.blob := rfl
@[simp] theorem State.modFib_spdm (s : State) (k : Nat) (f : Fibre → Fibre) : (s.modFib k f).spdm = s.spdm := rfl
@[simp] theorem State.modFib_ideKm (s : State) (k : Nat) (f : Fibre → Fibre) : (s.modFib k f).ideKm = s.ideKm := rfl
@[simp] theorem State.modFib_hostData (s : State) (k : Nat) (f : Fibre → Fibre) : (s.modFib k f).hostData = s.hostData := rfl
@[simp] theorem State.modFib_hostPoison (s : State) (k : Nat) (f : Fibre → Fibre) : (s.modFib k f).hostPoison = s.hostPoison := rfl

/-! ### modSkein -/

@[simp] theorem State.modSkein_cycle (s : State) (k : Nat) (f : Skein → Skein) : (s.modSkein k f).cycle = s.cycle := rfl
@[simp] theorem State.modSkein_refCount (s : State) (k : Nat) (f : Skein → Skein) : (s.modSkein k f).refCount = s.refCount := rfl
@[simp] theorem State.modSkein_mem (s : State) (k : Nat) (f : Skein → Skein) : (s.modSkein k f).mem = s.mem := rfl
@[simp] theorem State.modSkein_poison (s : State) (k : Nat) (f : Skein → Skein) : (s.modSkein k f).poison = s.poison := rfl
@[simp] theorem State.modSkein_hostErr (s : State) (k : Nat) (f : Skein → Skein) : (s.modSkein k f).hostErr = s.hostErr := rfl
@[simp] theorem State.modSkein_writeNo (s : State) (k : Nat) (f : Skein → Skein) : (s.modSkein k f).writeNo = s.writeNo := rfl
@[simp] theorem State.modSkein_writeRels (s : State) (k : Nat) (f : Skein → Skein) : (s.modSkein k f).writeRels = s.writeRels := rfl
@[simp] theorem State.modSkein_hist (s : State) (k : Nat) (f : Skein → Skein) : (s.modSkein k f).hist = s.hist := rfl
@[simp] theorem State.modSkein_soView (s : State) (k : Nat) (f : Skein → Skein) : (s.modSkein k f).soView = s.soView := rfl
@[simp] theorem State.modSkein_scView (s : State) (k : Nat) (f : Skein → Skein) : (s.modSkein k f).scView = s.scView := rfl
@[simp] theorem State.modSkein_l2 (s : State) (k : Nat) (f : Skein → Skein) : (s.modSkein k f).l2 = s.l2 := rfl
@[simp] theorem State.modSkein_strands (s : State) (k : Nat) (f : Skein → Skein) : (s.modSkein k f).strands = s.strands := rfl
@[simp] theorem State.modSkein_skeins (s : State) (k : Nat) (f : Skein → Skein) :
    (s.modSkein k f).skeins = tmod s.skeins k f := rfl
@[simp] theorem State.modSkein_clusters (s : State) (k : Nat) (f : Skein → Skein) : (s.modSkein k f).clusters = s.clusters := rfl
@[simp] theorem State.modSkein_ctxs (s : State) (k : Nat) (f : Skein → Skein) : (s.modSkein k f).ctxs = s.ctxs := rfl
@[simp] theorem State.modSkein_parts (s : State) (k : Nat) (f : Skein → Skein) : (s.modSkein k f).parts = s.parts := rfl
@[simp] theorem State.modSkein_launches (s : State) (k : Nat) (f : Skein → Skein) : (s.modSkein k f).launches = s.launches := rfl
@[simp] theorem State.modSkein_launchCtr (s : State) (k : Nat) (f : Skein → Skein) : (s.modSkein k f).launchCtr = s.launchCtr := rfl
@[simp] theorem State.modSkein_irqs (s : State) (k : Nat) (f : Skein → Skein) : (s.modSkein k f).irqs = s.irqs := rfl
@[simp] theorem State.modSkein_dies (s : State) (k : Nat) (f : Skein → Skein) : (s.modSkein k f).dies = s.dies := rfl
@[simp] theorem State.modSkein_ics (s : State) (k : Nat) (f : Skein → Skein) : (s.modSkein k f).ics = s.ics := rfl
@[simp] theorem State.modSkein_bpLim (s : State) (k : Nat) (f : Skein → Skein) : (s.modSkein k f).bpLim = s.bpLim := rfl
@[simp] theorem State.modSkein_beaten (s : State) (k : Nat) (f : Skein → Skein) : (s.modSkein k f).beaten = s.beaten := rfl
@[simp] theorem State.modSkein_issues (s : State) (k : Nat) (f : Skein → Skein) : (s.modSkein k f).issues = s.issues := rfl
@[simp] theorem State.modSkein_cur (s : State) (k : Nat) (f : Skein → Skein) : (s.modSkein k f).cur = s.cur := rfl
@[simp] theorem State.modSkein_agenda (s : State) (k : Nat) (f : Skein → Skein) : (s.modSkein k f).agenda = s.agenda := rfl
@[simp] theorem State.modSkein_freeCtr (s : State) (k : Nat) (f : Skein → Skein) : (s.modSkein k f).freeCtr = s.freeCtr := rfl
@[simp] theorem State.modSkein_ticketCtr (s : State) (k : Nat) (f : Skein → Skein) : (s.modSkein k f).ticketCtr = s.ticketCtr := rfl
@[simp] theorem State.modSkein_neigh (s : State) (k : Nat) (f : Skein → Skein) : (s.modSkein k f).neigh = s.neigh := rfl
@[simp] theorem State.modSkein_hostOwned (s : State) (k : Nat) (f : Skein → Skein) : (s.modSkein k f).hostOwned = s.hostOwned := rfl
@[simp] theorem State.modSkein_portsDown (s : State) (k : Nat) (f : Skein → Skein) : (s.modSkein k f).portsDown = s.portsDown := rfl
@[simp] theorem State.modSkein_peerOut (s : State) (k : Nat) (f : Skein → Skein) : (s.modSkein k f).peerOut = s.peerOut := rfl
@[simp] theorem State.modSkein_absent (s : State) (k : Nat) (f : Skein → Skein) : (s.modSkein k f).absent = s.absent := rfl
@[simp] theorem State.modSkein_refFrac (s : State) (k : Nat) (f : Skein → Skein) : (s.modSkein k f).refFrac = s.refFrac := rfl
@[simp] theorem State.modSkein_clkK (s : State) (k : Nat) (f : Skein → Skein) : (s.modSkein k f).clkK = s.clkK := rfl
@[simp] theorem State.modSkein_power (s : State) (k : Nat) (f : Skein → Skein) : (s.modSkein k f).power = s.power := rfl
@[simp] theorem State.modSkein_startStat (s : State) (k : Nat) (f : Skein → Skein) : (s.modSkein k f).startStat = s.startStat := rfl
@[simp] theorem State.modSkein_released (s : State) (k : Nat) (f : Skein → Skein) : (s.modSkein k f).released = s.released := rfl
@[simp] theorem State.modSkein_mbCmd (s : State) (k : Nat) (f : Skein → Skein) : (s.modSkein k f).mbCmd = s.mbCmd := rfl
@[simp] theorem State.modSkein_mbRet (s : State) (k : Nat) (f : Skein → Skein) : (s.modSkein k f).mbRet = s.mbRet := rfl
@[simp] theorem State.modSkein_mbData (s : State) (k : Nat) (f : Skein → Skein) : (s.modSkein k f).mbData = s.mbData := rfl
@[simp] theorem State.modSkein_mbWait (s : State) (k : Nat) (f : Skein → Skein) : (s.modSkein k f).mbWait = s.mbWait := rfl
@[simp] theorem State.modSkein_fwSlots (s : State) (k : Nat) (f : Skein → Skein) : (s.modSkein k f).fwSlots = s.fwSlots := rfl
@[simp] theorem State.modSkein_fwActive (s : State) (k : Nat) (f : Skein → Skein) : (s.modSkein k f).fwActive = s.fwActive := rfl
@[simp] theorem State.modSkein_fwNext (s : State) (k : Nat) (f : Skein → Skein) : (s.modSkein k f).fwNext = s.fwNext := rfl
@[simp] theorem State.modSkein_fwRun (s : State) (k : Nat) (f : Skein → Skein) : (s.modSkein k f).fwRun = s.fwRun := rfl
@[simp] theorem State.modSkein_doeOut (s : State) (k : Nat) (f : Skein → Skein) : (s.modSkein k f).doeOut = s.doeOut := rfl
@[simp] theorem State.modSkein_msix (s : State) (k : Nat) (f : Skein → Skein) : (s.modSkein k f).msix = s.msix := rfl
@[simp] theorem State.modSkein_msixPba (s : State) (k : Nat) (f : Skein → Skein) : (s.modSkein k f).msixPba = s.msixPba := rfl
@[simp] theorem State.modSkein_hdmBase (s : State) (k : Nat) (f : Skein → Skein) : (s.modSkein k f).hdmBase = s.hdmBase := rfl
@[simp] theorem State.modSkein_memActive (s : State) (k : Nat) (f : Skein → Skein) : (s.modSkein k f).memActive = s.memActive := rfl
@[simp] theorem State.modSkein_linkDown (s : State) (k : Nat) (f : Skein → Skein) : (s.modSkein k f).linkDown = s.linkDown := rfl
@[simp] theorem State.modSkein_blob (s : State) (k : Nat) (f : Skein → Skein) : (s.modSkein k f).blob = s.blob := rfl
@[simp] theorem State.modSkein_spdm (s : State) (k : Nat) (f : Skein → Skein) : (s.modSkein k f).spdm = s.spdm := rfl
@[simp] theorem State.modSkein_ideKm (s : State) (k : Nat) (f : Skein → Skein) : (s.modSkein k f).ideKm = s.ideKm := rfl
@[simp] theorem State.modSkein_hostData (s : State) (k : Nat) (f : Skein → Skein) : (s.modSkein k f).hostData = s.hostData := rfl
@[simp] theorem State.modSkein_hostPoison (s : State) (k : Nat) (f : Skein → Skein) : (s.modSkein k f).hostPoison = s.hostPoison := rfl

/-! ### modCluster -/

@[simp] theorem State.modCluster_cycle (s : State) (k : Nat) (f : Cluster → Cluster) : (s.modCluster k f).cycle = s.cycle := rfl
@[simp] theorem State.modCluster_refCount (s : State) (k : Nat) (f : Cluster → Cluster) : (s.modCluster k f).refCount = s.refCount := rfl
@[simp] theorem State.modCluster_mem (s : State) (k : Nat) (f : Cluster → Cluster) : (s.modCluster k f).mem = s.mem := rfl
@[simp] theorem State.modCluster_poison (s : State) (k : Nat) (f : Cluster → Cluster) : (s.modCluster k f).poison = s.poison := rfl
@[simp] theorem State.modCluster_hostErr (s : State) (k : Nat) (f : Cluster → Cluster) : (s.modCluster k f).hostErr = s.hostErr := rfl
@[simp] theorem State.modCluster_writeNo (s : State) (k : Nat) (f : Cluster → Cluster) : (s.modCluster k f).writeNo = s.writeNo := rfl
@[simp] theorem State.modCluster_writeRels (s : State) (k : Nat) (f : Cluster → Cluster) : (s.modCluster k f).writeRels = s.writeRels := rfl
@[simp] theorem State.modCluster_hist (s : State) (k : Nat) (f : Cluster → Cluster) : (s.modCluster k f).hist = s.hist := rfl
@[simp] theorem State.modCluster_soView (s : State) (k : Nat) (f : Cluster → Cluster) : (s.modCluster k f).soView = s.soView := rfl
@[simp] theorem State.modCluster_scView (s : State) (k : Nat) (f : Cluster → Cluster) : (s.modCluster k f).scView = s.scView := rfl
@[simp] theorem State.modCluster_l2 (s : State) (k : Nat) (f : Cluster → Cluster) : (s.modCluster k f).l2 = s.l2 := rfl
@[simp] theorem State.modCluster_strands (s : State) (k : Nat) (f : Cluster → Cluster) : (s.modCluster k f).strands = s.strands := rfl
@[simp] theorem State.modCluster_skeins (s : State) (k : Nat) (f : Cluster → Cluster) : (s.modCluster k f).skeins = s.skeins := rfl
@[simp] theorem State.modCluster_clusters (s : State) (k : Nat) (f : Cluster → Cluster) :
    (s.modCluster k f).clusters = tset s.clusters k (f (s.cluster k)) := rfl
@[simp] theorem State.modCluster_ctxs (s : State) (k : Nat) (f : Cluster → Cluster) : (s.modCluster k f).ctxs = s.ctxs := rfl
@[simp] theorem State.modCluster_parts (s : State) (k : Nat) (f : Cluster → Cluster) : (s.modCluster k f).parts = s.parts := rfl
@[simp] theorem State.modCluster_launches (s : State) (k : Nat) (f : Cluster → Cluster) : (s.modCluster k f).launches = s.launches := rfl
@[simp] theorem State.modCluster_launchCtr (s : State) (k : Nat) (f : Cluster → Cluster) : (s.modCluster k f).launchCtr = s.launchCtr := rfl
@[simp] theorem State.modCluster_irqs (s : State) (k : Nat) (f : Cluster → Cluster) : (s.modCluster k f).irqs = s.irqs := rfl
@[simp] theorem State.modCluster_dies (s : State) (k : Nat) (f : Cluster → Cluster) : (s.modCluster k f).dies = s.dies := rfl
@[simp] theorem State.modCluster_ics (s : State) (k : Nat) (f : Cluster → Cluster) : (s.modCluster k f).ics = s.ics := rfl
@[simp] theorem State.modCluster_bpLim (s : State) (k : Nat) (f : Cluster → Cluster) : (s.modCluster k f).bpLim = s.bpLim := rfl
@[simp] theorem State.modCluster_beaten (s : State) (k : Nat) (f : Cluster → Cluster) : (s.modCluster k f).beaten = s.beaten := rfl
@[simp] theorem State.modCluster_issues (s : State) (k : Nat) (f : Cluster → Cluster) : (s.modCluster k f).issues = s.issues := rfl
@[simp] theorem State.modCluster_cur (s : State) (k : Nat) (f : Cluster → Cluster) : (s.modCluster k f).cur = s.cur := rfl
@[simp] theorem State.modCluster_agenda (s : State) (k : Nat) (f : Cluster → Cluster) : (s.modCluster k f).agenda = s.agenda := rfl
@[simp] theorem State.modCluster_freeCtr (s : State) (k : Nat) (f : Cluster → Cluster) : (s.modCluster k f).freeCtr = s.freeCtr := rfl
@[simp] theorem State.modCluster_ticketCtr (s : State) (k : Nat) (f : Cluster → Cluster) : (s.modCluster k f).ticketCtr = s.ticketCtr := rfl
@[simp] theorem State.modCluster_neigh (s : State) (k : Nat) (f : Cluster → Cluster) : (s.modCluster k f).neigh = s.neigh := rfl
@[simp] theorem State.modCluster_hostOwned (s : State) (k : Nat) (f : Cluster → Cluster) : (s.modCluster k f).hostOwned = s.hostOwned := rfl
@[simp] theorem State.modCluster_portsDown (s : State) (k : Nat) (f : Cluster → Cluster) : (s.modCluster k f).portsDown = s.portsDown := rfl
@[simp] theorem State.modCluster_peerOut (s : State) (k : Nat) (f : Cluster → Cluster) : (s.modCluster k f).peerOut = s.peerOut := rfl
@[simp] theorem State.modCluster_absent (s : State) (k : Nat) (f : Cluster → Cluster) : (s.modCluster k f).absent = s.absent := rfl
@[simp] theorem State.modCluster_refFrac (s : State) (k : Nat) (f : Cluster → Cluster) : (s.modCluster k f).refFrac = s.refFrac := rfl
@[simp] theorem State.modCluster_clkK (s : State) (k : Nat) (f : Cluster → Cluster) : (s.modCluster k f).clkK = s.clkK := rfl
@[simp] theorem State.modCluster_power (s : State) (k : Nat) (f : Cluster → Cluster) : (s.modCluster k f).power = s.power := rfl
@[simp] theorem State.modCluster_startStat (s : State) (k : Nat) (f : Cluster → Cluster) : (s.modCluster k f).startStat = s.startStat := rfl
@[simp] theorem State.modCluster_released (s : State) (k : Nat) (f : Cluster → Cluster) : (s.modCluster k f).released = s.released := rfl
@[simp] theorem State.modCluster_mbCmd (s : State) (k : Nat) (f : Cluster → Cluster) : (s.modCluster k f).mbCmd = s.mbCmd := rfl
@[simp] theorem State.modCluster_mbRet (s : State) (k : Nat) (f : Cluster → Cluster) : (s.modCluster k f).mbRet = s.mbRet := rfl
@[simp] theorem State.modCluster_mbData (s : State) (k : Nat) (f : Cluster → Cluster) : (s.modCluster k f).mbData = s.mbData := rfl
@[simp] theorem State.modCluster_mbWait (s : State) (k : Nat) (f : Cluster → Cluster) : (s.modCluster k f).mbWait = s.mbWait := rfl
@[simp] theorem State.modCluster_fwSlots (s : State) (k : Nat) (f : Cluster → Cluster) : (s.modCluster k f).fwSlots = s.fwSlots := rfl
@[simp] theorem State.modCluster_fwActive (s : State) (k : Nat) (f : Cluster → Cluster) : (s.modCluster k f).fwActive = s.fwActive := rfl
@[simp] theorem State.modCluster_fwNext (s : State) (k : Nat) (f : Cluster → Cluster) : (s.modCluster k f).fwNext = s.fwNext := rfl
@[simp] theorem State.modCluster_fwRun (s : State) (k : Nat) (f : Cluster → Cluster) : (s.modCluster k f).fwRun = s.fwRun := rfl
@[simp] theorem State.modCluster_doeOut (s : State) (k : Nat) (f : Cluster → Cluster) : (s.modCluster k f).doeOut = s.doeOut := rfl
@[simp] theorem State.modCluster_msix (s : State) (k : Nat) (f : Cluster → Cluster) : (s.modCluster k f).msix = s.msix := rfl
@[simp] theorem State.modCluster_msixPba (s : State) (k : Nat) (f : Cluster → Cluster) : (s.modCluster k f).msixPba = s.msixPba := rfl
@[simp] theorem State.modCluster_hdmBase (s : State) (k : Nat) (f : Cluster → Cluster) : (s.modCluster k f).hdmBase = s.hdmBase := rfl
@[simp] theorem State.modCluster_memActive (s : State) (k : Nat) (f : Cluster → Cluster) : (s.modCluster k f).memActive = s.memActive := rfl
@[simp] theorem State.modCluster_linkDown (s : State) (k : Nat) (f : Cluster → Cluster) : (s.modCluster k f).linkDown = s.linkDown := rfl
@[simp] theorem State.modCluster_blob (s : State) (k : Nat) (f : Cluster → Cluster) : (s.modCluster k f).blob = s.blob := rfl
@[simp] theorem State.modCluster_spdm (s : State) (k : Nat) (f : Cluster → Cluster) : (s.modCluster k f).spdm = s.spdm := rfl
@[simp] theorem State.modCluster_ideKm (s : State) (k : Nat) (f : Cluster → Cluster) : (s.modCluster k f).ideKm = s.ideKm := rfl
@[simp] theorem State.modCluster_hostData (s : State) (k : Nat) (f : Cluster → Cluster) : (s.modCluster k f).hostData = s.hostData := rfl
@[simp] theorem State.modCluster_hostPoison (s : State) (k : Nat) (f : Cluster → Cluster) : (s.modCluster k f).hostPoison = s.hostPoison := rfl

/-! ### modSpindle -/

@[simp] theorem State.modSpindle_cycle (s : State) (k i : Nat) (f : Spindle → Spindle) : (s.modSpindle k i f).cycle = s.cycle := rfl
@[simp] theorem State.modSpindle_refCount (s : State) (k i : Nat) (f : Spindle → Spindle) : (s.modSpindle k i f).refCount = s.refCount := rfl
@[simp] theorem State.modSpindle_mem (s : State) (k i : Nat) (f : Spindle → Spindle) : (s.modSpindle k i f).mem = s.mem := rfl
@[simp] theorem State.modSpindle_poison (s : State) (k i : Nat) (f : Spindle → Spindle) : (s.modSpindle k i f).poison = s.poison := rfl
@[simp] theorem State.modSpindle_hostErr (s : State) (k i : Nat) (f : Spindle → Spindle) : (s.modSpindle k i f).hostErr = s.hostErr := rfl
@[simp] theorem State.modSpindle_writeNo (s : State) (k i : Nat) (f : Spindle → Spindle) : (s.modSpindle k i f).writeNo = s.writeNo := rfl
@[simp] theorem State.modSpindle_writeRels (s : State) (k i : Nat) (f : Spindle → Spindle) : (s.modSpindle k i f).writeRels = s.writeRels := rfl
@[simp] theorem State.modSpindle_hist (s : State) (k i : Nat) (f : Spindle → Spindle) : (s.modSpindle k i f).hist = s.hist := rfl
@[simp] theorem State.modSpindle_soView (s : State) (k i : Nat) (f : Spindle → Spindle) : (s.modSpindle k i f).soView = s.soView := rfl
@[simp] theorem State.modSpindle_scView (s : State) (k i : Nat) (f : Spindle → Spindle) : (s.modSpindle k i f).scView = s.scView := rfl
@[simp] theorem State.modSpindle_l2 (s : State) (k i : Nat) (f : Spindle → Spindle) : (s.modSpindle k i f).l2 = s.l2 := rfl
@[simp] theorem State.modSpindle_strands (s : State) (k i : Nat) (f : Spindle → Spindle) : (s.modSpindle k i f).strands = s.strands := rfl
@[simp] theorem State.modSpindle_skeins (s : State) (k i : Nat) (f : Spindle → Spindle) : (s.modSpindle k i f).skeins = s.skeins := rfl
@[simp] theorem State.modSpindle_ctxs (s : State) (k i : Nat) (f : Spindle → Spindle) : (s.modSpindle k i f).ctxs = s.ctxs := rfl
@[simp] theorem State.modSpindle_parts (s : State) (k i : Nat) (f : Spindle → Spindle) : (s.modSpindle k i f).parts = s.parts := rfl
@[simp] theorem State.modSpindle_launches (s : State) (k i : Nat) (f : Spindle → Spindle) : (s.modSpindle k i f).launches = s.launches := rfl
@[simp] theorem State.modSpindle_launchCtr (s : State) (k i : Nat) (f : Spindle → Spindle) : (s.modSpindle k i f).launchCtr = s.launchCtr := rfl
@[simp] theorem State.modSpindle_irqs (s : State) (k i : Nat) (f : Spindle → Spindle) : (s.modSpindle k i f).irqs = s.irqs := rfl
@[simp] theorem State.modSpindle_dies (s : State) (k i : Nat) (f : Spindle → Spindle) : (s.modSpindle k i f).dies = s.dies := rfl
@[simp] theorem State.modSpindle_ics (s : State) (k i : Nat) (f : Spindle → Spindle) : (s.modSpindle k i f).ics = s.ics := rfl
@[simp] theorem State.modSpindle_bpLim (s : State) (k i : Nat) (f : Spindle → Spindle) : (s.modSpindle k i f).bpLim = s.bpLim := rfl
@[simp] theorem State.modSpindle_beaten (s : State) (k i : Nat) (f : Spindle → Spindle) : (s.modSpindle k i f).beaten = s.beaten := rfl
@[simp] theorem State.modSpindle_issues (s : State) (k i : Nat) (f : Spindle → Spindle) : (s.modSpindle k i f).issues = s.issues := rfl
@[simp] theorem State.modSpindle_cur (s : State) (k i : Nat) (f : Spindle → Spindle) : (s.modSpindle k i f).cur = s.cur := rfl
@[simp] theorem State.modSpindle_agenda (s : State) (k i : Nat) (f : Spindle → Spindle) : (s.modSpindle k i f).agenda = s.agenda := rfl
@[simp] theorem State.modSpindle_freeCtr (s : State) (k i : Nat) (f : Spindle → Spindle) : (s.modSpindle k i f).freeCtr = s.freeCtr := rfl
@[simp] theorem State.modSpindle_ticketCtr (s : State) (k i : Nat) (f : Spindle → Spindle) : (s.modSpindle k i f).ticketCtr = s.ticketCtr := rfl
@[simp] theorem State.modSpindle_neigh (s : State) (k i : Nat) (f : Spindle → Spindle) : (s.modSpindle k i f).neigh = s.neigh := rfl
@[simp] theorem State.modSpindle_hostOwned (s : State) (k i : Nat) (f : Spindle → Spindle) : (s.modSpindle k i f).hostOwned = s.hostOwned := rfl
@[simp] theorem State.modSpindle_portsDown (s : State) (k i : Nat) (f : Spindle → Spindle) : (s.modSpindle k i f).portsDown = s.portsDown := rfl
@[simp] theorem State.modSpindle_peerOut (s : State) (k i : Nat) (f : Spindle → Spindle) : (s.modSpindle k i f).peerOut = s.peerOut := rfl
@[simp] theorem State.modSpindle_absent (s : State) (k i : Nat) (f : Spindle → Spindle) : (s.modSpindle k i f).absent = s.absent := rfl
@[simp] theorem State.modSpindle_refFrac (s : State) (k i : Nat) (f : Spindle → Spindle) : (s.modSpindle k i f).refFrac = s.refFrac := rfl
@[simp] theorem State.modSpindle_clkK (s : State) (k i : Nat) (f : Spindle → Spindle) : (s.modSpindle k i f).clkK = s.clkK := rfl
@[simp] theorem State.modSpindle_power (s : State) (k i : Nat) (f : Spindle → Spindle) : (s.modSpindle k i f).power = s.power := rfl
@[simp] theorem State.modSpindle_startStat (s : State) (k i : Nat) (f : Spindle → Spindle) : (s.modSpindle k i f).startStat = s.startStat := rfl
@[simp] theorem State.modSpindle_released (s : State) (k i : Nat) (f : Spindle → Spindle) : (s.modSpindle k i f).released = s.released := rfl
@[simp] theorem State.modSpindle_mbCmd (s : State) (k i : Nat) (f : Spindle → Spindle) : (s.modSpindle k i f).mbCmd = s.mbCmd := rfl
@[simp] theorem State.modSpindle_mbRet (s : State) (k i : Nat) (f : Spindle → Spindle) : (s.modSpindle k i f).mbRet = s.mbRet := rfl
@[simp] theorem State.modSpindle_mbData (s : State) (k i : Nat) (f : Spindle → Spindle) : (s.modSpindle k i f).mbData = s.mbData := rfl
@[simp] theorem State.modSpindle_mbWait (s : State) (k i : Nat) (f : Spindle → Spindle) : (s.modSpindle k i f).mbWait = s.mbWait := rfl
@[simp] theorem State.modSpindle_fwSlots (s : State) (k i : Nat) (f : Spindle → Spindle) : (s.modSpindle k i f).fwSlots = s.fwSlots := rfl
@[simp] theorem State.modSpindle_fwActive (s : State) (k i : Nat) (f : Spindle → Spindle) : (s.modSpindle k i f).fwActive = s.fwActive := rfl
@[simp] theorem State.modSpindle_fwNext (s : State) (k i : Nat) (f : Spindle → Spindle) : (s.modSpindle k i f).fwNext = s.fwNext := rfl
@[simp] theorem State.modSpindle_fwRun (s : State) (k i : Nat) (f : Spindle → Spindle) : (s.modSpindle k i f).fwRun = s.fwRun := rfl
@[simp] theorem State.modSpindle_doeOut (s : State) (k i : Nat) (f : Spindle → Spindle) : (s.modSpindle k i f).doeOut = s.doeOut := rfl
@[simp] theorem State.modSpindle_msix (s : State) (k i : Nat) (f : Spindle → Spindle) : (s.modSpindle k i f).msix = s.msix := rfl
@[simp] theorem State.modSpindle_msixPba (s : State) (k i : Nat) (f : Spindle → Spindle) : (s.modSpindle k i f).msixPba = s.msixPba := rfl
@[simp] theorem State.modSpindle_hdmBase (s : State) (k i : Nat) (f : Spindle → Spindle) : (s.modSpindle k i f).hdmBase = s.hdmBase := rfl
@[simp] theorem State.modSpindle_memActive (s : State) (k i : Nat) (f : Spindle → Spindle) : (s.modSpindle k i f).memActive = s.memActive := rfl
@[simp] theorem State.modSpindle_linkDown (s : State) (k i : Nat) (f : Spindle → Spindle) : (s.modSpindle k i f).linkDown = s.linkDown := rfl
@[simp] theorem State.modSpindle_blob (s : State) (k i : Nat) (f : Spindle → Spindle) : (s.modSpindle k i f).blob = s.blob := rfl
@[simp] theorem State.modSpindle_spdm (s : State) (k i : Nat) (f : Spindle → Spindle) : (s.modSpindle k i f).spdm = s.spdm := rfl
@[simp] theorem State.modSpindle_ideKm (s : State) (k i : Nat) (f : Spindle → Spindle) : (s.modSpindle k i f).ideKm = s.ideKm := rfl
@[simp] theorem State.modSpindle_hostData (s : State) (k i : Nat) (f : Spindle → Spindle) : (s.modSpindle k i f).hostData = s.hostData := rfl
@[simp] theorem State.modSpindle_hostPoison (s : State) (k i : Nat) (f : Spindle → Spindle) : (s.modSpindle k i f).hostPoison = s.hostPoison := rfl

/-! ### modCtx -/

@[simp] theorem State.modCtx_cycle (s : State) (k : Nat) (f : Context → Context) : (s.modCtx k f).cycle = s.cycle := rfl
@[simp] theorem State.modCtx_refCount (s : State) (k : Nat) (f : Context → Context) : (s.modCtx k f).refCount = s.refCount := rfl
@[simp] theorem State.modCtx_mem (s : State) (k : Nat) (f : Context → Context) : (s.modCtx k f).mem = s.mem := rfl
@[simp] theorem State.modCtx_poison (s : State) (k : Nat) (f : Context → Context) : (s.modCtx k f).poison = s.poison := rfl
@[simp] theorem State.modCtx_hostErr (s : State) (k : Nat) (f : Context → Context) : (s.modCtx k f).hostErr = s.hostErr := rfl
@[simp] theorem State.modCtx_writeNo (s : State) (k : Nat) (f : Context → Context) : (s.modCtx k f).writeNo = s.writeNo := rfl
@[simp] theorem State.modCtx_writeRels (s : State) (k : Nat) (f : Context → Context) : (s.modCtx k f).writeRels = s.writeRels := rfl
@[simp] theorem State.modCtx_hist (s : State) (k : Nat) (f : Context → Context) : (s.modCtx k f).hist = s.hist := rfl
@[simp] theorem State.modCtx_soView (s : State) (k : Nat) (f : Context → Context) : (s.modCtx k f).soView = s.soView := rfl
@[simp] theorem State.modCtx_scView (s : State) (k : Nat) (f : Context → Context) : (s.modCtx k f).scView = s.scView := rfl
@[simp] theorem State.modCtx_l2 (s : State) (k : Nat) (f : Context → Context) : (s.modCtx k f).l2 = s.l2 := rfl
@[simp] theorem State.modCtx_strands (s : State) (k : Nat) (f : Context → Context) : (s.modCtx k f).strands = s.strands := rfl
@[simp] theorem State.modCtx_skeins (s : State) (k : Nat) (f : Context → Context) : (s.modCtx k f).skeins = s.skeins := rfl
@[simp] theorem State.modCtx_clusters (s : State) (k : Nat) (f : Context → Context) : (s.modCtx k f).clusters = s.clusters := rfl
@[simp] theorem State.modCtx_ctxs (s : State) (k : Nat) (f : Context → Context) :
    (s.modCtx k f).ctxs = tset s.ctxs k (f (s.ctx k)) := rfl
@[simp] theorem State.modCtx_parts (s : State) (k : Nat) (f : Context → Context) : (s.modCtx k f).parts = s.parts := rfl
@[simp] theorem State.modCtx_launches (s : State) (k : Nat) (f : Context → Context) : (s.modCtx k f).launches = s.launches := rfl
@[simp] theorem State.modCtx_launchCtr (s : State) (k : Nat) (f : Context → Context) : (s.modCtx k f).launchCtr = s.launchCtr := rfl
@[simp] theorem State.modCtx_irqs (s : State) (k : Nat) (f : Context → Context) : (s.modCtx k f).irqs = s.irqs := rfl
@[simp] theorem State.modCtx_dies (s : State) (k : Nat) (f : Context → Context) : (s.modCtx k f).dies = s.dies := rfl
@[simp] theorem State.modCtx_ics (s : State) (k : Nat) (f : Context → Context) : (s.modCtx k f).ics = s.ics := rfl
@[simp] theorem State.modCtx_bpLim (s : State) (k : Nat) (f : Context → Context) : (s.modCtx k f).bpLim = s.bpLim := rfl
@[simp] theorem State.modCtx_beaten (s : State) (k : Nat) (f : Context → Context) : (s.modCtx k f).beaten = s.beaten := rfl
@[simp] theorem State.modCtx_issues (s : State) (k : Nat) (f : Context → Context) : (s.modCtx k f).issues = s.issues := rfl
@[simp] theorem State.modCtx_cur (s : State) (k : Nat) (f : Context → Context) : (s.modCtx k f).cur = s.cur := rfl
@[simp] theorem State.modCtx_agenda (s : State) (k : Nat) (f : Context → Context) : (s.modCtx k f).agenda = s.agenda := rfl
@[simp] theorem State.modCtx_freeCtr (s : State) (k : Nat) (f : Context → Context) : (s.modCtx k f).freeCtr = s.freeCtr := rfl
@[simp] theorem State.modCtx_ticketCtr (s : State) (k : Nat) (f : Context → Context) : (s.modCtx k f).ticketCtr = s.ticketCtr := rfl
@[simp] theorem State.modCtx_neigh (s : State) (k : Nat) (f : Context → Context) : (s.modCtx k f).neigh = s.neigh := rfl
@[simp] theorem State.modCtx_hostOwned (s : State) (k : Nat) (f : Context → Context) : (s.modCtx k f).hostOwned = s.hostOwned := rfl
@[simp] theorem State.modCtx_portsDown (s : State) (k : Nat) (f : Context → Context) : (s.modCtx k f).portsDown = s.portsDown := rfl
@[simp] theorem State.modCtx_peerOut (s : State) (k : Nat) (f : Context → Context) : (s.modCtx k f).peerOut = s.peerOut := rfl
@[simp] theorem State.modCtx_absent (s : State) (k : Nat) (f : Context → Context) : (s.modCtx k f).absent = s.absent := rfl
@[simp] theorem State.modCtx_refFrac (s : State) (k : Nat) (f : Context → Context) : (s.modCtx k f).refFrac = s.refFrac := rfl
@[simp] theorem State.modCtx_clkK (s : State) (k : Nat) (f : Context → Context) : (s.modCtx k f).clkK = s.clkK := rfl
@[simp] theorem State.modCtx_power (s : State) (k : Nat) (f : Context → Context) : (s.modCtx k f).power = s.power := rfl
@[simp] theorem State.modCtx_startStat (s : State) (k : Nat) (f : Context → Context) : (s.modCtx k f).startStat = s.startStat := rfl
@[simp] theorem State.modCtx_released (s : State) (k : Nat) (f : Context → Context) : (s.modCtx k f).released = s.released := rfl
@[simp] theorem State.modCtx_mbCmd (s : State) (k : Nat) (f : Context → Context) : (s.modCtx k f).mbCmd = s.mbCmd := rfl
@[simp] theorem State.modCtx_mbRet (s : State) (k : Nat) (f : Context → Context) : (s.modCtx k f).mbRet = s.mbRet := rfl
@[simp] theorem State.modCtx_mbData (s : State) (k : Nat) (f : Context → Context) : (s.modCtx k f).mbData = s.mbData := rfl
@[simp] theorem State.modCtx_mbWait (s : State) (k : Nat) (f : Context → Context) : (s.modCtx k f).mbWait = s.mbWait := rfl
@[simp] theorem State.modCtx_fwSlots (s : State) (k : Nat) (f : Context → Context) : (s.modCtx k f).fwSlots = s.fwSlots := rfl
@[simp] theorem State.modCtx_fwActive (s : State) (k : Nat) (f : Context → Context) : (s.modCtx k f).fwActive = s.fwActive := rfl
@[simp] theorem State.modCtx_fwNext (s : State) (k : Nat) (f : Context → Context) : (s.modCtx k f).fwNext = s.fwNext := rfl
@[simp] theorem State.modCtx_fwRun (s : State) (k : Nat) (f : Context → Context) : (s.modCtx k f).fwRun = s.fwRun := rfl
@[simp] theorem State.modCtx_doeOut (s : State) (k : Nat) (f : Context → Context) : (s.modCtx k f).doeOut = s.doeOut := rfl
@[simp] theorem State.modCtx_msix (s : State) (k : Nat) (f : Context → Context) : (s.modCtx k f).msix = s.msix := rfl
@[simp] theorem State.modCtx_msixPba (s : State) (k : Nat) (f : Context → Context) : (s.modCtx k f).msixPba = s.msixPba := rfl
@[simp] theorem State.modCtx_hdmBase (s : State) (k : Nat) (f : Context → Context) : (s.modCtx k f).hdmBase = s.hdmBase := rfl
@[simp] theorem State.modCtx_memActive (s : State) (k : Nat) (f : Context → Context) : (s.modCtx k f).memActive = s.memActive := rfl
@[simp] theorem State.modCtx_linkDown (s : State) (k : Nat) (f : Context → Context) : (s.modCtx k f).linkDown = s.linkDown := rfl
@[simp] theorem State.modCtx_blob (s : State) (k : Nat) (f : Context → Context) : (s.modCtx k f).blob = s.blob := rfl
@[simp] theorem State.modCtx_spdm (s : State) (k : Nat) (f : Context → Context) : (s.modCtx k f).spdm = s.spdm := rfl
@[simp] theorem State.modCtx_ideKm (s : State) (k : Nat) (f : Context → Context) : (s.modCtx k f).ideKm = s.ideKm := rfl
@[simp] theorem State.modCtx_hostData (s : State) (k : Nat) (f : Context → Context) : (s.modCtx k f).hostData = s.hostData := rfl
@[simp] theorem State.modCtx_hostPoison (s : State) (k : Nat) (f : Context → Context) : (s.modCtx k f).hostPoison = s.hostPoison := rfl

/-! ### modPart -/

@[simp] theorem State.modPart_cycle (s : State) (k : Nat) (f : Partition → Partition) : (s.modPart k f).cycle = s.cycle := rfl
@[simp] theorem State.modPart_refCount (s : State) (k : Nat) (f : Partition → Partition) : (s.modPart k f).refCount = s.refCount := rfl
@[simp] theorem State.modPart_mem (s : State) (k : Nat) (f : Partition → Partition) : (s.modPart k f).mem = s.mem := rfl
@[simp] theorem State.modPart_poison (s : State) (k : Nat) (f : Partition → Partition) : (s.modPart k f).poison = s.poison := rfl
@[simp] theorem State.modPart_hostErr (s : State) (k : Nat) (f : Partition → Partition) : (s.modPart k f).hostErr = s.hostErr := rfl
@[simp] theorem State.modPart_writeNo (s : State) (k : Nat) (f : Partition → Partition) : (s.modPart k f).writeNo = s.writeNo := rfl
@[simp] theorem State.modPart_writeRels (s : State) (k : Nat) (f : Partition → Partition) : (s.modPart k f).writeRels = s.writeRels := rfl
@[simp] theorem State.modPart_hist (s : State) (k : Nat) (f : Partition → Partition) : (s.modPart k f).hist = s.hist := rfl
@[simp] theorem State.modPart_soView (s : State) (k : Nat) (f : Partition → Partition) : (s.modPart k f).soView = s.soView := rfl
@[simp] theorem State.modPart_scView (s : State) (k : Nat) (f : Partition → Partition) : (s.modPart k f).scView = s.scView := rfl
@[simp] theorem State.modPart_l2 (s : State) (k : Nat) (f : Partition → Partition) : (s.modPart k f).l2 = s.l2 := rfl
@[simp] theorem State.modPart_strands (s : State) (k : Nat) (f : Partition → Partition) : (s.modPart k f).strands = s.strands := rfl
@[simp] theorem State.modPart_skeins (s : State) (k : Nat) (f : Partition → Partition) : (s.modPart k f).skeins = s.skeins := rfl
@[simp] theorem State.modPart_clusters (s : State) (k : Nat) (f : Partition → Partition) : (s.modPart k f).clusters = s.clusters := rfl
@[simp] theorem State.modPart_ctxs (s : State) (k : Nat) (f : Partition → Partition) : (s.modPart k f).ctxs = s.ctxs := rfl
@[simp] theorem State.modPart_parts (s : State) (k : Nat) (f : Partition → Partition) :
    (s.modPart k f).parts = tset s.parts k (f (s.part k)) := rfl
@[simp] theorem State.modPart_launches (s : State) (k : Nat) (f : Partition → Partition) : (s.modPart k f).launches = s.launches := rfl
@[simp] theorem State.modPart_launchCtr (s : State) (k : Nat) (f : Partition → Partition) : (s.modPart k f).launchCtr = s.launchCtr := rfl
@[simp] theorem State.modPart_irqs (s : State) (k : Nat) (f : Partition → Partition) : (s.modPart k f).irqs = s.irqs := rfl
@[simp] theorem State.modPart_dies (s : State) (k : Nat) (f : Partition → Partition) : (s.modPart k f).dies = s.dies := rfl
@[simp] theorem State.modPart_ics (s : State) (k : Nat) (f : Partition → Partition) : (s.modPart k f).ics = s.ics := rfl
@[simp] theorem State.modPart_bpLim (s : State) (k : Nat) (f : Partition → Partition) : (s.modPart k f).bpLim = s.bpLim := rfl
@[simp] theorem State.modPart_beaten (s : State) (k : Nat) (f : Partition → Partition) : (s.modPart k f).beaten = s.beaten := rfl
@[simp] theorem State.modPart_issues (s : State) (k : Nat) (f : Partition → Partition) : (s.modPart k f).issues = s.issues := rfl
@[simp] theorem State.modPart_cur (s : State) (k : Nat) (f : Partition → Partition) : (s.modPart k f).cur = s.cur := rfl
@[simp] theorem State.modPart_agenda (s : State) (k : Nat) (f : Partition → Partition) : (s.modPart k f).agenda = s.agenda := rfl
@[simp] theorem State.modPart_freeCtr (s : State) (k : Nat) (f : Partition → Partition) : (s.modPart k f).freeCtr = s.freeCtr := rfl
@[simp] theorem State.modPart_ticketCtr (s : State) (k : Nat) (f : Partition → Partition) : (s.modPart k f).ticketCtr = s.ticketCtr := rfl
@[simp] theorem State.modPart_neigh (s : State) (k : Nat) (f : Partition → Partition) : (s.modPart k f).neigh = s.neigh := rfl
@[simp] theorem State.modPart_hostOwned (s : State) (k : Nat) (f : Partition → Partition) : (s.modPart k f).hostOwned = s.hostOwned := rfl
@[simp] theorem State.modPart_portsDown (s : State) (k : Nat) (f : Partition → Partition) : (s.modPart k f).portsDown = s.portsDown := rfl
@[simp] theorem State.modPart_peerOut (s : State) (k : Nat) (f : Partition → Partition) : (s.modPart k f).peerOut = s.peerOut := rfl
@[simp] theorem State.modPart_absent (s : State) (k : Nat) (f : Partition → Partition) : (s.modPart k f).absent = s.absent := rfl
@[simp] theorem State.modPart_refFrac (s : State) (k : Nat) (f : Partition → Partition) : (s.modPart k f).refFrac = s.refFrac := rfl
@[simp] theorem State.modPart_clkK (s : State) (k : Nat) (f : Partition → Partition) : (s.modPart k f).clkK = s.clkK := rfl
@[simp] theorem State.modPart_power (s : State) (k : Nat) (f : Partition → Partition) : (s.modPart k f).power = s.power := rfl
@[simp] theorem State.modPart_startStat (s : State) (k : Nat) (f : Partition → Partition) : (s.modPart k f).startStat = s.startStat := rfl
@[simp] theorem State.modPart_released (s : State) (k : Nat) (f : Partition → Partition) : (s.modPart k f).released = s.released := rfl
@[simp] theorem State.modPart_mbCmd (s : State) (k : Nat) (f : Partition → Partition) : (s.modPart k f).mbCmd = s.mbCmd := rfl
@[simp] theorem State.modPart_mbRet (s : State) (k : Nat) (f : Partition → Partition) : (s.modPart k f).mbRet = s.mbRet := rfl
@[simp] theorem State.modPart_mbData (s : State) (k : Nat) (f : Partition → Partition) : (s.modPart k f).mbData = s.mbData := rfl
@[simp] theorem State.modPart_mbWait (s : State) (k : Nat) (f : Partition → Partition) : (s.modPart k f).mbWait = s.mbWait := rfl
@[simp] theorem State.modPart_fwSlots (s : State) (k : Nat) (f : Partition → Partition) : (s.modPart k f).fwSlots = s.fwSlots := rfl
@[simp] theorem State.modPart_fwActive (s : State) (k : Nat) (f : Partition → Partition) : (s.modPart k f).fwActive = s.fwActive := rfl
@[simp] theorem State.modPart_fwNext (s : State) (k : Nat) (f : Partition → Partition) : (s.modPart k f).fwNext = s.fwNext := rfl
@[simp] theorem State.modPart_fwRun (s : State) (k : Nat) (f : Partition → Partition) : (s.modPart k f).fwRun = s.fwRun := rfl
@[simp] theorem State.modPart_doeOut (s : State) (k : Nat) (f : Partition → Partition) : (s.modPart k f).doeOut = s.doeOut := rfl
@[simp] theorem State.modPart_msix (s : State) (k : Nat) (f : Partition → Partition) : (s.modPart k f).msix = s.msix := rfl
@[simp] theorem State.modPart_msixPba (s : State) (k : Nat) (f : Partition → Partition) : (s.modPart k f).msixPba = s.msixPba := rfl
@[simp] theorem State.modPart_hdmBase (s : State) (k : Nat) (f : Partition → Partition) : (s.modPart k f).hdmBase = s.hdmBase := rfl
@[simp] theorem State.modPart_memActive (s : State) (k : Nat) (f : Partition → Partition) : (s.modPart k f).memActive = s.memActive := rfl
@[simp] theorem State.modPart_linkDown (s : State) (k : Nat) (f : Partition → Partition) : (s.modPart k f).linkDown = s.linkDown := rfl
@[simp] theorem State.modPart_blob (s : State) (k : Nat) (f : Partition → Partition) : (s.modPart k f).blob = s.blob := rfl
@[simp] theorem State.modPart_spdm (s : State) (k : Nat) (f : Partition → Partition) : (s.modPart k f).spdm = s.spdm := rfl
@[simp] theorem State.modPart_ideKm (s : State) (k : Nat) (f : Partition → Partition) : (s.modPart k f).ideKm = s.ideKm := rfl
@[simp] theorem State.modPart_hostData (s : State) (k : Nat) (f : Partition → Partition) : (s.modPart k f).hostData = s.hostData := rfl
@[simp] theorem State.modPart_hostPoison (s : State) (k : Nat) (f : Partition → Partition) : (s.modPart k f).hostPoison = s.hostPoison := rfl

/-! ### modDie -/

@[simp] theorem State.modDie_cycle (s : State) (k : Nat) (f : Die → Die) : (s.modDie k f).cycle = s.cycle := rfl
@[simp] theorem State.modDie_refCount (s : State) (k : Nat) (f : Die → Die) : (s.modDie k f).refCount = s.refCount := rfl
@[simp] theorem State.modDie_mem (s : State) (k : Nat) (f : Die → Die) : (s.modDie k f).mem = s.mem := rfl
@[simp] theorem State.modDie_poison (s : State) (k : Nat) (f : Die → Die) : (s.modDie k f).poison = s.poison := rfl
@[simp] theorem State.modDie_hostErr (s : State) (k : Nat) (f : Die → Die) : (s.modDie k f).hostErr = s.hostErr := rfl
@[simp] theorem State.modDie_writeNo (s : State) (k : Nat) (f : Die → Die) : (s.modDie k f).writeNo = s.writeNo := rfl
@[simp] theorem State.modDie_writeRels (s : State) (k : Nat) (f : Die → Die) : (s.modDie k f).writeRels = s.writeRels := rfl
@[simp] theorem State.modDie_hist (s : State) (k : Nat) (f : Die → Die) : (s.modDie k f).hist = s.hist := rfl
@[simp] theorem State.modDie_soView (s : State) (k : Nat) (f : Die → Die) : (s.modDie k f).soView = s.soView := rfl
@[simp] theorem State.modDie_scView (s : State) (k : Nat) (f : Die → Die) : (s.modDie k f).scView = s.scView := rfl
@[simp] theorem State.modDie_l2 (s : State) (k : Nat) (f : Die → Die) : (s.modDie k f).l2 = s.l2 := rfl
@[simp] theorem State.modDie_strands (s : State) (k : Nat) (f : Die → Die) : (s.modDie k f).strands = s.strands := rfl
@[simp] theorem State.modDie_skeins (s : State) (k : Nat) (f : Die → Die) : (s.modDie k f).skeins = s.skeins := rfl
@[simp] theorem State.modDie_clusters (s : State) (k : Nat) (f : Die → Die) : (s.modDie k f).clusters = s.clusters := rfl
@[simp] theorem State.modDie_ctxs (s : State) (k : Nat) (f : Die → Die) : (s.modDie k f).ctxs = s.ctxs := rfl
@[simp] theorem State.modDie_parts (s : State) (k : Nat) (f : Die → Die) : (s.modDie k f).parts = s.parts := rfl
@[simp] theorem State.modDie_launches (s : State) (k : Nat) (f : Die → Die) : (s.modDie k f).launches = s.launches := rfl
@[simp] theorem State.modDie_launchCtr (s : State) (k : Nat) (f : Die → Die) : (s.modDie k f).launchCtr = s.launchCtr := rfl
@[simp] theorem State.modDie_irqs (s : State) (k : Nat) (f : Die → Die) : (s.modDie k f).irqs = s.irqs := rfl
@[simp] theorem State.modDie_dies (s : State) (k : Nat) (f : Die → Die) :
    (s.modDie k f).dies = tset s.dies k (f (s.die k)) := rfl
@[simp] theorem State.modDie_ics (s : State) (k : Nat) (f : Die → Die) : (s.modDie k f).ics = s.ics := rfl
@[simp] theorem State.modDie_bpLim (s : State) (k : Nat) (f : Die → Die) : (s.modDie k f).bpLim = s.bpLim := rfl
@[simp] theorem State.modDie_beaten (s : State) (k : Nat) (f : Die → Die) : (s.modDie k f).beaten = s.beaten := rfl
@[simp] theorem State.modDie_issues (s : State) (k : Nat) (f : Die → Die) : (s.modDie k f).issues = s.issues := rfl
@[simp] theorem State.modDie_cur (s : State) (k : Nat) (f : Die → Die) : (s.modDie k f).cur = s.cur := rfl
@[simp] theorem State.modDie_agenda (s : State) (k : Nat) (f : Die → Die) : (s.modDie k f).agenda = s.agenda := rfl
@[simp] theorem State.modDie_freeCtr (s : State) (k : Nat) (f : Die → Die) : (s.modDie k f).freeCtr = s.freeCtr := rfl
@[simp] theorem State.modDie_ticketCtr (s : State) (k : Nat) (f : Die → Die) : (s.modDie k f).ticketCtr = s.ticketCtr := rfl
@[simp] theorem State.modDie_neigh (s : State) (k : Nat) (f : Die → Die) : (s.modDie k f).neigh = s.neigh := rfl
@[simp] theorem State.modDie_hostOwned (s : State) (k : Nat) (f : Die → Die) : (s.modDie k f).hostOwned = s.hostOwned := rfl
@[simp] theorem State.modDie_portsDown (s : State) (k : Nat) (f : Die → Die) : (s.modDie k f).portsDown = s.portsDown := rfl
@[simp] theorem State.modDie_peerOut (s : State) (k : Nat) (f : Die → Die) : (s.modDie k f).peerOut = s.peerOut := rfl
@[simp] theorem State.modDie_absent (s : State) (k : Nat) (f : Die → Die) : (s.modDie k f).absent = s.absent := rfl
@[simp] theorem State.modDie_refFrac (s : State) (k : Nat) (f : Die → Die) : (s.modDie k f).refFrac = s.refFrac := rfl
@[simp] theorem State.modDie_clkK (s : State) (k : Nat) (f : Die → Die) : (s.modDie k f).clkK = s.clkK := rfl
@[simp] theorem State.modDie_power (s : State) (k : Nat) (f : Die → Die) : (s.modDie k f).power = s.power := rfl
@[simp] theorem State.modDie_startStat (s : State) (k : Nat) (f : Die → Die) : (s.modDie k f).startStat = s.startStat := rfl
@[simp] theorem State.modDie_released (s : State) (k : Nat) (f : Die → Die) : (s.modDie k f).released = s.released := rfl
@[simp] theorem State.modDie_mbCmd (s : State) (k : Nat) (f : Die → Die) : (s.modDie k f).mbCmd = s.mbCmd := rfl
@[simp] theorem State.modDie_mbRet (s : State) (k : Nat) (f : Die → Die) : (s.modDie k f).mbRet = s.mbRet := rfl
@[simp] theorem State.modDie_mbData (s : State) (k : Nat) (f : Die → Die) : (s.modDie k f).mbData = s.mbData := rfl
@[simp] theorem State.modDie_mbWait (s : State) (k : Nat) (f : Die → Die) : (s.modDie k f).mbWait = s.mbWait := rfl
@[simp] theorem State.modDie_fwSlots (s : State) (k : Nat) (f : Die → Die) : (s.modDie k f).fwSlots = s.fwSlots := rfl
@[simp] theorem State.modDie_fwActive (s : State) (k : Nat) (f : Die → Die) : (s.modDie k f).fwActive = s.fwActive := rfl
@[simp] theorem State.modDie_fwNext (s : State) (k : Nat) (f : Die → Die) : (s.modDie k f).fwNext = s.fwNext := rfl
@[simp] theorem State.modDie_fwRun (s : State) (k : Nat) (f : Die → Die) : (s.modDie k f).fwRun = s.fwRun := rfl
@[simp] theorem State.modDie_doeOut (s : State) (k : Nat) (f : Die → Die) : (s.modDie k f).doeOut = s.doeOut := rfl
@[simp] theorem State.modDie_msix (s : State) (k : Nat) (f : Die → Die) : (s.modDie k f).msix = s.msix := rfl
@[simp] theorem State.modDie_msixPba (s : State) (k : Nat) (f : Die → Die) : (s.modDie k f).msixPba = s.msixPba := rfl
@[simp] theorem State.modDie_hdmBase (s : State) (k : Nat) (f : Die → Die) : (s.modDie k f).hdmBase = s.hdmBase := rfl
@[simp] theorem State.modDie_memActive (s : State) (k : Nat) (f : Die → Die) : (s.modDie k f).memActive = s.memActive := rfl
@[simp] theorem State.modDie_linkDown (s : State) (k : Nat) (f : Die → Die) : (s.modDie k f).linkDown = s.linkDown := rfl
@[simp] theorem State.modDie_blob (s : State) (k : Nat) (f : Die → Die) : (s.modDie k f).blob = s.blob := rfl
@[simp] theorem State.modDie_spdm (s : State) (k : Nat) (f : Die → Die) : (s.modDie k f).spdm = s.spdm := rfl
@[simp] theorem State.modDie_ideKm (s : State) (k : Nat) (f : Die → Die) : (s.modDie k f).ideKm = s.ideKm := rfl
@[simp] theorem State.modDie_hostData (s : State) (k : Nat) (f : Die → Die) : (s.modDie k f).hostData = s.hostData := rfl
@[simp] theorem State.modDie_hostPoison (s : State) (k : Nat) (f : Die → Die) : (s.modDie k f).hostPoison = s.hostPoison := rfl

/-! ### withFlights -/

@[simp] theorem State.withFlights_cycle (s : State) (k : Nat) (f : List Flight) : (s.withFlights k f).cycle = s.cycle := rfl
@[simp] theorem State.withFlights_refCount (s : State) (k : Nat) (f : List Flight) : (s.withFlights k f).refCount = s.refCount := rfl
@[simp] theorem State.withFlights_mem (s : State) (k : Nat) (f : List Flight) : (s.withFlights k f).mem = s.mem := rfl
@[simp] theorem State.withFlights_poison (s : State) (k : Nat) (f : List Flight) : (s.withFlights k f).poison = s.poison := rfl
@[simp] theorem State.withFlights_hostErr (s : State) (k : Nat) (f : List Flight) : (s.withFlights k f).hostErr = s.hostErr := rfl
@[simp] theorem State.withFlights_writeNo (s : State) (k : Nat) (f : List Flight) : (s.withFlights k f).writeNo = s.writeNo := rfl
@[simp] theorem State.withFlights_writeRels (s : State) (k : Nat) (f : List Flight) : (s.withFlights k f).writeRels = s.writeRels := rfl
@[simp] theorem State.withFlights_hist (s : State) (k : Nat) (f : List Flight) : (s.withFlights k f).hist = s.hist := rfl
@[simp] theorem State.withFlights_soView (s : State) (k : Nat) (f : List Flight) : (s.withFlights k f).soView = s.soView := rfl
@[simp] theorem State.withFlights_scView (s : State) (k : Nat) (f : List Flight) : (s.withFlights k f).scView = s.scView := rfl
@[simp] theorem State.withFlights_l2 (s : State) (k : Nat) (f : List Flight) : (s.withFlights k f).l2 = s.l2 := rfl
@[simp] theorem State.withFlights_skeins (s : State) (k : Nat) (f : List Flight) : (s.withFlights k f).skeins = s.skeins := rfl
@[simp] theorem State.withFlights_clusters (s : State) (k : Nat) (f : List Flight) : (s.withFlights k f).clusters = s.clusters := rfl
@[simp] theorem State.withFlights_ctxs (s : State) (k : Nat) (f : List Flight) : (s.withFlights k f).ctxs = s.ctxs := rfl
@[simp] theorem State.withFlights_parts (s : State) (k : Nat) (f : List Flight) : (s.withFlights k f).parts = s.parts := rfl
@[simp] theorem State.withFlights_launches (s : State) (k : Nat) (f : List Flight) : (s.withFlights k f).launches = s.launches := rfl
@[simp] theorem State.withFlights_launchCtr (s : State) (k : Nat) (f : List Flight) : (s.withFlights k f).launchCtr = s.launchCtr := rfl
@[simp] theorem State.withFlights_irqs (s : State) (k : Nat) (f : List Flight) : (s.withFlights k f).irqs = s.irqs := rfl
@[simp] theorem State.withFlights_dies (s : State) (k : Nat) (f : List Flight) : (s.withFlights k f).dies = s.dies := rfl
@[simp] theorem State.withFlights_ics (s : State) (k : Nat) (f : List Flight) : (s.withFlights k f).ics = s.ics := rfl
@[simp] theorem State.withFlights_bpLim (s : State) (k : Nat) (f : List Flight) : (s.withFlights k f).bpLim = s.bpLim := rfl
@[simp] theorem State.withFlights_beaten (s : State) (k : Nat) (f : List Flight) : (s.withFlights k f).beaten = s.beaten := rfl
@[simp] theorem State.withFlights_issues (s : State) (k : Nat) (f : List Flight) : (s.withFlights k f).issues = s.issues := rfl
@[simp] theorem State.withFlights_cur (s : State) (k : Nat) (f : List Flight) : (s.withFlights k f).cur = s.cur := rfl
@[simp] theorem State.withFlights_agenda (s : State) (k : Nat) (f : List Flight) : (s.withFlights k f).agenda = s.agenda := rfl
@[simp] theorem State.withFlights_freeCtr (s : State) (k : Nat) (f : List Flight) : (s.withFlights k f).freeCtr = s.freeCtr := rfl
@[simp] theorem State.withFlights_ticketCtr (s : State) (k : Nat) (f : List Flight) : (s.withFlights k f).ticketCtr = s.ticketCtr := rfl
@[simp] theorem State.withFlights_neigh (s : State) (k : Nat) (f : List Flight) : (s.withFlights k f).neigh = s.neigh := rfl
@[simp] theorem State.withFlights_hostOwned (s : State) (k : Nat) (f : List Flight) : (s.withFlights k f).hostOwned = s.hostOwned := rfl
@[simp] theorem State.withFlights_portsDown (s : State) (k : Nat) (f : List Flight) : (s.withFlights k f).portsDown = s.portsDown := rfl
@[simp] theorem State.withFlights_peerOut (s : State) (k : Nat) (f : List Flight) : (s.withFlights k f).peerOut = s.peerOut := rfl
@[simp] theorem State.withFlights_absent (s : State) (k : Nat) (f : List Flight) : (s.withFlights k f).absent = s.absent := rfl
@[simp] theorem State.withFlights_refFrac (s : State) (k : Nat) (f : List Flight) : (s.withFlights k f).refFrac = s.refFrac := rfl
@[simp] theorem State.withFlights_clkK (s : State) (k : Nat) (f : List Flight) : (s.withFlights k f).clkK = s.clkK := rfl
@[simp] theorem State.withFlights_power (s : State) (k : Nat) (f : List Flight) : (s.withFlights k f).power = s.power := rfl
@[simp] theorem State.withFlights_startStat (s : State) (k : Nat) (f : List Flight) : (s.withFlights k f).startStat = s.startStat := rfl
@[simp] theorem State.withFlights_released (s : State) (k : Nat) (f : List Flight) : (s.withFlights k f).released = s.released := rfl
@[simp] theorem State.withFlights_mbCmd (s : State) (k : Nat) (f : List Flight) : (s.withFlights k f).mbCmd = s.mbCmd := rfl
@[simp] theorem State.withFlights_mbRet (s : State) (k : Nat) (f : List Flight) : (s.withFlights k f).mbRet = s.mbRet := rfl
@[simp] theorem State.withFlights_mbData (s : State) (k : Nat) (f : List Flight) : (s.withFlights k f).mbData = s.mbData := rfl
@[simp] theorem State.withFlights_mbWait (s : State) (k : Nat) (f : List Flight) : (s.withFlights k f).mbWait = s.mbWait := rfl
@[simp] theorem State.withFlights_fwSlots (s : State) (k : Nat) (f : List Flight) : (s.withFlights k f).fwSlots = s.fwSlots := rfl
@[simp] theorem State.withFlights_fwActive (s : State) (k : Nat) (f : List Flight) : (s.withFlights k f).fwActive = s.fwActive := rfl
@[simp] theorem State.withFlights_fwNext (s : State) (k : Nat) (f : List Flight) : (s.withFlights k f).fwNext = s.fwNext := rfl
@[simp] theorem State.withFlights_fwRun (s : State) (k : Nat) (f : List Flight) : (s.withFlights k f).fwRun = s.fwRun := rfl
@[simp] theorem State.withFlights_doeOut (s : State) (k : Nat) (f : List Flight) : (s.withFlights k f).doeOut = s.doeOut := rfl
@[simp] theorem State.withFlights_msix (s : State) (k : Nat) (f : List Flight) : (s.withFlights k f).msix = s.msix := rfl
@[simp] theorem State.withFlights_msixPba (s : State) (k : Nat) (f : List Flight) : (s.withFlights k f).msixPba = s.msixPba := rfl
@[simp] theorem State.withFlights_hdmBase (s : State) (k : Nat) (f : List Flight) : (s.withFlights k f).hdmBase = s.hdmBase := rfl
@[simp] theorem State.withFlights_memActive (s : State) (k : Nat) (f : List Flight) : (s.withFlights k f).memActive = s.memActive := rfl
@[simp] theorem State.withFlights_linkDown (s : State) (k : Nat) (f : List Flight) : (s.withFlights k f).linkDown = s.linkDown := rfl
@[simp] theorem State.withFlights_blob (s : State) (k : Nat) (f : List Flight) : (s.withFlights k f).blob = s.blob := rfl
@[simp] theorem State.withFlights_spdm (s : State) (k : Nat) (f : List Flight) : (s.withFlights k f).spdm = s.spdm := rfl
@[simp] theorem State.withFlights_ideKm (s : State) (k : Nat) (f : List Flight) : (s.withFlights k f).ideKm = s.ideKm := rfl
@[simp] theorem State.withFlights_hostData (s : State) (k : Nat) (f : List Flight) : (s.withFlights k f).hostData = s.hostData := rfl
@[simp] theorem State.withFlights_hostPoison (s : State) (k : Nat) (f : List Flight) : (s.withFlights k f).hostPoison = s.hostPoison := rfl

/-! ### What the table accesses answer after an update -/

@[simp] theorem State.strand?_modStrand_self (s : State) (k : Nat) (f : Strand → Strand) :
    (s.modStrand k f).strand? k = (s.strand? k).map f := tget?_tmod_self _ _ _

theorem State.strand?_modStrand_ne (s : State) {k n : Nat} (f : Strand → Strand) (h : n ≠ k) :
    (s.modStrand k f).strand? n = s.strand? n := tget?_tmod_ne _ _ h

@[simp] theorem State.skein?_modSkein_self (s : State) (k : Nat) (f : Skein → Skein) :
    (s.modSkein k f).skein? k = (s.skein? k).map f := tget?_tmod_self _ _ _

theorem State.skein?_modSkein_ne (s : State) {k n : Nat} (f : Skein → Skein) (h : n ≠ k) :
    (s.modSkein k f).skein? n = s.skein? n := tget?_tmod_ne _ _ h

@[simp] theorem State.cluster_modCluster_self (s : State) (k : Nat) (f : Cluster → Cluster) :
    (s.modCluster k f).cluster k = f (s.cluster k) := by simp [State.cluster]

theorem State.cluster_modCluster_ne (s : State) {k n : Nat} (f : Cluster → Cluster) (h : n ≠ k) :
    (s.modCluster k f).cluster n = s.cluster n := by simp [State.cluster, tget?_tset_ne _ _ h]

@[simp] theorem State.ctx_modCtx_self (s : State) (k : Nat) (f : Context → Context) :
    (s.modCtx k f).ctx k = f (s.ctx k) := by simp [State.ctx]

theorem State.ctx_modCtx_ne (s : State) {k n : Nat} (f : Context → Context) (h : n ≠ k) :
    (s.modCtx k f).ctx n = s.ctx n := by simp [State.ctx, tget?_tset_ne _ _ h]

@[simp] theorem State.part_modPart_self (s : State) (k : Nat) (f : Partition → Partition) :
    (s.modPart k f).part k = f (s.part k) := by simp [State.part]

theorem State.part_modPart_ne (s : State) {k n : Nat} (f : Partition → Partition) (h : n ≠ k) :
    (s.modPart k f).part n = s.part n := by simp [State.part, tget?_tset_ne _ _ h]

@[simp] theorem State.die_modDie_self (s : State) (k : Nat) (f : Die → Die) : (s.modDie k f).die k = f (s.die k) := by
  simp [State.die]

/-- A fibre after a change of it. -/
@[simp] theorem State.fib?_modFib_self (s : State) (k : Nat) (f : Fibre → Fibre) : (s.modFib k f).fib? k = (s.fib? k).map f := by
  unfold State.fib? State.modFib
  rw [State.strand?_modStrand_self]
  cases s.strand? (fibStrand k) <;> simp

/-- A fibre of another strand after a change of a fibre. -/
theorem State.fib?_modFib_strand_ne (s : State) {k n : Nat} (f : Fibre → Fibre) (h : fibStrand n ≠ fibStrand k) :
    (s.modFib k f).fib? n = s.fib? n := by
  unfold State.fib? State.modFib
  rw [State.strand?_modStrand_ne _ _ h]

end Sys2Proof.Machine
end

