-- ==== Sys2Proof/Laws/Issue.lean ====
section
/-! SUPPORT. What `issue` answers, outcome by outcome, and what the operations that write registers do to the state. -/

namespace Sys2Proof.Machine

/-! ### `issue` -/

/-- An instruction that passes its checks takes the outcome of its body. -/
theorem issue_eq {i : Instr} {s : State} {c : Ctx} (body : Ctx → State → Res) (h : Issues i s c) :
    issue i s body =
      match body c s with
      | .next s' => .next (c.advance s')
      | .again s' => .next s'
      | .fin s' => .next s'
      | .trap t => .next (s.takeTrap c.k { t with word := some i.word0 } c.act c.len)
      | .trapIn s' t => .next (s'.takeTrap c.k { t with word := some i.word0 } c.act c.len) := by
  obtain ⟨is, h1, h2, h3⟩ := h
  simp only [issue, h1, h2, h3] <;> cases body c s <;> rfl

theorem issue_next {i : Instr} {s t : State} {c : Ctx} {body : Ctx → State → Res} (h : Issues i s c)
    (hb : body c s = .next t) : issue i s body = .next (c.advance t) := by rw [issue_eq body h, hb]

theorem issue_again {i : Instr} {s t : State} {c : Ctx} {body : Ctx → State → Res} (h : Issues i s c)
    (hb : body c s = .again t) : issue i s body = .next t := by rw [issue_eq body h, hb]

theorem issue_fin {i : Instr} {s t : State} {c : Ctx} {body : Ctx → State → Res} (h : Issues i s c)
    (hb : body c s = .fin t) : issue i s body = .next t := by rw [issue_eq body h, hb]

theorem issue_trap {i : Instr} {s : State} {c : Ctx} {t : Trap} {body : Ctx → State → Res} (h : Issues i s c)
    (hb : body c s = .trap t) :
    issue i s body = .next (s.takeTrap c.k { t with word := some i.word0 } c.act c.len) := by rw [issue_eq body h, hb]

/-- A check that fails takes its trap, and the body has no part in it (R7). -/
theorem issue_check {i : Instr} {s : State} {c : Ctx} {t : Trap} (body : Ctx → State → Res) (h : AtBeat2 i s c)
    (hc : c.check = some t) :
    issue i s body = .next (s.takeTrap c.k { t with word := some i.word0 } c.act c.len) := by
  obtain ⟨is, h1, h2⟩ := h
  simp only [issue, h1, h2, hc]

/-- At its beat 2 an instruction always leads to a next state. -/
theorem issue_answers {i : Instr} {s : State} {c : Ctx} (body : Ctx → State → Res) (h : AtBeat2 i s c) :
    ∃ t, issue i s body = .next t := by
  cases hc : c.check with
  | some t => exact ⟨_, issue_check body h hc⟩
  | none =>
    obtain ⟨is, h1, h2⟩ := h
    have := issue_eq body (show Issues i s c from ⟨is, h1, h2, hc⟩)
    cases hb : body c s <;> (rw [hb] at this; exact ⟨_, this⟩)

/-- The context of an issue holds the fibre and the strand of the state. -/
theorem mkCtx_strand {i : Instr} {s : State} {is : Issue} {c : Ctx} (h : mkCtx i s is = some c) :
    s.strand? c.strand = some c.st ∧ s.fib? c.k = some c.f ∧ c.i = i ∧ c.k = is.fib := by
  unfold mkCtx at h
  split at h
  · next st f h1 h2 => cases h; exact ⟨h1, h2, rfl, rfl⟩
  · cases h

theorem Issues.strand {i : Instr} {s : State} {c : Ctx} (h : Issues i s c) : s.strand? c.strand = some c.st := by
  obtain ⟨is, -, h2, -⟩ := h; exact (mkCtx_strand h2).1

theorem Issues.fib {i : Instr} {s : State} {c : Ctx} (h : Issues i s c) : s.fib? c.k = some c.f := by
  obtain ⟨is, -, h2, -⟩ := h; exact (mkCtx_strand h2).2.1

theorem Issues.instr {i : Instr} {s : State} {c : Ctx} (h : Issues i s c) : c.i = i := by
  obtain ⟨is, -, h2, -⟩ := h; exact (mkCtx_strand h2).2.2.1

/-! ### Writes in flight -/

/-- Two changes of one strand are one. -/
theorem State.modStrand_modStrand (s : State) (k : Nat) (f g : Strand → Strand) :
    (s.modStrand k f).modStrand k g = s.modStrand k fun st => g (f st) := by simp [State.modStrand]

/-- Only the strand found matters to a change of it. -/
theorem State.modStrand_congr (s : State) (k : Nat) (f g : Strand → Strand) (h : ∀ st, s.strand? k = some st → f st = g st) :
    s.modStrand k f = s.modStrand k g := by unfold State.modStrand; rw [tmod_congr _ _ _ _ h]

/-- No write is no change. -/
theorem State.withFlights_nil (s : State) (k : Nat) : s.withFlights k [] = s := by
  unfold State.withFlights State.modStrand; rw [tmod_id] <;> simp

/-- Writes issued one after the other. -/
theorem State.withFlights_append (s : State) (k : Nat) (a b : List Flight) :
    (s.withFlights k a).withFlights k b = s.withFlights k (a ++ b) := by
  simp [State.withFlights, State.modStrand_modStrand, Nat.add_assoc]

theorem State.strand?_withFlights {s : State} {k : Nat} {st : Strand} (fs : List Flight) (h : s.strand? k = some st) :
    (s.withFlights k fs).strand? k = some { st with flights := st.flights ++ fs, seq := st.seq + fs.length } := by
  simp [State.withFlights, h]

/-- The write that an instruction issues: the one of `Ctx.flight`, with the strand's next issue number; none to vz and to the
registers that are not written. -/
theorem Ctx.putAt_eq {c : Ctx} {s : State} {st : Strand} (h : s.strand? c.strand = some st) (reg : Nat) (lanes : Lanes)
    (val : Nat → Word) (cov : Word) (ld : Nat × Nat × Nat) (tag : Nat → Option Tag) :
    c.putAt s reg lanes val cov ld tag =
      s.withFlights c.strand
        (match c.flight reg lanes val cov tag (some ld) with
          | some fl => [{ fl with seq := st.seq }]
          | none => []) := by
  unfold Ctx.putAt State.withFlights
  apply State.modStrand_congr
  intro st' h'
  rw [h] at h'
  cases h'
  cases c.flight reg lanes val cov tag (some ld) <;> simp [Strand.launchWrite]

/-- The flight of a write goes to its register, in lanes it names. -/
theorem Ctx.flight_spec {c : Ctx} {reg : Nat} {lanes : Lanes} {val : Nat → Word} {cov : Word} {tag : Nat → Option Tag}
    {ld : Option (Nat × Nat × Nat)} {fl : Flight} (h : c.flight reg lanes val cov tag ld = some fl) :
    fl.reg = reg ∧ fl.lanes &&& ~~~lanes = 0 ∧ fl.land = ld ∧ fl.orIn = false := by
  unfold Ctx.flight at h
  dsimp only at h
  split at h
  · cases h; exact ⟨rfl, by simp, rfl, rfl⟩
  · split at h
    · cases h
      refine ⟨rfl, ?_, rfl, rfl⟩
      ext i
      simp only [BitVec.getElem_and, BitVec.getElem_not, BitVec.getElem_zero]
      cases lanes[i] <;> simp
    · cases h

/-- A write of an instruction issues writes to its register only, in the lanes given. -/
theorem Ctx.putAt_writes {c : Ctx} {s : State} {st : Strand} (h : s.strand? c.strand = some st) (reg : Nat) (lanes : Lanes)
    (val : Nat → Word) (cov : Word) (ld : Nat × Nat × Nat) (tag : Nat → Option Tag) :
    ∃ new : List Flight, c.putAt s reg lanes val cov ld tag = s.withFlights c.strand new ∧
      ∀ x ∈ new, x.reg = reg ∧ x.lanes &&& ~~~lanes = 0 := by
  refine ⟨_, Ctx.putAt_eq h reg lanes val cov ld tag, ?_⟩
  cases hf : c.flight reg lanes val cov tag (some ld) with
  | none => simp
  | some fl => have := Ctx.flight_spec hf; simp [this.1, this.2.1]

/-- `putBits` issues writes to its register only. -/
theorem Ctx.putBits_writes {c : Ctx} {s : State} {st : Strand} (h : s.strand? c.strand = some st) (reg : Nat) (lanes : Lanes)
    (val : Nat → Word) (cov : Word) (lat : Nat) (tag : Nat → Option Tag) :
    ∃ new : List Flight, c.putBits s reg lanes val cov lat tag = s.withFlights c.strand new ∧
      ∀ x ∈ new, x.reg = reg ∧ x.lanes &&& ~~~lanes = 0 := Ctx.putAt_writes h _ _ _ _ _ _

/-- Flags go to vfst only, in lanes of act. -/
theorem Ctx.orFlags_writes {c : Ctx} {s : State} {st : Strand} (h : s.strand? c.strand = some st) (fl : Nat → Flags) (lat : Nat) :
    ∃ new : List Flight, c.orFlags s fl lat = s.withFlights c.strand new ∧
      ∀ x ∈ new, x.reg = 252 ∧ x.lanes &&& ~~~c.act = 0 := by
  unfold Ctx.orFlags
  dsimp only
  split
  · exact ⟨[], (State.withFlights_nil s _).symm, by simp⟩
  · refine ⟨[{ seq := st.seq, reg := 252, lanes := c.act &&& lanesOf fun l => fl l != 0, orIn := true, land := some (st.landAfter 252 (c.act &&& lanesOf fun l => fl l != 0) (c.landing lat)), vals := laneVec fun l => if (c.act &&& lanesOf fun l => fl l != 0).getLsbD l then fl l else 0 }], ?_, ?_⟩
    · unfold State.withFlights
      apply State.modStrand_congr
      intro st' h'
      rw [h] at h'
      cases h'
      simp [Strand.launchWrite]
    · simp only [List.mem_singleton, forall_eq, true_and]
      ext i; simp; intros; assumption

/-- An element-wise integer result goes to D and to vfst. -/
theorem Ctx.putSat_writes {c : Ctx} {s : State} {st : Strand} (h : s.strand? c.strand = some st) (reg : BitVec 8) (w : Nat)
    (dm : BitVec 8) (res : Nat → List (Nat × Bool)) (lat : Nat) :
    ∃ new : List Flight, c.putSat s reg w dm res lat = s.withFlights c.strand new ∧
      ∀ x ∈ new, (x.reg = reg.toNat ∨ x.reg = 252) ∧ x.lanes &&& ~~~c.act = 0 := by
  unfold Ctx.putSat
  obtain ⟨n1, e1, p1⟩ := Ctx.putBits_writes h reg.toNat c.act (fun l => fromElems w ((res l).map (·.1))) (dmaskBits w dm) lat c.laneTag
  rw [e1]
  obtain ⟨n2, e2, p2⟩ := Ctx.orFlags_writes (State.strand?_withFlights n1 h)
    (fun l => if (((res l).zipIdx).any fun e => e.1.2 && dm.getLsbD e.2) then fSAT else 0) lat
  refine ⟨n1 ++ n2, ?_, ?_⟩
  · dsimp only; rw [e2, State.withFlights_append]
  · intro x hx
    rcases List.mem_append.mp hx with hx | hx
    · exact ⟨.inl (p1 x hx).1, (p1 x hx).2⟩
    · exact ⟨.inr (p2 x hx).1, (p2 x hx).2⟩

/-- Whole registers written together. -/
theorem Ctx.putSpan_writes {c : Ctx} {s : State} {st : Strand} (h : s.strand? c.strand = some st) (reg n : Nat)
    (val : Nat → Nat → Word) (lat : Nat) (tag : Nat → Option Tag) :
    ∃ new : List Flight, c.putSpan s reg n val lat tag = s.withFlights c.strand new ∧
      ∀ x ∈ new, x.reg ∈ (List.range n).map (reg + ·) ∧ x.lanes &&& ~~~c.act = 0 := by
  unfold Ctx.putSpan
  generalize c.landSpan s ((List.range n).map (reg + ·)) c.act lat = ld
  have key : ∀ (rs : List Nat) (s : State) (st : Strand), s.strand? c.strand = some st →
      ∃ new : List Flight,
        rs.foldl (fun a r => c.putAt a (reg + r) c.act (val r) 0xFFFFFFFF ld tag) s = s.withFlights c.strand new ∧
          ∀ x ∈ new, x.reg ∈ rs.map (reg + ·) ∧ x.lanes &&& ~~~c.act = 0 := by
    intro rs
    induction rs with
    | nil => intro s st _; exact ⟨[], (State.withFlights_nil s _).symm, by simp⟩
    | cons r rs ih =>
      intro s st h
      obtain ⟨n1, e1, p1⟩ := Ctx.putAt_writes h (reg + r) c.act (val r) 0xFFFFFFFF ld tag
      obtain ⟨n2, e2, p2⟩ := ih _ _ (State.strand?_withFlights n1 h)
      refine ⟨n1 ++ n2, ?_, ?_⟩
      · rw [List.foldl_cons, e1, e2, State.withFlights_append]
      · intro x hx
        rcases List.mem_append.mp hx with hx | hx
        · exact ⟨by simp [(p1 x hx).1], (p1 x hx).2⟩
        · exact ⟨by simpa using Or.inr (by simpa using (p2 x hx).1), (p2 x hx).2⟩
  exact key _ s st h

end Sys2Proof.Machine
end

