-- ==== Sys2Proof/Laws/Memory.lean ====
section
/-! SUPPORT. The laws of memory cells: a read after a write, and that every memory operation keeps the canonical form. -/

namespace Sys2Proof.Machine

/-- Reading the byte that was written. -/
@[simp] theorem cellRead_cellWrite_self (m : List Host.Cell) (a : Nat) (b : Byte) (h : memWf m = true) :
    cellRead (cellWrite m a b) a = b := by
  unfold memWf at h
  generalize 0 = lo at h
  induction m generalizing lo with
  | nil => unfold cellWrite; split <;> simp_all [cellRead]
  | cons e t ih =>
    obtain ⟨k, x⟩ := e
    simp only [memWfFrom, Bool.and_eq_true, decide_eq_true_eq, bne_iff_ne] at h
    unfold cellWrite
    split
    · next hk => split <;> simp_all [cellRead]; omega
    · split
      · next hk =>
        subst hk
        split
        · next hb =>
          subst hb
          cases t with
          | nil => rfl
          | cons e' t' =>
            obtain ⟨k', x'⟩ := e'
            simp only [memWfFrom, Bool.and_eq_true, decide_eq_true_eq] at h
            have h1 : a ≠ k' := by omega
            have h2 : a < k' := by omega
            simp [cellRead, h1.symm, h2]
        · simp [cellRead]
      · next h1 h2 =>
        have h3 : ¬ k = a := fun e => h2 e.symm
        simp only [cellRead, h3, h1, if_false]
        exact ih _ h.2

/-- Writing leaves every other byte alone. -/
theorem cellRead_cellWrite_ne (m : List Host.Cell) {a c : Nat} (b : Byte) (hne : c ≠ a) (h : memWf m = true) :
    cellRead (cellWrite m a b) c = cellRead m c := by
  unfold memWf at h
  generalize 0 = lo at h
  induction m generalizing lo with
  | nil => unfold cellWrite; split <;> simp [cellRead, hne.symm]
  | cons e t ih =>
    obtain ⟨k, x⟩ := e
    simp only [memWfFrom, Bool.and_eq_true, decide_eq_true_eq, bne_iff_ne] at h
    have low : ∀ (l : List Host.Cell) (z : Nat), memWfFrom z l = true → c < z → cellRead l c = unlisted := by
      intro l z hl hc
      cases l with
      | nil => rfl
      | cons e' l' =>
        obtain ⟨k', x'⟩ := e'
        simp only [memWfFrom, Bool.and_eq_true, decide_eq_true_eq] at hl
        have h1 : ¬ k' = c := by omega
        have h2 : c < k' := by omega
        simp [cellRead, h1, h2]
    unfold cellWrite
    split
    · next hk =>
      split
      · rfl
      · by_cases hc : c < a
        · have h1 : ¬ k = c := by omega
          have h2 : c < k := by omega
          simp [cellRead, hne.symm, hc, h1, h2]
        · simp [cellRead, hne.symm, hc]
    · split
      · next hk =>
        subst hk
        have hne' : ¬ a = c := fun e => hne e.symm
        split
        · by_cases hc : c < a
          · simp only [cellRead, hne', hc, if_false, if_true]
            exact low t (a + 1) h.2 (by omega)
          · simp only [cellRead, hne', hc, if_false]
        · simp [cellRead, hne']
      · next h1 h2 => simp only [cellRead]; rw [ih _ h.2]

theorem memWfFrom_mono (m : List Host.Cell) {lo lo' : Nat} (hle : lo ≤ lo') (h : memWfFrom lo' m = true) :
    memWfFrom lo m = true := by
  cases m with
  | nil => rfl
  | cons e t =>
    obtain ⟨k, x⟩ := e
    simp only [memWfFrom, Bool.and_eq_true, decide_eq_true_eq] at h ⊢
    exact ⟨⟨by omega, h.1.2⟩, h.2⟩

theorem memWfFrom_cellWrite (m : List Host.Cell) (lo a : Nat) (b : Byte) (hlo : lo ≤ a) (h : memWfFrom lo m = true) :
    memWfFrom lo (cellWrite m a b) = true := by
  induction m generalizing lo with
  | nil => unfold cellWrite; split <;> simp_all [memWfFrom]
  | cons e t ih =>
    obtain ⟨k, x⟩ := e
    have h0 := h
    simp only [memWfFrom, Bool.and_eq_true, decide_eq_true_eq, bne_iff_ne] at h
    unfold cellWrite
    split
    · next hk =>
      split
      · exact h0
      · next hb =>
        simp only [memWfFrom, Bool.and_eq_true, decide_eq_true_eq, bne_iff_ne]
        exact ⟨⟨hlo, hb⟩, ⟨by omega, h.1.2⟩, h.2⟩
    · split
      · next hk =>
        subst hk
        split
        · exact memWfFrom_mono t (by omega) h.2
        · next hb => simp only [memWfFrom, Bool.and_eq_true, decide_eq_true_eq, bne_iff_ne]; exact ⟨⟨hlo, hb⟩, h.2⟩
      · next h1 h2 =>
        simp only [memWfFrom, Bool.and_eq_true, decide_eq_true_eq, bne_iff_ne]
        exact ⟨h.1, ih (k + 1) (by omega) h.2⟩

/-- A write keeps the canonical form. -/
theorem memWf_cellWrite (m : List Host.Cell) (a : Nat) (b : Byte) (h : memWf m = true) : memWf (cellWrite m a b) = true :=
  memWfFrom_cellWrite m 0 a b (Nat.zero_le a) h

/-- Writes of consecutive bytes keep the canonical form. -/
theorem memWf_cellsWrite (m : List Host.Cell) (a : Nat) (bs : List Byte) (h : memWf m = true) :
    memWf (cellsWrite m a bs) = true := by
  induction bs generalizing m a with
  | nil => exact h
  | cons b bs ih => exact ih _ _ (memWf_cellWrite m a b h)

/-- Removing cells keeps the canonical form. -/
theorem memWf_filter (m : List Host.Cell) (p : Host.Cell → Bool) (h : memWf m = true) : memWf (m.filter p) = true := by
  unfold memWf at h ⊢
  generalize 0 = lo at h
  induction m generalizing lo with
  | nil => rfl
  | cons e t ih =>
    obtain ⟨k, x⟩ := e
    simp only [memWfFrom, Bool.and_eq_true, decide_eq_true_eq] at h
    rw [List.filter_cons]
    split
    · simp only [memWfFrom, Bool.and_eq_true, decide_eq_true_eq]
      exact ⟨h.1, ih _ h.2⟩
    · exact memWfFrom_mono _ (by omega) (ih _ h.2)

/-- Writes of consecutive bytes leave every byte outside them alone. -/
theorem cellRead_cellsWrite_out (m : List Host.Cell) (a c : Nat) (bs : List Byte) (hc : c < a ∨ a + bs.length ≤ c)
    (h : memWf m = true) : cellRead (cellsWrite m a bs) c = cellRead m c := by
  induction bs generalizing m a with
  | nil => rfl
  | cons b bs ih =>
    simp only [List.length_cons] at hc
    rw [cellsWrite, ih _ _ (by omega) (memWf_cellWrite m a b h), cellRead_cellWrite_ne m b (by omega) h]

/-- What logging a line for the undo log does to memory: nothing, or the next entry is written behind those of the epoch,
within the log's region (R337). -/
theorem State.logLine_mem (s : State) (part : Option Nat) (key : Nat) :
    (s.logLine part key).mem = s.mem ∨
      ∃ p bs, part = some p ∧ 136 * (s.part p).undo.length + bs.length ≤ (s.part p).ckSize.toNat * 2 ^ 20 ∧
        (s.logLine part key).mem = cellsWrite s.mem ((s.part p).undoAt (s.part p).undo.length) bs := by
  unfold State.logLine
  split
  · exact .inl rfl
  · next p =>
    dsimp only
    split
    · exact .inl rfl
    · split
      · exact .inl rfl
      · next hs =>
        refine .inr ⟨p, bytesOfNat 8 (lineOf key * 128) ++ cellsRead s.mem (lineOf key * 128) 128, rfl, ?_, by dsimp only⟩
        have hr : ∀ (m : List Host.Cell) (a n : Nat), (cellsRead m a n).length = n := by
          intro m a n; simp [cellsRead]
        have hb : ∀ (n x : Nat), (bytesOfNat n x).length = n := by
          intro n; induction n with
          | zero => intro x; rfl
          | succ n ih => intro x; simp [bytesOfNat, ih]
        simp only [List.length_append, hb, hr]
        unfold undoEntryBytes at hs
        omega

/-- Logging a line keeps the canonical form of memory. -/
theorem State.memWf_logLine (s : State) (part : Option Nat) (key : Nat) (h : memWf s.mem = true) :
    memWf (s.logLine part key).mem = true := by
  rcases s.logLine_mem part key with e | ⟨p, bs, -, -, e⟩ <;> rw [e]
  · exact h
  · exact memWf_cellsWrite _ _ _ h

/-- Without a partition, or with one that keeps no log, a line is not logged. -/
theorem State.logLine_off (s : State) (part : Option Nat) (key : Nat) (h : ∀ p, part = some p → (s.part p).ckSize = 0) :
    s.logLine part key = s := by
  unfold State.logLine
  split
  · rfl
  · next p => simp [h p rfl]

/-- Beginning a write changes no memory. -/
@[simp] theorem State.beginOther_mem (s : State) : s.beginOther.mem = s.mem := rfl

/-- A byte written is a write of its cell, after the line has been logged; a byte of host memory is lost with its link (R476). -/
@[simp] theorem State.memPut_mem (s : State) (part : Option Nat) (key : Nat) (b : Byte) :
    (s.memPut part key b).mem = if s.linkDown && hostKey key then s.mem else cellWrite (s.logLine part key).mem key b := by
  unfold State.memPut
  split <;> rfl

/-- A byte written keeps the canonical form. -/
theorem State.memWf_memPut (s : State) (part : Option Nat) (key : Nat) (b : Byte) (h : memWf s.mem = true) :
    memWf (s.memPut part key b).mem = true := by
  rw [State.memPut_mem]
  split
  · exact h
  · exact memWf_cellWrite _ _ _ (s.memWf_logLine part key h)

/-- A write of memory keeps the canonical form. -/
theorem State.memWf_memWrite (s : State) (part : Option Nat) (key : Nat) (b : Byte) (h : memWf s.mem = true) :
    memWf (s.memWrite part key b).mem = true := s.beginOther.memWf_memPut part key b h

/-- The byte written is read. -/
theorem State.memRead_memPut_self (s : State) (part : Option Nat) (key : Nat) (b : Byte) (h : memWf s.mem = true)
    (hl : (s.linkDown && hostKey key) = false) : (s.memPut part key b).memRead key = b := by
  unfold State.memRead
  rw [State.memPut_mem, if_neg (by simp [hl])]
  exact cellRead_cellWrite_self _ _ _ (s.memWf_logLine part key h)

theorem State.memRead_memWrite_self (s : State) (part : Option Nat) (key : Nat) (b : Byte) (h : memWf s.mem = true)
    (hl : (s.linkDown && hostKey key) = false) : (s.memWrite part key b).memRead key = b :=
  s.beginOther.memRead_memPut_self part key b h hl

/-- A byte written where no undo log is kept leaves every other byte alone. -/
theorem State.memRead_memPut_ne (s : State) {key c : Nat} (b : Byte) (hne : c ≠ key) (h : memWf s.mem = true) :
    (s.memPut none key b).memRead c = s.memRead c := by
  unfold State.memRead
  rw [State.memPut_mem]
  split
  · rfl
  · exact cellRead_cellWrite_ne _ b hne h

/-- Consecutive bytes written keep the canonical form. -/
theorem State.memWf_memPuts (s : State) (part : Option Nat) (key : Nat) (bs : List Byte) (h : memWf s.mem = true) :
    memWf (s.memPuts part key bs).mem = true := by
  induction bs generalizing s key with
  | nil => exact h
  | cons b bs ih => exact ih _ _ (State.memWf_memPut s part key b h)

/-- Writes of consecutive bytes of memory keep the canonical form. -/
theorem State.memWf_memWriteBytes (s : State) (part : Option Nat) (key : Nat) (bs : List Byte) (h : memWf s.mem = true) :
    memWf (s.memWriteBytes part key bs).mem = true := s.beginOther.memWf_memPuts part key bs h

/-- The host's writes keep the canonical form. -/
theorem State.memWf_hostWrite (s : State) (a : Nat) (bs : List Byte) (h : memWf s.mem = true) :
    memWf (s.hostWrite a bs).mem = true := by
  have go : ∀ (s : State) (a : Nat), memWf s.mem = true → memWf (s.hostPuts a bs).mem = true := by
    induction bs with
    | nil => exact fun _ _ h => h
    | cons b bs ih => exact fun s a h => ih _ _ (State.memWf_memPut s _ a b h)
  exact go s.beginOther a h

/-- A byte written where it lies keeps the canonical form of memory. -/
theorem State.memWf_locPut (s : State) (part : Option Nat) (l : Loc) (b : Byte) (h : memWf s.mem = true) :
    memWf (s.locPut part l b).mem = true := by
  cases l with
  | mem k => exact State.memWf_memPut s part k b h
  | scr sk o => exact h

/-- A write where a byte lies keeps the canonical form of memory. -/
theorem State.memWf_locWrite (s : State) (part : Option Nat) (l : Loc) (b : Byte) (h : memWf s.mem = true) :
    memWf (s.locWrite part l b).mem = true := s.beginOther.memWf_locPut part l b h

/-- Writes where bytes lie keep the canonical form of memory. -/
theorem State.memWf_locWrites (s : State) (part : Option Nat) (bs : List (Loc × Byte)) (h : memWf s.mem = true) :
    memWf (s.locWrites part bs).mem = true := by
  unfold State.locWrites
  rw [← s.beginOther_mem] at h
  generalize s.beginOther = u at h
  induction bs generalizing u with
  | nil => exact h
  | cons b bs ih => exact ih _ (State.memWf_locPut u part b.1 b.2 h)

/-- With no older value kept, a byte has at every moment the value it has now. -/
@[simp] theorem State.valueAt_nil (s : State) (t : Nat) (l : Loc) (now : Byte) (h : s.hist = []) : s.valueAt t l now = now := by
  simp [State.valueAt, h]

/-- With no older value kept, an access can be as of no older moment. -/
@[simp] theorem State.moments_nil (s : State) (v : View) (ls : List Loc) (h : s.hist = []) : s.moments v ls = [] := by
  simp [State.moments, h]

/-- A moment that an access may be as of comes after every write to its bytes that its view knows. -/
theorem State.moments_known (s : State) (v : View) (ls : List Loc) (t : Nat) (ht : t ∈ s.moments v ls) :
    ∀ w ∈ s.hist, w.loc ∈ ls → w.num ≤ v.num w.loc → w.num ≤ t := by
  intro w hw hl hn
  simp only [State.moments, List.mem_filter, List.all_eq_true, Bool.or_eq_true, decide_eq_true_eq] at ht
  rcases ht.2 w ⟨hw, by simpa using hl⟩ with h | h
  · exact h
  · omega

/-- Memory right after reset has the canonical form. -/
theorem reset_memWf : memWf State.reset.mem = true := rfl

end Sys2Proof.Machine
end

