-- ==== Sys2Proof/Laws/PerInstr.lean ====
section
/-! SUPPORT. Statements about every instruction as syntax, one lemma per constructor of `Instr`: how long an instruction is. -/

namespace Sys2Proof.Laws.Length

/-- R25, R33: an instruction is 8, 12 or 16 bytes long, and a whole number of parcels; an event has no length. -/
def Statement (i : Instr) : Prop := if i.isEvent then i.bytes = 0 else i.bytes = 8 ∨ i.bytes = 12 ∨ i.bytes = 16

theorem of_ext (e : Ext) : e.bytes = 8 ∨ e.bytes = 12 ∨ e.bytes = 16 := by cases e <;> simp [Ext.bytes]

theorem of_guard (g : Option (BitVec 32)) :
    (if g.isSome then 16 else 12) = 8 ∨ (if g.isSome then 16 else 12) = 12 ∨ (if g.isSome then 16 else 12) = 16 := by
  cases g <;> simp

theorem nop (f : X64) : Statement (.nop f) := of_ext f.ext
theorem runend (f : T96) : Statement (.runend f) := of_guard f.guard
theorem bra (f : T96) : Statement (.bra f) := of_guard f.guard
theorem brc (c : Cond) (f : T96) : Statement (.brc c f) := of_guard f.guard
theorem bru (c : Cond) (f : T96) : Statement (.bru c f) := of_guard f.guard
theorem brany (c : Cond) (f : T96) : Statement (.brany c f) := of_guard f.guard
theorem brall (c : Cond) (f : T96) : Statement (.brall c f) := of_guard f.guard
theorem jmpi (f : T96) : Statement (.jmpi f) := of_guard f.guard
theorem call (f : T96) : Statement (.call f) := of_guard f.guard
theorem calli (f : T96) : Statement (.calli f) := of_guard f.guard
theorem ret (f : T96) : Statement (.ret f) := of_guard f.guard
theorem rcvg (f : T96) : Statement (.rcvg f) := of_guard f.guard
theorem endk (f : T96) : Statement (.endk f) := of_guard f.guard
theorem yield (f : T96) : Statement (.yield f) := of_guard f.guard
theorem iadd (sat : Bool) (f : X64) : Statement (.iadd sat f) := of_ext f.ext
theorem isub (sat : Bool) (f : X64) : Statement (.isub sat f) := of_ext f.ext
theorem iaddi (sat : Bool) (f : I64) : Statement (.iaddi sat f) := of_ext f.ext
theorem imul (f : X64) : Statement (.imul f) := of_ext f.ext
theorem imulh (f : X64) : Statement (.imulh f) := of_ext f.ext
theorem imad (sat : Bool) (f : X64) : Statement (.imad sat f) := of_ext f.ext
theorem imadw (f : X64) : Statement (.imadw f) := of_ext f.ext
theorem idiv (f : X64) : Statement (.idiv f) := of_ext f.ext
theorem irem (f : X64) : Statement (.irem f) := of_ext f.ext
theorem imin (f : X64) : Statement (.imin f) := of_ext f.ext
theorem imax (f : X64) : Statement (.imax f) := of_ext f.ext
theorem iabs (f : X64) : Statement (.iabs f) := of_ext f.ext
theorem ineg (f : X64) : Statement (.ineg f) := of_ext f.ext
theorem and (f : X64) : Statement (.and f) := of_ext f.ext
theorem or (f : X64) : Statement (.or f) := of_ext f.ext
theorem xor (f : X64) : Statement (.xor f) := of_ext f.ext
theorem andn (f : X64) : Statement (.andn f) := of_ext f.ext
theorem orn (f : X64) : Statement (.orn f) := of_ext f.ext
theorem xnor (f : X64) : Statement (.xnor f) := of_ext f.ext
theorem andi (f : I64) : Statement (.andi f) := of_ext f.ext
theorem ori (f : I64) : Statement (.ori f) := of_ext f.ext
theorem xori (f : I64) : Statement (.xori f) := of_ext f.ext
theorem shl (f : X64) : Statement (.shl f) := of_ext f.ext
theorem shrl (f : X64) : Statement (.shrl f) := of_ext f.ext
theorem shra (f : X64) : Statement (.shra f) := of_ext f.ext
theorem shli (f : I64) : Statement (.shli f) := of_ext f.ext
theorem shrli (f : I64) : Statement (.shrli f) := of_ext f.ext
theorem shrai (f : I64) : Statement (.shrai f) := of_ext f.ext
theorem fshr (f : X64) : Statement (.fshr f) := of_ext f.ext
theorem bfx (f : X64) : Statement (.bfx f) := of_ext f.ext
theorem bfi (f : X64) : Statement (.bfi f) := of_ext f.ext
theorem popc (f : X64) : Statement (.popc f) := of_ext f.ext
theorem clz (f : X64) : Statement (.clz f) := of_ext f.ext
theorem ctz (f : X64) : Statement (.ctz f) := of_ext f.ext
theorem brev (f : X64) : Statement (.brev f) := of_ext f.ext
theorem icmp (c : Cmp) (f : X64) : Statement (.icmp c f) := of_ext f.ext
theorem icmpi (c : Cmp) (f : I64) : Statement (.icmpi c f) := of_ext f.ext
theorem sel (f : X64) : Statement (.sel f) := of_ext f.ext
theorem mov (f : X64) : Statement (.mov f) := of_ext f.ext
theorem movi (f : I64) : Statement (.movi f) := of_ext f.ext
theorem lea (f : X64) : Statement (.lea f) := of_ext f.ext
theorem iadd64 (f : X64) : Statement (.iadd64 f) := of_ext f.ext
theorem isub64 (f : X64) : Statement (.isub64 f) := of_ext f.ext
theorem cvta (k : CvtaKind) (f : X64) : Statement (.cvta k f) := of_ext f.ext
theorem permb (f : X64) : Statement (.permb f) := of_ext f.ext
theorem pack (f : X64) : Statement (.pack f) := of_ext f.ext
theorem unpack (f : X64) : Statement (.unpack f) := of_ext f.ext
theorem fadd (t : FType) (f : X64) : Statement (.fadd t f) := of_ext f.ext
theorem fsub (t : FType) (f : X64) : Statement (.fsub t f) := of_ext f.ext
theorem fmul (t : FType) (f : X64) : Statement (.fmul t f) := of_ext f.ext
theorem ffma (t : FType) (f : X64) : Statement (.ffma t f) := of_ext f.ext
theorem fmin (f : X64) : Statement (.fmin f) := of_ext f.ext
theorem fmax (f : X64) : Statement (.fmax f) := of_ext f.ext
theorem fminn (f : X64) : Statement (.fminn f) := of_ext f.ext
theorem fmaxn (f : X64) : Statement (.fmaxn f) := of_ext f.ext
theorem fcmp (c : FCmp) (f : X64) : Statement (.fcmp c f) := of_ext f.ext
theorem fclass (f : X64) : Statement (.fclass f) := of_ext f.ext
theorem fabs (f : X64) : Statement (.fabs f) := of_ext f.ext
theorem fneg (f : X64) : Statement (.fneg f) := of_ext f.ext
theorem fcopysign (f : X64) : Statement (.fcopysign f) := of_ext f.ext
theorem frnd (t : FType) (f : X64) : Statement (.frnd t f) := of_ext f.ext
theorem fscalb (t : FType) (f : X64) : Statement (.fscalb t f) := of_ext f.ext
theorem ftwosum (f : X64) : Statement (.ftwosum f) := of_ext f.ext
theorem fdot2 (bf : Bool) (f : X64) : Statement (.fdot2 bf f) := of_ext f.ext
theorem fdot4q (f : X64) : Statement (.fdot4q f) := of_ext f.ext
theorem cvtfi (t : FType) (f : X64) : Statement (.cvtfi t f) := of_ext f.ext
theorem cvtif (t : FType) (f : X64) : Statement (.cvtif t f) := of_ext f.ext
theorem cvtff (k : CvtffKind) (f : X64) : Statement (.cvtff k f) := of_ext f.ext
theorem cvtq (f : X64) : Statement (.cvtq f) := of_ext f.ext
theorem cvtdq (f : X64) : Statement (.cvtdq f) := of_ext f.ext
theorem rcp (f : X64) : Statement (.rcp f) := of_ext f.ext
theorem rsq (f : X64) : Statement (.rsq f) := of_ext f.ext
theorem sqrt (f : X64) : Statement (.sqrt f) := of_ext f.ext
theorem div (f : X64) : Statement (.div f) := of_ext f.ext
theorem exp2 (f : X64) : Statement (.exp2 f) := of_ext f.ext
theorem log2 (f : X64) : Statement (.log2 f) := of_ext f.ext
theorem sinpi (f : X64) : Statement (.sinpi f) := of_ext f.ext
theorem cospi (f : X64) : Statement (.cospi f) := of_ext f.ext
theorem tanh (f : X64) : Statement (.tanh f) := of_ext f.ext
theorem sigm (f : X64) : Statement (.sigm f) := of_ext f.ext
theorem shfl (m : ShflMode) (f : X64) : Statement (.shfl m f) := of_ext f.ext
theorem bcast (f : X64) : Statement (.bcast f) := of_ext f.ext
theorem vote (m : VoteMode) (f : X64) : Statement (.vote m f) := of_ext f.ext
theorem lred (op : LaneOp) (f : X64) : Statement (.lred op f) := of_ext f.ext
theorem lscan (op : LaneOp) (f : X64) : Statement (.lscan op f) := of_ext f.ext
theorem matchLanes (f : X64) : Statement (.matchLanes f) := of_ext f.ext
theorem leader (f : X64) : Statement (.leader f) := of_ext f.ext
theorem ld (f : A96) : Statement (.ld f) := of_guard f.guard
theorem st (f : A96) : Statement (.st f) := of_guard f.guard
theorem lds (f : A96) : Statement (.lds f) := of_guard f.guard
theorem sts (f : A96) : Statement (.sts f) := of_guard f.guard
theorem ldt (f : A96) : Statement (.ldt f) := of_guard f.guard
theorem stt (f : A96) : Statement (.stt f) := of_guard f.guard
theorem pf (f : A96) : Statement (.pf f) := of_guard f.guard
theorem fpush (f : A96) : Statement (.fpush f) := of_guard f.guard
theorem fpop (f : A96) : Statement (.fpop f) := of_guard f.guard
theorem regpf (w1 : Bool) (f : A96) : Statement (.regpf w1 f) := of_guard f.guard
theorem cctl (op : CctlOp) (f : A96) : Statement (.cctl op f) := of_guard f.guard
theorem bankmode (m : BankMode) (f : X64) : Statement (.bankmode m f) := of_ext f.ext
theorem scrcfg (clear : Bool) (f : X64) : Statement (.scrcfg clear f) := of_ext f.ext
theorem atom (op : AtomOp) (f : A96) : Statement (.atom op f) := of_guard f.guard
theorem atomc (f : A96) : Statement (.atomc f) := of_guard f.guard
theorem atomsc (op : AtomOp) (f : A96) : Statement (.atomsc op f) := of_guard f.guard
theorem red (op : AtomOp) (f : A96) : Statement (.red op f) := of_guard f.guard
theorem atoms (op : AtomOp) (f : A96) : Statement (.atoms op f) := of_guard f.guard
theorem fence (k : FenceKind) (f : X64) : Statement (.fence k f) := of_ext f.ext
theorem waiteq (ne : Bool) (f : A96) : Statement (.waiteq ne f) := of_guard f.guard
theorem copy (k : CopyKind) (f : X64) : Statement (.copy k f) := of_ext f.ext
theorem gather (f : X64) : Statement (.gather f) := of_ext f.ext
theorem coll (op : CollOp) (f : X64) : Statement (.coll op f) := of_ext f.ext
theorem waitc (k : OpClass) (f : T96) : Statement (.waitc k f) := of_guard f.guard
theorem sleept (f : T96) : Statement (.sleept f) := of_guard f.guard
theorem bar (f : T96) : Statement (.bar f) := of_guard f.guard
theorem bara (f : X64) : Statement (.bara f) := of_ext f.ext
theorem barw (f : T96) : Statement (.barw f) := of_guard f.guard
theorem semp (f : T96) : Statement (.semp f) := of_guard f.guard
theorem semv (f : X64) : Statement (.semv f) := of_ext f.ext
theorem fetchw (f : X64) : Statement (.fetchw f) := of_ext f.ext
theorem ifence (f : T96) : Statement (.ifence f) := of_guard f.guard
theorem mma (m : MmaMode) (f : X64) : Statement (.mma m f) := of_ext f.ext
theorem mmas (m : MmaMode) (f : X64) : Statement (.mmas m f) := of_ext f.ext
theorem mcomp (f : X64) : Statement (.mcomp f) := of_ext f.ext
theorem msacc (f : X64) : Statement (.msacc f) := of_ext f.ext
theorem mbatch (f : X64) : Statement (.mbatch f) := of_ext f.ext
theorem mwait (f : T96) : Statement (.mwait f) := of_guard f.guard
theorem mrel (f : X64) : Statement (.mrel f) := of_ext f.ext
theorem mzero (f : X64) : Statement (.mzero f) := of_ext f.ext
theorem mrda (f : X64) : Statement (.mrda f) := of_ext f.ext
theorem mwra (f : X64) : Statement (.mwra f) := of_ext f.ext
theorem msta (f : X64) : Statement (.msta f) := of_ext f.ext
theorem mlda (f : X64) : Statement (.mlda f) := of_ext f.ext
theorem mstat (f : X64) : Statement (.mstat f) := of_ext f.ext
theorem fnld (f : X64) : Statement (.fnld f) := of_ext f.ext
theorem fnst (f : X64) : Statement (.fnst f) := of_ext f.ext
theorem fnfit (f : X64) : Statement (.fnfit f) := of_ext f.ext
theorem fneval (f : X64) : Statement (.fneval f) := of_ext f.ext
theorem fnadd (f : X64) : Statement (.fnadd f) := of_ext f.ext
theorem fnsub (f : X64) : Statement (.fnsub f) := of_ext f.ext
theorem fnmul (f : X64) : Statement (.fnmul f) := of_ext f.ext
theorem fnaff (f : X64) : Statement (.fnaff f) := of_ext f.ext
theorem fncomp (f : X64) : Statement (.fncomp f) := of_ext f.ext
theorem fndiff (f : X64) : Statement (.fndiff f) := of_ext f.ext
theorem fnint (f : X64) : Statement (.fnint f) := of_ext f.ext
theorem fnquad (f : X64) : Statement (.fnquad f) := of_ext f.ext
theorem fnroot (f : X64) : Statement (.fnroot f) := of_ext f.ext
theorem fndom (f : X64) : Statement (.fndom f) := of_ext f.ext
theorem fninfo (f : X64) : Statement (.fninfo f) := of_ext f.ext
theorem fnrel (f : X64) : Statement (.fnrel f) := of_ext f.ext
theorem acq (f : T96) : Statement (.acq f) := of_guard f.guard
theorem give (f : X64) : Statement (.give f) := of_ext f.ext
theorem claim (f : T96) : Statement (.claim f) := of_guard f.guard
theorem tspawn (f : X64) : Statement (.tspawn f) := of_ext f.ext
theorem tpop (f : T96) : Statement (.tpop f) := of_guard f.guard
theorem tdone (f : X64) : Statement (.tdone f) := of_ext f.ext
theorem launch (f : X64) : Statement (.launch f) := of_ext f.ext
theorem sbrd (f : X64) : Statement (.sbrd f) := of_ext f.ext
theorem escrd (f : X64) : Statement (.escrd f) := of_ext f.ext
theorem sbwd (f : X64) : Statement (.sbwd f) := of_ext f.ext
theorem sbclr (f : X64) : Statement (.sbclr f) := of_ext f.ext
theorem trap (f : T96) : Statement (.trap f) := of_guard f.guard
theorem rte (f : T96) : Statement (.rte f) := of_guard f.guard
theorem brk (f : T96) : Statement (.brk f) := of_guard f.guard
theorem srrd (f : I64) : Statement (.srrd f) := of_ext f.ext
theorem srwr (f : I64) : Statement (.srwr f) := of_ext f.ext
theorem cycrd (f : X64) : Statement (.cycrd f) := of_ext f.ext
theorem trmark (f : X64) : Statement (.trmark f) := of_ext f.ext
theorem evrd (f : X64) : Statement (.evrd f) := of_ext f.ext
theorem ckpt (f : X64) : Statement (.ckpt f) := of_ext f.ext
theorem slotHandout (cluster spindle slot : Nat) : Statement (.slotHandout cluster spindle slot) := rfl
theorem missDataLands (fib : Nat) : Statement (.missDataLands fib) := rfl
theorem sfuResultLands (cluster spindle : Nat) : Statement (.sfuResultLands cluster spindle) := rfl
theorem deferredTrapDelivery (fib : Nat) : Statement (.deferredTrapDelivery fib) := rfl
theorem storePerformed (cluster spindle idx : Nat) : Statement (.storePerformed cluster spindle idx) := rfl
theorem atomicReturn (fib : Nat) : Statement (.atomicReturn fib) := rfl
theorem waiteqWake (fib : Nat) : Statement (.waiteqWake fib) := rfl
theorem walkComplete (cluster idx : Nat) : Statement (.walkComplete cluster idx) := rfl
theorem pageRequestDrain (die ctx : Nat) : Statement (.pageRequestDrain die ctx) := rfl
theorem poolEntryGrant (unit loc : Nat) : Statement (.poolEntryGrant unit loc) := rfl
theorem bankModeChangeEnd (cluster bank : Nat) : Statement (.bankModeChangeEnd cluster bank) := rfl
theorem fifoTimeout (fib : Nat) : Statement (.fifoTimeout fib) := rfl
theorem waiteqTimeout (fib : Nat) : Statement (.waiteqTimeout fib) := rfl
theorem engineOpComplete (strand : Nat) (k : OpClass) (idx : Nat) : Statement (.engineOpComplete strand k idx) := rfl
theorem fetchwReply (part idx : Nat) : Statement (.fetchwReply part idx) := rfl
theorem sleeptWake (fib : Nat) : Statement (.sleeptWake fib) := rfl
theorem yieldWake (fib : Nat) : Statement (.yieldWake fib) := rfl
theorem ifenceDone (fib : Nat) : Statement (.ifenceDone fib) := rfl
theorem matrixOpPerform (cluster idx : Nat) : Statement (.matrixOpPerform cluster idx) := rfl
theorem mxPinTimeout (cluster idx : Nat) : Statement (.mxPinTimeout cluster idx) := rfl
theorem mxAccExhausted (cluster idx : Nat) : Statement (.mxAccExhausted cluster idx) := rfl
theorem fnOpPerform (strand : Nat) : Statement (.fnOpPerform strand) := rfl
theorem launchAccept (part : Nat) (device : Bool) : Statement (.launchAccept part device) := rfl
theorem lqRecall (part : Nat) : Statement (.lqRecall part) := rfl
theorem skeinPlace (part : Nat) : Statement (.skeinPlace part) := rfl
theorem skeinGrant (skein : Nat) : Statement (.skeinGrant skein) := rfl
theorem taskPushAccept (fib : Nat) : Statement (.taskPushAccept fib) := rfl
theorem pointComplete (skein : Nat) : Statement (.pointComplete skein) := rfl
theorem sliceEnd (ctx : Nat) : Statement (.sliceEnd ctx) := rfl
theorem instructionLevelHalt (ctx : Nat) : Statement (.instructionLevelHalt ctx) := rfl
theorem contextSaveEnd (ctx : Nat) : Statement (.contextSaveEnd ctx) := rfl
theorem kill (ctx : Nat) : Statement (.kill ctx) := rfl
theorem contextRestore (ctx : Nat) : Statement (.contextRestore ctx) := rfl
theorem haltLine (part : Nat) (cause : Cause) : Statement (.haltLine part cause) := rfl
theorem codeArrival (fib : Nat) : Statement (.codeArrival fib) := rfl
theorem codeUnarrived (fib : Nat) : Statement (.codeUnarrived fib) := rfl
theorem ckptTake (part : Nat) : Statement (.ckptTake part) := rfl
theorem trial (cluster job sample : Nat) (cand : List (BitVec 64)) : Statement (.trial cluster job sample cand) := rfl
theorem candidateInstall (cluster job : Nat) (cand : List (BitVec 64)) : Statement (.candidateInstall cluster job cand) := rfl
theorem ephemerisTick : Statement .ephemerisTick := rfl
theorem traceDrain (cluster : Nat) : Statement (.traceDrain cluster) := rfl
theorem arbAgeStep : Statement .arbAgeStep := rfl
theorem measurePassEnd (part : Nat) : Statement (.measurePassEnd part) := rfl
theorem xlInvWrite (ctx : Nat) (v : BitVec 32) : Statement (.xlInvWrite ctx v) := rfl
theorem xlInvDone (ctx : Nat) : Statement (.xlInvDone ctx) := rfl
theorem fqResume (ctx : Nat) (v : BitVec 32) : Statement (.fqResume ctx v) := rfl
theorem dbgStop (ctx cluster sid path : Nat) : Statement (.dbgStop ctx cluster sid path) := rfl
theorem dbgRelease (ctx cluster sid path : Nat) : Statement (.dbgRelease ctx cluster sid path) := rfl
theorem dbgStep (ctx cluster sid path : Nat) : Statement (.dbgStep ctx cluster sid path) := rfl
theorem dbgStopAll (ctx : Nat) : Statement (.dbgStopAll ctx) := rfl
theorem dbgReleaseAll (ctx : Nat) : Statement (.dbgReleaseAll ctx) := rfl
theorem cmpPark (part : Nat) (exempt : Option Nat) : Statement (.cmpPark part exempt) := rfl
theorem cmpUnpark (part : Nat) : Statement (.cmpUnpark part) := rfl
theorem cmpFwd (part : Nat) : Statement (.cmpFwd part) := rfl
theorem cmpFwdDone (part : Nat) : Statement (.cmpFwdDone part) := rfl
theorem bpLimWrite (part ctx : Nat) (v : BitVec 32) : Statement (.bpLimWrite part ctx v) := rfl
theorem tqCfgWrite (die queue : Nat) (v : BitVec 32) : Statement (.tqCfgWrite die queue v) := rfl
theorem evSelWrite (cluster : Nat) (v : BitVec 32) : Statement (.evSelWrite cluster v) := rfl
theorem ephCtlWrite (part : Nat) (v : BitVec 32) : Statement (.ephCtlWrite part v) := rfl
theorem mrCtlWrite (part : Nat) (v : BitVec 32) : Statement (.mrCtlWrite part v) := rfl
theorem lqEnable (part : Nat) (en : Bool) : Statement (.lqEnable part en) := rfl
theorem registerWrite (t : RegTarget) (v : BitVec 64) : Statement (.registerWrite t v) := rfl
theorem fwLoad (ofs : Nat) (bytes : List (BitVec 8)) : Statement (.fwLoad ofs bytes) := rfl
theorem fwActivate : Statement .fwActivate := rfl
theorem partWr (part ctx sr : Nat) (v : BitVec 32) : Statement (.partWr part ctx sr v) := rfl
theorem partRd (part ctx sr : Nat) : Statement (.partRd part ctx sr) := rfl
theorem rollback (part : Nat) : Statement (.rollback part) := rfl
theorem partReset (part : Nat) : Statement (.partReset part) := rfl
theorem peerWr (part idx : Nat) (bytes : List (BitVec 8)) : Statement (.peerWr part idx bytes) := rfl
theorem neighWr (idx : Nat) (bytes : List (BitVec 8)) : Statement (.neighWr idx bytes) := rfl
theorem powerLimit (watts : Nat) : Statement (.powerLimit watts) := rfl
theorem telemetry : Statement .telemetry := rfl
theorem clockChange (k : Nat) : Statement (.clockChange k) := rfl
theorem resetRelease : Statement .resetRelease := rfl
theorem stageADone (err : Nat) : Statement (.stageADone err) := rfl
theorem stageBDone (err : Nat) : Statement (.stageBDone err) := rfl
theorem stageCDone (err : Nat) : Statement (.stageCDone err) := rfl
theorem stageDDone (err : Nat) : Statement (.stageDDone err) := rfl
theorem hostLinkLoss : Statement .hostLinkLoss := rfl
theorem ideIntegrityFail : Statement .ideIntegrityFail := rfl
theorem hostCxlMemAccess (ofs : Nat) (write : Option (List (BitVec 8))) (len : Nat) : Statement (.hostCxlMemAccess ofs write len) := rfl
theorem peerWrite (part idx ofs : Nat) (bytes : List (BitVec 8)) : Statement (.peerWrite part idx ofs bytes) := rfl
theorem spdmMessage (m : SpdmMsg) (bytes : List (BitVec 8)) : Statement (.spdmMessage m bytes) := rfl
theorem portDown (port : Nat) : Statement (.portDown port) := rfl

end Sys2Proof.Laws.Length
end

