-- ==== Sys2Proof/Tests/Slice0.lean ====
section
/-! SUPPORT. Tests: words that the specification writes out, ill-formed instructions, and for the statements a state that meets their
hypotheses. Expected results come from the specification; a witness only shows that hypotheses can hold together. -/

namespace Sys2Proof.Tests

set_option Elab.async false

open Sys2Proof Sys2Proof.Machine

/-! ### Building instructions and states -/

def asParcels (ws : List (BitVec 32)) : List Byte := ws.flatMap fun w => bytesOfNat 4 w.toNat

def tX (d a b c : BitVec 8) (esz : BitVec 2) (flg : BitVec 4) (imm8 : BitVec 8) (ext : Ext) : X64 :=
  { d := d, a := a, b := b, c := c, esz := esz, flg := flg, imm8 := imm8, u := 0, stall := 0, ext := ext }

def tI (d a : BitVec 8) (imm26 : BitVec 26) : I64 :=
  { d := d, a := a, imm26 := imm26, flg := 0, esz := 0, u := 0, stall := 0, ext := .l64 }

def tT (a b : BitVec 8) (imm26 : BitVec 26) (flg : BitVec 4) : T96 :=
  { rsv := 0, yl := 0, el := 0, p2 := 248, p1 := 248, p0 := 248, imm26 := imm26, flg := flg, b := b, a := a, r5 := 0, stall := 0
    guard := none }

def tA (d a b : BitVec 8) (ofs : BitVec 32) (type : BitVec 8) (scope : BitVec 3) (ord : BitVec 2) (sz : BitVec 3) : A96 :=
  { ofs := ofs, type := type, xsc := 0, hint := 0, scope := scope, ord := ord, sz := sz, b := b, a := a, d := d, u := 0, stall := 0
    guard := none }

/-- One strand of one fibre, with the instruction at its beat 2. -/
def at2 (i : Instr) : State :=
  let s := State.reset.withFetchWord 128 i.bits.toNat
  { s with issues := [], cur := s.issues.head? }

/-- The fibre changed. -/
def onFib (s : State) (f : Fibre → Fibre) : State := s.modFib 0 f

def inSuper (s : State) : State := onFib s fun f => { f with level := .super }

/-- The word of a register set in every lane. -/
def withReg (s : State) (r : Nat) (v : Nat → Word) : State := s.modStrand 0 fun st => st.poke r (lanesOf fun _ => true) v

/-- No lane in the fibre's mask. -/
def masked (s : State) : State := (List.range 3).foldl (fun a e => withReg a (253 + e) fun _ => 0) s

def ctxOf (i : Instr) (s : State) : Option Ctx := s.cur.bind (mkCtx i s)

/-- Whether an instruction passes the checks that every instruction makes, and its context meets `p`. -/
def passesWith (i : Instr) (s : State) (p : Ctx → Bool) : Bool := ((ctxOf i s).map fun c => c.check.isNone && p c).getD false

def passes (i : Instr) (s : State) : Bool := passesWith i s fun _ => true

theorem issues_of {i : Instr} {s : State} {p : Ctx → Bool} (h : passesWith i s p = true) : ∃ c, Issues i s c ∧ p c = true := by
  unfold passesWith ctxOf at h
  cases hc : s.cur with
  | none => simp [hc] at h
  | some is =>
    cases hm : mkCtx i s is with
    | none => simp [hc, hm] at h
    | some c =>
      simp [hc, hm] at h
      exact ⟨c, ⟨is, hc, hm, h.1⟩, h.2⟩

/-- The instruction issues in the state, and its context meets `p`: how a witness of a statement's hypotheses is given. -/
def Meets (i : Instr) (s : State) (p : Ctx → Bool) : Prop := ∃ c, Issues i s c ∧ p c = true

theorem meets {i : Instr} {s : State} {p : Ctx → Bool} (h : passesWith i s p = true) : Meets i s p := issues_of h

/-- Whether an instruction leaves a next state that meets `p`. -/
def leaves (i : Instr) (s : State) (p : State → Bool) : Bool :=
  match exec i s with
  | .next t => p t
  | _ => false

/-- The cause of the trap the fibre has taken, with its parking where it parked. -/
def trapped (t : State) : Option (BitVec 8) := (t.fib? 0).map fun f => f.frame.cause.extractLsb' 0 8

/-! ### Words that the specification writes out -/

theorem test_decodes_iadd : decode (asParcels [0x8141080A, 0x00144001, 0x03004900, 0x0000430C]) =
    .ok (.iadd true { d := 4, a := 5, b := 6, c := 0, esz := 1, flg := 1, imm8 := 0, u := 0, stall := 2, ext := .l128 0x03004900 0x0000430C }, 16) := by rfl
theorem test_decodes_brc : decode (asParcels [0x817E40C2, 0x00000244, 0x00F8F8F8, 0x00000000]) =
    .ok (.brc .bset { rsv := 0, yl := 0, el := 0, p2 := 248, p1 := 248, p0 := 248, imm26 := 9, flg := 1, b := 5, a := 249, r5 := 0, stall := 0, guard := some 0 }, 16) := by rfl
theorem test_decodes_icmpi : decode (asParcels [0x81430CC0, 0x1FFFFF50]) =
    .ok (.icmpi .lt { d := 12, a := 5, imm26 := 0x07FFFFD, flg := 1, esz := 0, u := 0, stall := 0, ext := .l64 }, 8) := by rfl
theorem test_decodes_ffma : decode (asParcels [0x804250C4, 0x001000C0]) =
    .ok (.ffma .f32 { d := 9, a := 1, b := 2, c := 3, esz := 0, flg := 1, imm8 := 0, u := 0, stall := 1, ext := .l64 }, 8) := by rfl
theorem test_decodes_sqrt : decode (asParcels [0x0081D880, 0x00000000]) =
    .ok (.sqrt { d := 7, a := 2, b := 0, c := 0, esz := 0, flg := 0, imm8 := 0, u := 0, stall := 0, ext := .l64 }, 8) := by rfl
theorem test_decodes_ld : decode (asParcels [0x4182A001, 0x00600C02, 0x00000040]) =
    .ok (.ld { ofs := 0x40, type := 0, xsc := 3, hint := 0, scope := 0, ord := 0, sz := 3, b := 9, a := 6, d := 10, u := 0, stall := 0, guard := none }, 12) := by rfl
theorem test_decodes_atom : decode (asParcels [0x41812801, 0x1001A801, 0x00000010]) =
    .ok (.atom .add { ofs := 16, type := 0x10, xsc := 0, hint := 0, scope := 3, ord := 1, sz := 2, b := 5, a := 6, d := 4, u := 0, stall := 0, guard := none }, 12) := by rfl
theorem test_decodes_fence : decode (asParcels [0x00002900, 0x04008000]) =
    .ok (.fence .ar { d := 0, a := 0, b := 0, c := 0, esz := 0, flg := 0, imm8 := 4, u := 0, stall := 0, ext := .l64 }, 8) := by rfl
theorem test_decodes_copy : decode (asParcels [0x01852C01, 0x00000282, 0x00000000]) =
    .ok (.copy .lin { d := 20, a := 6, b := 8, c := 10, esz := 0, flg := 0, imm8 := 0, u := 0, stall := 0, ext := .l96 0 }, 12) := by rfl
theorem test_decodes_waitc : decode (asParcels [0x40002CC1, 0x00000080, 0x00F8F8F8]) =
    .ok (.waitc .c { rsv := 0, yl := 0, el := 0, p2 := 248, p1 := 248, p0 := 248, imm26 := 2, flg := 0, b := 0, a := 0, r5 := 0, stall := 0, guard := none }, 12) := by rfl
theorem test_decodes_tpop : decode (asParcels [0x00043901, 0x00000140, 0x00F8F8F8]) =
    .ok (.tpop { rsv := 0, yl := 0, el := 0, p2 := 248, p1 := 248, p0 := 248, imm26 := 5, flg := 0, b := 0, a := 16, r5 := 0, stall := 0, guard := none }, 12) := by rfl
theorem test_decodes_trap : decode (asParcels [0x00003B01, 0x000001C0, 0x00F8F8F8]) =
    .ok (.trap { rsv := 0, yl := 0, el := 0, p2 := 248, p1 := 248, p0 := 248, imm26 := 7, flg := 0, b := 0, a := 0, r5 := 0, stall := 0, guard := none }, 12) := by rfl
theorem test_decodes_srrd : decode (asParcels [0x00013BC0, 0x00000240]) =
    .ok (.srrd { d := 4, a := 0, imm26 := 9, flg := 0, esz := 0, u := 0, stall := 0, ext := .l64 }, 8) := by rfl
theorem test_decodes_mma : decode (asParcels [0x02803001, 0x00080383, 0x00000404]) =
    .ok (.mma .facc { d := 0, a := 10, b := 12, c := 14, esz := 2, flg := 0, imm8 := 0, u := 0, stall := 0, ext := .l96 0x404 }, 12) := by rfl
theorem test_decodes_mwait : decode (asParcels [0x3E07B141, 0x00000000, 0x00F8F8F8]) =
    .ok (.mwait { rsv := 0, yl := 0, el := 0, p2 := 248, p1 := 248, p0 := 248, imm26 := 0, flg := 0, b := 248, a := 30, r5 := 0, stall := 0, guard := none }, 12) := by rfl
theorem test_decodes_ldt : decode (asParcels [0x06082101, 0x0000043E, 0x00000000]) =
    .ok (.ldt { ofs := 0, type := 0, xsc := 0, hint := 0, scope := 0, ord := 0, sz := 1, b := 248, a := 24, d := 32, u := 0, stall := 0, guard := none }, 12) := by rfl
theorem test_decodes_fnmul : decode (asParcels [0x4040F581, 0x00000000, 0x00000014]) =
    .ok (.fnmul { d := 3, a := 1, b := 1, c := 0, esz := 0, flg := 0, imm8 := 0, u := 0, stall := 0, ext := .l96 0x14 }, 12) := by rfl
theorem test_decodes_fndom : decode (asParcels [0x0000F741, 0x00000343, 0x00000000]) =
    .ok (.fndom { d := 3, a := 0, b := 12, c := 13, esz := 0, flg := 0, imm8 := 0, u := 0, stall := 0, ext := .l96 0 }, 12) := by rfl
theorem test_decodes_shfl : decode (asParcels [0x4383DC0C, 0x60004002]) =
    .ok (.shfl .up { d := 15, a := 14, b := 9, c := 0, esz := 0, flg := 0, imm8 := 0x60, u := 0, stall := 3, ext := .l64 }, 8) := by rfl
theorem test_decodes_sbrd : decode (asParcels [0x0A4A3A00, 0x00000000]) =
    .ok (.sbrd { d := 40, a := 41, b := 0, c := 0, esz := 0, flg := 0, imm8 := 0, u := 0, stall := 0, ext := .l64 }, 8) := by rfl
theorem test_decodes_runend : decode (asParcels [0x00000042, 0x00000000, 0x01F8F803, 0x00000000]) =
    .ok (.runend { rsv := 0, yl := 0, el := 1, p2 := 248, p1 := 248, p0 := 3, imm26 := 0, flg := 0, b := 0, a := 0, r5 := 0, stall := 0, guard := some 0 }, 16) := by rfl
theorem test_decodes_escrd : decode (asParcels [0x04443A40, 0x00000000]) =
    .ok (.escrd { d := 16, a := 17, b := 0, c := 0, esz := 0, flg := 0, imm8 := 0, u := 0, stall := 0, ext := .l64 }, 8) := by rfl
theorem test_decodes_trmark : decode (asParcels [0x3E003C80, 0x07000000]) =
    .ok (.trmark { d := 0, a := 248, b := 0, c := 0, esz := 0, flg := 0, imm8 := 7, u := 0, stall := 0, ext := .l64 }, 8) := by rfl
theorem test_decodes_bru : decode (asParcels [0xC1C24101, 0xFFFFFD00, 0x00F8F8F8]) =
    .ok (.bru .bclr { rsv := 0, yl := 0, el := 0, p2 := 248, p1 := 248, p0 := 248, imm26 := 0x3FFFFF4, flg := 0, b := 7, a := 9, r5 := 0, stall := 0, guard := none }, 12) := by rfl
theorem test_decodes_waiteq : decode (asParcels [0x0182A961, 0x0000A87E, 0x00000100]) =
    .ok (.waiteq true { ofs := 0x100, type := 0, xsc := 0, hint := 0, scope := 1, ord := 1, sz := 2, b := 248, a := 6, d := 10, u := 1, stall := 0, guard := none }, 12) := by rfl

/-! ### Ill-formed instructions are refused: one for each check, with what the check names (R25, R30, R32 to R44, R61) -/

/-- Each instruction of the list is not well formed, and its field check names the cause (none where only its length is at fault). -/
def refusesAll (l : List (Instr × Option Cause)) : Prop := ∀ e ∈ l, e.1.wf = false ∧ e.1.fieldCheck = e.2

theorem test_illformed_events_lengths_subs : refusesAll
    [(.ephemerisTick, none), (.slotHandout 0 0 0, none), (.iaddi false { tI 32 8 3 with ext := .l96 0 }, none),
     (.srrd { tI 32 0 3 with ext := .l128 0 0 }, none), (.copy .lin (tX 32 8 10 0 0 0 0 .l64), some .illField),
     (.mzero (tX 0 0 0 0 0 0 0 .l64), some .illField), (.atom .cas (tA 32 8 10 16 16 0 0 2), some .illField),
     (.red .exch (tA 0 8 10 16 17 0 0 2), some .illField)] := by unfold refusesAll; decide +kernel

theorem test_illformed_register_uses : refusesAll
    [(.iadd false (tX 32 8 10 1 0 0 0 .l64), some .illField), (.iadd64 (tX 33 8 10 0 0 0 0 .l64), some .illField),
     (.iadd64 (tX 32 248 10 0 0 0 0 .l64), some .illField), (.mzero (tX 32 0 0 0 0 0 0 (.l96 0)), some .illField),
     (.fnrel (tX 16 0 0 0 0 0 0 (.l96 0)), some .illField), (.bara (tX 32 16 10 0 0 0 0 .l64), some .illField),
     (.matchLanes (tX 238 8 0 0 0 0 0 .l64), some .illField), (.fneval (tX 240 8 10 0 0 0 0 (.l96 0)), some .illField),
     (.fnroot (tX 32 8 32 0 0 0 0 (.l96 0)), some .illField), (.mmas .facc (tX 0 8 10 239 2 0 0 (.l96 0x404)), some .illField)] := by
  unfold refusesAll; decide +kernel

theorem test_illformed_modifiers : refusesAll
    [(.iadd false (tX 32 8 10 0 0 0 0 (.l96 0x00000001)), some .illField),
     (.iadd false (tX 32 8 10 0 0 0 0 (.l96 0x02000000)), some .illField),
     (.and (tX 32 8 10 0 0 0 0 (.l96 0x00000040)), some .illField), (.bcast (tX 32 8 0 0 0 0 0 (.l96 0x00000001)), some .illField),
     (.fdot2 false (tX 32 8 10 0 1 0 0 (.l96 0x00010000)), some .illField),
     (.cvtq (tX 32 8 10 0 2 0 1 (.l96 0x00000004)), some .illField), (.cvtdq (tX 32 8 10 0 2 0 1 (.l96 0x00000040)), some .illField),
     (.iadd false (tX 32 8 10 0 0 0 0 (.l128 0x01000000 0x00008000)), some .illField),
     (.iadd false (tX 32 8 10 0 0 0 0 (.l128 0x01000000 0x00000001)), some .illField)] := by unfold refusesAll; decide +kernel

theorem test_illformed_flags_immediates : refusesAll
    [(.imul (tX 32 8 10 0 0 2 0 .l64), some .illField), (.imul (tX 32 8 10 0 0 0 1 .l64), some .illField),
     (.vote .any { tX 32 8 0 0 0 0 0 .l64 with u := 1 }, some .illField), (.icmp .lt (tX 32 8 10 0 1 0 31 .l64), some .illField),
     (.shfl .up (tX 32 8 10 0 0 0 3 .l64), some .illField), (.bcast (tX 32 8 0 0 0 0 96 .l64), some .illField),
     (.fence .ar (tX 0 0 0 0 0 0 6 .l64), some .illField), (.semv (tX 0 8 0 0 0 0 0 .l64), some .illField),
     (.give (tX 0 0 0 0 0 0 30 .l64), some .illField), (.sbwd (tX 0 8 0 0 0 0 5 .l64), some .illField),
     (.fdot4q (tX 32 8 10 0 2 0 0 .l64), some .illField), (.fmin (tX 32 8 10 0 0 3 0 .l64), some .illField),
     (.gather (tX 32 8 10 0 0 0 0 (.l96 0x402)), some .illField), (.coll .allred (tX 32 8 10 0 0 0 0 (.l96 0x61000)), some .illField)] := by
  unfold refusesAll; decide +kernel

theorem test_illformed_esz : refusesAll
    [(.lea (tX 32 8 10 0 1 0 0 .l64), some .eszInvalid), (.pack (tX 32 8 10 0 0 0 0 .l64), some .eszInvalid),
     (.fadd .f32 (tX 32 8 10 0 1 0 0 .l64), some .eszInvalid), (.fmin (tX 32 8 10 0 1 0 0 .l64), some .eszInvalid),
     (.fdot2 false (tX 32 8 10 0 0 0 0 .l64), some .eszInvalid), (.nop (tX 0 0 0 0 1 0 0 .l64), some .illField)] := by
  unfold refusesAll; decide +kernel

theorem test_illformed_i64_t96 : refusesAll
    [(.iaddi false { tI 32 8 3 with flg := 2 }, some .illField), (.shli (tI 32 8 32), some .illField),
     (.icmpi .lt { tI 32 8 0x3E00000 with esz := 1 }, some .illField), (.movi (tI 32 1 3), some .illField),
     (.srrd (tI 32 0 1), some .illField), (.srwr (tI 0 8 9), some .illField),
     (.bra { tT 0 0 4 0 with rsv := 1 }, some .illField), (.bra { tT 0 0 4 0 with r5 := 1 }, some .illField),
     (.bra { tT 0 0 4 0 with p0 := 240 }, some .illField), (.bra { tT 0 0 4 0 with guard := some 1 }, some .illField),
     (.brc .bset (tT 8 32 4 0), some .illField), (.jmpi (tT 9 0 0 0), some .illField), (.call (tT 240 0 4 0), some .illField),
     (.rcvg (tT 0 0 0 0), some .illField), (.endk { tT 0 0 0 0 with p1 := 3 }, some .illField),
     (.yield (tT 0 0 0x2000000 0), some .illField), (.waitc .c (tT 0 0 64 0), some .illField), (.bar (tT 16 10 0 0), some .illField),
     (.ifence (tT 0 0 0 6), some .illField), (.mwait (tT 8 249 0 0), some .illField), (.tpop (tT 9 0 4 0), some .illField),
     (.claim (tT 0 0 30 0), some .illField)] := by unfold refusesAll; decide +kernel

theorem test_illformed_a96 : refusesAll
    [(.ld (tA 32 8 10 16 0 6 1 2), some .illField), (.ld (tA 32 8 10 16 0 0 0 5), some .illField),
     (.ld (tA 32 8 10 16 0 1 0 2), some .illField), (.ld (tA 32 8 10 16 0 1 2 2), some .illField),
     (.lds (tA 32 8 10 16 0 2 1 2), some .illField), (.ld (tA 33 8 10 16 0 0 0 3), some .illField),
     (.st (tA 34 8 10 16 0 0 0 4), some .illField), (.ld { tA 32 8 10 16 0 0 0 2 with hint := 4 }, some .illField),
     (.st { tA 32 8 10 16 0 0 0 0 with hint := 4 }, some .illField), (.ldt (tA 32 8 10 16 0 0 0 3), some .illField),
     (.atom .add (tA 32 8 10 16 15 0 0 2), some .illField), (.atom .incw (tA 32 8 10 16 16 0 0 2), some .illField),
     (.atom .add (tA 32 8 10 16 16 0 0 3), some .illField), (.atom .add { tA 32 8 10 16 16 0 0 2 with xsc := 1 }, some .illField),
     (.atomsc .add (tA 32 8 10 16 16 3 3 2), some .illField), (.waiteq false (tA 32 8 10 16 0 0 2 2), some .illField),
     (.fpush (tA 32 0 0 16 0 0 0 2), some .illField), (.regpf false (tA 0 0 0 4 0 0 0 0), some .illField)] := by
  unfold refusesAll; decide +kernel


/-! ### Every instruction issues somewhere -/

/-- One control instruction of each constructor. -/
def someCtl : List Instr :=
  [.nop (tX 0 0 0 0 0 0 0 .l64), .runend (tT 0 0 0 0), .bra (tT 0 0 4 0), .brc .nz (tT 8 0 4 0), .bru .nz (tT 8 0 4 0),
   .brany .nz (tT 8 0 4 0), .brall .nz (tT 8 0 4 0), .jmpi (tT 8 0 0 0), .call (tT 8 0 4 0), .calli (tT 8 10 0 0), .ret (tT 8 0 0 0),
   .rcvg (tT 0 0 0 1), .endk (tT 0 0 0 0), .yield (tT 0 0 4 0)]

theorem test_issues_ctl : ∀ i ∈ someCtl, i.wf = true ∧ passes i (inSuper (at2 i)) = true := by decide +kernel

/-- One integer instruction of each constructor. -/
def someInt : List Instr :=
  [.iadd false (tX 32 8 10 0 0 0 0 .l64), .isub false (tX 32 8 10 0 0 0 0 .l64), .iaddi false (tI 32 8 3),
   .imul (tX 32 8 10 0 0 0 0 .l64), .imulh (tX 32 8 10 0 0 0 0 .l64), .imad false (tX 32 8 10 0 0 0 0 .l64),
   .imadw (tX 32 8 10 0 0 0 0 .l64), .idiv (tX 32 8 10 0 0 0 0 .l64), .irem (tX 32 8 10 0 0 0 0 .l64),
   .imin (tX 32 8 10 0 0 0 0 .l64), .imax (tX 32 8 10 0 0 0 0 .l64), .iabs (tX 32 8 0 0 0 0 0 .l64), .ineg (tX 32 8 0 0 0 0 0 .l64),
   .and (tX 32 8 10 0 0 0 0 .l64), .or (tX 32 8 10 0 0 0 0 .l64), .xor (tX 32 8 10 0 0 0 0 .l64), .andn (tX 32 8 10 0 0 0 0 .l64),
   .orn (tX 32 8 10 0 0 0 0 .l64), .xnor (tX 32 8 10 0 0 0 0 .l64), .andi (tI 32 8 3), .ori (tI 32 8 3), .xori (tI 32 8 3),
   .shl (tX 32 8 10 0 0 0 0 .l64), .shrl (tX 32 8 10 0 0 0 0 .l64), .shra (tX 32 8 10 0 0 0 0 .l64), .shli (tI 32 8 3),
   .shrli (tI 32 8 3), .shrai (tI 32 8 3), .fshr (tX 32 8 10 0 0 0 0 .l64), .bfx (tX 32 8 10 0 0 0 0 .l64),
   .bfi (tX 32 8 10 0 0 0 0 .l64), .popc (tX 32 8 0 0 0 0 0 .l64), .clz (tX 32 8 0 0 0 0 0 .l64), .ctz (tX 32 8 0 0 0 0 0 .l64),
   .brev (tX 32 8 0 0 0 0 0 .l64), .icmp .lt (tX 32 8 10 0 0 0 0 .l64), .icmpi .lt (tI 32 8 3), .sel (tX 32 8 10 0 0 0 0 .l64),
   .mov (tX 32 8 0 0 0 0 0 .l64), .movi (tI 32 0 3), .lea (tX 32 8 10 0 0 0 0 .l64), .iadd64 (tX 32 8 10 0 0 0 0 .l64),
   .isub64 (tX 32 8 10 0 0 0 0 .l64), .cvta .scr (tX 32 8 0 0 0 0 0 .l64), .permb (tX 32 8 10 0 0 0 0 .l64),
   .pack (tX 32 8 10 0 1 0 0 .l64), .unpack (tX 32 8 0 0 1 0 0 .l64)]

theorem test_issues_int : ∀ i ∈ someInt, i.wf = true ∧ passes i (inSuper (at2 i)) = true := by decide +kernel

/-- One floating-point instruction of each constructor. -/
def someFp : List Instr :=
  [.fadd .f32 (tX 32 8 10 0 0 0 0 .l64), .fsub .f32 (tX 32 8 10 0 0 0 0 .l64), .fmul .f32 (tX 32 8 10 0 0 0 0 .l64),
   .ffma .f32 (tX 32 8 10 0 0 0 0 .l64), .fmin (tX 32 8 10 0 0 0 0 .l64), .fmax (tX 32 8 10 0 0 0 0 .l64),
   .fminn (tX 32 8 10 0 0 0 0 .l64), .fmaxn (tX 32 8 10 0 0 0 0 .l64), .fcmp .lt (tX 32 8 10 0 0 0 0 .l64),
   .fclass (tX 32 8 0 0 0 0 0 .l64), .fabs (tX 32 8 0 0 0 0 0 .l64), .fneg (tX 32 8 0 0 0 0 0 .l64),
   .fcopysign (tX 32 8 10 0 0 0 0 .l64), .frnd .f32 (tX 32 8 0 0 0 0 0 .l64), .fscalb .f32 (tX 32 8 10 0 0 0 0 .l64),
   .ftwosum (tX 32 8 10 0 0 0 0 .l64), .fdot2 false (tX 32 8 10 0 1 0 0 .l64), .fdot4q (tX 32 8 10 0 2 0 1 .l64),
   .cvtfi .f32 (tX 32 8 0 0 0 0 0 .l64), .cvtif .f32 (tX 32 8 0 0 0 0 0 .l64), .cvtff .toF16 (tX 32 8 10 0 1 0 0 .l64),
   .cvtq (tX 32 8 10 0 2 0 1 .l64), .cvtdq (tX 32 8 10 0 2 0 1 .l64)]

theorem test_issues_fp : ∀ i ∈ someFp, i.wf = true ∧ passes i (inSuper (at2 i)) = true := by decide +kernel

/-- One special-function and cross-lane instruction of each constructor. -/
def someLane : List Instr :=
  [.rcp (tX 32 8 0 0 0 0 0 .l64), .rsq (tX 32 8 0 0 0 0 0 .l64), .sqrt (tX 32 8 0 0 0 0 0 .l64), .div (tX 32 8 10 0 0 0 0 .l64),
   .exp2 (tX 32 8 0 0 0 0 0 .l64), .log2 (tX 32 8 0 0 0 0 0 .l64), .sinpi (tX 32 8 0 0 0 0 0 .l64), .cospi (tX 32 8 0 0 0 0 0 .l64),
   .tanh (tX 32 8 0 0 0 0 0 .l64), .sigm (tX 32 8 0 0 0 0 0 .l64), .shfl .up (tX 32 8 10 0 0 0 32 .l64),
   .bcast (tX 32 8 0 0 0 0 0 .l64), .vote .any (tX 32 8 0 0 0 0 0 .l64), .lred .add (tX 32 8 0 0 0 0 0 .l64),
   .lscan .add (tX 32 8 0 0 0 0 0 .l64), .matchLanes (tX 32 8 0 0 0 0 0 .l64), .leader (tX 32 0 0 0 0 0 0 .l64)]

theorem test_issues_lane : ∀ i ∈ someLane, i.wf = true ∧ passes i (inSuper (at2 i)) = true := by decide +kernel

/-- One memory and atomic instruction of each constructor. -/
def someMem : List Instr :=
  [.ld (tA 32 8 10 16 0 0 0 2), .st (tA 32 8 10 16 0 0 0 2), .lds (tA 32 8 10 16 0 0 0 2), .sts (tA 32 8 10 16 0 0 0 2),
   .ldt (tA 32 8 10 16 0 0 0 2), .stt (tA 32 8 10 16 0 0 0 2), .pf (tA 0 8 10 16 0 0 0 0), .fpush (tA 32 0 0 0 0 0 0 2),
   .fpop (tA 32 0 0 0 0 0 0 2), .regpf false (tA 0 0 0 0 0 0 0 0), .cctl .wb (tA 0 8 10 16 0 0 0 0),
   .bankmode .scratch (tX 0 0 0 0 0 0 0 .l64), .scrcfg false (tX 0 8 10 0 0 0 0 .l64), .atom .add (tA 32 8 10 16 16 0 0 2),
   .atomc (tA 32 8 10 16 16 0 0 2), .atomsc .add (tA 32 8 10 16 16 4 3 2), .red .add (tA 0 8 10 16 16 0 0 2),
   .atoms .add (tA 32 8 10 16 16 0 0 2), .fence .ar (tX 0 0 0 0 0 0 0 .l64), .waiteq false (tA 32 8 10 16 0 0 0 2)]

theorem test_issues_mem : ∀ i ∈ someMem, i.wf = true ∧ passes i (inSuper (at2 i)) = true := by decide +kernel

/-- One asynchronous instruction of each constructor. -/
def someAsync : List Instr :=
  [.copy .lin (tX 32 8 10 0 0 0 0 (.l96 0)), .gather (tX 32 8 10 0 0 0 0 (.l96 0x404)),
   .coll .allred (tX 32 8 10 0 0 0 0 (.l96 0x31000)), .waitc .c (tT 0 0 4 0), .sleept (tT 8 0 4 0), .bar (tT 8 10 0 0),
   .bara (tX 32 8 10 0 0 0 0 .l64), .barw (tT 8 10 0 0), .semp (tT 8 0 4 0), .semv (tX 0 8 0 0 0 0 32 .l64),
   .fetchw (tX 0 8 10 0 0 0 0 .l64), .ifence (tT 0 0 0 0)]

theorem test_issues_async : ∀ i ∈ someAsync, i.wf = true ∧ passes i (inSuper (at2 i)) = true := by decide +kernel

/-- One matrix instruction of each constructor. -/
def someMatrix : List Instr :=
  [.mma .facc (tX 0 8 10 0 2 0 0 (.l96 0x404)), .mmas .facc (tX 0 8 10 0 2 0 0 (.l96 0x404)), .mcomp (tX 32 8 0 0 2 0 0 (.l96 1)),
   .msacc (tX 0 8 10 0 0 0 0 (.l96 0)), .mbatch (tX 32 0 0 0 0 0 0 (.l96 0)), .mwait (tT 8 10 0 0), .mrel (tX 0 0 0 0 0 0 0 (.l96 0)),
   .mzero (tX 0 0 0 0 0 0 0 (.l96 0)), .mrda (tX 0 8 10 0 0 0 0 (.l96 0)), .mwra (tX 0 8 10 0 0 0 0 (.l96 0)),
   .msta (tX 0 8 10 0 0 0 0 (.l96 0)), .mlda (tX 0 8 10 0 0 0 0 (.l96 0)), .mstat (tX 32 8 0 0 0 0 0 (.l96 0))]

theorem test_issues_matrix : ∀ i ∈ someMatrix, i.wf = true ∧ passes i (inSuper (at2 i)) = true := by decide +kernel

/-- One function-unit instruction of each constructor. -/
def someFunc : List Instr :=
  [.fnld (tX 0 8 10 0 0 0 0 (.l96 0)), .fnst (tX 32 8 10 0 0 0 0 (.l96 0)), .fnfit (tX 0 8 0 0 0 0 32 (.l96 0)),
   .fneval (tX 32 8 10 0 0 0 0 (.l96 0)), .fnadd (tX 0 8 10 0 0 0 0 (.l96 0)), .fnsub (tX 0 8 10 0 0 0 0 (.l96 0)),
   .fnmul (tX 0 8 10 0 0 0 0 (.l96 0)), .fnaff (tX 0 8 10 0 0 0 0 (.l96 0)), .fncomp (tX 0 8 10 0 0 0 0 (.l96 0)),
   .fndiff (tX 0 8 0 0 0 0 0 (.l96 0)), .fnint (tX 0 8 0 0 0 0 0 (.l96 0)), .fnquad (tX 32 8 0 0 0 0 0 (.l96 0)),
   .fnroot (tX 32 8 10 0 0 0 0 (.l96 0)), .fndom (tX 0 8 10 0 0 0 0 (.l96 0)), .fninfo (tX 32 8 0 0 0 0 0 (.l96 0)),
   .fnrel (tX 0 0 0 0 0 0 0 (.l96 0))]

theorem test_issues_func : ∀ i ∈ someFunc, i.wf = true ∧ passes i (inSuper (at2 i)) = true := by decide +kernel

/-- One launch, task, substitution and system instruction of each constructor. -/
def someSys : List Instr :=
  [.acq (tT 0 0 0 0), .give (tX 0 0 0 0 0 0 1 .l64), .claim (tT 0 0 4 0), .tspawn (tX 0 8 0 0 0 0 0 .l64), .tpop (tT 8 0 4 0),
   .tdone (tX 0 8 10 0 0 0 0 .l64), .launch (tX 32 8 0 0 0 0 0 .l64), .sbrd (tX 32 8 0 0 0 0 0 .l64), .escrd (tX 32 8 0 0 0 0 0 .l64),
   .sbwd (tX 0 8 0 0 0 0 4 .l64), .sbclr (tX 0 8 0 0 0 0 0 .l64), .trap (tT 0 0 4 0), .rte (tT 0 0 0 0), .brk (tT 0 0 4 0),
   .srrd (tI 32 0 3), .srwr (tI 0 8 3), .cycrd (tX 32 0 0 0 0 0 0 .l64), .trmark (tX 0 8 0 0 0 0 0 .l64),
   .evrd (tX 32 0 0 0 0 0 0 .l64), .ckpt (tX 32 0 0 0 0 0 0 .l64)]

theorem test_issues_sys : ∀ i ∈ someSys, i.wf = true ∧ passes i (inSuper (at2 i)) = true := by decide +kernel


/-! ### Witnesses: the whole machine -/

/-- What a fetch at beat 2 finds in a state. -/
def fetched (s : State) (p : Fetched → Bool) : Bool :=
  match s.issues.find? (fun x => decide (x.r2 ≤ s.cycle)) with
  | some is =>
    match s.fib? is.fib, s.strand? (fibStrand is.fib) with
    | some f, some _ => s.agenda.isEmpty && f.beats == [is.r0, is.r1, is.r2] && p (s.fetch is.fib f)
    | _, _ => false
  | none => false

theorem test_step_finds_an_instruction : fetched (State.reset.withFetchWord 64 (Instr.iadd false (tX 32 8 10 0 0 0 0 .l64)).bits.toNat)
    (fun r => match r with | .instr (.iadd false _) => true | _ => false) = true := by decide +kernel

/-- LEN 0b11 is reserved (R25). -/
theorem test_step_finds_a_trap : fetched (State.reset.withFetchWord 32 3)
    (fun r => match r with | .trap t => t.cause == .illLen | _ => false) = true := by decide +kernel

/-- The conditions under which a fetch gives the instruction at the program counter. -/
theorem test_fetch_conditions :
    let s := State.reset.withFetchWord 64 (Instr.iadd false (tX 32 8 10 0 0 0 0 .l64)).bits.toNat
    (match s.fib? 0 with
      | some f =>
        f.run == none && pcOffset f.pc % 4 == 0 && decide (pcHandle f.pc < 4096) && beValid (s.fibEntry 0 f.pc) &&
          decide (pcOffset f.pc + 8 ≤ beLen (s.fibEntry 0 f.pc)) && s.arrived 0 f.pc &&
          (match s.tlbFind 0 (s.strandCtx 0) (s.fetchAddr 0 f) with
            | some x => x.x && x.code && x.loc == 0 && x.ord != 3 &&
                (match decode (s.fetchBytes 0 f (x.key (s.fetchAddr 0 f))) with | .ok (.iadd false _, 8) => true | _ => false)
            | none => false)
      | none => false) = true := by decide +kernel

theorem test_event_at_head_of_agenda : ∃ e, ({ State.reset with agenda := [.ephemerisTick] } : State).agenda = [e] ∧ e.isEvent = true :=
  ⟨_, rfl, rfl⟩

theorem test_reset_keeps_form : MemOk State.reset ∧ ∃ t, step State.reset = .next t := by
  refine ⟨⟨reset_memWf, by simp [State.reset]⟩, ?_⟩
  have h : (match step State.reset with | .next _ => true | _ => false) = true := by decide +kernel
  revert h
  cases step State.reset with
  | next t => exact fun _ => ⟨t, rfl⟩
  | fault _ => simp
  | refused _ => simp

/-- Two writes of one register, at register 0 and at 247, the ends of the range. -/
theorem test_writes_have_a_register : ∀ r ∈ [0, 247], Meets (.nop (tX 0 0 0 0 0 0 0 .l64)) (at2 (.nop (tX 0 0 0 0 0 0 0 .l64)))
    fun c => decide (r < 248) && c.st.flights.all (fun x => x.reg != r) := by
  intro r hr
  refine meets ?_
  revert r
  decide +kernel

/-- An instruction at its beat 2, whatever its checks say. -/
def atBeat2 (i : Instr) (s : State) (p : Ctx → Bool) : Bool := ((ctxOf i s).map p).getD false

theorem at_beat2 {i : Instr} {s : State} {p : Ctx → Bool} (h : atBeat2 i s p = true) : ∃ c, AtBeat2 i s c ∧ p c = true := by
  unfold atBeat2 ctxOf at h
  cases hc : s.cur with
  | none => simp [hc] at h
  | some is =>
    cases hm : mkCtx i s is with
    | none => simp [hc, hm] at h
    | some c =>
      simp [hc, hm] at h
      exact ⟨c, ⟨is, hc, hm⟩, h⟩

def iaddBad : Instr := .iadd false (tX 32 8 10 1 0 0 0 .l64)
def iaddHigh : Instr := .iadd false (tX 239 8 10 0 0 0 0 .l64)

/-- One state for each check: the 25th of a run, a supervisor instruction at USER, a reserved field, a register above the allotment of
29 blocks. -/
theorem test_checks_fail_in_turn :
    (∃ c, AtBeat2 iaddHigh (onFib (at2 iaddHigh) fun f => { f with runPos := 24 }) c ∧ decide (24 ≤ c.f.runPos) = true) ∧
    (∃ c, AtBeat2 (.bankmode .scratch (tX 0 0 0 0 0 0 0 .l64)) (at2 (.bankmode .scratch (tX 0 0 0 0 0 0 0 .l64))) c ∧
      (c.f.level == .user && decide (c.f.runPos < 24)) = true) ∧
    (∃ c, AtBeat2 (.srwr (tI 0 8 0x020)) (inSuper (at2 (.srwr (tI 0 8 0x020)))) c ∧ decide (c.f.level.rank < Level.mach.rank) = true) ∧
    (∃ c, AtBeat2 iaddBad (at2 iaddBad) c ∧ (iaddBad.fieldCheck == some .illField) = true) ∧
    (∃ c, AtBeat2 iaddHigh ((at2 iaddHigh).modStrand 0 fun st => { st with blocks := 29 }) c ∧
      (iaddHigh.fieldCheck == none && decide (8 * c.st.blocks < 240)) = true) := by
  refine ⟨?_, ?_, ?_, ?_, ?_⟩ <;> exact at_beat2 (by decide +kernel)

theorem test_high_register_is_named : (239, 1) ∈ iaddHigh.named := by decide +kernel

theorem test_run_long_traps : leaves iaddHigh (onFib (at2 iaddHigh) fun f => { f with runPos := 24 })
    (fun t => (t.fib? 0).any fun f => match f.wait with | .faultQ _ => f.frame.cause.extractLsb' 0 8 == Cause.runLong.code | _ => false)
      = true := by decide +kernel


/-! ### Witnesses: integer instructions -/

def xab : X64 := tX 32 8 10 0 0 0 0 .l64

/-- The register frame's hypotheses, for an instruction that completes. -/
theorem test_register_instruction_completes :
    writesTo (.iadd false xab) = some [32] ∧ Meets (.iadd false xab) (at2 (.iadd false xab)) (fun _ => true) ∧
      leaves (.iadd false xab) (at2 (.iadd false xab)) (fun t => (t.fib? 0).any fun f => f.runPos == 1) = true :=
  ⟨rfl, meets (by decide +kernel), by decide +kernel⟩

/-- A sum that clamps, of the elements 0xF0 and 0x20 (the example of R105). -/
theorem test_add_clamps : Meets (.iadd true (tX 4 5 6 0 2 0 0 .l64))
    (withReg (withReg (at2 (.iadd true (tX 4 5 6 0 2 0 0 .l64))) 5 fun _ => 0xF0F0F0F0) 6 fun _ => 0x20202020)
    fun c => decide (elVal false 8 (c.srcA .int 8 (tX 4 5 6 0 2 0 0 .l64) 95) 3 + elVal false 8 (c.srcB .int 8 (tX 4 5 6 0 2 0 0 .l64) 95) 3 = 0x110) :=
  meets (by decide +kernel)

theorem test_add_clamps_to_ff : leaves (.iadd true (tX 4 5 6 0 2 0 0 .l64))
    (withReg (withReg (at2 (.iadd true (tX 4 5 6 0 2 0 0 .l64))) 5 fun _ => 0xF0F0F0F0) 6 fun _ => 0x20202020)
    (fun t => (t.strand? 0).any fun st => (st.view 4 95 2 100).w == 0xFFFFFFFF && (st.view 252 95 2 100).w == fSAT) = true := by
  decide +kernel

/-- A zero divisor in one lane, the last, and none; the first is IDIV, the second IREM. -/
theorem test_divisors :
    Meets (.idiv xab) (withReg (at2 (.idiv xab)) 10 fun l => if l = 95 then 0 else 1)
      (fun c => el 32 (c.srcB .int 32 xab 95) 0 == 0 && el 32 (c.srcB .int 32 xab 94) 0 != 0) ∧
    Meets (.irem xab) (withReg (at2 (.irem xab)) 10 fun _ => 4)
      (fun c => (List.range 96).all fun l => el 32 (c.srcB .int 32 xab l) 0 != 0) := by
  constructor <;> exact meets (by decide +kernel)

/-- The example of Table 4.2: the remainder and the quotient of −7 by 4. -/
theorem test_divide_minus_seven :
    (∀ e ∈ [(Instr.idiv xab, (0xFFFFFFFF : Word)), (.irem xab, 0xFFFFFFFD)],
      leaves (match e.1 with | .idiv f => .idiv { f with flg := 1 } | .irem f => .irem { f with flg := 1 } | i => i)
        (withReg (withReg (at2 (.idiv { xab with flg := 1 })) 8 fun _ => 0xFFFFFFF9) 10 fun _ => 4)
        (fun t => (t.strand? 0).any fun st => (st.view 32 0 0 100).w == e.2) = true) := by decide +kernel

/-- Shift amounts on both sides of the width, and immediate amounts at 0 and at 31. -/
theorem test_shift_amounts :
    Meets (.shra xab) (withReg (at2 (.shra xab)) 10 fun l => if l = 0 then 31 else 32)
      (fun c => el 32 (c.srcB .raw 32 xab 0) 0 == 31 && el 32 (c.srcB .raw 32 xab 1) 0 == 32) ∧
    Meets (.shli (tI 32 8 31)) (at2 (.shli (tI 32 8 31))) (fun _ => true) ∧
    Meets (.shli (tI 32 8 0)) (at2 (.shli (tI 32 8 0))) (fun _ => true) := by
  refine ⟨?_, ?_, ?_⟩ <;> exact meets (by decide +kernel)

/-- Predicate bits at the top of a register, of one element and of four. -/
theorem test_predicate_bit_places :
    Meets (.icmp .ge (tX 32 8 10 0 0 0 31 .l64)) (at2 (.icmp .ge (tX 32 8 10 0 0 0 31 .l64))) (fun _ => true) ∧
    Meets (.icmp .ne (tX 32 8 10 0 2 0 28 .l64)) (at2 (.icmp .ne (tX 32 8 10 0 2 0 28 .l64))) (fun _ => true) ∧
    Meets (.icmpi .eq (tI 32 8 0x3E00000)) (at2 (.icmpi .eq (tI 32 8 0x3E00000))) (fun _ => true) ∧
    Meets (.sel (tX 32 8 10 12 0 0 31 .l64)) (at2 (.sel (tX 32 8 10 12 0 0 31 .l64))) (fun _ => true) := by
  refine ⟨?_, ?_, ?_, ?_⟩ <;> exact meets (by decide +kernel)

/-- The forms of MOVI: a short immediate, and word 1. -/
theorem test_movi_forms :
    Meets (.movi (tI 32 0 0x3FFFFFF)) (at2 (.movi (tI 32 0 0x3FFFFFF))) (fun _ => true) ∧
    Meets (.movi { tI 32 0 0 with ext := .l96 0x7FC00000 }) (at2 (.movi { tI 32 0 0 with ext := .l96 0x7FC00000 })) (fun _ => true) := by
  constructor <;> exact meets (by decide +kernel)

/-- CVTA: a private offset of 2^40 fails and 2^40 − 1 does not; a scratch address passes. -/
theorem test_window_offsets :
    Meets (.cvta .prv (tX 32 8 0 0 0 0 0 .l64)) (withReg (at2 (.cvta .prv (tX 32 8 0 0 0 0 0 .l64))) 9 fun l => if l = 95 then 0x100 else 0xFF)
      (fun c => decide (2 ^ 40 ≤ (c.rdPairA 8 95).toNat) && decide ((c.rdPairA 8 94).toNat < 2 ^ 40)) ∧
    Meets (.cvta .toscr (tX 32 8 0 0 0 0 0 .l64)) (withReg (at2 (.cvta .toscr (tX 32 8 0 0 0 0 0 .l64))) 9 fun _ => 0xFE000000)
      (fun c => (List.range 96).all fun l => windowClass (c.rdPairA 8 l).toNat == 1) ∧
    Meets (.cvta .toscr (tX 32 8 0 0 0 0 0 .l64)) (at2 (.cvta .toscr (tX 32 8 0 0 0 0 0 .l64)))
      (fun c => windowClass (c.rdPairA 8 0).toNat == 0) ∧
    Meets (.cvta .cls (tX 32 8 0 0 0 0 0 .l64)) (at2 (.cvta .cls (tX 32 8 0 0 0 0 0 .l64))) (fun _ => true) := by
  refine ⟨?_, ?_, ?_, ?_⟩ <;> exact meets (by decide +kernel)

/-- Bit fields: a length of 0, and a position and length at the width. -/
theorem test_field_bounds : Meets (.bfx (tX 32 8 10 12 0 1 0 .l64))
    (withReg (withReg (at2 (.bfx (tX 32 8 10 12 0 1 0 .l64))) 10 fun l => if l = 0 then 32 else 0) 12 fun l => if l = 1 then 0 else 32)
    (fun c => el 32 (c.srcB .raw 32 (tX 32 8 10 12 0 1 0 .l64) 0) 0 == 32 && el 32 (c.srcC .raw 32 (tX 32 8 10 12 0 1 0 .l64) 1) 0 == 0) :=
  meets (by decide +kernel)

/-- PERMB by the byte reversal of R123. -/
theorem test_permb_reverses : leaves (.permb (tX 5 5 5 30 0 0 0 .l64))
    (withReg (withReg (at2 (.permb (tX 5 5 5 30 0 0 0 .l64))) 5 fun _ => 0x11223344) 30 fun _ => 0x00000123)
    (fun t => (t.strand? 0).any fun st => (st.view 5 7 0 100).w == 0x44332211) = true := by decide +kernel


/-! ### Witnesses: floating point -/

/-- Rounding: a number that is exact, one that is not, and one that overflows. -/
theorem test_rounding_cases :
    (FType.fmt .f32).rnd (.fin false 1) .rne false = (0x3F800000, 0) ∧
    ((FType.fmt .f16).rnd (.fin true (-(1 / 3))) .rup false).2 = fNX ∧
    (FType.fmt .f16).rnd (.fin false 65520) .rne false = (0x7C00, fOF ||| fNX) ∧
    (FType.fmt .f16).rnd (.fin false 131072) .rtz false = (0x7BFF, fOF ||| fNX) := by decide +kernel

/-- An enabled cause is taken, and without its enable bit none is: ∞ − ∞ in FADD. -/
theorem test_fp_traps_and_goes_on :
    let i := Instr.fadd .f32 xab
    let s := withReg (withReg (at2 i) 8 fun _ => 0x7F800000) 10 fun _ => 0xFF800000
    Meets i s (fun c => fpTrap c.st.ctl ordArith c.act (fun _ => fNV) == none) ∧
      Meets i (s.modStrand 0 fun st => { st with ctl := st.ctl ||| BitVec.ofNat 32 (2 ^ (fpEnable .fpInvalid).1) })
        (fun c => (fpTrap c.st.ctl ordArith c.act (fun _ => fNV)).any fun t => t.cause == .fpInvalid) := by
  constructor <;> exact meets (by decide +kernel)

theorem test_fadd_writes_sum : leaves (.fadd .f32 xab) (withReg (withReg (at2 (.fadd .f32 xab)) 8 fun _ => 0x3F800000) 10 fun _ => 0x40000000)
    (fun t => (t.strand? 0).any fun st => (st.view 32 50 1 100).w == 0x40400000) = true := by decide +kernel

/-- FTWOSUM of 1 and 2^−30 (the example of R148). -/
theorem test_ftwosum_example : leaves (.ftwosum xab) (withReg (withReg (at2 (.ftwosum xab)) 8 fun _ => 0x3F800000) 10 fun _ => 0x30800000)
    (fun t => (t.strand? 0).any fun st => (st.view 32 0 0 100).w == 0x3F800000 && (st.view 33 0 0 100).w == 0x30800000 &&
      (st.view 252 0 0 100).w == fNX) = true := by decide +kernel

/-- Operands that are NaN, infinite and zero of either sign, for the minimum and the comparisons. -/
theorem test_fmin_operands :
    let i := Instr.fminn xab
    Meets i (withReg (withReg (at2 i) 8 fun l => if l = 0 then 0x7F800001 else 0x80000000) 10 fun l => if l = 1 then 0x7FC00000 else 0)
      (fun c => (FType.fmt .f32).val (el 32 (c.srcA .flt 32 xab 0) 0) == .nan true && (FType.fmt .f32).val (el 32 (c.srcB .flt 32 xab 1) 0) == .nan false &&
        (FType.fmt .f32).val (el 32 (c.srcA .flt 32 xab 2) 0) == .fin true 0) := meets (by decide +kernel)

theorem test_fcmp_top_bit : Meets (.fcmp .un (tX 32 8 10 0 0 0 31 .l64)) (at2 (.fcmp .un (tX 32 8 10 0 0 0 31 .l64))) (fun _ => true) :=
  meets (by decide +kernel)

/-- CVTFI: with `.chk` a lane out of range, and all lanes in range; without it a lane out of range. -/
theorem test_cvtfi_cases :
    let chk := Instr.cvtfi .f32 (tX 32 8 0 0 0 12 0 .l64)
    let plain := Instr.cvtfi .f32 (tX 32 8 0 0 0 4 0 .l64)
    Meets chk (withReg (at2 chk) 8 fun l => if l = 95 then 0x4F000000 else 0)
      (fun c => (FType.fmt .f32).val (el 32 (c.srcA .flt 32 (tX 32 8 0 0 0 12 0 .l64) 95) 0) == .fin false (2 ^ 31)) ∧
    Meets chk (withReg (at2 chk) 8 fun _ => 0xCF000000)
      (fun c => (FType.fmt .f32).val (el 32 (c.srcA .flt 32 (tX 32 8 0 0 0 12 0 .l64) 0) 0) == .fin true (-(2 ^ 31))) ∧
    Meets plain (withReg (at2 plain) 8 fun _ => 0x7F800000) (fun _ => true) := by
  refine ⟨?_, ?_, ?_⟩ <;> exact meets (by decide +kernel)

/-- CVTQ and CVTDQ: a scale of 0, and scales that are valid; the selected byte enabled, and not. -/
theorem test_quantise_scales :
    let q := Instr.cvtq (tX 32 8 10 0 2 0 1 .l64)
    let off := Instr.cvtq (tX 32 8 10 0 2 0 1 (.l96 0x0D000001))
    let dq := Instr.cvtdq (tX 32 8 10 0 2 0 1 .l64)
    let bad := fun (c : Ctx) => c.badScale (tX 32 8 10 0 2 0 1 .l64)
    Meets q (at2 q) (fun c => bad c == c.act) ∧ Meets q (withReg (at2 q) 10 fun _ => 0x3F800000) (fun c => bad c == 0) ∧
    Meets off (withReg (at2 off) 10 fun _ => 0x3F800000) (fun c => bad c == 0) ∧
    Meets dq (at2 dq) (fun c => bad c != 0) ∧ Meets dq (withReg (at2 dq) 10 fun _ => 0x3F800000) (fun c => bad c == 0) := by
  refine ⟨?_, ?_, ?_, ?_, ?_⟩ <;> exact meets (by decide +kernel)

/-- A first cause that is not enabled, and a second that is. -/
theorem test_second_cause_is_taken :
    (fpTrap (BitVec.ofNat 32 (2 ^ (fpEnable .fpInexact).1)) ordArith 1 (fun _ => fOF ||| fNX)).any (fun t => t.cause == .fpInexact) = true ∧
      fpTrap 0 ordArith 1 (fun _ => fNX) = none := by decide +kernel

/-- The other conversions: each form of CVTFF, FSCALB and FRND on a number. -/
theorem test_conversion_forms : ∀ i ∈ [Instr.cvtff .toBf16 (tX 32 8 10 0 1 0 0 .l64), .cvtff .fromF16 (tX 32 8 0 0 0 0 1 .l64),
    .cvtff .f16ToBf16 (tX 32 8 0 0 1 0 0 .l64), .frnd .f16 (tX 32 8 0 0 1 3 0 .l64), .fscalb .bf16 (tX 32 8 10 0 1 0 0 .l64)],
    passes i (at2 i) = true := by decide +kernel


/-! ### Witnesses: special functions and lanes -/

def xa : X64 := tX 32 8 0 0 0 0 0 .l64

/-- The operands of RCP, DIV and SQRT that each clause speaks of: NaN, zero, a number. -/
theorem test_sfu_operands :
    Meets (.rcp xa) (withReg (at2 (.rcp xa)) 8 fun l => if l = 0 then 0x7FC00000 else if l = 1 then 0x80000000 else 0x40000000)
      (fun c => let a := fun l => (FType.fmt .f32).val (el 32 (c.srcA .flt 32 xa l) 0)
        a 0 == .nan false && a 1 == .fin true 0 && a 2 == .fin false 2) ∧
    Meets (.div xab) (withReg (withReg (at2 (.div xab)) 8 fun _ => 0x3F800000) 10 fun l => if l = 0 then 0 else 0x40400000) (fun _ => true) ∧
    sfuSpecial (.sqrt xa) (.fin true (-1)) (.fin false 0) = some (.nan false, fNV) := by
  refine ⟨meets (by decide +kernel), meets (by decide +kernel), ?_⟩
  rw [sfuSpecial]; norm_num

/-- The head of an SFU queue that is due: one that lands, and one whose trap was withheld. -/
theorem test_sfu_head_is_due :
    let s : State := State.reset.modSpindle 0 1 fun x => { x with sfu := [{ fib := 0, seqs := [3], withheld := none, notBefore := 0 }] }
    let t : State := State.reset.modSpindle 0 1 fun x =>
      { x with sfu := [{ fib := 0, seqs := [3], withheld := some { cause := .fpDivzero }, notBefore := 0 }] }
    ((s.spindle 0 1).sfu.map fun e => (e.withheld.isNone, decide (e.notBefore ≤ s.cycle))) = [(true, true)] ∧
      ((t.spindle 0 1).sfu.map fun e => (e.withheld.isNone, decide (e.notBefore ≤ t.cycle))) = [(false, true)] := by decide +kernel

/-- BCAST of the last lane in act, of a lane outside it, and with act empty. -/
theorem test_bcast_cases :
    let i := Instr.bcast (tX 32 8 0 0 0 0 95 .l64)
    Meets i (at2 i) (fun c => c.act.getLsbD 95) ∧
    Meets i (withReg (at2 i) 255 fun _ => 0) (fun c => c.act != 0 && !c.act.getLsbD 95) ∧ Meets i (masked (at2 i)) (fun c => c.act == 0) := by
  refine ⟨?_, ?_, ?_⟩ <;> exact meets (by decide +kernel)

theorem test_shfl_down_keeps_last : leaves (.shfl .down (tX 5 4 6 0 0 0 32 .l64))
    (withReg (withReg (at2 (.shfl .down (tX 5 4 6 0 0 0 32 .l64))) 4 fun l => BitVec.ofNat 32 l) 6 fun _ => 1)
    (fun t => (t.strand? 0).any fun st => (st.view 5 31 0 100).w == 31 && (st.view 5 30 0 100).w == 31 && (st.view 5 95 2 100).w == 95)
      = true := by decide +kernel

/-- The modes of VOTE, and the reductions of an integer and of a float. -/
theorem test_vote_and_reduction_forms : ∀ i ∈ [Instr.vote .all (tX 32 8 0 0 0 0 31 .l64), .vote .ballot (tX 237 8 0 0 0 0 0 .l64),
    .lred .fadd (tX 32 8 0 0 0 0 0 .l64), .lscan .max (tX 32 8 0 0 0 3 0 .l64), .lscan .fmin (tX 32 8 0 0 0 0 0 .l64)],
    passes i (at2 i) = true := by decide +kernel

theorem test_lred_sums_lanes : leaves (.lred .add xa) (withReg (at2 (.lred .add xa)) 8 fun l => BitVec.ofNat 32 l)
    (fun t => (t.strand? 0).any fun st => (st.view 32 11 0 100).w == 4560) = true := by decide +kernel


/-- Operands whose results are real and rational: EXP2 of one half, LOG2 of 8. -/
theorem test_transcendental_operands : (∃ x, sfuReal (.exp2 xa) (1 / 2) x) ∧ sfuRat (.log2 xa) 8 3 :=
  ⟨⟨_, by norm_num [abs_of_pos], by norm_num, rfl⟩, 3, by norm_num, by norm_num, by norm_num⟩

/-! ### Witnesses: control -/

/-- Where a branch by IMM26 goes, and where it would leave the 40 bits of an offset. -/
theorem test_branch_targets :
    let b := Instr.bra (tT 0 0 4 0)
    let far := Instr.bra (tT 0 0 0x3FFFFFF 0)
    Meets b (at2 b) (fun c => (c.target (tT 0 0 4 0)) == some 16 && !c.fallsOff && (c.substEnd (at2 b)).2.isNone) ∧
      Meets far (at2 far) (fun c => (c.target (tT 0 0 0x3FFFFFF 0)).isNone) := by
  constructor <;> exact meets (by decide +kernel)

theorem test_target_is_stated (c : Ctx) (h : pcOffset c.f.pc = 0) :
    transfersTo c (tT 0 0 4 0) (BitVec.ofNat 64 (pcHandle c.f.pc * 2 ^ 40 + 16)) ∧ ¬ ∃ t, transfersTo c (tT 0 0 0x3FFFFFF 0) t := by
  have h1 : (tT 0 0 4 0).imm26.toInt = 4 := by decide
  have h2 : (tT 0 0 0x3FFFFFF 0).imm26.toInt = -1 := by decide
  constructor
  · exact ⟨16, by norm_num, by rw [h, h1]; norm_num, rfl⟩
  · rintro ⟨t, o, -, ho, -⟩
    rw [h, h2] at ho
    omega

theorem test_pc_is_zero : Meets (.bra (tT 0 0 4 0)) (at2 (.bra (tT 0 0 4 0))) (fun c => pcOffset c.f.pc == 0) := meets (by decide +kernel)

/-- The lanes of act in which the low bit is set: none, some, all; and no lane in act. -/
theorem test_branch_conditions :
    let i := fun (f : T96 → Instr) => f (tT 8 0 4 0)
    Meets (i (.brc .nz)) (at2 (i (.brc .nz))) (fun c => (c.condLanes .nz (tT 8 0 4 0)) == 0 && !c.fallsOff) ∧
    Meets (i (.brc .nz)) (withReg (at2 (i (.brc .nz))) 8 fun _ => 1) (fun c => c.condLanes .nz (tT 8 0 4 0) == c.mask) ∧
    Meets (i (.brc .nz)) (withReg (at2 (i (.brc .nz))) 8 fun l => if l < 40 then 1 else 0)
      (fun c => laneCount (c.condLanes .nz (tT 8 0 4 0)) == 40 && !c.fallsOff) ∧
    Meets (i (.brc .nz)) (withReg (at2 (i (.brc .nz))) 8 fun l => if l < 48 then 1 else 0)
      (fun c => laneCount (c.condLanes .nz (tT 8 0 4 0)) == 48) ∧
    Meets (i (.brall .z)) (at2 (i (.brall .z))) (fun c => c.condLanes .z (tT 8 0 4 0) == c.act) ∧
    Meets (i (.brall .z)) (masked (at2 (i (.brall .z)))) (fun c => c.act == 0) := by
  refine ⟨?_, ?_, ?_, ?_, ?_, ?_⟩ <;> exact meets (by decide +kernel)

theorem test_brc_splits : leaves (.brc .nz (tT 8 0 4 1)) (withReg (at2 (.brc .nz (tT 8 0 4 1))) 8 fun l => if l < 48 then 1 else 0)
    (fun t => (t.fib? 1).any (fun f => f.pc == 16 && f.laneSet.getLsbD 47 && !f.laneSet.getLsbD 48 && f.tokens == 2) &&
      (t.fib? 0).any (fun f => f.pc == 12 && f.tokens == 2)) = true := by decide +kernel

/-- A reference that passes the checks of R84, and one that does not (a misaligned offset). -/
theorem test_references :
    let i := Instr.jmpi (tT 8 0 0 0)
    Meets i (at2 i) (fun c => ((at2 i).refCheck c.cluster ((at2 i).strandPart c.strand) (c.rdPairLow 8)).isNone) ∧
      Meets i (withReg (at2 i) 8 fun _ => 2)
        (fun c => ((at2 i).refCheck c.cluster ((at2 i).strandPart c.strand) (c.rdPairLow 8)).isSome) := by
  constructor <;> exact meets (by decide +kernel)

/-- RCVG of a token that the fibre carries, with another carrier and alone, and of one that it does not. -/
theorem test_rcvg_carriers :
    let i := Instr.rcvg (tT 0 0 0 15)
    let carry := onFib (at2 i) fun f => { f with tokens := 0x8000, laneSet := 0xFFFF }
    let two := carry.modStrand 0 fun st => { st with paths := tset st.paths 3 { laneSet := 0x10000, pc := 0, tokens := 0x8000 } }
    Meets i (at2 i) (fun c => !c.f.tokens.getLsbD 15 && !c.fallsOff) ∧
    Meets i carry (fun c => c.f.tokens.getLsbD 15 && c.st.paths.length == 1) ∧
    Meets i two (fun c => c.f.tokens.getLsbD 15 && c.st.paths.any fun p => p.1 != fibPath c.k && p.2.tokens.getLsbD 15 && p.2.wait != .rcvg 15) := by
  refine ⟨?_, ?_, ?_⟩ <;> exact meets (by decide +kernel)

/-- Two carriers parked at an RCVG of token 15 merge. -/
def parkedTwo : State :=
  (onFib (at2 (.nop (tX 0 0 0 0 0 0 0 .l64))) fun f =>
    { f with tokens := 0x8000, laneSet := 0xFFFF, state := .parked, wait := .rcvg 15, after := some 12, beats := [] }).modStrand 0 fun st =>
      { st with paths := tset st.paths 96
                  { laneSet := 0x10000, pc := 0, tokens := 0x8001, state := .parked, wait := .rcvg 15, after := some 12 } }

theorem test_carriers_are_parked : (parkedTwo.strand? 0).any (fun st => st.paths.map (·.1) == [0, 96] &&
    st.paths.all fun p => p.2.tokens.getLsbD 15 && p.2.wait == .rcvg 15 && p.2.pc == 0 && p.2.task.isNone && p.2.after == some 12) = true := by
  decide +kernel

theorem test_carriers_merge : ((parkedTwo.tryMerge 0 15).fib? 0).any (fun f => f.laneSet == 0x1FFFF && f.tokens == 1 && f.pc == 12) = true ∧
    (parkedTwo.tryMerge 0 15).fib? 96 = none := by decide +kernel

/-- ENDK of a fibre that holds a task, and of one that holds none beside another fibre. -/
theorem test_endk_cases :
    let i := Instr.endk (tT 0 0 0 0)
    Meets i (onFib (at2 i) fun f => { f with task := some { die := 0, queue := 63, words := [] } }) (fun c => c.f.task.isSome) ∧
      Meets i ((at2 i).modStrand 0 fun st => { st with paths := tset st.paths 1 { laneSet := 1, pc := 0 } })
        (fun c => c.f.task.isNone && c.st.paths.any (fun p => p.1 != fibPath c.k) && c.st.paths.all fun p => p.2.tokens == 0) := by
  constructor <;> exact meets (by decide +kernel)

/-- A fibre parked in YIELD, before its cycle and at it; a wait that is over, with the address after its terminator. -/
theorem test_yield_waits :
    let s := onFib (at2 (.nop (tX 0 0 0 0 0 0 0 .l64))) fun f => { f with state := .parked, wait := .yield 2, after := some 12 }
    (s.fib? 0).any (fun f => f.state == .parked && f.wait == .yield 2 && f.after == some 12) = true ∧ s.cycle = 2 ∧
      leaves (.yieldWake 0) s (fun t => (t.fib? 0).any fun f => f.pc == 12 && f.state == .ready) = true := by decide +kernel

/-- Runs end with every published register landed, and with one in flight. -/
theorem test_published_registers :
    let i := Instr.runend { tT 0 0 0 0 with p0 := 32 }
    Meets i (at2 i) (fun c => c.i.pubs == [32] && c.st.flights.all fun x => x.reg != 32) ∧
      Meets i ((at2 i).modStrand 0 fun st =>
          { st with seq := 1, flights := [{ seq := 0, reg := 32, lanes := 1, land := none, vals := laneVec fun _ => 0 }] })
        (fun c => c.st.flights.any fun x => x.reg == 32 && x.lanes &&& c.f.laneSet != 0 && !x.seen 0 2) := by
  constructor <;> exact meets (by decide +kernel)

/-- A terminator of a fibre whose run nothing observes ends it from the state itself. -/
theorem ends_unobserved {i : Instr} {s : State} {c : Ctx} (h : Issues i s c) (hr : c.f.run = none) : Ends i s c s :=
  ⟨h, by simp [Ctx.substEnd, hr]⟩

/-- Every terminator issues somewhere with its run unobserved. -/
theorem test_terminators_end : ∀ i ∈ someCtl ++ someAsync ++ someMatrix ++ someSys, i.isTerminator = true →
    passesWith i (inSuper (at2 i)) (fun c => c.f.run == none) = true := by decide +kernel

/-- A run that ENDK ends with EL = 1, of which an instruction was seen, fails R402: the trap is SUBST_INELIGIBLE. -/
theorem test_ineligible_run :
    let i := Instr.endk { tT 0 0 0 0 with el := 1 }
    leaves i (onFib (at2 i) fun f => { f with run := some { start := 0 } })
      (fun t => (t.fib? 0).any fun f => f.frame.cause.extractLsb' 0 8 == Cause.substIneligible.code) = true := by decide +kernel

/-! ### Witnesses: memory -/

/-- A page of ordinary memory at 0x2000, which the cluster has translated, and register pair 8 holding its address. -/
def withPage (s : State) : State :=
  withReg (s.modCluster 0 fun c =>
    { c with tlb := { part := 0, ctx := 0, vbase := 0x2000, size := 12, frame := 0x2000, loc := 0, ord := 0, code := false
                      spriv := false, x := false, w := true } :: c.tlb }) 8 fun _ => 0x2000

def answerIs (r : Checked) (p : List LaneAcc → Bool) (trap walk : Bool) : Bool :=
  match r with
  | .ok as => p as
  | .trap _ => trap
  | .walk _ => walk

def ldw : A96 := tA 32 8 248 16 0 0 0 2

/-- A load: a malformed address, a page to be walked, no lane in act, data at hand, and data that is not. -/
theorem test_load_checks :
    let i := Instr.ld ldw
    let chk := fun (s : State) (c : Ctx) => s.checkAccess c.k .load 4 4 false (c.addrs (c.ea ldw)) c.f.walks
    let far := withReg (at2 i) 9 fun _ => 0x7F000000
    Meets i far (fun c => answerIs (chk far c) (fun _ => false) true false) ∧
    Meets i (at2 i) (fun c => answerIs (chk (at2 i) c) (fun _ => false) false true) ∧
    Meets i (masked (at2 i)) (fun c => answerIs (chk (masked (at2 i)) c) (fun as => as.isEmpty) false false) ∧
    Meets i (withPage (at2 i)) (fun c => answerIs (chk (withPage (at2 i)) c)
      (fun as => !as.isEmpty && !((withPage (at2 i)).loadMay c.k as && (withPage (at2 i)).present c.cluster as)) false false) ∧
    Meets (.lds ldw) (at2 (.lds ldw)) (fun c => answerIs ((at2 (.lds ldw)).checkAccess c.k .load 4 4 false (c.addrs (c.eaScr ldw)) c.f.walks)
      (fun as => !as.isEmpty && ((at2 (.lds ldw)).loadMay c.k as && (at2 (.lds ldw)).present c.cluster as) &&
        as.all fun x => x.bytes.all fun y => y.kind == .scr) false false) := by
  refine ⟨?_, ?_, ?_, ?_, ?_⟩ <;> exact meets (by decide +kernel)

theorem test_load_forms : loadForm (.ldt ldw) = some ({ dst := 32, sz := 2, sx := false, ldt := true }, none) ∧
    loadForm (.ld { ldw with hint := 4, sz := 0, ord := 1, scope := 4 }) = some ({ dst := 32, sz := 0, sx := true }, some 4) := ⟨rfl, by decide⟩

/-- Lane 0 alone in the fibre's mask, so that one part is all of an access. -/
def oneLane (s : State) : State := withReg (masked s) 253 fun l => if l = 0 then 1 else 0

/-- What waits to be performed may be performed at once. -/
def dueNow (s : State) : State :=
  (onFib s fun f => { f with wait := match f.wait with
    | .miss m => .miss { m with due := 0 }
    | .atomic r => .atomic { r with due := 0 }
    | w => w }).modSpindle 0 0 fun x => { x with stores := x.stores.map fun e => { e with due := 0 } }

/-- A load parked for its data, and its page read back byte for byte. -/
theorem test_load_parks_and_lands :
    leaves (.ld ldw) (oneLane (withPage (at2 (.ld ldw)))) (fun t => (t.fib? 0).any (fun f => match f.wait with
        | .miss m => m.pend.length == 1
        | _ => false) &&
      leaves (.missDataLands 0) ({ dueNow t with mem := cellsWrite t.mem 0x2010 [0x11, 0x22, 0x33, 0x44] } : State) fun u =>
        (u.fib? 0).any (fun f => f.state == .ready) && (u.strand? 0).any fun st => (st.view 32 0 0 50).w == 0x44332211) = true := by
  decide +kernel

/-- A store: its bytes stand in the queue, and are in memory when it is performed. -/
theorem test_store_queues_and_performs :
    let i := Instr.st ldw
    let s := withReg (oneLane (withPage (at2 i))) 32 fun _ => 0x44332211
    Meets i s (fun c => decide (c.st.spindle < (s.cluster c.cluster).spindles.length) &&
      answerIs (s.checkAccess c.k .store 4 4 false (c.addrs (c.ea ldw)) c.f.walks) (fun as => !as.isEmpty) false false) ∧
    leaves i s (fun t => t.memRead 0x2010 == 0 && (t.spindle 0 0).stores.all (fun e => e.red.isNone && e.size == 1) &&
      leaves (.storePerformed 0 0 0) (dueNow t) fun u => u.memRead 0x2010 == 0x11 && u.memRead 0x2013 == 0x44 && u.memRead 0x2014 == 0 &&
        (u.spindle 0 0).stores.isEmpty) = true := ⟨meets (by decide +kernel), by decide +kernel⟩

/-- A store that an earlier one of its fibre to the same place must precede. -/
theorem test_store_order :
    let i := Instr.st ldw
    let s := withReg (withPage (at2 i)) 32 fun _ => 1
    leaves i s (fun t =>
      let u := ({ t with cur := s.cur } : State)
      leaves i (onFib u fun f => { f with beats := [0, 1, 2] }) fun v =>
        match (v.spindle 0 0).stores with
        | [a, b] => !b.partMay [a, b] 0 && a.partMay [a, b] 0
        | _ => false) = true := by decide +kernel

/-- CCTL and PF over a page at hand. -/
theorem test_cache_control_lines :
    let i := Instr.cctl .wbinv (tA 0 8 248 0 0 0 0 0)
    let s := withPage (at2 i)
    Meets i s (fun c => answerIs (s.checkAccess c.k .cctlInv 1 1 false (c.addrs (c.ea (tA 0 8 248 0 0 0 0 0))) c.f.walks)
      (fun as => linesOf as == [64]) false false) := meets (by decide +kernel)

/-- FIFO banks: one that is not, one with room, one that is full; an FPOP that finds an entry and one that does not. -/
def fifoBank (s : State) (n : Nat) : State :=
  s.modCluster 0 fun c => { c with banks := lset c.banks 15 { mode := .fifo, owner := some 0, fifo := List.replicate n {} } }

theorem test_fifo_cases :
    let push := Instr.fpush (tA 32 0 0 15 0 0 0 2)
    let pop := Instr.fpop (tA 32 0 0 15 0 0 0 2)
    let bank := fun (s : State) => (s.cluster 0).banks.getD 15 {}
    Meets push (at2 push) (fun _ => (bank (at2 push)).mode != .fifo && (bank (at2 push)).next == none) ∧
    Meets push (fifoBank (at2 push) 511) (fun c => c.act != 0 && decide ((bank (fifoBank (at2 push) 511)).fifo.length < 512)) ∧
    Meets push (fifoBank (at2 push) 512) (fun _ => decide (512 ≤ (bank (fifoBank (at2 push) 512)).fifo.length)) ∧
    Meets pop (fifoBank (at2 pop) 1) (fun _ => (bank (fifoBank (at2 pop) 1)).fifo.length == 1) ∧
    Meets pop (fifoBank (at2 pop) 0) (fun _ => (bank (fifoBank (at2 pop) 0)).fifo.isEmpty) := by
  refine ⟨?_, ?_, ?_, ?_, ?_⟩ <;> exact meets (by decide +kernel)

theorem test_fifo_wait_times_out :
    let s := onFib (at2 (.nop (tX 0 0 0 0 0 0 0 .l64))) fun f => { f with state := .parked, wait := .fifo 15 0 0 none 32 1 8 [] }
    leaves (.fifoTimeout 0) ({ s with cycle := 2 ^ 24 - 1 } : State) (fun t => (t.fib? 0).any fun f => f.state == .parked) = true ∧
      leaves (.fifoTimeout 0) ({ s with cycle := 2 ^ 24 } : State) (fun t => (t.fib? 0).any fun f =>
        f.frame.cause.extractLsb' 0 8 == Cause.fifoTimeout.code) = true := by constructor <;> decide +kernel

/-- BANKMODE: a bank in the mode already, one that changes, one in change, one whose queue is not empty, one of another context. -/
theorem test_bank_mode_cases :
    let i := fun (m : BankMode) => Instr.bankmode m (tX 0 0 0 0 0 0 15 .l64)
    let s := fun (m : BankMode) => inSuper (at2 (i m))
    let other := (s .cache).modCluster 0 fun c => { c with banks := lset c.banks 15 { mode := .fifo, owner := some 1 } }
    let changing := (s .cache).modCluster 0 fun c => { c with banks := lset c.banks 15 { mode := .scratch, next := some .fifo } }
    Meets (i .cache) (s .cache) (fun _ => true) ∧ Meets (i .fifo) (s .fifo) (fun _ => true) ∧ Meets (i .cache) changing (fun _ => true) ∧
      Meets (i .cache) (fifoBank (s .cache) 1) (fun _ => true) ∧ Meets (i .cache) other (fun c => (other.strandCtx c.strand) != 1) := by
  refine ⟨?_, ?_, ?_, ?_, ?_⟩ <;> exact meets (by decide +kernel)

/-- SCRCFG: the whole allotment of 64 KiB, a misaligned area, one beyond the allotment, and a cleared slot. -/
theorem test_scrcfg_areas :
    let i := Instr.scrcfg false (tX 0 8 10 0 0 0 3 .l64)
    let s := fun (a n : Word) => withReg (withReg (inSuper (at2 i)) 8 fun _ => a) 10 fun _ => n
    let bytes := fun (s : State) => ((s.skein? 0).map (·.scratchBytes)).getD 0
    Meets i (s 0 65536) (fun c => c.act != 0 && bytes (s 0 65536) == 65536) ∧ Meets i (s 2048 4096) (fun c => c.act != 0) ∧
      Meets i (s 4096 65536) (fun c => c.act != 0) ∧ Meets i (masked (s 0 4096)) (fun c => c.act == 0) ∧
      Meets (.scrcfg true (tX 0 0 0 0 0 0 3 .l64)) (inSuper (at2 (.scrcfg true (tX 0 0 0 0 0 0 3 .l64)))) (fun c => c.act != 0) := by
  refine ⟨?_, ?_, ?_, ?_, ?_⟩ <;> exact meets (by decide +kernel)

/-! ### Witnesses: atomics, fences and WAITEQ -/

def atw : A96 := tA 32 8 10 16 17 0 0 2

/-- An atomic on memory, one in scratch, and one whose page is to be walked. -/
theorem test_atomic_checks :
    let chk := fun (s : State) (c : Ctx) => s.checkAccess c.k .atomic 4 4 true (c.addrs (c.eaAtom atw)) c.f.walks
    let i := Instr.atom .add atw
    let r := Instr.red .add { atw with d := 0 }
    Meets i (withPage (at2 i)) (fun c => answerIs (chk (withPage (at2 i)) c)
      (fun as => as.any fun a => a.bytes.any fun b => b.kind != .scr) false false) ∧
    Meets i (at2 i) (fun c => answerIs (chk (at2 i) c) (fun _ => false) false true) ∧
    Meets r (withPage (at2 r)) (fun c => answerIs (chk (withPage (at2 r)) c) (fun as => !as.isEmpty) false false) ∧
    Meets (.atoms .add atw) (at2 (.atoms .add atw)) (fun c =>
      answerIs ((at2 (.atoms .add atw)).checkAccess c.k .atomic 4 4 true (c.addrs (c.eaAtomScr atw)) c.f.walks)
        (fun as => !as.isEmpty && as.all fun a => a.bytes.all fun b => b.kind == .scr) false false) := by
  refine ⟨?_, ?_, ?_, ?_⟩ <;> exact meets (by decide +kernel)

/-- An addition of 3 to the first word of scratch by a lane, and the request of two lanes that make one. -/
def addLane (l : Nat) : AtomLane :=
  { acc := { lane := l, addr := 0, bytes := (List.range 4).map fun i => { loc := .scr 0 i, kind := .scr } }, operand := 3, expected := 0 }

def addTwo : AtomReq :=
  { op := .add, type := .n32, dst := some 32, lanes := [addLane 0, addLane 95], ticket := none, word := 0, seq := 0, acq := false }

/-- An atomic addition returns the old value; by two lanes to one word of scratch it returns the sum of the lane before. -/
theorem test_atomic_adds_in_lane_order :
    let i := Instr.atom .add atw
    leaves i (withReg (oneLane (withPage (at2 i))) 10 fun _ => 3) (fun t =>
      leaves (.atomicReturn 0) ({ dueNow t with mem := cellsWrite t.mem 0x2010 [0xFF, 1, 0, 0] } : State) fun u =>
        u.memRead 0x2010 == 2 && u.memRead 0x2011 == 2 && (u.strand? 0).any fun st => (st.view 32 0 0 100).w == 0x1FF) = true ∧
    ((at2 (.atoms .add atw)).atomLanes 0 addTwo [0, 1]).2.done.map (·.2.1) = [0, 3] := by
  constructor <;> decide +kernel

/-- The last lane of a scratch addition that was left to the queue: its old value goes into the write in flight. -/
theorem test_late_lane :
    let r : AtomReq := { addTwo with lanes := [addLane 95], done := [((addLane 0).acc, 7, none)], late := some (90, 90, 90) }
    let e : StoreEntry := { strand := 0, owners := [0], red := some r }
    let s := ((at2 (.atoms .add atw)).modSpindle 0 0 fun x => { x with stores := [e] }).modStrand 0 fun st =>
      { st with flights := [{ seq := 0, reg := 32, lanes := lanesOf fun _ => true, vals := [], land := some (90, 90, 90) }] }
    e.partMay [e] 0 = true ∧ leaves (.storePerformed 0 0 0) s (fun u => (u.spindle 0 0).stores.isEmpty && (u.strand? 0).any fun st =>
      (st.view 32 0 0 100).w == 7 && (st.view 32 95 2 100).w == 0 && (st.view 32 0 0 80).w == 0) = true := by
  constructor <;> decide +kernel

theorem test_fence_waits_for_stores :
    let st := Instr.st ldw
    let f := Instr.fence .ar (tX 0 0 0 0 0 0 0 .l64)
    let s := withPage (at2 st)
    Meets f (at2 f) (fun c => ((at2 f).myStores c.k).isEmpty) ∧
      leaves st s (fun t => !(t.myStores 0).isEmpty && leaves f (onFib ({ t with cur := s.cur } : State) fun g => { g with beats := [0, 1, 2] })
        fun u => (u.fib? 0).any fun g => g.wait == .fence .ar 0) = true := ⟨meets (by decide +kernel), by decide +kernel⟩

/-- WAITEQ on a word that is equal, and on one that is not; the wait, tried again, before its time is over and when it is. -/
theorem test_waiteq_cases :
    let i := Instr.waiteq false (tA 32 8 10 16 0 0 0 2)
    let s := withPage (at2 i)
    let no := withReg s 10 fun _ => 1
    Meets i (masked s) (fun c => c.act == 0) ∧
    leaves i s (fun t => (t.fib? 0).any fun f => f.runPos == 1) = true ∧
    leaves i no (fun t => (t.fib? 0).any (fun f => match f.wait with | .waiteq _ _ => true | _ => false) &&
      leaves (.waiteqWake 0) t (fun u => (u.fib? 0).any fun f => f.state == .parked) &&
      leaves (.waiteqWake 0) ({ t with mem := cellsWrite t.mem 0x2010 [1] } : State) (fun u => (u.fib? 0).any fun f => f.state == .ready) &&
      leaves (.waiteqTimeout 0) ({ t with cycle := 2 ^ 24 + 2 } : State) (fun u => (u.fib? 0).any fun f =>
        f.frame.cause.extractLsb' 0 8 == Cause.waiteqTimeout.code)) = true := by
  refine ⟨meets (by decide +kernel), ?_, ?_⟩ <;> decide +kernel

theorem test_witness_memory_form : MemOk (withPage (at2 (.ld ldw))) := by unfold MemOk; decide +kernel

/-- A load of a line that the L1 holds in a bank which is changing its mode (R186). -/
theorem test_busy_bank :
    let i := Instr.ld ldw
    let s := (withPage (at2 i)).modCluster 0 fun c =>
      { c with l1 := [(64, { bytes := [], bank := 3 })], banks := c.banks.map fun b => { b with next := some .fifo } }
    Meets i s (fun c => answerIs (s.checkAccess c.k .load 4 4 false (c.addrs (c.ea ldw)) c.f.walks)
      (fun as => !as.isEmpty && c.busy s as == some 3) false false) := meets (by decide +kernel)

/-- A CCTL whose line waits in the store queue, and that is performed there. -/
theorem test_cache_control_queued :
    let i := Instr.cctl .wbinv (tA 0 8 248 0 0 0 0 0)
    leaves i (withPage (at2 i)) (fun t => (t.spindle 0 0).stores.any (fun e => e.red.isNone && e.cctl == some .wbinv && e.lines == [64] &&
        e.partMay (t.spindle 0 0).stores 0 && (t.cluster 0).busyBank (lineBytes 64) == none) &&
      leaves (.storePerformed 0 0 0) (dueNow t) fun u => (u.spindle 0 0).stores.isEmpty) = true := by decide +kernel

/-- A release and an acquire in each other's scope instance (R228): strands of one skein at `.skn`, of two skeins at `.sys` and at `.skn`. -/
theorem test_scopes_meet :
    ({ scope := 1, strand := some 0, view := {} } : Rel).meets 1 1 = true ∧ ({ scope := 5, strand := some 0, view := {} } : Rel).meets 5 16 = true ∧
      ({ scope := 1, strand := some 0, view := {} } : Rel).meets 5 16 = false := by decide

/-! ### Witnesses: engines, waits, barriers and semaphores -/

def cpy : X64 := tX 32 8 10 12 0 0 0 (.l96 0)

/-- A copy of 16 bytes within a page: with act empty, at the issue, and when it is complete. -/
def copyState : State :=
  withReg (withReg (withPage (at2 (.copy .lin cpy))) 10 fun _ => 0x2800) 12 fun _ => 16

theorem test_copy_cases :
    Meets (.copy .lin cpy) (masked copyState) (fun c => c.act == 0) ∧
    Meets (.copy .lin cpy) copyState (fun c => c.act != 0 && copyState.engineReady c.strand .c &&
      (copyState.operandErr c.strand [0x2000, 0x2800] [(0x2000, 0x2000), (0x2800, 0x2800), (16, 0)] [(0x2000, 16), (0x2800, 16)] false).isNone) ∧
    Meets (.copy .lin cpy) (withReg copyState 9 fun _ => 0x7F000000) (fun c =>
      (copyState.operandErr c.strand [0x7F00000000002000, 0x2800] [(0x7F00000000002000, 0x7F00000000002000), (0x2800, 0x2800), (16, 0)]
        [(0x7F00000000002000, 16), (0x2800, 16)] false).isSome) := by refine ⟨?_, ?_, ?_⟩ <;> exact meets (by decide +kernel)

theorem test_copy_moves : leaves (.copy .lin cpy) ({ copyState with mem := cellsWrite copyState.mem 0x2800 [1, 2, 3] } : State)
    (fun t => (t.cluster 0).copies.length == 1 && (t.strand? 0).any (fun st => st.cnt .c == 1) &&
      (t.cluster 0).copies.any fun o =>
        let u := t.runEng o 4
        (u.cluster 0).copies.isEmpty && (u.strand? 0).any (fun st => st.cnt .c == 0 && st.fails.isEmpty) &&
          u.memRead 0x2000 == 1 && u.memRead 0x2002 == 3) = true := by
  decide +kernel

/-- A copy in its queue that may make its burst, with its two ranges at hand; and one whose bursts are all made. -/
theorem test_copy_in_queue :
    let o : EngOp := { strand := 0, cls := .c, num := 0, kind := .lin 0x2000 0x2800 16 }
    let s := copyState.modCluster 0 fun c => { c with copies := [o] }
    let done : EngOp := { o with plan := some [{ src := .here 0x2800, dst := .here 0x2000, n := 16 }], idx := 1, done := 16 }
    let t := copyState.modCluster 0 fun c => { c with copies := [done] }
    let good := fun (r : Except (Cause × Nat) (List ByteAt)) => match r with
      | .ok bs => bs.length == 16 && bs.all (fun b => (s.badByte b).isNone) && decide (bs.map (·.loc)).Nodup
      | .error _ => false
    (s.engMay o && (s.engMiss 0 [] 0x2800 0).isNone && (s.engMiss 0 [] 0x2000 0).isNone && good (s.engBytes 0 [] false 0x2800 0 16) &&
      good (s.engBytes 0 [] true 0x2000 0 16) && !(s.ctx (s.strandCtx 0)).halting && !s.launchFlag 0 5 &&
      (s.strand? 0).any fun st => !st.paths.isEmpty) = true ∧
    (t.engMay done && (t.cluster 0).copies.find? (fun x => x.strand == 0 && x.cls == .c && x.num == 0) == some done) = true := by
  constructor <;> decide +kernel

/-- WAITC at a count that is low enough, one that is not, with a failure to report, and of class M with the open batch not empty. -/
theorem test_waitc_counts :
    let i := Instr.waitc .c (tT 0 0 0 0)
    let m := Instr.waitc .m (tT 0 0 0 0)
    let busy := (at2 i).modStrand 0 fun st => { st with ops := [{ cls := .c, num := 0 }], issued := [0, 1, 0, 0] }
    let failed := (at2 i).modStrand 0 fun st => { st with fails := [(.c, 0, { cause := .ldXlate, kind := 0 })] }
    Meets i (at2 i) (fun c => decide (c.st.cnt .c ≤ 0) && c.st.fails.isEmpty && !c.fallsOff) ∧ Meets i busy (fun c => decide (0 < c.st.cnt .c)) ∧
    Meets i failed (fun c => c.st.fails.any fun x => x.1 == .c) ∧
    Meets m ((at2 m).modStrand 0 fun st => { st with mxOpen := { ops := 1, left := 1 } }) (fun c => c.st.mxOpen.ops != 0) := by
  refine ⟨?_, ?_, ?_, ?_⟩ <;> exact meets (by decide +kernel)

/-- A SLEEPT whose promise lies 2^31 cycles ahead has not been reached; one of the present cycle has. -/
theorem test_sleept_promises :
    let i := Instr.sleept (tT 8 0 0 0)
    let s := fun (p : Word) => onFib (at2 i) fun f => { f with state := .parked, wait := .sleept p 0, after := some 12 }
    leaves (.sleeptWake 0) (s 3) (fun t => (t.fib? 0).any fun f => f.state == .parked) = true ∧
    leaves (.sleeptWake 0) (s 2) (fun t => (t.fib? 0).any fun f => f.state == .ready && f.pc == 12) = true ∧
    leaves (.sleeptWake 0) ((s 2).modStrand 0 fun st => { st with ops := [{ cls := .c, num := 0 }], issued := [0, 1, 0, 0], ctl := 0 })
      (fun t => (t.fib? 0).any fun f => f.wait == .waitc .c 0) = true ∧
    leaves (.sleeptWake 0) ((s 2).modStrand 0 fun st => { st with ops := [{ cls := .c, num := 0 }], issued := [0, 1, 0, 0], ctl := 0x100 })
      (fun t => (t.fib? 0).any fun f => f.frame.cause.extractLsb' 0 8 == Cause.promiseMissed.code) = true := by
  refine ⟨?_, ?_, ?_, ?_⟩ <;> decide +kernel

/-- A barrier that the arrival completes, one that it does not, a target above the skein's lanes, a target that is not the one in use,
and a manifest barrier that does not exist. -/
theorem test_barrier_targets :
    let i := Instr.bar (tT 15 248 0 0)
    let j := Instr.bara (tX 32 15 10 0 0 0 0 .l64)
    let m := Instr.bara (tX 32 15 10 0 0 1 0 .l64)
    let two := (at2 i).modSkein 0 fun k => { k with strands := 2 }
    let used := (at2 j).modSkein 0 fun k => { k with bars := lset k.bars 15 { target := some 95 } }
    Meets i (at2 i) (fun c => c.barTarget (at2 i) (.skein 15) {} 248 == (96, 96)) ∧
    Meets i two (fun c => c.barTarget two (.skein 15) {} 248 == (192, 192) && laneCount c.f.laneSet == 96) ∧
    Meets j (withReg (at2 j) 10 fun _ => 97) (fun c => c.barTarget (withReg (at2 j) 10 fun _ => 97) (.skein 15) {} 10 == (97, 96)) ∧
    Meets j (withReg used 10 fun _ => 96) (fun c => (used.barrier? c.k (.skein 15)).any fun b => b.target == some 95) ∧
    Meets m (at2 m) (fun c => ((at2 m).barrier? c.k (.manifest 15)).isNone) := by
  refine ⟨?_, ?_, ?_, ?_, ?_⟩ <;> exact meets (by decide +kernel)

theorem test_barrier_completes_a_phase : leaves (.bar (tT 15 248 0 0)) (at2 (.bar (tT 15 248 0 0)))
    (fun t => (t.barrier? 0 (.skein 15)).any (fun b => b.phase == 1 && b.count == 0) && (t.fib? 0).any fun f => f.pc == 12) = true := by
  decide +kernel

/-- Whether a BARW goes on, where r10 holds a phase number. -/
def barwPasses (w : Word) : Bool := leaves (.barw (tT 0 10 0 0)) (withReg (at2 (.barw (tT 0 10 0 0))) 10 fun _ => w)
  fun t => (t.fib? 0).any fun f => f.pc == 12 && f.runPos == 0 && f.state == .ready

/-- BARW at the distances 0, 1, 2^31 and 2^31 + 1. -/
theorem test_barw_distances :
    barwPasses 0 = false ∧ barwPasses 0xFFFFFFFF = true ∧ barwPasses 0x80000000 = true ∧ barwPasses 0x7FFFFFFF = false := by
  refine ⟨?_, ?_, ?_, ?_⟩ <;> decide +kernel

/-- A launch of one semaphore. -/
def withSem (s : State) (n : Nat) (q : List (Nat × Nat)) : State :=
  { s with launches := [(0, { part := 0, ctx := 0, rec_ := List.replicate 128 0, seq := 0, msems := [{ scope := 5, count := n, queue := q }] })] }

theorem test_semaphore_cases :
    let p := Instr.semp (tT 0 0 255 0)
    let v := Instr.semv (tX 0 0 0 0 0 0 255 .l64)
    Meets p (at2 p) (fun c => ((at2 p).sem? ((at2 p).launchNum c.k) 0).isNone) ∧
    Meets p (withSem (at2 p) 255 []) (fun c => ((withSem (at2 p) 255 []).sem? ((at2 p).launchNum c.k) 0).any fun m => decide (255 ≤ m.count) && !c.fallsOff) ∧
    Meets p (withSem (at2 p) 254 []) (fun c => ((withSem (at2 p) 254 []).sem? ((at2 p).launchNum c.k) 0).any fun m => decide (m.count < 255)) ∧
    Meets v (masked (at2 v)) (fun c => c.act == 0) ∧
    Meets v (withSem (at2 v) (2 ^ 32 - 255) []) (fun c => c.act != 0 &&
      ((withSem (at2 v) (2 ^ 32 - 255) []).sem? ((at2 v).launchNum c.k) 0).any fun m => decide (2 ^ 32 ≤ m.count + 255)) ∧
    Meets v (withSem (at2 v) (2 ^ 32 - 256) []) (fun c => c.act != 0 &&
      ((withSem (at2 v) (2 ^ 32 - 256) []).sem? ((at2 v).launchNum c.k) 0).any fun m => decide (m.count + 255 < 2 ^ 32) && m.queue.isEmpty) := by
  refine ⟨?_, ?_, ?_, ?_, ?_, ?_⟩ <;> exact meets (by decide +kernel)

/-- FETCHW into the last 16 bytes of scratch, beyond it, and misaligned; the reply to it where no launch has the pair. -/
theorem test_fetchw_mailboxes :
    let i := Instr.fetchw (tX 0 8 10 0 0 0 0 .l64)
    let s := fun (o : Word) => withReg (at2 i) 8 fun _ => o
    let bytes := ((at2 i).skein? 0).any fun k => k.scratchBytes == 65536
    bytes = true ∧ Meets i (s 65520) (fun c => c.act != 0) ∧ Meets i (s 65536) (fun c => c.act != 0) ∧ Meets i (s 8) (fun c => c.act != 0) ∧
      Meets i (masked (s 0)) (fun c => c.act == 0) ∧
      leaves i (s 65520) (fun t => ((t.part 0).fetchws[0]?).isSome && leaves (.fetchwReply 0 0) t fun u =>
        (u.part 0).fetchws.isEmpty && (u.strands == t.strands) && scratchWord u 0 65520 == 3) = true := by
  refine ⟨by decide +kernel, ?_, ?_, ?_, ?_, by decide +kernel⟩ <;> exact meets (by decide +kernel)

theorem test_ifence_waits :
    let s := onFib (at2 (.nop (tX 0 0 0 0 0 0 0 .l64))) fun f => { f with state := .parked, wait := .ifence 5, after := some 12 }
    leaves (.ifenceDone 0) s (fun t => (t.fib? 0).any fun f => f.state == .ready && f.pc == 12) = true := by decide +kernel

/-- A launch with a group of one skein, of which the fibre's skein is the member. -/
def withGroup (s : State) : State :=
  { s with launches := [(0, { part := 0, ctx := 0, rec_ := List.replicate 128 0, seq := 0, groups := [(0, [0])] })] }

/-- Whether an engine instruction finds its counter and its queue open and its checks give `err`. -/
def engineMeets (i : Instr) (s : State) (p : Option OperandErr → Bool) : Prop :=
  Meets i s fun c => match engineOf s c i with
    | some (k, _, err, _) => c.act != 0 && s.engineReady c.strand k && p err
    | none => false

/-- GATHER of two rows; COLL of a member and of a strand that is in no group. -/
theorem test_gather_and_coll_checks :
    let g := Instr.gather (tX 10 8 12 14 0 0 0 (.l96 4))
    let c := Instr.coll .allred (tX 10 8 12 0 0 0 0 (.l96 0x1000))
    let args := fun (s : State) => withReg (withReg (withReg (withPage s) 10 fun _ => 0x2800) 12 fun _ => 4) 14 fun _ => 2
    engineMeets g (args (at2 g)) Option.isNone ∧ engineMeets c (withGroup (args (at2 c))) Option.isNone ∧
      engineMeets c (args (at2 c)) (fun e => match e with | some .operand => true | _ => false) := by
  refine ⟨?_, ?_, ?_⟩ <;> exact meets (by decide +kernel)

/-- Parts of a burst that are still to be performed: to different bytes, from bytes they do not overwrite. -/
theorem test_copy_parts :
    let at_ := fun (a : Nat) => ({ loc := .mem a, kind := .rc } : ByteAt)
    let ps : List EngPiece := [{ dst := [at_ 0x2000], src := [at_ 0x2800] }, { dst := [at_ 0x2001], src := [], vals := [7] }]
    let o : EngOp := { strand := 0, cls := .c, num := 0, kind := .lin 0x2000 0x2800 2, flying := ps, ending := some none }
    let s := copyState.modCluster 0 fun c => { c with copies := [o] }
    ((s.cluster 0).copies.find? (fun x => x.strand == 0 && x.cls == .c && x.num == 0) == some o && !o.flying.isEmpty &&
      decide (o.due ≤ s.cycle) && decide ((o.flying.flatMap (·.dst)).map (·.loc)).Nodup &&
      (s.strand? 0).any fun st => !st.paths.isEmpty) = true := by decide +kernel

/-! ### Witnesses: matrix operations, batches and the function unit -/

def mmaF (types : BitVec 32) : X64 := tX 31 8 10 12 2 0 0 (.l96 types)

/-- Strides of 0 for the rows of A and of B, both on one page. -/
def mmaState (i : Instr) : State := withReg (withReg (withPage (at2 i)) 10 fun _ => 0x2400) 13 fun _ => 0

/-- Types that go together and types that do not; a batch of 31 operations and one of 32; a misaligned base; no entry. -/
theorem test_matrix_issue_cases :
    let i := Instr.mma .wrap (mmaF 0x5050)
    let s := mmaState i
    let rs := [rowRegion false 0x2000 0 384 (List.range 96), rowRegion false 0x2400 0 64 (List.range 384)]
    let ops := fun (n : Nat) => s.modStrand 0 fun st => { st with mxOpen := { ops := n, left := n } }
    Meets i s (fun c => mxTypesOk .wrap 0x50 0x50 && lanesIn c.act == List.range 96 && (c.rdPairLow 8).toNat == 0x2000 && (c.rdPairLow 10).toNat == 0x2400 &&
      (c.rdLow 12).toNat == 0 && (c.mxCheck s rs [(0x2000, 4), (0x2400, 4), (0, 4), (0, 4)]).isNone) ∧
    (mxTypesOk .wrap 0x50 0x40 = false ∧ Meets (.mma .wrap (mmaF 0x4050)) (mmaState (.mma .wrap (mmaF 0x4050))) fun _ => true) ∧
    Meets i (ops 31) (fun c => (c.mxCheck (ops 31) rs [(0x2000, 4)]).isNone) ∧ Meets i (ops 32) (fun c => decide (32 ≤ c.st.mxOpen.ops)) ∧
    Meets i (withReg s 8 fun _ => 0x2002) (fun c => (c.mxCheck s rs [(0x2002, 4)]).isSome) := by
  refine ⟨?_, ⟨by decide +kernel, ?_⟩, ?_, ?_, ?_⟩ <;> exact meets (by decide +kernel)

/-- The four families of matrix operations without an operand region, with scratch, and with memory. -/
theorem test_matrix_shapes :
    Meets (.mzero (tX 31 0 0 0 0 0 0 (.l96 0))) (at2 (.mzero (tX 31 0 0 0 0 0 0 (.l96 0)))) (fun c => (c.mxCheck (at2 (.mzero (tX 31 0 0 0 0 0 0 (.l96 0)))) [] []).isNone) ∧
    Meets (.mrda (tX 31 8 10 0 0 0 0 (.l96 0))) (at2 (.mrda (tX 31 8 10 0 0 0 0 (.l96 0))))
      (fun c => (c.mxCheck (at2 (.mrda (tX 31 8 10 0 0 0 0 (.l96 0)))) [rowRegion true 0 0 256 (lanesIn c.act)] [(0, 4), (0, 4)]).isNone) ∧
    Meets (.mlda (tX 31 8 10 0 0 0 0 (.l96 0))) (mmaState (.mlda (tX 31 8 10 0 0 0 0 (.l96 0))))
      (fun c => (c.mxCheck (mmaState (.mlda (tX 31 8 10 0 0 0 0 (.l96 0)))) [rowRegion false 0x2000 0x2400 256 (lanesIn c.act)] [(0x2000, 4), (0x2400, 4)]).isNone) := by
  refine ⟨?_, ?_, ?_⟩ <;> exact meets (by decide +kernel)

/-- One operation in the queue of cluster 0, for accumulator 31 in slot 3, on lane 95. -/
def mxOne (kind : MxKind) (cycle : Nat) (bindAt : Option Nat) : State :=
  let s := withPage (at2 (.nop (tX 0 0 0 0 0 0 0 .l64)))
  let s := s.modSkein 0 fun k => { k with accs := [(31, 3)] }
  let s := s.modStrand 0 fun st => { st with mxOpen := { ops := 1, left := 1 } }
  let s := s.modCluster 0 fun c => { c with mxq := [{ strand := 0, batch := 0, idx := 0, rows := lanesOf fun l => l == 95, kind := kind, since := 5, bindAt := bindAt }] }
  { s with cycle := cycle }

def mmaOne : MxKind := .mma .wrap 0x50 0x51 31 0x2000 0x2400 0 0 none

theorem test_matrix_perform_cases :
    (mxOne (.mzero 31) 9 none).mxMay 0 0 = true ∧ (mxOne (.mzero 31) 9 none).slotOf 0 31 = some 3 ∧
    leaves (.matrixOpPerform 0 0) (mxOne (.mzero 31) 9 none) (fun t => (t.accRow 0 31 95).getD 63 1 == 0 && (t.cluster 0).mxq.isEmpty) = true ∧
    leaves (.matrixOpPerform 0 0) (mxOne (.mrel 31) 9 none) (fun t => t.slotOf 0 31 == none) = true := by
  refine ⟨?_, ?_, ?_, ?_⟩ <;> decide +kernel

/-- The bytes of the operands of an MMA are at hand. -/
theorem test_matrix_rows_read :
    let s := mxOne mmaOne 9 none
    let o : MxOp := { strand := 0, batch := 0, idx := 0, rows := lanesOf fun l => l == 95, kind := mmaOne, since := 5 }
    let good := fun (r : Except (Cause × Nat) (List (Nat × List ByteAt))) (n : Nat) => match r with
      | .ok rs => rs.length == n && rs.all fun x => x.2.all fun b => (s.badByte b).isNone
      | .error _ => false
    s.mxMay 0 0 = true ∧ good (s.mxRows o false 0x2000 0 384 [95]) 1 = true ∧ good (s.mxRows o false 0x2400 0 64 (List.range 384)) 384 = true ∧
      qType? 0x50 = some (.int true 8) ∧ qType? 0x51 = some (.int false 8) ∧ s.launchFlag 0 5 = false := by
  refine ⟨?_, ?_, ?_, ?_, ?_, ?_⟩ <;> decide +kernel

/-- An operation whose page is not mapped aborts; the two waits end at 2^20 cycles. -/
theorem test_matrix_aborts :
    let far := MxKind.move false 31 0 0x9000 256
    let pin := fun (n : Nat) => leaves (.mxPinTimeout 0 0)
      ((mxOne mmaOne n none).modCluster 0 fun c => { c with mxq := c.mxq.map fun o => { o with begun := true, pinAt := some 5 } })
      fun t => (t.cluster 0).mxq.any (·.aborted)
    let bind := fun (n : Nat) => leaves (.mxAccExhausted 0 0) (mxOne (.mzero 31) n (some 5)) fun t => (t.cluster 0).mxq.any (·.aborted)
    (match (mxOne far 9 none).mxEffect { strand := 0, batch := 0, idx := 0, rows := lanesOf fun l => l == 95, kind := far, since := 5 } with
      | .abort e _ _ => e == .mxOperandXlate
      | _ => false) = true ∧
    pin (5 + 2 ^ 20) = true ∧ pin (4 + 2 ^ 20) = false ∧ bind (5 + 2 ^ 20) = true ∧ bind (4 + 2 ^ 20) = false := by
  refine ⟨?_, ?_, ?_, ?_, ?_⟩ <;> decide +kernel

theorem test_matrix_held : ({ mxOne (.mzero 31) 9 none with strands := tset [] 0 ({ blocks := 30, mxOpen := { ops := 1, left := 1, stopped := true } } : Strand) } : State).mxMay 0 0 = false := by
  decide +kernel

/-- MBATCH of an empty batch and of one with an operation left. -/
theorem test_mbatch_cases :
    let i := Instr.mbatch (tX 32 0 0 0 0 0 0 (.l96 0))
    let one := (at2 i).modStrand 0 fun st => { st with mxOpen := { ops := 1, left := 1 } }
    let ready := fun (s : State) (c : Ctx) => s.engineReady c.strand .m && c.st.issued.length == 4 && c.st.paths.length == 1 && c.f.wait == .none &&
      c.st.unreported.isEmpty && !c.st.mxOpen.reported
    Meets i (at2 i) (fun c => ready (at2 i) c && c.st.mxOpen.left == 0 && !c.st.mxOpen.stopped) ∧ Meets i one (fun c => ready one c && c.st.mxOpen.left != 0) := by
  constructor <;> exact meets (by decide +kernel)

/-- Batch 4095, the first of a strand, closed: reported, not reported, stopped. -/
def withBatch (s : State) (left : Nat) (reported stopped : Bool) : State :=
  s.modStrand 0 fun st => { st with
    mxOpen := { num := 0 }, mxNext := 0, mxClosed := 4096
    batches := [{ num := 4095, ops := 1, left := left, reported := reported, stopped := stopped
                  status := if stopped then some (.mxMeta, 0, 0) else none }] }

theorem test_mwait_cases :
    let i := Instr.mwait (tT 8 32 0 0)
    let s := fun (left : Nat) (r p : Bool) => withReg (withBatch (at2 i) left r p) 8 fun _ => 4095
    let num := fun (c : Ctx) => (c.rdLow 8).toNat == 4095 && c.st.batchValid 4095 && !c.fallsOff
    Meets i (s 0 true false) (fun c => num c && (c.st.batch? 4095).any (·.reported)) ∧
    Meets i (s 1 false false) (fun c => num c && (c.st.batch? 4095).any (fun x => !x.reported) && c.st.batches.all fun y => !y.stopped) ∧
    Meets i (s 1 false true) (fun c => num c && (c.st.stopUpTo 4095).any fun y =>
      !y.reissue && y.status == some (.mxMeta, 0, 0)) ∧
    Meets i (withReg (at2 i) 8 fun _ => 1) (fun c => !c.st.batchValid 1) := by
  refine ⟨?_, ?_, ?_, ?_⟩ <;> exact meets (by decide +kernel)

theorem test_mstat_cases :
    let i := Instr.mstat (tX 32 8 0 0 0 0 0 (.l96 0))
    Meets i (withReg (withBatch (at2 i) 1 false true) 8 fun _ => 4095) (fun c => c.st.batchValid 4095 && (c.st.batch? 4095).isSome) ∧
    Meets i (withReg (at2 i) 8 fun _ => 1) (fun c => !c.st.batchValid 1) := by
  constructor <;> exact meets (by decide +kernel)

/-! The function unit -/

/-- The words of 0, 1 and 2. -/
def one : Word := 0x3F800000
def two : Word := 0x40000000

theorem test_numbers : isNumber 0 0 ∧ isNumber one 1 ∧ isNumber two 2 ∧ isInterval 0 one ∧ ¬ isInterval one one := by
  have h0 : val32 (0 : Word) = .fin false 0 := by decide +kernel
  have h1 : val32 one = .fin false 1 := by decide +kernel
  have h2 : val32 two = .fin false 2 := by decide +kernel
  refine ⟨⟨_, h0⟩, ⟨_, h1⟩, ⟨_, h2⟩, ⟨0, 1, ⟨_, h0⟩, ⟨_, h1⟩, by norm_num⟩, ?_⟩
  rintro ⟨p, q, ⟨n, hp⟩, ⟨m, hq⟩, h⟩
  rw [h1] at hp hq
  cases hp; cases hq
  exact absurd h (lt_irrefl _)

/-- An interval in v12 and v13, one coefficient or 128, an address in v8. -/
def fnState (i : Instr) (n : Word) : State :=
  withReg (withReg (withReg (withPage (at2 i)) 10 fun _ => n) 12 fun _ => 0) 13 fun _ => one

def fnF (ext : Ext) : X64 := tX 15 8 10 12 0 0 0 ext

def fnSt : X64 := tX 32 8 15 12 0 0 0 (.l96 0)

theorem test_function_issue_cases :
    let ld := Instr.fnld (fnF (.l96 0))
    let st := Instr.fnst fnSt
    let rel := Instr.fnrel (tX 15 0 0 0 0 0 0 (.l96 0))
    let aff := Instr.fnaff (fnF (.l96 0))
    let dom := Instr.fndom (fnF (.l96 0))
    Meets ld (fnState ld 128) (fun c => c.rdLow 10 == 128 && c.rdLow 12 == 0 && c.rdLow 13 == one && (c.rdPairLow 8).toNat / 2 ^ 56 == 0 &&
      answerIs ((fnState ld 128).checkAccess c.k .load 512 4 false [(c.low, c.rdPairLow 8)] c.f.walks) (fun _ => true) false false) ∧
    Meets ld (fnState ld 0) (fun c => c.rdLow 10 == 0) ∧ Meets ld (fnState ld 129) (fun c => c.rdLow 10 == 129) ∧
    Meets ld (withReg (fnState ld 1) 12 fun _ => one) (fun c => c.rdLow 10 == 1 && c.rdLow 12 == one && c.rdLow 13 == one) ∧
    Meets st (withReg (fnState st 0) 12 fun _ => 1) (fun c => c.rdLow 12 == 1 &&
      answerIs ((withReg (fnState st 0) 12 fun _ => 1).checkAccess c.k .store 4 4 false [(c.low, c.rdPairLow 8)] c.f.walks) (fun _ => true) false false) ∧
    Meets st (fnState st 0) (fun c => c.rdLow 12 == 0) ∧ Meets rel (at2 rel) (fun c => ((at2 rel).cluster c.cluster).fnq.isEmpty) ∧
    Meets aff (fnState aff 0) (fun c => c.rdLow 10 == 0 && c.rdLow 12 == 0) ∧ Meets aff (fnState aff 0x7F800000) (fun c => c.rdLow 10 == 0x7F800000) ∧
    Meets dom (withReg (fnState dom 0) 12 fun _ => one) (fun c => c.rdLow 10 == 0 && c.rdLow 12 == one) ∧ Meets dom (fnState dom 0) (fun c => c.rdLow 12 == 0) := by
  refine ⟨?_, ?_, ?_, ?_, ?_, ?_, ?_, ?_, ?_, ?_, ?_⟩ <;> exact meets (by decide +kernel)

/-- FNFIT reads lanes 0 to IMM8 − 1: none of them, and all 96. -/
theorem test_fnfit_lanes :
    let i := fun (n : BitVec 8) => Instr.fnfit (tX 15 8 0 12 0 0 n (.l96 0))
    Meets (i 96) (fnState (i 96) 0) (fun c => c.act == lanesOf (fun _ => true) && c.rd 8 95 == 0x2000 && c.rdLow 13 == one) ∧
      Meets (i 1) (withReg (fnState (i 1) 0) 12 fun _ => two) (fun c => c.rdLow 12 == two && c.rdLow 13 == one) := by
  constructor <;> exact meets (by decide +kernel)

/-- One operation in the function unit's queue, with registers 8 and 10 as given; its result flies for v-register 32. -/
def fnOne (i : Instr) (a b : Option FnVal) : State :=
  let s := (at2 (.nop (tX 0 0 0 0 0 0 0 .l64))).modSkein 0 fun k => { k with pro := (30, 64, 4, 8), full := (30, 64, 4, 8) }
  let put := fun (n : Nat) (g : Option FnVal) (t : Table FnVal) => (g.map fun v => tset t n v).getD t
  let s := s.modStrand 0 fun st => { st with
    fns := put 8 a (put 10 b [])
    flights := [{ seq := 7, reg := 32, lanes := lanesOf fun _ => true, vals := List.replicate 96 0, land := none, cov := 0xFFFFFFFF }] }
  s.modCluster 0 fun c => { c with fnq := [{ strand := 0, fib := 0, instr := i, act := lanesOf fun _ => true, ref := 8, ctl := 0, seq := 7
                                             flights := [7], lanes := List.replicate 96 one }] }

/-- 1 + 2·T₁ on [0, 1], and 1 on [0, 1] and on [0, 2]. -/
def lineFn : FnVal := { lo := 0, hi := one, coef := [one, two] }
def constFn (hi : Word) : FnVal := { lo := 0, hi := hi, coef := [one] }

/-- FNEVAL of a full and of an empty register. -/
theorem test_fneval_cases :
    let i := Instr.fneval (tX 32 8 11 0 0 0 0 (.l96 0))
    leaves (.fnOpPerform 0) (fnOne i (some lineFn) none) (fun t => (t.strand? 0).any fun st => st.flights.any fun x =>
      x.seq == 7 && laneW x.vals 95 == 0x40400000 && x.land.isSome) = true ∧
    leaves (.fnOpPerform 0) (fnOne i none none) (fun t => (t.fib? 0).any fun f => f.deferred.any fun d => d.2.cause == .fnEmpty) = true := by
  constructor <;> decide +kernel

/-- FNADD on one interval and on two; FNREL. -/
theorem test_fnadd_cases :
    let i := Instr.fnadd (tX 15 8 10 0 0 0 0 (.l96 0))
    leaves (.fnOpPerform 0) (fnOne i (some lineFn) (some (constFn one))) (fun t => (t.strand? 0).any fun st =>
      (tget? st.fns 15).any fun g => g.coef == [two, two]) = true ∧
    leaves (.fnOpPerform 0) (fnOne i (some lineFn) (some (constFn two))) (fun t => (t.fib? 0).any fun f => f.deferred.any fun d => d.2.cause == .fnDomain) = true ∧
    leaves (.fnOpPerform 0) (fnOne (.fnrel (tX 8 0 0 0 0 0 0 (.l96 0))) (some lineFn) none) (fun t => (t.strand? 0).any fun st =>
      (tget? st.fns 8).isNone) = true := by
  refine ⟨?_, ?_, ?_⟩ <;> decide +kernel

theorem test_fn_room : (((fnOne (.fnadd (tX 15 8 10 0 0 0 0 (.l96 0))) (some lineFn) (some lineFn)).skein? 0).any fun sk =>
    decide ((fnOne (.fnadd (tX 15 8 10 0 0 0 0 (.l96 0))) (some lineFn) (some lineFn)).fnHeld 0 + 2 ≤ sk.fnLimit)) = true := by decide +kernel

/-- The operand fetch of an MMA pins lines before the operation is performed, and waits where all 512 are pinned. -/
theorem test_matrix_pins :
    let full := (mxOne mmaOne 9 none).modCluster 0 fun c =>
      { c with mxq := c.mxq ++ [{ strand := 0, batch := 0, idx := 1, rows := 0, kind := .mzero 30, since := 5, pins := 512 }] }
    leaves (.matrixOpPerform 0 0) (mxOne mmaOne 9 none) (fun t => ((t.cluster 0).mxq[0]?).any fun o => o.begun && o.pins != 0 && o.pinAt == none) =
      true ∧
    leaves (.matrixOpPerform 0 0) full (fun t => ((t.cluster 0).mxq[0]?).any fun o => o.begun && o.pins == 0 && o.pinAt == some 9) = true := by
  constructor <;> decide +kernel

/-- MWAIT of a reported batch whose status is not zero. -/
theorem test_mwait_unclean :
    let i := Instr.mwait (tT 8 32 0 0)
    let s := withReg ((withBatch (at2 i) 0 true false).modStrand 0 fun st =>
      { st with batches := st.batches.map fun b => { b with status := some (.mxMeta, 0, 0) } }) 8 fun _ => 4095
    Meets i s (fun c => c.st.batchValid 4095 && (c.st.batch? 4095).any fun b => b.reported && b.status.isSome && !b.reissue) :=
  meets (by decide +kernel)

/-! ### Witnesses: allotments, tasks, launches, system instructions and substitution -/

def nop2 : State := at2 (.nop (tX 0 0 0 0 0 0 0 .l64))

/-- ACQ in a skein that has its grant, and in one that has not. -/
theorem test_acq_cases :
    let i := Instr.acq (tT 0 0 0 0)
    let no := (at2 i).modSkein 0 fun k => { k with granted := false }
    Meets i (at2 i) (fun c => !c.fallsOff && ((at2 i).skein? c.skein).any (·.granted)) ∧
      Meets i no (fun c => !c.fallsOff && (no.skein? c.skein).any fun k => !k.granted) := by
  constructor <;> exact meets (by decide +kernel)

theorem test_grant_cases :
    let s := (nop2.modSkein 0 fun k => { k with granted := false, asked := true, listed := true, pro := (29, 64, 4, 0) }).modStrand 0 fun st => { st with blocks := 29 }
    let w := onFib s fun f => { f with state := .parked, wait := .acq, after := some 12 }
    leaves (.skeinGrant 0) w (fun t => (t.skein? 0).any (·.granted) && (t.strand? 0).any (fun st => st.blocks == 30) &&
      (t.fib? 0).any fun f => f.pc == 12 && f.state == .ready) = true := by decide +kernel

/-- GIVE of 29 blocks of 30, and of as many as there are; CLAIM of as many as the pool has, of more, and above 30. -/
theorem test_give_and_claim_cases :
    let g := Instr.give (tX 0 0 0 0 0 0 29 .l64)
    let has := fun (i : Instr) (b p : Nat) => ((at2 i).modSkein 0 fun k => { k with pool := p }).modStrand 0 fun st => { st with blocks := b }
    let c := Instr.claim (tT 0 0 4 0)
    Meets g (at2 g) (fun c => decide (29 < c.st.blocks) && (List.range 232).all fun r => c.st.regDone (8 + r) c.is.r2) ∧
    Meets g (has g 29 0) (fun c => c.st.blocks == 29) ∧
    Meets c (has c 26 4) (fun x => x.st.blocks == 26 && !x.fallsOff && ((has c 26 4).skein? x.skein).any fun k => k.pool == 4 && k.claims.isEmpty) ∧
    Meets c (has c 26 3) (fun x => x.st.blocks == 26 && ((has c 26 3).skein? x.skein).any fun k => k.pool == 3 && k.claims.isEmpty) ∧
    Meets c (has c 27 4) (fun x => x.st.blocks == 27) := by
  refine ⟨?_, ?_, ?_, ?_, ?_⟩ <;> exact meets (by decide +kernel)

/-- Queue 4 of die 0, for a partition, with records. -/
def withTq (s : State) (part n : Nat) : State :=
  s.modTq 0 4 fun q => { q with en := true, part := part, recs := List.replicate n [1, 2, 3, 4, 5, 6, 7, 8] }

theorem test_tspawn_cases :
    let i := Instr.tspawn (tX 0 8 0 0 0 0 4 .l64)
    let chk := fun (s : State) (c : Ctx) => s.checkAccess c.k .load 32 32 false [(c.low, c.rdPairLow 8)] c.f.walks
    let s := withPage (withTq (at2 i) 0 0)
    Meets i (masked (at2 i)) (fun c => c.act == 0) ∧
    Meets i (withReg (at2 i) 8 fun _ => 1) (fun c => answerIs (chk (at2 i) c) (fun _ => false) true false) ∧
    Meets i (withReg (at2 i) 8 fun _ => 0x2000) (fun c => answerIs (chk (at2 i) c) (fun _ => false) false true) ∧
    Meets i s (fun c => answerIs (chk s c) (fun as => as.length == 1 && as.all fun x => !s.sprivAcc c.k x) false false && s.tqUsable 0 4 0) ∧
    Meets i (withPage (withTq (at2 i) 1 0)) (fun c => answerIs (chk s c) (fun as => as.length == 1) false false && !(withTq (at2 i) 1 0).tqUsable 0 4 0) := by
  refine ⟨?_, ?_, ?_, ?_, ?_⟩ <;> exact meets (by decide +kernel)

/-- A push that its queue takes, one that stops at HIGH, and one for a full pool. -/
theorem test_push_cases :
    let s := fun (n high : Nat) => ((onFib (withTq nop2 0 n) fun f => { f with state := .parked, wait := .push, pc := 12 }).modTq 0 4 fun q =>
      { q with high := high }).modDie 0 fun d => { d with pushes := [{ fib := 0, queue := 4, rec_ := [9], spawn := true }] }
    leaves (.taskPushAccept 0) (s 3 4) (fun t => (t.tq 0 4).recs.length == 4 && (t.fib? 0).any fun f => f.state == .ready) = true ∧
    leaves (.taskPushAccept 0) (s 4 4) (fun t => (t.tq 0 4).recs.length == 5 && (t.fib? 0).any fun f => f.state == .parked) = true ∧
    (let t := ({ s 2 0 with bpLim := tset [] (poolKey 5 0 4) (0, 2) } : State); t.poolTakes 5 0 64 4 fun j => (t.tq 0 j).recs.length) = false := by refine ⟨?_, ?_, ?_⟩ <;> decide +kernel

/-- TPOP of a queue with a record, of an empty one while a fibre holds a task, of an idle one, with a task in hand, and not usable. -/
theorem test_tpop_cases :
    let i := Instr.tpop (tT 232 0 4 0)
    let task : Task := { die := 0, queue := 4, words := [] }
    let other := fun (s : State) => s.modStrand 0 fun st => { st with paths := st.paths ++ [(5, { laneSet := 0, pc := 0, task := some task })] }
    let base := fun (s : State) (c : Ctx) => c.f.task.isNone && !c.fallsOff && (s.tq 0 4).poppers.isEmpty && s.tqUsable 0 4 0 && !c.f.saved &&
      (s.ctx (s.strandCtx c.strand)).pre == .in_ && c.f.pc == 0
    Meets i (withTq (at2 i) 0 1) (fun c => base (withTq (at2 i) 0 1) c && !((withTq (at2 i) 0 1).tq 0 4).recs.isEmpty) ∧
    Meets i (other (withTq (at2 i) 0 0)) (fun c => base (withTq (at2 i) 0 0) c && (other (withTq (at2 i) 0 0)).taskHeld 0 4) ∧
    Meets i (withTq (at2 i) 0 0) (fun c => base (withTq (at2 i) 0 0) c && !(withTq (at2 i) 0 0).taskHeld 0 4 && ((withTq (at2 i) 0 0).die 0).pushes.isEmpty) ∧
    Meets i (onFib (withTq (at2 i) 0 1) fun f => { f with task := some task }) (fun c => c.f.task.isSome) ∧
    Meets i (at2 i) (fun _ => !(at2 i).tqUsable 0 4 0) := by
  refine ⟨?_, ?_, ?_, ?_, ?_⟩ <;> exact meets (by decide +kernel)

/-- A completion block at 0x2000 for queue 4 of die 0, with its count. -/
def blockState (i : Instr) (count : Nat) : State :=
  let s := onFib (withPage (withTq (at2 i) 0 0)) fun f => { f with task := some { die := 0, queue := 4, words := [] } }
  { s with mem := cellsWrite s.mem 0x2000 (bytesOfNat 4 count ++ bytesOfNat 4 4) }

theorem test_tdone_cases :
    let i := Instr.tdone (tX 0 8 10 0 0 0 0 .l64)
    let ok := fun (n : Nat) (c : Ctx) => match c.blockCheck (blockState i n) 0x2000 with
      | .ok x => x.bytes.length == 64 && decide (x.bytes.map (·.loc)).Nodup && x.bytes.all fun y => y.kind != .uo
      | _ => false
    Meets i (at2 i) (fun c => c.f.task.isNone) ∧
    Meets i (withReg (blockState i 1) 8 fun _ => 0) (fun c => c.f.task.isSome && c.rdPairLow 8 == 0 && c.rdPairLow 10 == 0) ∧
    Meets i (blockState i 1) (fun c => c.f.task.isSome && c.rdPairLow 8 == 0x2000 && c.rdPairLow 10 == 0 && ok 1 c) ∧
    Meets i (blockState i 2) (fun c => ok 2 c) ∧
    Meets i (blockState i 0) (fun c => match c.blockCheck (blockState i 0) 0x2000 with
      | .bad => true
      | _ => false) := by
  refine ⟨?_, ?_, ?_, ?_, ?_⟩ <;> exact meets (by decide +kernel)

/-! Launches -/

/-- A context whose first 2^30 bytes are mapped as they lie, by three tables. -/
def mapped (s : State) : State :=
  let mem := cellsWrite (cellsWrite (cellsWrite s.mem 0x10000 (bytesOfNat 8 0x11281)) 0x11000 (bytesOfNat 8 0x12281)) 0x12000 (bytesOfNat 8 0x203)
  ({ s with mem := mem } : State).modCtx 0 fun c => { c with xlRoot := 0x10000, en := true }

/-- A launch record of one skein of `n` strands with one register block each, at code reference 0, completion record at 0x3000. -/
def recOf (flags done n : Nat) : List Byte :=
  bytesOfNat 4 0x534C0001 ++ bytesOfNat 4 flags ++ bytesOfNat 24 (done * 2 ^ 128) ++ [3, BitVec.ofNat 8 n] ++ bytesOfNat 46 0 ++
    bytesOfNat 8 1 ++ bytesOfNat 8 1 ++ bytesOfNat 32 0

/-- The state in which the fibre waits in LAUNCH for v32. -/
def launchWait (r : List Byte) : State :=
  (onFib ((mapped nop2).modSkein 0 fun k => { k with pro := (30, 0, 4, 0), full := (30, 0, 4, 0) }) fun f => { f with state := .parked, wait := .launch r 32 (lanesOf fun _ => true) [] 0, pc := 12 }).modPart 0 fun p =>
    { p with devReqs := [0], rangeBase := 0, rangeLimit := 0 }

theorem test_launch_records :
    let proto := fun (r : List Byte) => protoLaunch 0 r (BitVec.ofNat 64 (2 ^ 63)) true
    let s := launchWait (recOf 0 0x3000 16)
    (recOf 0 0x3000 16).length = 128 ∧ s.frontOpen 0 = true ∧ s.doneOk (proto (recOf 0 0x3000 16)) = true ∧
      (match s.recordCheck (proto (recOf 0 0x3000 16)) with | .ok fr => fr.isNone | .error _ => false) = true ∧
      (match s.recordCheck (proto (recOf 0 0x3000 17)) with | .ok _ => false | .error e => e.1 == 1) = true ∧
      s.doneOk (proto (recOf 0 0x3008 16)) = false := by
  refine ⟨?_, ?_, ?_, ?_, ?_, ?_⟩ <;> decide +kernel

theorem test_launch_accepted : leaves (.launchAccept 0 true) (launchWait (recOf 0 0x3000 2)) (fun t =>
    (t.fib? 0).any (fun f => f.state == .ready) && t.launches.length == 1 &&
      leaves (.skeinPlace 0) t fun u => u.skeins.length == 2 && (u.skein? 1).any (fun k => k.strands == 2 && k.index == 0) &&
        (u.strand? 17).any fun st => st.blocks == 1 && (st.view 254 63 1 50).w == 1) = true := by decide +kernel

/-- LAUNCH: no lane, a record at hand and one that fails its checks. -/
theorem test_launch_issue_cases :
    let i := Instr.launch (tX 32 8 0 0 0 0 0 .l64)
    let s := fun (flags : Nat) =>
      let m := mapped (withPage (at2 i))
      ({ m with mem := cellsWrite m.mem 0x2000 (recOf flags 0x3000 2) } : State)
    let x := fun (n : Nat) (c : Ctx) (p : Launch → Bool) => answerIs ((s n).checkAccess c.k .load 128 128 false [(c.low, c.rdPairLow 8)] c.f.walks)
      (fun as => match as with
        | [x] => !(s n).sprivAcc c.k x && p (protoLaunch 0 ((s n).laneBytes c.k x) 0 true)
        | _ => false) false false
    Meets i (masked (at2 i)) (fun c => c.act == 0) ∧
    Meets i (s 0) (fun c => x 0 c fun l => (s 0).doneOk l && (s 0).check1 l && (s 0).check2 l && check3 l && l.ctxKey == 0) ∧
    Meets i (s (2 ^ 17)) (fun c => x (2 ^ 17) c fun l => (s (2 ^ 17)).doneOk l && !(s (2 ^ 17)).check1 l) := by
  refine ⟨?_, ?_, ?_⟩ <;> exact meets (by decide +kernel)

/-- A host record whose SEQ is the expected one, and one whose SEQ is not. -/
theorem test_host_records :
    let s := fun (seq : Nat) =>
      let m := (mapped nop2).modPart 0 fun p => { p with lqEn := true, lqBase := 0x4000, lqExpect := 16 * 5, lqChanged := [(128, 0)] }
      ({ m with mem := cellsWrite m.mem 0x4000 ((recOf 0 0x3000 2).take 120 ++ bytesOfNat 8 seq) } : State)
    leaves (.launchAccept 0 false) (s 80) (fun t => t.launches.length == 1 && (t.part 0).lqExpect == 81) = true ∧
      leaves (.launchAccept 0 false) (s 81) (fun t => t.launches.isEmpty && (t.part 0).lqExpect == 80) = true := by
  constructor <;> decide +kernel

/-- The line of the expected record, taken by the host at time 0: 10 ns before LQ_RECALL has passed, and when it has. -/
theorem test_recall_cases :
    let s := fun (cycle : Nat) =>
      let m := (mapped nop2).modPart 0 fun p => { p with lqEn := true, lqBase := 0x4000, lqRecall := 100 }
      ({ m with hostOwned := [(128, (List.replicate 128 0, 0))], refCount := cycle } : State)
    (s 9).nsPassed 0 100 = false ∧ (s 10).nsPassed 0 100 = true ∧ (tget? (s 10).hostOwned ((0x4000 + 128 * (0 % 16)) / 128)).isSome = true := by
  refine ⟨?_, ?_, ?_⟩ <;> decide +kernel

/-- A point that has ended. -/
theorem test_point_completes :
    let p : FPoint := { p0 := 7, line := 3, at_ := .ended 1 }
    let l : Launch := { part := 0, ctx := 0, rec_ := recOf 4 0x3000 1, seq := 0, frontier := some { d0 := 9, d1 := 2, d2 := 2, inflight := [p] } }
    leaves (.pointComplete 1) ({ mapped nop2 with launches := [(3, l)] } : State) (fun t => (tget? t.launches 3).any fun x =>
      x.frontier.any fun f => tget? f.heights 3 == some 8 && !f.inflight.contains p) = true := by decide +kernel

theorem test_pool_grants :
    let e : PrqEntry := { part := 0, ctx := 0, addr := 0, seq := 0, cluster := 0, sid := 0, path := 0, cause := .ldXlate, flags := 0 }
    let s := nop2.modDie 3 fun d => { d with prqWait := [e] }
    (s.poolTakes 4 3 32 0 fun p => ((s.die 3).prq.filter fun x => x.part == p).length) = true ∧
      leaves (.poolEntryGrant 4 3) s (fun t => (t.die 3).prq == [e] && (t.die 3).prqWait.isEmpty) = true := by constructor <;> decide +kernel

/-! System instructions -/

/-- BRK: released, without a debugger, and held. -/
theorem test_brk_cases :
    let i := Instr.brk (tT 0 0 4 0)
    let held := (at2 i).modCtx 0 fun c => { c with dbgHold := true }
    Meets (.trap (tT 0 0 4 0)) (at2 (.trap (tT 0 0 4 0))) (fun c => !c.fallsOff) ∧
    Meets i (at2 i) (fun c => !c.fallsOff && !c.f.passBrk && !((at2 i).ctx ((at2 i).strandCtx c.strand)).dbgHold) ∧
    Meets i held (fun c => !c.fallsOff && !c.f.passBrk && (held.ctx (held.strandCtx c.strand)).dbgHold) ∧
    Meets i (onFib (at2 i) fun f => { f with passBrk := true }) (fun c => !c.fallsOff && c.f.passBrk) := by
  refine ⟨?_, ?_, ?_, ?_⟩ <;> exact meets (by decide +kernel)

/-- RTE without a trap, to a reference that is not, into the run and to another place. -/
theorem test_rte_cases :
    let i := Instr.rte (tT 0 0 0 0)
    let slot : TrapSlot := { qs := List.replicate 8 {}, runPos := 3, runStart := false, em := 1, level := .user, resume := 16 }
    let s := fun (pc : DWord) => onFib (inSuper (at2 i)) fun f => { f with slot := some slot, frame := { f.frame with pc := pc } }
    let ok := fun (pc : DWord) (c : Ctx) => ((s pc).refCheck c.cluster ((s pc).strandPart c.strand) c.f.frame.pc).isNone
    Meets i (inSuper (at2 i)) (fun c => c.f.slot.isNone) ∧ Meets i (s 16) (ok 16) ∧ Meets i (s 20) (ok 20) ∧ Meets i (s 18) (fun c => !ok 18 c) := by
  refine ⟨?_, ?_, ?_, ?_⟩ <;> exact meets (by decide +kernel)

theorem test_rte_returns :
    let i := Instr.rte (tT 0 0 0 0)
    let slot : TrapSlot := { qs := List.replicate 8 { vals := List.replicate 96 7 }, runPos := 3, runStart := false, em := 1, level := .user, resume := 16 }
    leaves i (onFib (inSuper (at2 i)) fun f => { f with slot := some slot, frame := { f.frame with pc := 16 } }) (fun t =>
      (t.fib? 0).any (fun f => f.pc == 16 && f.level == .user && f.runPos == 3 && f.slot.isNone) && (t.strand? 0).any fun st =>
        (st.view 253 0 0 50).w == 1 && (st.view 253 1 0 50).w == 0 && (st.view 247 95 2 50).w == 7) = true := by decide +kernel

/-- SRWR of STRAND_CTL, of a whole-word register, of a value out of range, with no lane, and one that must wait. -/
theorem test_srwr_cases :
    let i := fun (n : BitVec 26) => Instr.srwr (tI 0 8 n)
    let busy := (at2 (i 0x20A)).modCtx 0 fun c => { c with xlInvBusy := true }
    Meets (i 0) (at2 (i 0)) (fun c => c.act != 0) ∧ Meets (i 2) (inSuper (at2 (i 2))) (fun c => c.act != 0 && (tI 0 8 2).sr == 2) ∧
    Meets (i 0) (masked (at2 (i 0))) (fun c => c.act == 0) ∧
    Meets (i 0x204) (withReg (inSuper (at2 (i 0x204))) 8 fun _ => 1) (fun c => match (inSuper (at2 (i 0x204))).regWrite (c.regAt (inSuper (at2 (i 0x204)))) 0x204 1 with
      | .bad => true
      | _ => false) ∧
    Meets (i 0x20A) (inSuper busy) (fun c => match busy.regWrite (c.regAt busy) 0x20A 0 with
      | .wait => true
      | _ => false) := by
  refine ⟨?_, ?_, ?_, ?_, ?_⟩ <;> exact meets (by decide +kernel)

/-- CKPT without a log, with one pending, and as the first; taken with no other launch, and not taken with one. -/
theorem test_ckpt_cases :
    let i := Instr.ckpt (tX 32 0 0 0 0 0 0 .l64)
    let s := fun (n : Word) (p : Option Nat) => (inSuper (at2 i)).modPart 0 fun x => { x with ckSize := n, ckPending := p }
    let w := fun (l : List (Nat × Launch)) => ({ (onFib (s 1 (some 0)) fun f => { f with state := .parked, wait := .ckpt 32 1 [], pc := 12 }) with launches := l } : State)
    Meets i (s 0 none) (fun c => ((s 0 none).part 0).ckSize == 0 && c.strand == 0) ∧ Meets i (s 1 (some 9)) (fun _ => ((s 1 (some 9)).part 0).ckPending == some 9) ∧
    Meets i (s 1 none) (fun _ => ((s 1 none).part 0).ckPending == none) ∧
    leaves (.ckptTake 0) (w []) (fun t => (t.part 0).ckEpoch == 1 && (t.fib? 0).any fun f => f.state == .ready) = true ∧
    leaves (.ckptTake 0) (w [(7, { part := 0, ctx := 0, rec_ := [], seq := 0 })]) (fun t => (t.part 0).ckEpoch == 0) = true := by
  refine ⟨meets (by decide +kernel), meets (by decide +kernel), meets (by decide +kernel), by decide +kernel, by decide +kernel⟩

/-! Substitution -/

/-- Entry 63 of the table, in PROMOTED or free, of a partition. -/
def withEntry (s : State) (st : SubState) (part : Nat) : State :=
  s.modCluster 0 fun c => { c with subst := lset c.subst 63 { state := st, part := part, start := 16, ins := [8], outs := [9] } }

theorem test_substitution_indices :
    let rd := Instr.sbrd (tX 32 8 0 0 0 0 0 .l64)
    let wd := Instr.sbwd (tX 0 8 0 0 0 0 3 .l64)
    let clr := Instr.sbclr (tX 0 8 0 0 0 0 0 .l64)
    let at_ := fun (s : State) (n : Word) => withReg (inSuper s) 8 fun _ => n
    let en := fun (s : State) => s.modPart 0 fun p => { p with substCtl := 1 }
    Meets rd (at_ (withEntry (at2 rd) .promoted 0) 63) (fun c => c.rdLow 8 == 63) ∧ Meets rd (at_ (at2 rd) 64) (fun c => c.rdLow 8 == 64) ∧
    Meets wd (at_ (at2 wd) 63) (fun c => c.rdLow 8 == 63 && c.strand == 0) ∧ Meets wd (at_ (en (withEntry (at2 wd) .promoted 0)) 63) (fun c => c.rdLow 8 == 63) ∧
    Meets wd (at_ (at2 wd) 64) (fun c => c.rdLow 8 == 64) ∧
    Meets clr (at_ (withEntry (at2 clr) .rejected 0) 63) (fun c => c.rdLow 8 == 63) ∧ Meets clr (at_ (at2 clr) 64) (fun c => c.rdLow 8 == 64) := by
  refine ⟨?_, ?_, ?_, ?_, ?_, ?_, ?_⟩ <;> exact meets (by decide +kernel)

theorem test_sbwd_withdraws :
    let wd := Instr.sbwd (tX 0 8 0 0 0 0 4 .l64)
    let s := fun (st : SubState) (part : Nat) => withReg ((inSuper (withEntry (at2 wd) st part)).modPart 0 fun p => { p with substCtl := 1 }) 8 fun _ => 63
    leaves wd (s .probation 0) (fun t => ((t.cluster 0).subst[63]?).any fun e => e.state == .withdrawn) = true ∧
      leaves wd (s .promoted 1) (fun t => ((t.cluster 0).subst[63]?).any fun e => e.state == .promoted) = true := by
  constructor <;> decide +kernel

theorem test_escrd_cases :
    let i := Instr.escrd (tX 32 8 0 0 0 0 0 .l64)
    let s := fun (n : Word) => (inSuper (at2 i)).modCtx 0 fun x => { x with escCount := n, escBase := 0x2000 }
    Meets i (s 1) (fun c => c.rdLow 8 == 0 && ((s 1).ctx 0).escCount == 1) ∧ Meets i (s 0) (fun c => c.rdLow 8 == 0 && ((s 0).ctx 0).escCount == 0) := by
  constructor <;> exact meets (by decide +kernel)

/-- A full sampler entry of one run, before a sample and after the last. -/
def withSampler (n : Option (List Instr × Nat)) : State :=
  let body := [Instr.iadd false (tX 9 8 8 0 0 0 0 .l64), .iadd false (tX 9 9 248 0 0 0 0 .l64), .iadd false (tX 9 9 248 0 0 0 0 .l64)]
  (nop2.modPart 0 fun p => { p with substCtl := 1, trialBeats := 1 }).modCluster 0 fun c => { c with sampler := lset c.sampler 31 (some
    { part := 0, start := 16, count := 64, ins := [8], outs := [9], text := body, samples := List.replicate 64 (0, 95, [3]), trial := n }) }

def shorter : Instr := .iadd false (tX 9 8 8 0 0 0 0 .l64)

def shorterWords : List (BitVec 64) := [BitVec.ofNat 64 shorter.bits.toNat]

/-- A trial of the first sample and of a candidate that has passed all 64; the installation, with a free entry and without a candidate. -/
theorem test_trial_cases :
    let job := fun (t : State) => ((t.cluster 0).sampler.getD 31 none)
    candInstrs shorterWords = some [shorter] ∧
    leaves (.trial 0 31 0 shorterWords) (withSampler none) (fun t => (job t).any fun x => x.trial == some ([shorter], 1)) = true ∧
    leaves (.candidateInstall 0 31 shorterWords) (withSampler (some ([shorter], 64))) (fun t => (job t).isNone &&
      ((t.cluster 0).subst[0]?).any fun e => e.state == .probation && e.cand == [shorter]) = true ∧
    leaves (.candidateInstall 0 31 []) (withSampler none) (fun t => (job t).any (·.done)) = true ∧
    leaves (.candidateInstall 0 31 shorterWords) (withSampler (some ([shorter], 63))) (fun t => (job t).any fun x => !x.done) = true := by
  refine ⟨?_, ?_, ?_, ?_, ?_⟩ <;> decide +kernel

/-- A fibre of a held context stops at a BRK before a beat of it issues. -/
theorem test_brk_held :
    let i := Instr.brk (tT 0 0 4 0)
    let s := (onFib (at2 i) fun f => { f with beats := [] }).modCtx 0 fun c => { c with dbgHold := true }
    (match s.slotTry 0 0 0 0 with
      | .moved t => (t.fib? 0).any fun f => f.state == .stopped && f.stopCause == 15 && f.pc == 0
      | _ => false) = true := by decide +kernel

/-! ### Witnesses: traps, hand-out, walks and the device around the clusters -/

/-- Delivery: to the handler at once, after a write that lands later, parked for the lack of a handler and with the slot occupied. -/
theorem test_trap_delivery :
    let tv := nop2.modCtx 0 fun c => { c with tvec := 0x40 }
    let late := tv.modStrand 0 fun st => { st with flights := [{ seq := 0, reg := 8, lanes := lanesOf fun _ => true, vals := [], land := some (9, 9, 9) }] }
    let slot : TrapSlot := { qs := [], runPos := 0, runStart := true, em := 0, level := .user, resume := 0 }
    let d := fun (s : State) (e : Cause) => (s.deliver 0 { cause := e } 12 false 0).fib? 0
    ((tv.strand? 0).map fun st => st.lastLanding (lanesOf fun _ => true) (fun _ => true) tv.cycle).isSome = true ∧
    (d tv .illField).any (fun f => f.pc == 0x40 && f.slot.isSome && f.state == .ready) = true ∧
    (d late .illField).any (fun f => f.state != .parked && f.wait.entering) = true ∧
    (d nop2 .illField).any (fun f => f.state == .parked && f.wait == .faultQ 0) = true ∧
    (d (onFib tv fun f => { f with slot := some slot }) .illField).any (fun f => f.state == .parked && f.wait == .faultQ 0) = true ∧
    (d tv .ldXlate).any (fun f => f.wait == .faultQ 0) = true := by
  refine ⟨?_, ?_, ?_, ?_, ?_, ?_⟩ <;> decide +kernel

/-- A READY fibre and a free slot; a deferred cause at a boundary. -/
theorem test_slots_and_deferred :
    let s := (onFib nop2 fun f => { f with state := .ready, beats := [] }).modCluster 0 fun c =>
      { c with spindles := lset c.spindles 0 { slots := List.replicate 8 none } }
    let t := onFib (nop2.modCtx 0 fun c => { c with tvec := 0x40 }) fun f => { f with beats := [], deferred := [(5, { cause := .fnEmpty, defer := true })] }
    s.mayHand 0 0 0 ((s.fib? 0).getD { laneSet := 0, pc := 0 }) = true ∧
    leaves (.slotHandout 0 0 7) s (fun u => (u.spindle 0 0).slots.getD 7 none == some 0 && (u.fib? 0).any fun f => f.state == .running) = true ∧
    leaves (.deferredTrapDelivery 0) t (fun u => (u.fib? 0).any fun f => f.pc == 0x40 && f.deferred.isEmpty) = true := by
  refine ⟨?_, ?_, ?_⟩ <;> decide +kernel

/-- Walks: of a page that is mapped, of one that is not, one made stale. -/
def walking (page : Nat) (stale : Bool) : State :=
  (onFib (mapped nop2) fun f => { f with state := .parked, wait := .walk }).modCluster 0 fun c =>
    { c with misses := [{ part := 0, ctx := 0, page := page, fibs := [0], stale := stale, age := 65535, walker := true }] }

theorem test_walk_cases :
    leaves (.walkComplete 0 0) (walking 5 false) (fun t => (t.cluster 0).tlb.any (fun x => x.size == 30) && (t.cluster 0).misses.isEmpty &&
      (t.fib? 0).any fun f => f.state == .ready && f.walks.isEmpty) = true ∧
    leaves (.walkComplete 0 0) (walking (2 ^ 18) false) (fun t => (t.fib? 0).any fun f => f.walks == [(2 ^ 18, .ldXlate)]) = true ∧
    leaves (.walkComplete 0 0) (walking 5 true) (fun t => (t.fib? 0).any (fun f => f.state == .ready) && !(t.cluster 0).tlb.any fun x => x.size == 30) = true ∧
    leaves .arbAgeStep ({ walking 5 false with cycle := 64 } : State) (fun t => (t.cluster 0).misses.all fun m => m.age == 65535) = true := by
  refine ⟨?_, ?_, ?_, ?_⟩ <;> decide +kernel

/-- The page-request ring with room for one record, and full. -/
theorem test_page_request_drains :
    let e : PrqEntry := { part := 0, ctx := 0, addr := 7, seq := 3, cluster := 1, sid := 2, path := 3, cause := .ldXlate, flags := 0 }
    let s := fun (h : Word) => (({ nop2 with msix := [(7, 0)] } : State).modDie 0 fun d => { d with prq := [e] }).modCtx 0 fun c =>
      { c with en := true, prqEn := true, prqIrq := true, prqRing := 0x6000, prqSize := 64, prqHead := h, prqTail := 0 }
    leaves (.pageRequestDrain 0 0) (s 63) (fun t => (t.ctx 0).prqHead == 64 && t.irqs == [1] && t.memRead (0x6000 + 32 * 63) == 7) = true ∧
      leaves (.pageRequestDrain 0 0) (s 64) (fun t => (t.ctx 0).prqHead == 64 && (t.die 0).prq == [e]) = true := by
  constructor <;> decide +kernel

/-- A fibre that waits for code: arrived; a cycle before CODE_TMO and at it. -/
theorem test_code_cases :
    let s := fun (now : Nat) => ({ onFib nop2 fun f => { f with state := .parked, wait := .code 4 } with refCount := now } : State)
    (s 0).arrived 0 0 = true ∧
    leaves (.codeUnarrived 0) (s 100003) (fun t => (t.fib? 0).any fun f => f.wait == .code 4) = true ∧
    leaves (.codeUnarrived 0) (s 100004) (fun t => (t.fib? 0).any fun f => f.frame.cause.extractLsb' 0 8 == Cause.codeUnarrived.code) = true := by
  refine ⟨?_, ?_, ?_⟩ <;> decide +kernel

/-- A code object that streams and whose page has not arrived. -/
theorem test_code_not_arrived :
    let s := ({ nop2 with mem := cellsWrite nop2.mem (nop2.part 0).baseTbl.toNat (bytesOfNat 8 0x1000 ++ bytesOfNat 4 4096 ++ bytesOfNat 4 3) } : State)
    s.arrived 0 0 = false := by decide +kernel

/-- The Ephemeris: one partition on one cluster due. -/
theorem test_ephemeris_due :
    let s := ({ ({ nop2 with msix := [(11, 0)] } : State).modPart 0 fun p => { p with ephEn := true, ephK := 10, ephIrq := true, ephBase := 0x7000, rangeBase := 0, rangeLimit := 0 } with
      cycle := 1024 } : State)
    s.clustersOf 0 = [0] ∧ leaves .ephemerisTick s (fun t => (t.part 0).ephHead == 1 && t.irqs == [2] && t.memRead 0x7000 == 0xE7) = true := by
  constructor <;> decide +kernel

/-- One staged packet that fits, and one that does not in MODE 1 with a full buffer. -/
def staged (full : Bool) : State :=
  (nop2.modPart 0 fun p => { p with trSeg := 12, trMode := true, trEn := true, trBase := 0x8000, rangeBase := 0, rangeLimit := 0 }).modCluster 0 fun c =>
    { c with trace := { c.trace with head := if full then 4096 else 0, staged := if full then List.replicate 384 0x70 else [0x70, 1, 2, 3, 4, 5] } }

theorem test_trace_drains :
    packetLen 0x70 = 6 ∧
    leaves (.traceDrain 0) (staged false) (fun t => (t.cluster 0).trace.staged.isEmpty && (t.cluster 0).trace.head == 6 && t.memRead 0x8005 == 5) = true ∧
    leaves (.traceDrain 0) (staged true) (fun t => (t.cluster 0).trace.holding) = true := by refine ⟨?_, ?_, ?_⟩ <;> decide +kernel

/-- The end of the first of two passes, and of the last. -/
theorem test_measured_passes :
    let l : Launch := { part := 0, ctx := 0, rec_ := recOf 0 0x3000 1, seq := 0, placed := 1, ended := 1 }
    let s := fun (n : Nat) => ({ (mapped nop2).modPart 0 fun p => { p with mrEn := true, mrPasses := 2, mrPass := n, mrLaunch := some 3 } with launches := [(3, l)] } : State)
    (s 0).launchDone l = true ∧
    leaves (.measurePassEnd 0) (s 0) (fun t => (t.part 0).mrPass == 1 && (t.part 0).mrLaunch == some 3 && t.launches.any fun x => x.2.placed == 0) = true ∧
    leaves (.measurePassEnd 0) (s 1) (fun t => !(t.part 0).mrEn && (t.part 0).ckEpoch == 1) = true := by refine ⟨?_, ?_, ?_⟩ <;> decide +kernel

/-! Pre-emption -/

def pre (p : PreState) (now : Nat) : State :=
  ({ onFib (mapped nop2) fun f => { f with beats := [] } with refCount := now } : State).modCtx 0 fun c =>
    { c with pre := p, slice := 10, sliceAt := 0, preGrace := 10, preKill := 10, ctxSave := 0x9000 }

def preOf (t : State) (p : PreState) : Bool := (t.ctx 0).pre == p

theorem test_preemption_moments :
    leaves (.sliceEnd 0) (pre .in_ 9) (preOf · .in_) = true ∧ leaves (.sliceEnd 0) (pre .in_ 10) (preOf · (.soft 10)) = true ∧
    leaves (.instructionLevelHalt 0) (pre (.soft 3) 12) (preOf · (.soft 3)) = true ∧
    leaves (.instructionLevelHalt 0) (pre (.soft 3) 13) (fun t => preOf t (.halt 13) && (t.fib? 0).any fun f => f.state == .ready) = true ∧
    leaves (.kill 0) (pre (.halt 3) 12) (preOf · (.halt 3)) = true ∧
    leaves (.kill 0) (pre (.halt 3) 13) (fun t => t.skeins.isEmpty && preOf t .in_) = true := by
  refine ⟨?_, ?_, ?_, ?_, ?_, ?_⟩ <;> decide +kernel

/-- A context that has halted with its fibre READY is saved; without a place for the record the save waits; what was saved comes back. -/
theorem test_save_and_restore :
    let s := onFib (pre (.halt 3) 5) fun f => { f with state := .ready }
    let out := (onFib (pre .out 5) fun f => { f with state := .ready, saved := true }).modSkein 0 fun k =>
      { k with saved := true, pro := (30, 0, 4, 0), full := (30, 0, 4, 0) }
    s.saveReady 0 = true ∧ (pre (.halt 3) 5).saveReady 0 = false ∧ s.launches.isEmpty = true ∧
    leaves (.contextRestore 0) out (fun t => preOf t .in_ && (t.fib? 0).any (fun f => !f.saved) && (t.skein? 0).any fun k => !k.saved) = true ∧
    leaves (.contextRestore 0) (out.modPart 0 fun p => { p with cmpPark := true }) (preOf · .out) = true := by
  refine ⟨?_, ?_, ?_, ?_, ?_⟩ <;> decide +kernel

theorem test_halt_line :
    (nop2.part 31).halted = none ∧ leaves (.haltLine 0 .illOpc) nop2 (fun t => (t.part 0).halted == none) = true := by constructor <;> decide +kernel

/-! Register writes -/

theorem test_invalidation_cases :
    let s := walking 5 false
    let busy := fun (stale : Bool) => (walking 5 stale).modCtx 0 fun c => { c with xlInvBusy := true }
    leaves (.xlInvWrite 0 4) s (fun t => (t.ctx 0).xlInvBusy) = true ∧ leaves (.xlInvWrite 0 5) s (fun t => !(t.ctx 0).xlInvBusy) = true ∧
    (busy true).xlBusy 0 = true ∧ (busy false).xlBusy 0 = false ∧
    leaves (.xlInvDone 0) (onFib (busy false) fun f => { f with wait := .unit }) (fun t => !(t.ctx 0).xlInvBusy && (t.fib? 0).any fun f => f.wait == .none) = true := by
  refine ⟨?_, ?_, ?_, ?_, ?_⟩ <;> decide +kernel

theorem test_fault_queue_resumes :
    let s := onFib nop2 fun f => { f with state := .parked, wait := .faultQ 7 }
    let ready := fun (t : State) => (t.fib? 0).any fun f => f.state == .ready
    leaves (.fqResume 0 7) s ready = true ∧ leaves (.fqResume 0 6) s (fun t => !ready t) = true ∧ leaves (.fqResume 0 0xFFFFFFFF) s ready = true := by
  refine ⟨?_, ?_, ?_⟩ <;> decide +kernel

/-- A READY fibre stops at once, a running one at its next boundary; a stopped one steps. -/
theorem test_debugger_cases :
    let s := fun (x : FState) => onFib nop2 fun f => { f with state := x, stopCause := 15 }
    leaves (.dbgStop 0 0 0 0) (s .ready) (fun t => (t.fib? 0).any fun f => f.state == .stopped && f.stopCause == 90) = true ∧
    leaves (.dbgStop 0 0 0 0) (s .running) (fun t => (t.fib? 0).any fun f => f.state == .running && f.stopReq) = true ∧
    leaves (.dbgStep 0 0 0 0) (s .stopped) (fun t => (t.fib? 0).any fun f => f.state == .ready && f.stepReq && f.passBrk) = true ∧
    leaves (.dbgReleaseAll 0) (s .stopped) (fun t => (t.fib? 0).any fun f => f.state == .ready && !f.stepReq) = true := by
  refine ⟨?_, ?_, ?_, ?_⟩ <;> decide +kernel

/-- A forwarding table of one entry, valid or not, for a partition that is parked and BUSY; the fibre fetches inside its range. -/
def forwarding (len : Nat) : State :=
  let s := (onFib (mapped nop2) fun f => { f with base := some 0x1000, state := .ready }).modPart 0 fun p =>
    { p with cmpPark := true, cmpBusy := true, fwdBase := 0x5000, fwdCount := 1 }
  { s with mem := cellsWrite s.mem 0x5000 (bytesOfNat 8 0x1000 ++ bytesOfNat 8 0x9000 ++ bytesOfNat 8 len) }

theorem test_forwarding_cases :
    (forwarding 64).fwdTable 0 = some [(0x1000, 0x9000, 64)] ∧ fwdValid 0 [(0x1000, 0x9000, 64)] = true ∧ fwdValid 0 [(0x1000, 0x9000, 2)] = false ∧
    leaves (.cmpFwdDone 0) (forwarding 64) (fun t => !(t.part 0).cmpErr && (t.fib? 0).any fun f => f.base == some 0x9000) = true ∧
    leaves (.cmpFwdDone 0) (forwarding 2) (fun t => (t.part 0).cmpErr && (t.fib? 0).any fun f => f.base == some 0x1000) = true ∧
    leaves (.cmpFwd 0) nop2 (fun t => !(t.part 0).cmpBusy) = true := by
  refine ⟨?_, ?_, ?_, ?_, ?_, ?_⟩ <;> decide +kernel

/-- Values at the ends of their ranges. -/
theorem test_configuration_ranges :
    leaves (.ephCtlWrite 0 (24 * 256 + 1)) nop2 (fun t => (t.part 0).ephK == 24 && (t.part 0).ephEn) = true ∧
    leaves (.ephCtlWrite 0 (25 * 256 + 1)) nop2 (fun t => !(t.part 0).ephEn) = true ∧
    leaves (.mrCtlWrite 0 16) nop2 (fun t => (t.part 0).mrPasses == 16) = true ∧ leaves (.mrCtlWrite 0 17) nop2 (fun t => (t.part 0).mrPasses == 1) = true ∧
    leaves (.evSelWrite 0 0x3F3F3F3F) nop2 (fun t => (t.cluster 0).evSel == 0x3F3F3F3F) = true ∧
    leaves (.evSelWrite 0 0x40) nop2 (fun t => (t.cluster 0).evSel == 0) = true ∧
    leaves (.tqCfgWrite 0 4 0x80005004) nop2 (fun t => (t.tq 0 4).en && (t.tq 0 4).high == 5 && (t.tq 0 4).low == 4) = true ∧
    leaves (.tqCfgWrite 0 4 0x80005005) nop2 (fun t => !(t.tq 0 4).en) = true := by
  refine ⟨?_, ?_, ?_, ?_, ?_, ?_, ?_, ?_⟩ <;> decide +kernel

theorem test_pool_and_queue_limits :
    leaves (.bpLimWrite 0 0 (0x00400040 : Word)) (nop2.modCtx 0 fun c => { c with bpSel := 2 * 2 ^ 21 }) (fun t => t.poolLim 2 0 0 == (64, 64)) = true ∧
    leaves (.bpLimWrite 0 0 (0x00400041 : Word)) (nop2.modCtx 0 fun c => { c with bpSel := 2 * 2 ^ 21 }) (fun t => t.poolLim 2 0 0 == (0, 64)) = true ∧
    leaves (.lqEnable 31 true) ({ nop2 with startStat := 5 } : State) (fun t => (t.part 31).lqEn) = true ∧
    leaves (.lqEnable 31 true) ({ nop2 with startStat := 1 } : State) (fun t => !(t.part 31).lqEn) = true := by
  refine ⟨?_, ?_, ?_, ?_⟩ <;> decide +kernel

/-! The mailbox and the host -/

def started : State := { nop2 with startStat := 0x1F }

/-- Every mailbox command on a device that has started: its return code. -/
theorem test_mailbox_codes :
    let code := fun (i : Instr) (n : Word) => leaves i started fun t => t.mbRet == n
    code (.fwLoad 2 [1]) 0 = true ∧ code .fwActivate 2 = true ∧ code (.partRd 31 15 0x202) 0 = true ∧ code (.partRd 32 0 0x202) 2 = true ∧
    code (.partWr 0 1 0x202 4) 0 = true ∧ code (.partWr 0 16 0x202 4) 2 = true ∧ code (.partWr 0 0 0x204 1) 2 = true ∧
    code (.rollback 0) 4 = true ∧ code (.partReset 0) 4 = true ∧
    code (.peerWr 0 65535 (List.replicate 32 0)) 0 = true ∧ code (.peerWr 0 65536 (List.replicate 32 0)) 2 = true ∧ code (.neighWr 1 [2]) 0 = true ∧
    code (.powerLimit 400) 0 = true ∧ code (.powerLimit 399) 2 = true ∧ code (.powerLimit 1751) 2 = true := by
  refine ⟨?_, ?_, ?_, ?_, ?_, ?_, ?_, ?_, ?_, ?_, ?_, ?_, ?_, ?_, ?_⟩ <;> decide +kernel

/-- A context that is in use is not switched off; a stopped partition is rolled back and reset. -/
theorem test_mailbox_partitions :
    let on := started.modCtx 0 fun c => { c with en := true }
    let halted := ({ started with
      skeins := [], strands := [], mem := cellsWrite started.mem 0x8000 (bytesOfNat 8 384 ++ List.replicate 128 9) } : State).modPart 0 fun p =>
      { p with halted := some .mcHaltLine, ckLog := 0x8000, ckSize := 1, undo := [3] }
    leaves (.partWr 0 0 0x202 0) on (fun t => t.mbRet == 3 && (t.ctx 0).en) = true ∧
    leaves (.rollback 0) halted (fun t => t.mbRet == 0 && t.memRead 511 == 9 && (t.part 0).undo.isEmpty) = true ∧
    leaves (.rollback 0) (halted.modPart 0 fun p => { p with ckFull := true }) (fun t => t.mbRet == 2) = true ∧
    leaves (.partReset 0) halted (fun t => t.mbRet == 0 && (t.part 0).halted == none) = true := by
  refine ⟨?_, ?_, ?_, ?_⟩ <;> decide +kernel

/-- A firmware image whose header fits whatever the blob asks for: what becomes of it rests on its signature alone. -/
theorem test_firmware_header :
    let img := bytesOfNat 4 0x4657494D ++ bytesOfNat 4 0 ++ bytesOfNat 4 (2 ^ 32 - 1)
    natOfBytes (img.take 4) = 0x4657494D ∧ (Config.blobMin State.reset.blob).toNat ≤ natOfBytes ((img.drop 8).take 4) :=
  ⟨by decide +kernel, Nat.le_trans (Nat.le_of_lt_succ (Config.blobMin State.reset.blob).isLt) (by decide +kernel)⟩

/-- The stages of the start: out of order, in order, and with an error. -/
theorem test_start_cases :
    let s := fun (w : Word) => ({ nop2 with released := true, startStat := w } : State)
    let stat := fun (i : Instr) (w n : Word) => leaves i (s w) fun t => t.startStat == n
    stat (.stageBDone 0) 0 0 = true ∧ stat (.stageADone 7) 0 0x70000 = true ∧ stat (.stageBDone 0) 1 3 = true ∧ stat (.stageCDone 0) 3 7 = true ∧
    stat (.stageDDone 0) 7 0x1F = true ∧ stat (.stageBDone 9) 1 0x90001 = true ∧ stat (.stageBDone 0) 0x90001 0x90001 = true := by
  refine ⟨?_, ?_, ?_, ?_, ?_, ?_, ?_⟩ <;> decide +kernel

theorem test_clock_and_links :
    leaves (.clockChange 4) nop2 (fun t => t.clkK == 4) = true ∧ leaves (.clockChange 3) nop2 (fun t => t.clkK == 16) = true ∧
    leaves (.portDown 43) nop2 (fun t => t.portsDown == [43]) = true ∧ leaves (.portDown 29) nop2 (fun t => t.portsDown.isEmpty) = true := by refine ⟨?_, ?_, ?_, ?_⟩ <;> decide +kernel

/-- Writes to BAR0: an MSI-X mask, a queue register of partition 31, an offset that has no register; a system register. -/
theorem test_register_writes :
    leaves (.registerWrite (.bar0 0x207FC) 1) started (fun t => tget? t.msix 511 == some 1) = true ∧
    leaves (.registerWrite (.bar0 0x107C8) 32) started (fun t => (t.part 31).lqSize == 32) = true ∧
    leaves (.registerWrite (.bar0 0x3000) 1) started (fun t => t == started) = true ∧
    leaves (.registerWrite (.sr 0 0 0 0x008) 5) started (fun t => t == started) = true := by refine ⟨?_, ?_, ?_, ?_⟩ <;> decide +kernel

/-- Reads of BAR0 (Tables 23.1 to 23.3): the part and stepping, clusters 32 to 63, the reset values of a queue, and an offset without a
register; nothing answers before stage A. -/
theorem test_register_reads :
    started.bar0Read 0 = some 0x00090011 ∧ started.bar0Read 0x14 = some 0xFFFFFFFF ∧ started.bar0Read 0x107C8 = some 16 ∧
    started.bar0Read 0x107D8 = some 100 ∧ started.bar0Read 0x3000 = some 0 ∧ nop2.bar0Read 0 = none := by
  refine ⟨?_, ?_, ?_, ?_, ?_, ?_⟩ <;> decide +kernel

/-- The host at the last bytes of HDM and beyond them, before and after stage B; a peer whose port is not down. -/
theorem test_host_accesses :
    let top := 768 * 2 ^ 30
    leaves (.hostCxlMemAccess (top - 2) (some [1, 2]) 0) started (fun t => t.memRead (top - 1) == 2) = true ∧
    leaves (.hostCxlMemAccess (top - 1) (some [1, 2]) 0) started (fun t => t.memRead (top - 1) == 0) = true ∧
    leaves (.hostCxlMemAccess 0 none 4) nop2 (fun t => t.hostPoison) = true ∧
    leaves (.hostCxlMemAccess 0x1000 none 1) started (fun t => t.hostData.length == 1) = true ∧
    peerValid [1, 29] = true ∧ started.portsDown = [] := by refine ⟨?_, ?_, ?_, ?_, ?_, ?_⟩ <;> decide +kernel

theorem test_spdm_is_answered : leaves (.spdmMessage .getVersion []) started (fun t => t.doeOut.length == 1) = true ∧
    leaves (.spdmMessage .getVersion []) nop2 (fun t => t.doeOut.isEmpty) = true := by constructor <;> decide +kernel

/-- A walk takes a walker of its die in its turn. -/
theorem test_walk_takes_a_walker :
    let s := (walking 5 false).modCluster 0 fun c => { c with misses := c.misses.map fun m => { m with walker := false } }
    s.nextGrant 0 = some (0, 0) ∧ s.walkers 0 = 0 ∧
      leaves (.walkComplete 0 0) s (fun t => (t.cluster 0).misses.all fun m => m.walker) = true := by
  refine ⟨?_, ?_, ?_⟩ <;> decide +kernel

/-- A masked vector stays pending, and its message is sent when it is unmasked. -/
theorem test_masked_vectors :
    State.reset.vecMasked 1 = true ∧ ({ State.reset with msix := [(7, 0)] } : State).vecMasked 1 = false ∧
      ((State.reset.raise 1).msixWrite 7 0).irqs = [1] := by decide +kernel

/-- IDE_KM outside a secured session, and in one. -/
theorem test_sessions :
    leaves (.spdmMessage .ideKm [1]) started (fun t => t.ideKm.isEmpty) = true ∧
      leaves (.spdmMessage .ideKm [1]) ({ started with spdm := .secured } : State) (fun t => t.ideKm == [[1]]) = true := by
  constructor <;> decide +kernel

/-- A command of a partition that there is not answers 2. -/
theorem test_mailbox_no_partition :
    leaves (.partReset 32) started (fun t => t.mbRet == 2) = true ∧ leaves (.rollback 40) started (fun t => t.mbRet == 2) = true := by
  constructor <;> decide +kernel

end Sys2Proof.Tests
end

section
/-! SUPPORT. The shape of every meaning: an instruction is one `issue`, whose checks come before its effect, and an event answers a
next state; what the checks before the effect come to. -/

namespace Sys2Proof.Machine

/-! ### Every instruction is one issue -/

/-- `g` is `issue` of `i` with some effect. -/
def IsIssue (i : Instr) (g : State → Host.Outcome State Fault Refusal) : Prop := ∃ body, ∀ s, g s = issue i s body

theorem issue_isIssue (i : Instr) (body : Ctx → State → Res) : IsIssue i fun s => issue i s body := ⟨body, fun _ => rfl⟩

theorem endRunWith_isIssue (i : Instr) (body : Ctx → State → Res) : IsIssue i fun s => endRunWith i s body := ⟨_, fun _ => rfl⟩

theorem wholeBranch_isIssue (i : Instr) (f : T96) (taken : Ctx → Bool) : IsIssue i (wholeBranch i f taken) := ⟨_, fun _ => rfl⟩

theorem jumpPair_isIssue (i : Instr) (f : T96) : IsIssue i (jumpPair i f) := ⟨_, fun _ => rfl⟩

theorem intBin_isIssue (i : Instr) (f : X64) (k : ModKind) (lat : Nat) (op : Nat → Nat → Nat × Bool) :
    IsIssue i (intBin i f k lat op) := ⟨_, fun _ => rfl⟩

theorem intImm_isIssue (i : Instr) (f : I64) (lat : Nat) (op : Nat → Nat × Bool) : IsIssue i (intImm i f lat op) := ⟨_, fun _ => rfl⟩

theorem intTer_isIssue (i : Instr) (f : X64) (k : ModKind) (lat : Nat) (op : Nat → Nat → Nat → Nat → Nat × Bool) :
    IsIssue i (intTer i f k lat op) := ⟨_, fun _ => rfl⟩

theorem intUn_isIssue (i : Instr) (f : X64) (k : ModKind) (lat : Nat) (op : Nat → Nat × Bool) : IsIssue i (intUn i f k lat op) :=
  ⟨_, fun _ => rfl⟩

theorem rawBin_isIssue (i : Instr) (f : X64) (op : Word → Word → Word) : IsIssue i (rawBin i f op) := ⟨_, fun _ => rfl⟩

theorem logicImm_isIssue (i : Instr) (f : I64) (op : LogicOp) : IsIssue i (logicImm i f op) := ⟨_, fun _ => rfl⟩

theorem fpElem_isIssue (i : Instr) (f : X64) (order : List Cause) (op : Nat → Nat → Nat → Nat × Flags) :
    IsIssue i (fpElem i f order op) := ⟨_, fun _ => rfl⟩

theorem dotInstr_isIssue (i : Instr) (f : X64) (w : Nat) (ev : Nat → Val) : IsIssue i (dotInstr i f w ev) := ⟨_, fun _ => rfl⟩

theorem sfuInstr_isIssue (i : Instr) (f : X64) (op : Fmt → Val → Val → FRes) : IsIssue i (sfuInstr i f op) := ⟨_, fun _ => rfl⟩

theorem atomInstr_isIssue (i : Instr) (op : AtomOp) (f : A96) (sc : Bool) : IsIssue i (atomInstr i op f sc) := ⟨_, fun _ => rfl⟩

theorem fnInstr_isIssue (i : Instr) (body : Ctx → State → Res) : IsIssue i fun s => fnInstr i s body := ⟨_, fun _ => rfl⟩

/-- The meaning of every instruction is one issue: the checks of Table 2.7, then an effect. The cases are grouped by the operation that
the meanings share. -/
theorem exec_isIssue (i : Instr) (h : i.isEvent = false) : IsIssue i (exec i) := by
  cases i <;> unfold exec
  case nop | imadw | idiv | irem | icmp | icmpi | sel | mov | movi | lea | iadd64 | isub64 | cvta | permb | pack | unpack | fcmp |
    fscalb | ftwosum | cvtfi | cvtif | cvtff | cvtq | cvtdq | shfl | bcast | vote | lred | lscan | matchLanes | leader | ld | st |
    lds | sts | ldt | stt | pf | fpush | fpop | regpf | cctl | bankmode | scrcfg | red | atoms | fence | waiteq | copy | gather |
    coll | bara | semv | fetchw | mma | mmas | mcomp | msacc | mbatch | mrel | mzero | mrda | mwra | msta | mlda | mstat | give |
    tspawn | tdone | launch | sbrd | escrd | sbwd | sbclr | srrd | srwr | cycrd | trmark | evrd | ckpt => exact issue_isIssue ..
  case runend | bra | brc | call | calli | rcvg | endk | yield | waitc | sleept | bar | barw | semp | ifence | mwait | acq | claim |
    tpop | trap | rte | brk => exact endRunWith_isIssue ..
  case bru | brany | brall => exact wholeBranch_isIssue ..
  case jmpi | ret => exact jumpPair_isIssue ..
  case iadd | isub | imul | imulh | imin | imax | shl | shrl | shra => exact intBin_isIssue ..
  case iaddi | shli | shrli | shrai => exact intImm_isIssue ..
  case imad | fshr | bfx | bfi => exact intTer_isIssue ..
  case iabs | ineg | popc | clz | ctz | brev => exact intUn_isIssue ..
  case and | or | xor | andn | orn | xnor => exact rawBin_isIssue ..
  case andi | ori | xori => exact logicImm_isIssue ..
  case fadd | fsub | fmul | ffma | fmin | fmax | fminn | fmaxn | fclass | fabs | fneg | fcopysign | frnd => exact fpElem_isIssue ..
  case fdot2 | fdot4q => exact dotInstr_isIssue ..
  case rcp | rsq | sqrt | div | exp2 | log2 | sinpi | cospi | tanh | sigm => exact sfuInstr_isIssue ..
  case atom | atomc | atomsc => exact atomInstr_isIssue ..
  case fnld | fnst | fnfit | fneval | fnadd | fnsub | fnmul | fnaff | fncomp | fndiff | fnint | fnquad | fnroot | fndom | fninfo |
    fnrel => exact fnInstr_isIssue ..
  all_goals cases h

/-- An instruction that fails a check takes its trap, and has no effect (R7). -/
theorem exec_check {i : Instr} {s : State} {c : Ctx} {t : Trap} (he : i.isEvent = false) (h : AtBeat2 i s c)
    (hc : c.check = some t) : exec i s = .next (c.afterTrap s i t) := by
  obtain ⟨body, hb⟩ := exec_isIssue i he
  exact (hb s).trans (issue_check body h hc)

/-! ### Next states -/

/-- The outcome is a next state: neither a fault nor a refusal. -/
def Answers (o : Host.Outcome State Fault Refusal) : Prop := ∃ t, o = .next t

theorem answers_next (t : State) : Answers (.next t) := ⟨t, rfl⟩

theorem execDeferredTrapDelivery_answers (k : Nat) (s : State) : Answers (execDeferredTrapDelivery k s) := by
  unfold execDeferredTrapDelivery
  split
  · split
    · exact answers_next _
    · split <;> exact answers_next _
  · exact answers_next _

theorem execTaskPushAccept_answers (k : Nat) (s : State) : Answers (execTaskPushAccept k s) := by
  unfold execTaskPushAccept
  dsimp only
  split <;> exact answers_next _

theorem execPoolEntryGrant_answers (unit loc : Nat) (s : State) : Answers (execPoolEntryGrant unit loc s) := by
  unfold execPoolEntryGrant
  dsimp only
  split
  · exact answers_next _
  split
  · exact answers_next _
  split
  · exact answers_next _
  split
  · split <;> exact answers_next _
  split
  · split
    · exact execTaskPushAccept_answers ..
    · exact answers_next _
  · split <;> exact answers_next _

/-- Every event answers a next state: an event that cannot occur changes nothing. Three events are settled by lemmas of their own, some
are one next state, and of the others every branch ends in one. -/
theorem exec_event_answers (e : Instr) (s : State) (h : e.isEvent = true) : Answers (exec e s) := by
  cases e <;> unfold exec
  case deferredTrapDelivery => exact execDeferredTrapDelivery_answers ..
  case taskPushAccept => exact execTaskPushAccept_answers ..
  case poolEntryGrant => exact execPoolEntryGrant_answers ..
  case launchAccept | skeinPlace | haltLine | ephemerisTick | xlInvWrite | fqResume | dbgStop | dbgRelease | dbgStep | dbgStopAll |
    dbgReleaseAll | cmpPark | cmpUnpark | cmpFwd | bpLimWrite | tqCfgWrite | evSelWrite | ephCtlWrite | mrCtlWrite | lqEnable |
    neighWr | powerLimit | resetRelease | stageADone | stageBDone | stageCDone | stageDDone | hostLinkLoss | ideIntegrityFail |
    spdmMessage | portDown => exact answers_next _
  case slotHandout | missDataLands | sfuResultLands | storePerformed | atomicReturn | waiteqWake | walkComplete | pageRequestDrain |
    bankModeChangeEnd | fifoTimeout | waiteqTimeout | engineOpComplete | fetchwReply | sleeptWake | yieldWake | ifenceDone |
    matrixOpPerform | mxPinTimeout | mxAccExhausted | fnOpPerform | lqRecall | skeinGrant | pointComplete | sliceEnd |
    instructionLevelHalt | contextSaveEnd | kill | contextRestore | codeArrival | codeUnarrived | ckptTake | trial |
    candidateInstall | traceDrain | arbAgeStep | measurePassEnd | xlInvDone | cmpFwdDone | registerWrite | fwLoad | fwActivate |
    partWr | partRd | rollback | partReset | peerWr | telemetry | clockChange | hostCxlMemAccess | peerWrite =>
    simp only [execSlotHandout, execMissDataLands, execSfuResultLands, execStorePerformed, execAtomicReturn, execWaiteqWake,
      execWalkComplete, execPageRequestDrain, execBankModeChangeEnd, execFifoTimeout, execWaiteqTimeout, execEngineOpComplete,
      execFetchwReply, execSleeptWake, execYieldWake, execIfenceDone, execMatrixOpPerform, execMxPinTimeout, execMxAccExhausted,
      execFnOpPerform, execLqRecall, execSkeinGrant, execPointComplete, execSliceEnd, execInstructionLevelHalt,
      execContextSaveEnd, execKill, execContextRestore, execCodeArrival, execCodeUnarrived, execCkptTake, execTrial,
      execCandidateInstall, execTraceDrain, execArbAgeStep, execMeasurePassEnd, execXlInvDone, execCmpFwdDone, execRegisterWrite,
      execFwLoad, execFwActivate, execPartWr, execPartRd, execRollback, execPartReset, execPeerWr, execTelemetry, execClockChange,
      execHostCxlMemAccess, execPeerWrite]
    repeat' split
    all_goals exact answers_next _
  all_goals cases h

/-- At its beat 2 an instruction answers a next state. -/
theorem exec_answers {i : Instr} {s : State} {c : Ctx} (h : AtBeat2 i s c) : Answers (exec i s) := by
  cases he : i.isEvent with
  | true => exact exec_event_answers i s he
  | false =>
    obtain ⟨body, hb⟩ := exec_isIssue i he
    rw [hb s]
    exact issue_answers body h

/-! ### Checks before the effect, in their order (Table 2.7) -/

theorem Ctx.runLong_iff (c : Ctx) : c.runLong = true ↔ 24 ≤ c.f.runPos ∧ c.i.isTerminator = false := by simp [Ctx.runLong]

theorem Level.rank_lt_super (l : Level) : l.rank < Level.super.rank ↔ l = .user := by cases l <;> decide

/-- The fibre's level is below the one that the instruction asks for: supervisor for those of Table 2.8, the level of the register's
table for SRRD and SRWR (R323, R343). -/
def Ctx.TooLow (c : Ctx) : Prop :=
  (c.f.level = .user ∧ c.i.superOnly = true) ∨
    (∃ f, c.i = .srrd f ∧ c.f.level.rank < (((srInfo f.sr).map SrInfo.rd).getD .user).rank) ∨
    ∃ f, c.i = .srwr f ∧ c.f.level.rank < (((srInfo f.sr).map SrInfo.wr).getD .user).rank

/-- The TFADDR of PRIV: the number of the register, or zero. -/
def Ctx.privAddr (c : Ctx) : DWord :=
  match c.i with
  | .srrd f | .srwr f => BitVec.ofNat 64 f.sr
  | _ => 0

/-- Step 13: PRIV exactly where the level is too low. -/
theorem Ctx.privBad_eq (c : Ctx) : (c.TooLow → c.privBad = some c.privAddr) ∧ (¬ c.TooLow → c.privBad = none) := by
  unfold Ctx.TooLow Ctx.privBad Ctx.privAddr
  split
  · next f hf => simp [hf, Instr.superOnly]
  · next f hf => simp [hf, Instr.superOnly]
  · next h1 h2 =>
    have hrd : ∀ f, c.i ≠ .srrd f := h1
    have hwr : ∀ f, c.i ≠ .srwr f := h2
    cases hs : c.i.superOnly <;> simp [hrd, hwr, Level.rank_lt_super, show Level.user.rank = 0 from rfl]

/-- No instruction that asks for the supervisor level names a system register. -/
theorem Ctx.privAddr_cases {c : Ctx} (h : c.TooLow) :
    (c.i.superOnly = true → c.privAddr = 0) ∧
      ((∃ f, c.i = .srrd f ∧ c.privAddr = BitVec.ofNat 64 f.sr) ∨ (∃ f, c.i = .srwr f ∧ c.privAddr = BitVec.ofNat 64 f.sr) ∨
        c.i.superOnly = true) := by
  unfold Ctx.privAddr
  split
  · next f hf => simp [hf, Instr.superOnly]
  · next f hf => simp [hf, Instr.superOnly]
  · next h1 h2 =>
    obtain ⟨-, hs⟩ | ⟨f, hf, -⟩ | ⟨f, hf, -⟩ := h
    · exact ⟨fun _ => rfl, .inr (.inr hs)⟩
    · exact absurd hf (h1 f)
    · exact absurd hf (h2 f)

/-- Only VOTE.ballot and MATCH have a check of a field that needs the allotment. -/
theorem Ctx.fieldBad_eq {c : Ctx} (h : ∀ f, c.i ≠ .vote .ballot f ∧ c.i ≠ .matchLanes f) : c.fieldBad = c.i.fieldCheck := by
  unfold Ctx.fieldBad Ctx.tripleBad
  split
  · next f hi => exact absurd hi (h f).1
  · next f hi => exact absurd hi (h f).2
  · rfl

/-- Step 16 finds the first v-register outside the allotment. -/
theorem Ctx.rangeBad_eq {c : Ctx} {pre post : List (Nat × Nat)} {v : Nat × Nat} (hn : c.i.named = pre ++ v :: post)
    (hpre : ∀ x ∈ pre, 240 ≤ x.1 ∨ x.1 + x.2 ≤ 8 * c.st.blocks) (hv : v.1 < 240) (hout : 8 * c.st.blocks < v.1 + v.2) :
    c.rangeBad = some v.1 := by
  unfold Ctx.rangeBad
  rw [List.find?_eq_some_iff_append.mpr ⟨_, pre, post, hn, _⟩]
  · rfl
  · simp only [Bool.and_eq_true, decide_eq_true_eq]; omega
  · intro x hx
    have := hpre x hx
    simp only [Bool.not_eq_true', Bool.and_eq_false_iff, decide_eq_false_iff_not]; omega

section
variable {c : Ctx}

theorem Ctx.check_runLong (h : c.runLong = true) : c.check = some { cause := .runLong } := by simp [Ctx.check, h]

theorem Ctx.check_priv {a : DWord} (hl : c.runLong = false) (hp : c.privBad = some a) :
    c.check = some { cause := .priv, addr := a } := by simp [Ctx.check, hl, hp]

theorem Ctx.check_field {e : Cause} (hl : c.runLong = false) (hp : c.privBad = none) (hf : c.fieldBad = some e) :
    c.check = some { cause := e } := by simp [Ctx.check, hl, hp, hf]

theorem Ctx.check_range {v : Nat} (hl : c.runLong = false) (hp : c.privBad = none) (hf : c.fieldBad = none)
    (hr : c.rangeBad = some v) : c.check = some { cause := .regRange, addr := BitVec.ofNat 64 v } := by
  simp [Ctx.check, hl, hp, hf, hr]

end

end Sys2Proof.Machine
end

section
/-! SUPPORT. What one step comes to: an event of the agenda, or an issue whose beat 2 has come, with what its fetch gives. -/

namespace Sys2Proof.Machine

/-! ### The step -/

/-- With nothing on the agenda, the step is the issue whose moment has come. -/
theorem step_issue {s : State} {is : Issue} (ha : s.agenda = [])
    (hi : s.issues.find? (fun x => decide (x.r2 ≤ s.cycle)) = some is) : step s = s.runIssue is := by
  have hn : s.issueNow = some is := hi
  simp only [step, ha, hn]

/-- With an event at the head of the agenda, the step is that event. -/
theorem step_event {s : State} {e : Instr} {rest : List Instr} (ha : s.agenda = e :: rest) (he : e.isEvent = true) :
    step s = exec e { s with agenda := rest } := by
  simp only [step, ha, State.runEvent, he, if_true]

/-! ### An issue -/

/-- A fetch does not look at the issues that wait. -/
theorem State.fetch_issues (s : State) (l : List Issue) (k : Nat) (f : Fibre) :
    ({ s with issues := l } : State).fetch k f = s.fetch k f := rfl

/-- A change of a strand that leaves its paths alone leaves every fibre. -/
theorem State.fib?_modStrand_of_paths (s : State) (k n : Nat) (f : Strand → Strand) (h : ∀ st, (f st).paths = st.paths) :
    (s.modStrand k f).fib? n = s.fib? n := by
  unfold State.fib?
  by_cases e : fibStrand n = k
  · subst e
    cases hs : s.strand? (fibStrand n) <;> simp [hs, h]
  · rw [State.strand?_modStrand_ne _ _ e]

theorem State.fib?_modCluster (s : State) (c n : Nat) (f : Cluster → Cluster) : (s.modCluster c f).fib? n = s.fib? n := rfl

/-- Marking poisoned words leaves every fibre (R332). -/
@[simp] theorem State.fib?_noteErrs (s : State) (is : Issue) (i : Instr) (n : Nat) : (s.noteErrs is i).fib? n = s.fib? n := by
  unfold State.noteErrs
  split
  · rfl
  · next c _ =>
    refine List.foldlRecOn (motive := fun a : State => a.fib? n = s.fib? n) _ _ rfl fun a ih e _ => ?_
    rw [State.fib?_modCluster, State.fib?_modStrand_of_paths, ih]
    exact fun _ => rfl

/-- A fibre that is there has a context. -/
theorem mkCtx_of_fib? (i : Instr) {s : State} {is : Issue} {f : Fibre} (h : s.fib? is.fib = some f) :
    ∃ c, mkCtx i s is = some c := by
  obtain ⟨st, hst, -⟩ := Option.bind_eq_some_iff.mp h
  unfold mkCtx
  rw [hst, h]
  exact ⟨_, rfl⟩

/-- An instruction whose fibre is there is at its beat 2 when the step has noted the errors it found. -/
theorem atBeat2_noteErrs {s : State} {is : Issue} {f : Fibre} (i : Instr) (h : s.fib? is.fib = some f) :
    ∃ c, AtBeat2 i { s.noteErrs is i with cur := some is } c := by
  have hf : ({ s.noteErrs is i with cur := some is } : State).fib? is.fib = some f := (s.fib?_noteErrs is i is.fib).trans h
  obtain ⟨c, hc⟩ := mkCtx_of_fib? i hf
  exact ⟨c, is, rfl, hc⟩

section
variable {s : State} {is : Issue} {f : Fibre} {st : Strand}

/-- The fibre stands at the beats of the issue. -/
theorem stillAt_of_beats (hf : s.fib? is.fib = some f) (hb : f.beats = [is.r0, is.r1, is.r2]) : s.stillAt is = true := by
  simp [State.stillAt, hf, hb]

/-- What an issue comes to while its fibre stands at the beats it names: what the fetch gives decides. -/
theorem runIssue_eq (hf : s.fib? is.fib = some f) (hst : s.strand? (fibStrand is.fib) = some st)
    (hb : f.beats = [is.r0, is.r1, is.r2]) :
    s.runIssue is =
      let u : State := { s with issues := s.issues.erase is }
      match s.fetch is.fib f with
      | .instr i =>
        match u.drainWait is.fib i with
        | some n => .next (u.stall is.fib (.bank n))
        | none => exec i { u.noteErrs is i with cur := some is }
      | r => .next (u.notFetched is.fib f st r) := by
  have hat : ({ s with issues := s.issues.erase is } : State).stillAt is = true := stillAt_of_beats (s := s) hf hb
  have hf' : ({ s with issues := s.issues.erase is } : State).fib? is.fib = some f := hf
  have hst' : ({ s with issues := s.issues.erase is } : State).strand? (fibStrand is.fib) = some st := hst
  rw [← State.fetch_issues s (s.issues.erase is)]
  simp only [State.runIssue, hat, hf', hst'] <;> rfl

end

/-! ### A fetch that gives an instruction -/

/-- What decodes has a length. -/
theorem decode_length_pos {bs : List Byte} {i : Instr} {n : Nat} (h : decode bs = .ok (i, n)) : 0 < n := by
  unfold decode at h
  dsimp only at h
  split at h
  · cases h
  · split at h
    · cases h
    · split at h
      · cases h
      · split at h
        · cases h
          unfold lenBytes
          omega
        · cases h

/-- A block whose bytes decode to an instruction that lies within the text gives that instruction. -/
theorem decodeBlock_of_decode {bs : List Byte} {pc : DWord} {room n : Nat} {i : Instr} (hd : decode bs = .ok (i, n)) (hn : n ≤ room) :
    decodeBlock bs pc room = .instr i := by
  simp [decodeBlock, hd, Nat.not_lt.mpr hn]

/-- Outside a run that substitution observes, a fibre fetches its own text. -/
theorem State.fetch_of_no_run (s : State) (k : Nat) {f : Fibre} (h : f.run = none) : s.fetch k f = s.fetchAt k f := by
  simp [State.fetch, h]

/-- A page from which a fibre may fetch code. -/
def Xlat.Fetchable (x : Xlat) : Prop := x.x = true ∧ x.code = true ∧ x.loc = 0 ∧ x.ord ≠ 3

/-- Steps 1 to 11 of Table 2.7 pass: the fetch gives the instruction that the bytes decode to. -/
theorem State.fetchAt_of_decode {s : State} {k : Nat} {f : Fibre} {x : Xlat} {i : Instr} {n : Nat} (hal : pcOffset f.pc % 4 = 0)
    (hh : pcHandle f.pc < 4096) (hv : beValid (s.fibEntry k f.pc) = true) (hn : pcOffset f.pc + n ≤ beLen (s.fibEntry k f.pc))
    (ht : s.tlbFind (fibCluster k) (s.strandCtx (fibStrand k)) (s.fetchAddr k f) = some x) (hx : x.Fetchable)
    (har : s.arrived k f.pc = true) (hd : decode (s.fetchBytes k f (x.key (s.fetchAddr k f))) = .ok (i, n)) :
    s.fetchAt k f = .instr i := by
  obtain ⟨hxx, hc, hl, ho⟩ := hx
  have hpos := decode_length_pos hd
  have hin : ¬ (4096 ≤ pcHandle f.pc ∨ (!beValid (s.fibEntry k f.pc)) = true ∨ beLen (s.fibEntry k f.pc) ≤ pcOffset f.pc) := by
    simp only [hv, Bool.not_true, Bool.false_eq_true, false_or]
    omega
  have hperm : (!x.x || !x.code || x.loc != 0 || x.ord == 3) = false := by simp [hxx, hc, hl, ho]
  unfold State.fetchAt
  simp only [hal, ne_eq, not_true_eq_false, if_false, if_neg hin, ht, hperm, har, Bool.not_true, Bool.false_eq_true]
  exact decodeBlock_of_decode hd (by omega)

/-! ### Every step answers -/

theorem runIssue_answers (s : State) (is : Issue) : Answers (s.runIssue is) := by
  unfold State.runIssue
  dsimp only
  split
  · exact answers_next _
  · split
    · next f st hf _ =>
      split
      · next i _ =>
        split
        · exact answers_next _
        · obtain ⟨c, hc⟩ := atBeat2_noteErrs i hf
          exact exec_answers hc
      · exact answers_next _
    · exact answers_next _

theorem runEvent_answers (s : State) (e : Instr) : Answers (s.runEvent e) := by
  unfold State.runEvent
  split
  · next he => exact exec_event_answers e s he
  · exact answers_next _

/-- What changes the state is a next state. -/
theorem answers_of_changes {s : State} {e : Instr} (h : s.changes e = true) : Answers (exec e s) := by
  unfold State.changes at h
  split at h
  · next t ht => exact ⟨t, ht⟩
  · cases h

theorem step_answers (s : State) : Answers (step s) := by
  unfold step
  split
  · exact runEvent_answers _ _
  · split
    · exact runIssue_answers _ _
    · split
      · exact answers_next _
      · split
        · exact answers_next _
        · split
          · next e he => exact answers_of_changes (List.find?_some he)
          · exact answers_next _

end Sys2Proof.Machine
end

section
/-! SUPPORT. The statements about the step and the checks before every effect, settled. -/

namespace Sys2Proof.Machine

/-- Settles O4: the agenda's head, an issue, a unit's own event and the next cycle each answer a next state. -/
theorem everyStepAnswersANextState : Obligations.EveryStepAnswersANextState := step_answers

/-- Settles O8: every meaning is one issue, and `Ctx.check` looks at the run, the level, the fields and the allotment in this order. -/
theorem failedChecksTrapFirst : Obligations.FailedChecksTrapFirst := by
  unfold Obligations.FailedChecksTrapFirst
  intro s i c he h long level low
  obtain rfl : c.i = i := by
    obtain ⟨is, -, hc⟩ := h
    exact (mkCtx_strand hc).2.2.1
  have hlong : ¬ long → c.runLong = false := fun hn => by rwa [← Bool.not_eq_true, Ctx.runLong_iff]
  have hpriv : ¬ low → c.privBad = none := c.privBad_eq.2
  refine ⟨fun hl => ?_, fun hl hw => ?_, fun hl hw e hf hx => ?_, fun hl hw hf hx pre v post hn hpre hv hout => ?_⟩
  · exact exec_check he h (Ctx.check_runLong (c.runLong_iff.mpr hl))
  · exact ⟨_, exec_check he h (Ctx.check_priv (hlong hl) (c.privBad_eq.1 hw)), Ctx.privAddr_cases hw⟩
  · exact exec_check he h (Ctx.check_field (hlong hl) (hpriv hw) ((Ctx.fieldBad_eq hx).trans hf))
  · exact exec_check he h
      (Ctx.check_range (hlong hl) (hpriv hw) ((Ctx.fieldBad_eq hx).trans hf) (Ctx.rangeBad_eq hn hpre hv hout))

/-- Settles O3: the step is the issue whose moment has come or the event at the agenda's head, and steps 1 to 11 of Table 2.7 decide what
a fetch gives. -/
theorem stepRunsTheDecodedInstruction : Obligations.StepRunsTheDecodedInstruction := by
  unfold Obligations.StepRunsTheDecodedInstruction
  refine ⟨fun s is f st ha hi hf hst hb => ?_, fun s e rest => step_event, ?_⟩
  · have hstep := (step_issue ha hi).trans (runIssue_eq hf hst hb)
    refine ⟨fun i hfe => ⟨fun hd => ?_, fun n hd => ?_⟩, fun t hfe => ?_⟩
    · simp only [hstep, hfe, hd]
    · simp only [hstep, hfe, hd]
    · simp only [hstep, hfe, State.notFetched, tri1]
  · intro s k f x i n e hr hal hh hv hn ht hx hc hl ho har hd
    rw [s.fetch_of_no_run k hr]
    exact State.fetchAt_of_decode hal hh hv hn ht ⟨hx, hc, hl, ho⟩ har hd

end Sys2Proof.Machine
end

section
/-! SUPPORT. What the machine holds right after reset. -/

namespace Sys2Proof.Machine

/-! ### What the machine holds right after reset -/

@[simp] theorem State.reset_ctx (k : Nat) : State.reset.ctx k = {} := (rfl)
@[simp] theorem State.reset_part (p : Nat) : State.reset.part p = {} := (rfl)
@[simp] theorem State.reset_cluster (c : Nat) : State.reset.cluster c = {} := (rfl)

/-- The range of a partition begins above its end. -/
theorem State.reset_owns (p c : Nat) : State.reset.owns p c = false := by
  have h : ¬ (1 ≤ c ∧ c ≤ 0) := by omega
  simpa [State.owns] using fun hb hl => absurd ⟨hb, hl.le⟩ h

theorem memOk_reset : MemOk State.reset := ⟨reset_memWf, by simp [State.reset]⟩

theorem State.reset_banks (c : Nat) :
    (State.reset.cluster c).banks.length = 16 ∧ ∀ b ∈ (State.reset.cluster c).banks, b.mode = .cache := by
  simp

theorem State.reset_poolLim (unit loc q : Nat) : State.reset.poolLim unit loc q = (0, poolSize unit) := (rfl)

/-! ### The system registers right after reset, block by block -/

@[simp] theorem half_zero (hi : Bool) : half hi 0#64 = 0#32 := by cases hi <;> rfl
@[simp] theorem bit_false (n : Nat) : bit false n = 0 := (rfl)

/-- No entry of a substitution table is in use. -/
theorem State.reset_subCount {st : SubState} (h : st ≠ .free) (cl p : Nat) : State.reset.subCount cl p st = 0 := by
  simp [State.subCount, h.symm]

@[simp] theorem State.reset_cmpParked (p : Nat) : State.reset.cmpParked p = false := (rfl)

section
variable (r : RegAt)

theorem State.reset_readTrap : ∀ e ∈ [(0x020, 5000), (0x021, 100000)], State.reset.readTrap r e.1 = e.2 := by
  simp [State.readTrap]

theorem State.reset_readSubst : ∀ n ∈ [0x0C0, 0x0C1], State.reset.readSubst r n = 0 := by
  simp [State.readSubst, State.reset_subCount]

theorem State.reset_readDebug :
    ∀ e ∈ [(0x0E0, 0xA00), (0x0E7, 0x0C000000), (0x0EC, 0), (0x0F8, 0x10000000), (0x0FC, 1), (0x0FD, 0)],
      State.reset.readDebug r e.1 = e.2 := by
  simp [State.readDebug]

theorem State.reset_readPart : ∀ e ∈ [(0x101, 1), (0x102, 1), (0x10A, 100000), (0x11B, 0)], State.reset.readPart r e.1 = e.2 := by
  simp [State.readPart]

theorem State.reset_readXl :
    ∀ e ∈ [(0x206, 8), (0x212, 64)], State.reset.readXl r e.1 = e.2 := by
  simp [State.readXl]

theorem State.reset_readXl_zero :
    ∀ n ∈ [0x200, 0x201, 0x202, 0x204, 0x205, 0x208, 0x209, 0x20A, 0x210, 0x211, 0x213, 0x214], State.reset.readXl r n = 0 := by
  simp [State.readXl]

/-- The number of a register names the block that answers a read. -/
theorem State.reset_regRead : ∀ e ∈ resetSr, State.reset.regRead r e.1 = e.2 := by
  have ht := State.reset_readTrap r
  have hs := State.reset_readSubst r
  have hd := State.reset_readDebug r
  have hp := State.reset_readPart r
  have hx := State.reset_readXl r
  have hz := State.reset_readXl_zero r
  simp only [List.forall_mem_cons] at ht hs hd hp hx hz
  simp [resetSr, State.regRead, ht, hs, hd, hp, hx, hz]

end

/-- Settles O6: each part is the default of its field, and a system register reads that default. -/
theorem resetIsAsStated : Obligations.ResetIsAsStated := by
  unfold Obligations.ResetIsAsStated
  exact ⟨rfl, rfl, memOk_reset, State.reset_owns, State.reset_banks, fun ctx cl fib => State.reset_regRead ⟨ctx, cl, fib⟩,
    State.reset_poolLim, fun p => by simp⟩

end Sys2Proof.Machine
end

section
/-! SUPPORT. The form of memory and scratch: what a state holds of them, what an update leaves of them, and the form through every
operation of the model. A function of the model either leaves the contents as they are (its lemma is an equation `contents_f`) or writes
them in their form (its lemma is `Contents.Ok.f`); an instruction and an event have a lemma `outOk_f`. -/

namespace Sys2Proof.Machine

/-- What memory and scratch hold: the cells of memory, and for each skein its number, the cells of its scratch and the slots of its
swizzled areas. -/
structure Contents where
  mem : List Host.Cell
  skeins : List (Nat × List Host.Cell × Table (Nat × Nat))

def State.contents (s : State) : Contents where
  mem := s.mem
  skeins := s.skeins.map fun e => (e.1, e.2.scratch, e.2.scrcfg)

/-- The slots of a swizzled area are whole blocks (R216). -/
def SlotsOk (t : Table (Nat × Nat)) : Prop := ∀ x ∈ t, x.2.1 % 4096 = 0 ∧ x.2.2 % 4096 = 0

/-- The cells are in canonical form (R20), and the slots are whole blocks (R216). -/
def Contents.Ok (m : Contents) : Prop := memWf m.mem = true ∧ ∀ e ∈ m.skeins, memWf e.2.1 = true ∧ SlotsOk e.2.2

theorem State.contents_ok_iff (s : State) :
    s.contents.Ok ↔ memWf s.mem = true ∧ ∀ e ∈ s.skeins, memWf e.2.scratch = true ∧ SlotsOk e.2.scrcfg := by
  simp only [Contents.Ok, State.contents, List.forall_mem_map]

theorem memOk_iff (s : State) : MemOk s ↔ s.contents.Ok := (s.contents_ok_iff).symm

/-! ### What an update leaves -/

@[simp] theorem State.contents_with (s : State)
    (cycle refCount poison hostErr writeNo writeRels hist soView scView l2 strands clusters ctxs parts launches launchCtr irqs
    dies ics bpLim beaten issues cur agenda freeCtr ticketCtr neigh hostOwned portsDown peerOut absent refFrac clkK power
    startStat released mbCmd mbRet mbData mbWait fwSlots fwActive fwNext fwRun doeOut msix msixPba hdmBase memActive linkDown
    blob spdm ideKm hostData hostPoison) :
    State.contents { s with
      cycle, refCount, poison, hostErr, writeNo, writeRels, hist, soView, scView, l2, strands, clusters, ctxs, parts, launches,
      launchCtr, irqs, dies, ics, bpLim, beaten, issues, cur, agenda, freeCtr, ticketCtr, neigh, hostOwned, portsDown, peerOut,
      absent, refFrac, clkK, power, startStat, released, mbCmd, mbRet, mbData, mbWait, fwSlots, fwActive, fwNext, fwRun, doeOut,
      msix, msixPba, hdmBase, memActive, linkDown, blob, spdm, ideKm, hostData, hostPoison } = s.contents := (rfl)

theorem map_tmod {α β : Type} (t : Table α) (n : Nat) (f : α → α) (g : Nat × α → β) (h : ∀ k a, g (k, f a) = g (k, a)) :
    (tmod t n f).map g = t.map g := by
  induction t with
  | nil => rfl
  | cons e t ih =>
    obtain ⟨k, v⟩ := e
    unfold tmod
    split
    · simp only [List.map_cons, h]
    · simp only [List.map_cons, ih]

@[simp] theorem State.contents_modSkein (s : State) (n : Nat) (f : Skein → Skein)
    (h : ∀ k, (f k).scratch = k.scratch ∧ (f k).scrcfg = k.scrcfg) : (s.modSkein n f).contents = s.contents := by
  unfold State.contents State.modSkein
  dsimp only
  rw [map_tmod]
  intro k a
  simp only [h]

@[simp] theorem State.contents_ite (c : Prop) [Decidable c] (s t : State) :
    State.contents (if c then s else t) = if c then s.contents else t.contents := apply_ite ..

@[simp] theorem State.contents_foldl {α : Type} (l : List α) (f : State → α → State) (s : State)
    (h : ∀ s a, (f s a).contents = s.contents) : (l.foldl f s).contents = s.contents := by
  induction l generalizing s with
  | nil => rfl
  | cons a l ih => rw [List.foldl_cons, ih, h]

/-! ### What keeps the form -/

@[simp] theorem Contents.ok_ite (c : Prop) [Decidable c] (m n : Contents) :
    (if c then m else n).Ok ↔ if c then m.Ok else n.Ok := by
  split <;> rfl

theorem Contents.Ok.foldl {α : Type} (l : List α) {f : State → α → State} {s : State} (h : s.contents.Ok)
    (hf : ∀ s a, s.contents.Ok → (f s a).contents.Ok) : (l.foldl f s).contents.Ok :=
  List.foldlRecOn (motive := fun s => s.contents.Ok) l f h fun s hs a _ => hf s a hs

/-- The same of a fold that carries more than the state. -/
theorem Contents.Ok.foldl_fst {α β : Type} (l : List α) {f : State × β → α → State × β} {s : State × β} (h : s.1.contents.Ok)
    (hf : ∀ s a, s.1.contents.Ok → (f s a).1.contents.Ok) : (l.foldl f s).1.contents.Ok :=
  List.foldlRecOn (motive := fun s => s.1.contents.Ok) l f h fun s hs a _ => hf s a hs

/-- With the same skeins, only the cells of memory matter. -/
theorem Contents.Ok.of_mem {s t : State} (h : s.contents.Ok) (hs : t.skeins = s.skeins) (hm : memWf t.mem = true) :
    t.contents.Ok := by
  rw [State.contents_ok_iff] at h ⊢
  exact ⟨hm, hs ▸ h.2⟩

theorem mem_tmod {α : Type} {t : Table α} {n : Nat} {f : α → α} {e : Nat × α} (h : e ∈ tmod t n f) :
    e ∈ t ∨ ∃ a, (n, a) ∈ t ∧ e = (n, f a) := by
  induction t with
  | nil => cases h
  | cons x t ih =>
    obtain ⟨k, v⟩ := x
    unfold tmod at h
    split at h
    · next hk =>
      subst hk
      obtain rfl | h := List.mem_cons.mp h
      · exact .inr ⟨v, List.mem_cons_self, rfl⟩
      · exact .inl (List.mem_cons_of_mem _ h)
    · obtain rfl | h := List.mem_cons.mp h
      · exact .inl List.mem_cons_self
      · obtain h | ⟨a, ha, rfl⟩ := ih h
        · exact .inl (List.mem_cons_of_mem _ h)
        · exact .inr ⟨a, List.mem_cons_of_mem _ ha, rfl⟩

theorem mem_tset {α : Type} {t : Table α} {n : Nat} {a : α} {e : Nat × α} (h : e ∈ tset t n a) : e ∈ t ∨ e = (n, a) := by
  induction t with
  | nil => exact .inr (List.mem_singleton.mp h)
  | cons x t ih =>
    obtain ⟨k, v⟩ := x
    unfold tset at h
    split at h
    · exact (List.mem_cons.mp h).symm
    · split at h
      · exact (List.mem_cons.mp h).symm.imp_left (List.mem_cons_of_mem _)
      · obtain rfl | h := List.mem_cons.mp h
        · exact .inl List.mem_cons_self
        · exact (ih h).imp_left (List.mem_cons_of_mem _)

/-- A skein changed into one that keeps the form. -/
theorem Contents.Ok.modSkein {s : State} (h : s.contents.Ok) (n : Nat) {f : Skein → Skein}
    (hf : ∀ k, memWf k.scratch = true → SlotsOk k.scrcfg → memWf (f k).scratch = true ∧ SlotsOk (f k).scrcfg) :
    (s.modSkein n f).contents.Ok := by
  rw [State.contents_ok_iff] at h ⊢
  refine ⟨h.1, fun e he => ?_⟩
  obtain he | ⟨a, ha, rfl⟩ := mem_tmod he
  · exact h.2 e he
  · exact hf a (h.2 _ ha).1 (h.2 _ ha).2

/-- Skeins that leave. -/
theorem Contents.Ok.of_subset {s t : State} (h : s.contents.Ok) (hs : ∀ e ∈ t.skeins, e ∈ s.skeins) (hm : t.mem = s.mem) :
    t.contents.Ok := by
  rw [State.contents_ok_iff] at h ⊢
  exact ⟨hm ▸ h.1, fun e he => h.2 e (hs e he)⟩

/-! ### Writes -/

theorem State.logLine_skeins (s : State) (part : Option Nat) (key : Nat) : (s.logLine part key).skeins = s.skeins := by
  unfold State.logLine
  dsimp only
  repeat' split
  all_goals rfl

section
variable {s : State} (h : s.contents.Ok)
include h

@[simp] theorem Contents.Ok.logLine (part key) : (s.logLine part key).contents.Ok :=
  h.of_mem (s.logLine_skeins part key) (s.memWf_logLine part key (s.contents_ok_iff.mp h).1)

@[simp] theorem Contents.Ok.memPut (part key b) : (s.memPut part key b).contents.Ok := by
  refine h.of_mem ?_ (s.memWf_memPut part key b (s.contents_ok_iff.mp h).1)
  unfold State.memPut
  split
  · rfl
  · exact s.logLine_skeins part key

@[simp] theorem Contents.Ok.memPuts (part key bs) : (s.memPuts part key bs).contents.Ok := by
  induction bs generalizing s key with
  | nil => exact h
  | cons b bs ih => exact ih (Contents.Ok.memPut h part key b) _

@[simp] theorem Contents.Ok.memWrite (part key b) : (s.memWrite part key b).contents.Ok :=
  Contents.Ok.memPut (s := s.beginOther) h part key b

@[simp] theorem Contents.Ok.memWriteBytes (part key bs) : (s.memWriteBytes part key bs).contents.Ok :=
  Contents.Ok.memPuts (s := s.beginOther) h part key bs

@[simp] theorem Contents.Ok.hostPuts (a bs) : (s.hostPuts a bs).contents.Ok := by
  induction bs generalizing s a with
  | nil => exact h
  | cons b bs ih => exact ih (Contents.Ok.memPut h _ a b) _

@[simp] theorem Contents.Ok.hostWrite (a bs) : (s.hostWrite a bs).contents.Ok :=
  Contents.Ok.hostPuts (s := s.beginOther) h a bs

@[simp] theorem Contents.Ok.locPut (part l b) : (s.locPut part l b).contents.Ok := by
  cases l with
  | mem k => exact Contents.Ok.memPut h part k b
  | scr sk o => exact h.modSkein sk fun k hk hc => ⟨memWf_cellWrite _ _ _ hk, hc⟩

@[simp] theorem Contents.Ok.locWrite (part l b) : (s.locWrite part l b).contents.Ok :=
  Contents.Ok.locPut (s := s.beginOther) h part l b

@[simp] theorem Contents.Ok.locWrites (part bs) : (s.locWrites part bs).contents.Ok :=
  Contents.Ok.foldl bs (s := s.beginOther) h fun _ b hs => Contents.Ok.locPut hs part b.1 b.2

end

/-! ### The form in what an instruction comes to -/

/-- Every state that an effect comes to has its memories in form. -/
def Res.Ok : Res → Prop
  | .next s | .again s | .fin s | .trapIn s _ => s.contents.Ok
  | .trap _ => True

def WrRes.Ok : WrRes → Prop
  | .ok s => s.contents.Ok
  | _ => True

def SlotRes.Ok : SlotRes → Prop
  | .beat s | .moved s | .noted s _ => s.contents.Ok
  | .held _ => True

def MxWait.Ok : MxWait → Prop
  | .trap s _ | .wait s => s.contents.Ok

def MxRes.Ok : MxRes → Prop
  | .done s => s.contents.Ok
  | _ => True

def FnRes.Ok : FnRes → Prop
  | .done s => s.contents.Ok
  | _ => True

def EngRes.Ok : EngRes → Prop
  | .more s _ | .wait s _ | .over s _ _ => s.contents.Ok

/-- A next state has its memories in form. -/
def OutOk (o : Host.Outcome State Fault Refusal) : Prop := ∀ t, o = .next t → t.contents.Ok

@[simp] theorem outOk_next (s : State) : OutOk (.next s) ↔ s.contents.Ok := by simp [OutOk]
@[simp] theorem outOk_fault (f : Fault) : OutOk (.fault f) := by simp [OutOk]

@[simp] theorem outOk_ite (c : Prop) [Decidable c] (a b : Host.Outcome State Fault Refusal) :
    OutOk (if c then a else b) ↔ if c then OutOk a else OutOk b := by split <;> rfl

@[simp] theorem Res.ok_ite (c : Prop) [Decidable c] (a b : Res) : (if c then a else b).Ok ↔ if c then a.Ok else b.Ok := by
  split <;> rfl

@[simp] theorem WrRes.ok_ite (c : Prop) [Decidable c] (a b : WrRes) : (if c then a else b).Ok ↔ if c then a.Ok else b.Ok := by
  split <;> rfl

@[simp] theorem Res.ok_next (s : State) : (Res.next s).Ok ↔ s.contents.Ok := Iff.rfl
@[simp] theorem Res.ok_again (s : State) : (Res.again s).Ok ↔ s.contents.Ok := Iff.rfl
@[simp] theorem Res.ok_fin (s : State) : (Res.fin s).Ok ↔ s.contents.Ok := Iff.rfl
@[simp] theorem Res.ok_trap (t : Trap) : (Res.trap t).Ok := trivial
@[simp] theorem Res.ok_trapIn (s : State) (t : Trap) : (Res.trapIn s t).Ok ↔ s.contents.Ok := Iff.rfl

@[simp] theorem WrRes.ok_ok (s : State) : (WrRes.ok s).Ok ↔ s.contents.Ok := Iff.rfl
@[simp] theorem WrRes.ok_bad : WrRes.bad.Ok := trivial
@[simp] theorem WrRes.ok_refused : WrRes.refused.Ok := trivial
@[simp] theorem WrRes.ok_wait : WrRes.wait.Ok := trivial

@[simp] theorem SlotRes.ok_beat (s : State) : (SlotRes.beat s).Ok ↔ s.contents.Ok := Iff.rfl
@[simp] theorem SlotRes.ok_moved (s : State) : (SlotRes.moved s).Ok ↔ s.contents.Ok := Iff.rfl
@[simp] theorem SlotRes.ok_noted (s : State) (n : Nat) : (SlotRes.noted s n).Ok ↔ s.contents.Ok := Iff.rfl

@[simp] theorem MxWait.ok_trap (s : State) (t : Trap) : (MxWait.trap s t).Ok ↔ s.contents.Ok := Iff.rfl
@[simp] theorem MxWait.ok_wait (s : State) : (MxWait.wait s).Ok ↔ s.contents.Ok := Iff.rfl

@[simp] theorem MxRes.ok_done (s : State) : (MxRes.done s).Ok ↔ s.contents.Ok := Iff.rfl
@[simp] theorem MxRes.ok_wait : MxRes.wait.Ok := trivial
@[simp] theorem MxRes.ok_abort (c : Cause) (a : Nat) (w : Bool) : (MxRes.abort c a w).Ok := trivial

@[simp] theorem FnRes.ok_done (s : State) : (FnRes.done s).Ok ↔ s.contents.Ok := Iff.rfl
@[simp] theorem FnRes.ok_cause (e : Cause) (r : Nat) (l : Option Lanes) : (FnRes.cause e r l).Ok := trivial

@[simp] theorem EngRes.ok_more (s : State) (o : EngOp) : (EngRes.more s o).Ok ↔ s.contents.Ok := Iff.rfl
@[simp] theorem EngRes.ok_wait (s : State) (o : EngOp) : (EngRes.wait s o).Ok ↔ s.contents.Ok := Iff.rfl

end Sys2Proof.Machine
end

section
/-! SUPPORT. The form of memory and scratch through table access and counting. -/

namespace Sys2Proof.Machine

/-! ### Table access -/

@[simp] theorem State.contents_modStrand (s : State) (k f) : (s.modStrand k f).contents = s.contents := (rfl)
@[simp] theorem State.contents_modFib (s : State) (k f) : (s.modFib k f).contents = s.contents := (rfl)
@[simp] theorem State.contents_modCluster (s : State) (c f) : (s.modCluster c f).contents = s.contents := (rfl)
@[simp] theorem State.contents_modSpindle (s : State) (c i f) : (s.modSpindle c i f).contents = s.contents := (rfl)
@[simp] theorem State.contents_modCtx (s : State) (k f) : (s.modCtx k f).contents = s.contents := (rfl)
@[simp] theorem State.contents_modPart (s : State) (p f) : (s.modPart p f).contents = s.contents := (rfl)
@[simp] theorem State.contents_modDie (s : State) (d f) : (s.modDie d f).contents = s.contents := (rfl)

/-! ### Counts, packets and vectors -/

@[simp] theorem State.contents_count (s : State) (cl code n) : (s.count cl code n).contents = s.contents := (rfl)
@[simp] theorem State.contents_raise (s : State) (v) : (s.raise v).contents = s.contents := by simp [State.raise]
@[simp] theorem State.contents_msixWrite (s : State) (n w) : (s.msixWrite n w).contents = s.contents := by
  simp [State.msixWrite]
@[simp] theorem State.contents_packet (s : State) (k type payload) : (s.packet k type payload).contents = s.contents := by
  simp [State.packet]
@[simp] theorem State.contents_traceFlush (s : State) (cl) : (s.traceFlush cl).contents = s.contents := by
  simp [State.traceFlush]

end Sys2Proof.Machine
end

section
/-! SUPPORT. The form of memory and scratch through slots, fibre states and trap entry. -/

namespace Sys2Proof.Machine

/-! ### Slots and fibre states -/

@[simp] theorem State.contents_unslot (s : State) (k) : (s.unslot k).contents = s.contents := by
  unfold State.unslot
  split <;> simp
@[simp] theorem State.contents_hold (s : State) (k seq t) : (s.hold k seq t).contents = s.contents := (rfl)
@[simp] theorem State.contents_park (s : State) (k w) : (s.park k w).contents = s.contents := by simp [State.park]
@[simp] theorem State.contents_stall (s : State) (k w) : (s.stall k w).contents = s.contents := (rfl)
@[simp] theorem State.contents_unstall (s : State) (k) : (s.unstall k).contents = s.contents := (rfl)
@[simp] theorem State.contents_ready (s : State) (k) : (s.ready k).contents = s.contents := by simp [State.ready]

/-! ### Trap entry -/

@[simp] theorem State.contents_enterHandler (s : State) (k tr resume start act t) :
    (s.enterHandler k tr resume start act t).contents = s.contents := by
  unfold State.enterHandler
  split <;> simp

@[simp] theorem State.contents_awaitEntry (s : State) (k tr resume start act) :
    (s.awaitEntry k tr resume start act).contents = s.contents := (rfl)
@[simp] theorem State.contents_pageRequest (s : State) (d e) : (s.pageRequest d e).contents = s.contents := by
  simp [State.pageRequest]

@[simp] theorem State.contents_parkDeliver (s : State) (k tr resume act nest) :
    (s.parkDeliver k tr resume act nest).contents = s.contents := by
  unfold State.parkDeliver
  split <;> simp

@[simp] theorem State.contents_deliver (s : State) (k tr resume start act) : (s.deliver k tr resume start act).contents = s.contents := by
  unfold State.deliver
  repeat' split
  all_goals simp

@[simp] theorem State.contents_takeTrap (s : State) (k tr act len) : (s.takeTrap k tr act len).contents = s.contents := by
  unfold State.takeTrap
  split <;> simp

end Sys2Proof.Machine
end

section
/-! SUPPORT. The form of memory and scratch through operand forms and whole instructions. -/

namespace Sys2Proof.Machine

/-! ### Checks of Table 2.7 that need the state, and R68, R332 -/

@[simp] theorem State.contents_noteErrs (s : State) (is i) : (s.noteErrs is i).contents = s.contents := by
  unfold State.noteErrs
  split <;> simp

/-! ### Destinations (R99) -/

@[simp] theorem Ctx.contents_putAt (s : State) (c : Ctx) (reg lanes val cov ld tag) :
    (c.putAt s reg lanes val cov ld tag).contents = s.contents := (rfl)
@[simp] theorem Ctx.contents_putBits (s : State) (c : Ctx) (reg lanes val cov lat tag) :
    (c.putBits s reg lanes val cov lat tag).contents = s.contents := (rfl)
@[simp] theorem Ctx.contents_putSpan (s : State) (c : Ctx) (reg n val lat tag) : (c.putSpan s reg n val lat tag).contents = s.contents := by
  simp [Ctx.putSpan]
@[simp] theorem Ctx.contents_put (s : State) (c : Ctx) (reg val lat) : (c.put s reg val lat).contents = s.contents := (rfl)
@[simp] theorem Ctx.contents_putElems (s : State) (c : Ctx) (f w val lat) : (c.putElems s f w val lat).contents = s.contents := (rfl)
@[simp] theorem Ctx.contents_putPair (s : State) (c : Ctx) (reg val lat) : (c.putPair s reg val lat).contents = s.contents := (rfl)

/-! ### Whole instructions -/

@[simp] theorem Ctx.contents_advance (s : State) (c : Ctx) : (c.advance s).contents = s.contents := (rfl)
@[simp] theorem Ctx.contents_noteParked (s : State) (c : Ctx) : (c.noteParked s).contents = s.contents := (rfl)
@[simp] theorem State.contents_endRun (s : State) (k pc) : (s.endRun k pc).contents = s.contents := by
  unfold State.endRun
  split <;> simp
@[simp] theorem State.contents_toReady (s : State) (k) : (s.toReady k).contents = s.contents := by
  unfold State.toReady
  split <;> simp

@[simp] theorem State.contents_waitDone (s : State) (k) : (s.waitDone k).contents = s.contents := by
  unfold State.waitDone
  repeat' split
  all_goals simp

@[simp] theorem Ctx.contents_closeRun (s : State) (c : Ctx) : (c.closeRun s).contents = s.contents := (rfl)
@[simp] theorem Ctx.ok_goto {s : State} (h : s.contents.Ok) (c : Ctx) (pc) : (c.goto s pc).Ok := by simp [Ctx.goto, h]
@[simp] theorem Ctx.ok_gotoNext {s : State} (h : s.contents.Ok) (c : Ctx) : (c.gotoNext s).Ok := by simp [Ctx.gotoNext, h]
@[simp] theorem Ctx.ok_await {s : State} (h : s.contents.Ok) (c : Ctx) (w) : (c.await s w).Ok := by simp [Ctx.await, h]

/-- An instruction keeps the form where its effect does: a check that fails takes a trap, and what follows the effect writes nothing. -/
theorem Contents.Ok.issue {s : State} (h : s.contents.Ok) (i : Instr) (body : Ctx → State → Res) (hb : ∀ c, (body c s).Ok) :
    OutOk (issue i s body) := by
  unfold Machine.issue
  split
  · simp
  · split
    · simp
    · next c _ =>
      have hc := hb c
      dsimp only
      split
      · simp [h]
      · cases e : body c s <;> rw [e] at hc
        case trap => simp [h]
        all_goals simpa using hc

/-! ### Sticky status bits -/

@[simp] theorem Ctx.contents_orFlags (s : State) (c : Ctx) (fl lat) : (c.orFlags s fl lat).contents = s.contents := by
  simp [Ctx.orFlags]

end Sys2Proof.Machine
end

section
/-! SUPPORT. The form of memory and scratch through integer, logical, move and address instructions. -/

namespace Sys2Proof.Machine

@[simp] theorem Ctx.contents_putSat (s : State) (c : Ctx) (reg w dm res lat) : (c.putSat s reg w dm res lat).contents = s.contents := by
  simp [Ctx.putSat]

@[simp] theorem outOk_intBin {s : State} (h : s.contents.Ok) (i f k lat op) : OutOk (intBin i f k lat op s) :=
  h.issue _ _ fun c => by simp [h]

@[simp] theorem outOk_intUn {s : State} (h : s.contents.Ok) (i f k lat op) : OutOk (intUn i f k lat op s) :=
  h.issue _ _ fun c => by simp [h]

@[simp] theorem outOk_intTer {s : State} (h : s.contents.Ok) (i f k lat op) : OutOk (intTer i f k lat op s) :=
  h.issue _ _ fun c => by simp [h]

@[simp] theorem outOk_intImm {s : State} (h : s.contents.Ok) (i f lat op) : OutOk (intImm i f lat op s) :=
  h.issue _ _ fun c => by simp [h]

@[simp] theorem outOk_execIadd {s : State} (h : s.contents.Ok) (sat f) : OutOk (execIadd sat f s) := by simp [execIadd, h]
@[simp] theorem outOk_execIsub {s : State} (h : s.contents.Ok) (sat f) : OutOk (execIsub sat f s) := by simp [execIsub, h]
@[simp] theorem outOk_execIaddi {s : State} (h : s.contents.Ok) (sat f) : OutOk (execIaddi sat f s) := by simp [execIaddi, h]
@[simp] theorem outOk_execImul {s : State} (h : s.contents.Ok) (f) : OutOk (execImul f s) := by simp [execImul, h]
@[simp] theorem outOk_execImulh {s : State} (h : s.contents.Ok) (f) : OutOk (execImulh f s) := by simp [execImulh, h]
@[simp] theorem outOk_execImad {s : State} (h : s.contents.Ok) (sat f) : OutOk (execImad sat f s) := by simp [execImad, h]

@[simp] theorem outOk_execImadw {s : State} (h : s.contents.Ok) (f) : OutOk (execImadw f s) := h.issue _ _ fun c => by simp [h]

@[simp] theorem Res.ok_divBody {s : State} (h : s.contents.Ok) (rem f c) : (divBody rem f c s).Ok := by simp [divBody, h]

@[simp] theorem outOk_execIdiv {s : State} (h : s.contents.Ok) (f) : OutOk (execIdiv f s) := h.issue _ _ fun c => by simp [h]

@[simp] theorem outOk_execIrem {s : State} (h : s.contents.Ok) (f) : OutOk (execIrem f s) := h.issue _ _ fun c => by simp [h]

@[simp] theorem outOk_execImin {s : State} (h : s.contents.Ok) (f) : OutOk (execImin f s) := by simp [execImin, h]
@[simp] theorem outOk_execImax {s : State} (h : s.contents.Ok) (f) : OutOk (execImax f s) := by simp [execImax, h]
@[simp] theorem outOk_execIabs {s : State} (h : s.contents.Ok) (f) : OutOk (execIabs f s) := by simp [execIabs, h]
@[simp] theorem outOk_execIneg {s : State} (h : s.contents.Ok) (f) : OutOk (execIneg f s) := by simp [execIneg, h]

@[simp] theorem outOk_rawBin {s : State} (h : s.contents.Ok) (i f op) : OutOk (rawBin i f op s) :=
  h.issue _ _ fun c => by simp [h]

@[simp] theorem outOk_execAnd {s : State} (h : s.contents.Ok) (f) : OutOk (execAnd f s) := by simp [execAnd, h]
@[simp] theorem outOk_execOr {s : State} (h : s.contents.Ok) (f) : OutOk (execOr f s) := by simp [execOr, h]
@[simp] theorem outOk_execXor {s : State} (h : s.contents.Ok) (f) : OutOk (execXor f s) := by simp [execXor, h]
@[simp] theorem outOk_execAndn {s : State} (h : s.contents.Ok) (f) : OutOk (execAndn f s) := by simp [execAndn, h]
@[simp] theorem outOk_execOrn {s : State} (h : s.contents.Ok) (f) : OutOk (execOrn f s) := by simp [execOrn, h]
@[simp] theorem outOk_execXnor {s : State} (h : s.contents.Ok) (f) : OutOk (execXnor f s) := by simp [execXnor, h]

@[simp] theorem outOk_logicImm {s : State} (h : s.contents.Ok) (i f op) : OutOk (logicImm i f op s) :=
  h.issue _ _ fun c => by simp [h]

@[simp] theorem outOk_execAndi {s : State} (h : s.contents.Ok) (f) : OutOk (execAndi f s) := by simp [execAndi, h]
@[simp] theorem outOk_execOri {s : State} (h : s.contents.Ok) (f) : OutOk (execOri f s) := by simp [execOri, h]
@[simp] theorem outOk_execXori {s : State} (h : s.contents.Ok) (f) : OutOk (execXori f s) := by simp [execXori, h]
@[simp] theorem outOk_execShl {s : State} (h : s.contents.Ok) (f) : OutOk (execShl f s) := by simp [execShl, h]
@[simp] theorem outOk_execShrl {s : State} (h : s.contents.Ok) (f) : OutOk (execShrl f s) := by simp [execShrl, h]
@[simp] theorem outOk_execShra {s : State} (h : s.contents.Ok) (f) : OutOk (execShra f s) := by simp [execShra, h]
@[simp] theorem outOk_execShli {s : State} (h : s.contents.Ok) (f) : OutOk (execShli f s) := by simp [execShli, h]
@[simp] theorem outOk_execShrli {s : State} (h : s.contents.Ok) (f) : OutOk (execShrli f s) := by simp [execShrli, h]
@[simp] theorem outOk_execShrai {s : State} (h : s.contents.Ok) (f) : OutOk (execShrai f s) := by simp [execShrai, h]
@[simp] theorem outOk_execFshr {s : State} (h : s.contents.Ok) (f) : OutOk (execFshr f s) := by simp [execFshr, h]
@[simp] theorem outOk_execBfx {s : State} (h : s.contents.Ok) (f) : OutOk (execBfx f s) := by simp [execBfx, h]
@[simp] theorem outOk_execBfi {s : State} (h : s.contents.Ok) (f) : OutOk (execBfi f s) := by simp [execBfi, h]
@[simp] theorem outOk_execPopc {s : State} (h : s.contents.Ok) (f) : OutOk (execPopc f s) := by simp [execPopc, h]
@[simp] theorem outOk_execClz {s : State} (h : s.contents.Ok) (f) : OutOk (execClz f s) := by simp [execClz, h]
@[simp] theorem outOk_execCtz {s : State} (h : s.contents.Ok) (f) : OutOk (execCtz f s) := by simp [execCtz, h]
@[simp] theorem outOk_execBrev {s : State} (h : s.contents.Ok) (f) : OutOk (execBrev f s) := by simp [execBrev, h]
@[simp] theorem Ctx.contents_putPred (s : State) (c : Ctx) (d b ts lat) : (c.putPred s d b ts lat).contents = s.contents := (rfl)

@[simp] theorem outOk_execIcmp {s : State} (h : s.contents.Ok) (cc f) : OutOk (execIcmp cc f s) :=
  h.issue _ _ fun c => by simp [h]

@[simp] theorem outOk_execIcmpi {s : State} (h : s.contents.Ok) (cc f) : OutOk (execIcmpi cc f s) :=
  h.issue _ _ fun c => by simp [h]

@[simp] theorem outOk_execSel {s : State} (h : s.contents.Ok) (f) : OutOk (execSel f s) := h.issue _ _ fun c => by simp [h]

@[simp] theorem outOk_execMov {s : State} (h : s.contents.Ok) (f) : OutOk (execMov f s) := h.issue _ _ fun c => by simp [h]

@[simp] theorem outOk_execMovi {s : State} (h : s.contents.Ok) (f) : OutOk (execMovi f s) := h.issue _ _ fun c => by simp [h]

@[simp] theorem outOk_execLea {s : State} (h : s.contents.Ok) (f) : OutOk (execLea f s) := h.issue _ _ fun c => by simp [h]

@[simp] theorem outOk_execIadd64 {s : State} (h : s.contents.Ok) (f) : OutOk (execIadd64 f s) :=
  h.issue _ _ fun c => by simp [h]

@[simp] theorem outOk_execIsub64 {s : State} (h : s.contents.Ok) (f) : OutOk (execIsub64 f s) :=
  h.issue _ _ fun c => by simp [h]

@[simp] theorem outOk_execCvta {s : State} (h : s.contents.Ok) (k f) : OutOk (execCvta k f s) := by
  unfold execCvta
  refine h.issue _ _ fun c => ?_
  repeat' split
  all_goals simp [h]

@[simp] theorem outOk_execPermb {s : State} (h : s.contents.Ok) (f) : OutOk (execPermb f s) := h.issue _ _ fun c => by simp [h]

@[simp] theorem outOk_execPack {s : State} (h : s.contents.Ok) (f) : OutOk (execPack f s) := h.issue _ _ fun c => by simp [h]

@[simp] theorem outOk_execUnpack {s : State} (h : s.contents.Ok) (f) : OutOk (execUnpack f s) :=
  h.issue _ _ fun c => by simp [h]

end Sys2Proof.Machine
end

section
/-! SUPPORT. The form of memory and scratch through what a fibre may read, and memory. -/

namespace Sys2Proof.Machine

@[simp] theorem State.contents_beginWrite (s : State) (rels) : (s.beginWrite rels).contents = s.contents := (rfl)
@[simp] theorem State.contents_beginOther (s : State) : s.beginOther.contents = s.contents := (rfl)
@[simp] theorem State.contents_learn (s : State) (ks seen rels) : (s.learn ks seen rels).contents = s.contents := by
  simp [State.learn]
@[simp] theorem State.contents_soPlace (s : State) (v seen) : (s.soPlace v seen).contents = s.contents := (rfl)
@[simp] theorem State.contents_acquire (s : State) (k scope rels) : (s.acquire k scope rels).contents = s.contents := (rfl)
@[simp] theorem State.contents_fenceView (s : State) (k scope acq rel) : (s.fenceView k scope acq rel).contents = s.contents := (rfl)

/-! ### Page walks -/

@[simp] theorem State.contents_tlbFill (s : State) (cluster x) : (s.tlbFill cluster x).contents = s.contents := (rfl)
@[simp] theorem State.contents_enterMiss (s : State) (cluster key va k) : (s.enterMiss cluster key va k).contents = s.contents := (rfl)

theorem State.contents_enterPf {s t : State} {cluster key va r} (ht : s.enterPf cluster key va r = some t) : t.contents = s.contents := by
  unfold State.enterPf at ht
  dsimp only at ht
  split at ht
  · cases ht
    rfl
  · split at ht <;> cases ht
    rfl

theorem State.contents_enterPf_getD {s t : State} (h : t.contents = s.contents) (cluster key va r) :
    ((s.enterPf cluster key va r).getD t).contents = s.contents := by
  cases e : s.enterPf cluster key va r with
  | none => exact h
  | some u => exact State.contents_enterPf e

@[simp] theorem State.contents_enterUnit (s : State) (cluster key va r) : (s.enterUnit cluster key va r).contents = s.contents := by
  simp [State.enterUnit]

/-! ### Homes and colours (R184, R185) -/

@[simp] theorem State.contents_l2Drop (s : State) (p) : (s.l2Drop p).contents = s.contents := by simp [State.l2Drop]
@[simp] theorem State.contents_l2Room (s : State) (line) : (s.l2Room line).contents = s.contents := by simp [State.l2Room]
@[simp] theorem State.contents_atHome (s : State) (cl p line) : (s.atHome cl p line).contents = s.contents := by
  simp [State.atHome]
@[simp] theorem State.contents_goHome (s : State) (cl key) : (s.goHome cl key).contents = s.contents := by
  unfold State.goHome
  split <;> simp
@[simp] theorem State.contents_goHomeBytes (s : State) (cl bs) : (s.goHomeBytes cl bs).contents = s.contents := by
  simp [State.goHomeBytes]

/-! ### The L1 (R178, R186, R225) -/

@[simp] theorem State.contents_pfGone (s : State) (cl line) : (s.pfGone cl line).contents = s.contents := by simp [State.pfGone]

@[simp] theorem Contents.Ok.uoWriteBack {s : State} (h : s.contents.Ok) (cl part line fences) :
    (s.uoWriteBack cl part line fences).contents.Ok := by
  unfold State.uoWriteBack
  split
  · exact h
  · dsimp only
    split
    · exact h
    · simp only [State.contents_modCluster]
      exact Contents.Ok.foldl _ (by simp [h]) fun s x h => h.memPut ..

@[simp] theorem State.contents_uoDrop (s : State) (cl line) : (s.uoDrop cl line).contents = s.contents := by simp [State.uoDrop]
@[simp] theorem Contents.Ok.uoEvict {s : State} (h : s.contents.Ok) (cl part line) : (s.uoEvict cl part line).contents.Ok := by
  simp [State.uoEvict, h]
@[simp] theorem State.contents_rcDrop (s : State) (cl line) : (s.rcDrop cl line).contents = s.contents := by simp [State.rcDrop]
@[simp] theorem Contents.Ok.evict {s : State} (h : s.contents.Ok) (cl line) : (s.evict cl line).contents.Ok := by
  simp [State.evict, h]
@[simp] theorem Contents.Ok.makeRoom {s : State} (h : s.contents.Ok) (cl b) : (s.makeRoom cl b).contents.Ok := by
  simp [State.makeRoom, h]

@[simp] theorem Contents.Ok.rcFill {s : State} (h : s.contents.Ok) (cl line next) : (s.rcFill cl line next).contents.Ok := by
  unfold State.rcFill
  repeat' split
  all_goals simp [h]

@[simp] theorem Contents.Ok.uoFill {s : State} (h : s.contents.Ok) (cl line next) : (s.uoFill cl line next).contents.Ok := by
  unfold State.uoFill
  dsimp only
  repeat' split
  all_goals simp [h]

@[simp] theorem State.contents_refresh (s : State) (cl) : (s.refresh cl).contents = s.contents := by simp [State.refresh]
@[simp] theorem State.contents_refreshLine (s : State) (cl line) : (s.refreshLine cl line).contents = s.contents := by
  simp [State.refreshLine]
@[simp] theorem State.contents_syncLines (s : State) (k) : (s.syncLines k).contents = s.contents := by simp [State.syncLines]
@[simp] theorem State.contents_syncPoint (s : State) (k) : (s.syncPoint k).contents = s.contents := by simp [State.syncPoint]

/-! ### Reading and writing as a fibre sees memory -/

@[simp] theorem State.contents_mapOwners (s : State) (k f) : (s.mapOwners k f).contents = s.contents := by
  simp [State.mapOwners]
@[simp] theorem State.contents_shareStores (s : State) (k other) : (s.shareStores k other).contents = s.contents := by
  simp [State.shareStores]
@[simp] theorem State.contents_disownStores (s : State) (k) : (s.disownStores k).contents = s.contents := by
  simp [State.disownStores]
@[simp] theorem Contents.Ok.homeWrite {s : State} (h : s.contents.Ok) (cl part a v) : (s.homeWrite cl part a v).contents.Ok := by
  simp [State.homeWrite, h]

@[simp] theorem Contents.Ok.byteWrite {s : State} (h : s.contents.Ok) (cl part owners b v hint) :
    (s.byteWrite cl part owners b v hint).contents.Ok := by
  unfold State.byteWrite
  split <;> simp [h]

@[simp] theorem Contents.Ok.uoYield {s : State} (h : s.contents.Ok) (k bs) : (s.uoYield k bs).contents.Ok := by
  unfold State.uoYield
  split
  · exact h
  · refine h.foldl bs fun s b h => ?_
    repeat' split
    all_goals simp [h]

end Sys2Proof.Machine
end

section
/-! SUPPORT. The form of memory and scratch through code objects, launch records, fetching and substitution. -/

namespace Sys2Proof.Machine

@[simp] theorem State.contents_modIc (s : State) (q f) : (s.modIc q f).contents = s.contents := (rfl)

@[simp] theorem State.contents_icKeep (s : State) (q line x) : (s.icKeep q line x).contents = s.contents := by
  unfold State.icKeep
  dsimp only
  repeat' split
  all_goals simp

@[simp] theorem State.contents_icDrop (s : State) (qs p) : (s.icDrop qs p).contents = s.contents := by simp [State.icDrop]
@[simp] theorem State.contents_holdEntry (s : State) (q part v) : (s.holdEntry q part v).contents = s.contents := by
  simp [State.holdEntry]
@[simp] theorem State.contents_setRef (s : State) (k ref) : (s.setRef k ref).contents = s.contents := by simp [State.setRef]

/-! ### Launch records -/

@[simp] theorem State.contents_modLaunch (s : State) (n f) : (s.modLaunch n f).contents = s.contents := (rfl)

/-! ### Page access of agents that are no fibres -/

theorem Contents.Ok.agentWrite {s t : State} (h : s.contents.Ok) {cl key va v} (ht : s.agentWrite cl key va v = some t) :
    t.contents.Ok := by
  obtain ⟨bs, -, rfl⟩ := Option.map_eq_some_iff.mp ht
  exact h.locWrites ..

/-! ### Frontier launches -/

theorem Contents.Ok.frontierWrite {s t : State} (h : s.contents.Ok) {key va v} (ht : s.frontierWrite key va v = some t) :
    t.contents.Ok := by
  unfold State.frontierWrite at ht
  split at ht
  · cases ht
  · exact h.agentWrite ht

@[simp] theorem Contents.Ok.frontierWrite_getD {s : State} (h : s.contents.Ok) (key va v) :
    ((s.frontierWrite key va v).getD s).contents.Ok := by
  cases e : s.frontierWrite key va v with
  | none => exact h
  | some t => exact h.frontierWrite e

@[simp] theorem Contents.Ok.setHeight {s : State} (h : s.contents.Ok) (n line v) : (s.setHeight n line v).contents.Ok := by
  unfold State.setHeight
  repeat' split
  all_goals simp [h]

@[simp] theorem State.contents_askPoints (s : State) (n) : (s.askPoints n).contents = s.contents := by
  unfold State.askPoints
  repeat' split
  all_goals simp

@[simp] theorem State.contents_firePoints (s : State) (d fuel) : (s.firePoints d fuel).contents = s.contents := by
  induction fuel generalizing s with
  | zero => rfl
  | succ fuel ih =>
    unfold State.firePoints
    repeat' split
    all_goals simp [ih]

@[simp] theorem State.contents_fire (s : State) (n) : (s.fire n).contents = s.contents := by
  unfold State.fire
  split <;> simp

/-! ### Completion -/

@[simp] theorem Contents.Ok.writeCompletion {s : State} (h : s.contents.Ok) (n status count) :
    (s.writeCompletion n status count).contents.Ok := by
  unfold State.writeCompletion
  split
  · exact h
  · split
    · next e => simp [h.agentWrite e]
    · simp [h]

@[simp] theorem Contents.Ok.tryComplete {s : State} (h : s.contents.Ok) (n) : (s.tryComplete n).contents.Ok := by
  unfold State.tryComplete
  split <;> simp [h]
@[simp] theorem State.contents_unbind (s : State) (sk a) : (s.unbind sk a).contents = s.contents := by
  unfold State.unbind
  split <;> simp
@[simp] theorem State.contents_unbindAll (s : State) (sk) : (s.unbindAll sk).contents = s.contents := by simp [State.unbindAll]

/-- The skein leaves with its scratch. -/
@[simp] theorem Contents.Ok.endSkein {s : State} (h : s.contents.Ok) (sk) : (s.endSkein sk).contents.Ok := by
  unfold State.endSkein
  split
  · exact h
  · next k _ =>
    dsimp only
    have hu : (s.unbindAll sk).contents.Ok := by simp [h]
    have he : ({ s.unbindAll sk with skeins := terase (s.unbindAll sk).skeins sk } : State).contents.Ok :=
      hu.of_subset (fun _ he => List.mem_of_mem_filter he) rfl
    have hw := Contents.Ok.foldl k.withdrew he
      (f := fun a n => (a.modLaunch n fun l => { l with ended := l.ended + 1 }).tryComplete n) fun s n h => by simp [h]
    split <;> simp [hw]

@[simp] theorem State.contents_mxAbandon (s : State) (k) : (s.mxAbandon k).contents = s.contents := by
  unfold State.mxAbandon
  dsimp only
  repeat' split
  all_goals simp

@[simp] theorem Contents.Ok.tryEndStrand {s : State} (h : s.contents.Ok) (k) : (s.tryEndStrand k).contents.Ok := by
  unfold State.tryEndStrand
  dsimp only
  repeat' split
  all_goals simp [h]

/-! ### Task queues -/

@[simp] theorem State.contents_modTq (s : State) (d q f) : (s.modTq d q f).contents = s.contents := (rfl)

@[simp] theorem State.contents_popTo (s : State) (d q k words task) : (s.popTo d q k words task).contents = s.contents := by
  unfold State.popTo
  repeat' split
  all_goals simp

@[simp] theorem State.contents_tqDeliver (s : State) (d q fuel) : (s.tqDeliver d q fuel).contents = s.contents := by
  induction fuel generalizing s with
  | zero => rfl
  | succ fuel ih =>
    unfold State.tqDeliver
    repeat' split
    all_goals simp [ih]

@[simp] theorem State.contents_tqServe (s : State) (d q) : (s.tqServe d q).contents = s.contents := by simp [State.tqServe]

/-! ### Fetching -/

@[simp] theorem State.contents_icHold (s : State) (q part line) : (s.icHold q part line).contents = s.contents := by
  simp [State.icHold]

@[simp] theorem State.contents_fetchHold (s : State) (k) : (s.fetchHold k).contents = s.contents := by
  unfold State.fetchHold
  repeat' split
  all_goals simp

/-! ### Looking a run up (R409 to R411) -/

@[simp] theorem State.contents_modSub (s : State) (cl idx f) : (s.modSub cl idx f).contents = s.contents := (rfl)
@[simp] theorem State.contents_modSampler (s : State) (cl part start f) : (s.modSampler cl part start f).contents = s.contents := by
  unfold State.modSampler
  split <;> simp
@[simp] theorem State.contents_samplerDrop (s : State) (cl part start) : (s.samplerDrop cl part start).contents = s.contents := by
  simp [State.samplerDrop]

@[simp] theorem State.contents_samplerCount (s : State) (cl part start text) :
    (s.samplerCount cl part start text).1.contents = s.contents := by
  unfold State.samplerCount
  dsimp only
  repeat' split
  all_goals simp

@[simp] theorem State.contents_substStart (s : State) (k) : (s.substStart k).contents = s.contents := by
  unfold State.substStart
  dsimp only
  repeat' split
  all_goals simp

/-! ### The terminator (R403, R406, R412 to R417) -/

@[simp] theorem State.contents_sample (s : State) (cl part r n) : (s.sample cl part r n).contents = s.contents := by
  unfold State.sample
  dsimp only
  split <;> simp

@[simp] theorem Ctx.contents_tagOutputs (s : State) (c : Ctx) (r u) : (c.tagOutputs s r u).contents = s.contents := (rfl)
@[simp] theorem Ctx.contents_provenance (s : State) (c : Ctx) (r u) : (c.provenance s r u).contents = s.contents := (rfl)

@[simp] theorem Ctx.contents_checkedEnd (s : State) (c : Ctx) (r u) : (c.checkedEnd s r u).1.contents = s.contents := by
  unfold Ctx.checkedEnd
  dsimp only
  repeat' split
  all_goals simp

@[simp] theorem Ctx.contents_substEnd (s : State) (c : Ctx) : (c.substEnd s).1.contents = s.contents := by
  unfold Ctx.substEnd
  dsimp only
  repeat' split
  all_goals simp

theorem Contents.Ok.endRunWith {s : State} (h : s.contents.Ok) (i : Instr) (body : Ctx → State → Res)
    (hb : ∀ c s, s.contents.Ok → (body c s).Ok) : OutOk (endRunWith i s body) := by
  refine h.issue _ _ fun c => ?_
  have hs : (c.substEnd s).1.contents.Ok := by simpa using h
  split
  · next e => rw [e] at hs; exact hs
  · next s' e =>
    rw [e] at hs
    split
    · split
      · exact hs
      · simp
    · exact hb c s' hs

end Sys2Proof.Machine
end

section
/-! SUPPORT. The form of memory and scratch through control instructions. -/

namespace Sys2Proof.Machine

@[simp] theorem outOk_execNop {s : State} (h : s.contents.Ok) (f) : OutOk (execNop f s) := h.issue _ _ fun c => by simp [h]

@[simp] theorem outOk_execRunend {s : State} (h : s.contents.Ok) (f) : OutOk (execRunend f s) :=
  h.endRunWith _ _ fun c s h => by simp [h]

@[simp] theorem outOk_execBra {s : State} (h : s.contents.Ok) (f) : OutOk (execBra f s) := by
  unfold execBra
  refine h.endRunWith _ _ fun c s h => ?_
  split <;> simp [h]

@[simp] theorem Ctx.contents_branchPacket (s : State) (c : Ctx) (taken) : (c.branchPacket s taken).contents = s.contents := by
  simp [Ctx.branchPacket]
@[simp] theorem Ctx.contents_mrBranch (s : State) (c : Ctx) (taken) : (c.mrBranch s taken).contents = s.contents := by
  unfold Ctx.mrBranch
  split <;> simp
@[simp] theorem Ctx.contents_branchNote (s : State) (c : Ctx) (taken) : (c.branchNote s taken).contents = s.contents := by
  simp [Ctx.branchNote]

@[simp] theorem Ctx.ok_split {s : State} (h : s.contents.Ok) (c : Ctx) (f d pcD pcP) : (c.split s f d pcD pcP).Ok := by
  unfold Ctx.split
  dsimp only
  split <;> simp [h]

@[simp] theorem outOk_execBrc {s : State} (h : s.contents.Ok) (k f) : OutOk (execBrc k f s) := by
  unfold execBrc
  refine h.endRunWith _ _ fun c s h => ?_
  split <;> simp [h]

@[simp] theorem outOk_wholeBranch {s : State} (h : s.contents.Ok) (i f taken) : OutOk (wholeBranch i f taken s) := by
  unfold wholeBranch
  refine h.endRunWith _ _ fun c s h => ?_
  split <;> simp [h]

@[simp] theorem outOk_execBru {s : State} (h : s.contents.Ok) (k f) : OutOk (execBru k f s) := by simp [execBru, h]
@[simp] theorem outOk_execBrany {s : State} (h : s.contents.Ok) (k f) : OutOk (execBrany k f s) := by simp [execBrany, h]
@[simp] theorem outOk_execBrall {s : State} (h : s.contents.Ok) (k f) : OutOk (execBrall k f s) := by simp [execBrall, h]
@[simp] theorem Ctx.ok_gotoRef {s : State} (h : s.contents.Ok) (c : Ctx) (ref) : (c.gotoRef s ref).Ok := by
  simp [Ctx.gotoRef, h]

@[simp] theorem outOk_jumpPair {s : State} (h : s.contents.Ok) (i f) : OutOk (jumpPair i f s) := by
  unfold jumpPair
  refine h.endRunWith _ _ fun c s h => ?_
  dsimp only
  repeat' split
  all_goals simp [h]

@[simp] theorem outOk_execJmpi {s : State} (h : s.contents.Ok) (f) : OutOk (execJmpi f s) := by simp [execJmpi, h]
@[simp] theorem outOk_execRet {s : State} (h : s.contents.Ok) (f) : OutOk (execRet f s) := by simp [execRet, h]

@[simp] theorem outOk_execCall {s : State} (h : s.contents.Ok) (f) : OutOk (execCall f s) := by
  unfold execCall
  refine h.endRunWith _ _ fun c s h => ?_
  split <;> simp [h]

@[simp] theorem outOk_execCalli {s : State} (h : s.contents.Ok) (f) : OutOk (execCalli f s) := by
  unfold execCalli
  refine h.endRunWith _ _ fun c s h => ?_
  dsimp only
  repeat' split
  all_goals simp [h]

/-! ### Merging and ending (R81, R82) -/

@[simp] theorem State.contents_forsake (s : State) (k) : (s.forsake k).contents = s.contents := (rfl)

@[simp] theorem State.contents_mergeGroup (s : State) (strand k ms) : (s.mergeGroup strand k ms).contents = s.contents := by
  unfold State.mergeGroup
  dsimp only
  repeat' split
  all_goals simp

@[simp] theorem State.contents_tryMerge (s : State) (strand k) : (s.tryMerge strand k).contents = s.contents := by
  unfold State.tryMerge
  split <;> simp
@[simp] theorem State.contents_tryMerges (s : State) (strand tokens) : (s.tryMerges strand tokens).contents = s.contents := by
  simp [State.tryMerges]
@[simp] theorem State.contents_parkLeft (s : State) (k n) : (s.parkLeft k n).contents = s.contents := by
  unfold State.parkLeft
  split <;> simp

@[simp] theorem outOk_execRcvg {s : State} (h : s.contents.Ok) (f) : OutOk (execRcvg f s) :=
  h.endRunWith _ _ fun c s h => by simp [h]

@[simp] theorem Contents.Ok.endFibre {s : State} (h : s.contents.Ok) (k) : (s.endFibre k).contents.Ok := by
  unfold State.endFibre
  split <;> simp [h]

@[simp] theorem outOk_execEndk {s : State} (h : s.contents.Ok) (f) : OutOk (execEndk f s) := by
  unfold execEndk
  refine h.endRunWith _ _ fun c s h => ?_
  split <;> simp [h]

@[simp] theorem outOk_execYield {s : State} (h : s.contents.Ok) (f) : OutOk (execYield f s) := by
  unfold execYield
  refine h.endRunWith _ _ fun c s h => ?_
  have ha := Ctx.ok_await h c (.yield (c.is.r2 + 3 * f.imm26.toNat))
  split
  · next e =>
    rw [e] at ha
    simpa using ha
  · exact ha

@[simp] theorem outOk_execYieldWake {s : State} (h : s.contents.Ok) (k) : OutOk (execYieldWake k s) := by
  unfold execYieldWake
  repeat' split
  all_goals simp [h]

end Sys2Proof.Machine
end

section
/-! SUPPORT. The form of memory and scratch through floating-point and quantisation instructions. -/

namespace Sys2Proof.Machine

@[simp] theorem Ctx.ok_fpPut {s : State} (h : s.contents.Ok) (c : Ctx) (d w dm order res) : (c.fpPut s d w dm order res).Ok := by
  unfold Ctx.fpPut
  dsimp only
  split <;> simp [h]

@[simp] theorem outOk_fpElem {s : State} (h : s.contents.Ok) (i f order op) : OutOk (fpElem i f order op s) :=
  h.issue _ _ fun c => by simp [h]

@[simp] theorem outOk_execFadd {s : State} (h : s.contents.Ok) (t f) : OutOk (execFadd t f s) := by simp [execFadd, h]
@[simp] theorem outOk_execFsub {s : State} (h : s.contents.Ok) (t f) : OutOk (execFsub t f s) := by simp [execFsub, h]
@[simp] theorem outOk_execFmul {s : State} (h : s.contents.Ok) (t f) : OutOk (execFmul t f s) := by simp [execFmul, h]
@[simp] theorem outOk_execFfma {s : State} (h : s.contents.Ok) (t f) : OutOk (execFfma t f s) := by simp [execFfma, h]
@[simp] theorem outOk_execFmin {s : State} (h : s.contents.Ok) (f) : OutOk (execFmin f s) := by simp [execFmin, h]
@[simp] theorem outOk_execFmax {s : State} (h : s.contents.Ok) (f) : OutOk (execFmax f s) := by simp [execFmax, h]
@[simp] theorem outOk_execFminn {s : State} (h : s.contents.Ok) (f) : OutOk (execFminn f s) := by simp [execFminn, h]
@[simp] theorem outOk_execFmaxn {s : State} (h : s.contents.Ok) (f) : OutOk (execFmaxn f s) := by simp [execFmaxn, h]

@[simp] theorem outOk_execFcmp {s : State} (h : s.contents.Ok) (cc f) : OutOk (execFcmp cc f s) := by
  unfold execFcmp
  refine h.issue _ _ fun c => ?_
  dsimp only
  repeat' split
  all_goals simp [h]

@[simp] theorem outOk_execFclass {s : State} (h : s.contents.Ok) (f) : OutOk (execFclass f s) := by simp [execFclass, h]
@[simp] theorem outOk_execFabs {s : State} (h : s.contents.Ok) (f) : OutOk (execFabs f s) := by simp [execFabs, h]
@[simp] theorem outOk_execFneg {s : State} (h : s.contents.Ok) (f) : OutOk (execFneg f s) := by simp [execFneg, h]
@[simp] theorem outOk_execFcopysign {s : State} (h : s.contents.Ok) (f) : OutOk (execFcopysign f s) := by
  simp [execFcopysign, h]
@[simp] theorem outOk_execFrnd {s : State} (h : s.contents.Ok) (t f) : OutOk (execFrnd t f s) := by simp [execFrnd, h]

@[simp] theorem outOk_execFscalb {s : State} (h : s.contents.Ok) (t f) : OutOk (execFscalb t f s) :=
  h.issue _ _ fun c => by simp [h]

@[simp] theorem outOk_execFtwosum {s : State} (h : s.contents.Ok) (f) : OutOk (execFtwosum f s) := by
  unfold execFtwosum
  refine h.issue _ _ fun c => ?_
  dsimp only
  repeat' split
  all_goals simp [h]

@[simp] theorem outOk_dotInstr {s : State} (h : s.contents.Ok) (i f w ev) : OutOk (dotInstr i f w ev s) :=
  h.issue _ _ fun c => by simp [h]

@[simp] theorem outOk_execFdot2 {s : State} (h : s.contents.Ok) (bf f) : OutOk (execFdot2 bf f s) := by simp [execFdot2, h]
@[simp] theorem outOk_execFdot4q {s : State} (h : s.contents.Ok) (f) : OutOk (execFdot4q f s) := by simp [execFdot4q, h]

@[simp] theorem outOk_execCvtfi {s : State} (h : s.contents.Ok) (t f) : OutOk (execCvtfi t f s) :=
  h.issue _ _ fun c => by simp [h]

@[simp] theorem outOk_execCvtif {s : State} (h : s.contents.Ok) (t f) : OutOk (execCvtif t f s) :=
  h.issue _ _ fun c => by simp [h]

@[simp] theorem outOk_execCvtff {s : State} (h : s.contents.Ok) (k f) : OutOk (execCvtff k f s) := by
  unfold execCvtff
  refine h.issue _ _ fun c => ?_
  split <;> simp [h]

@[simp] theorem outOk_execCvtq {s : State} (h : s.contents.Ok) (f) : OutOk (execCvtq f s) := by
  unfold execCvtq
  refine h.issue _ _ fun c => ?_
  dsimp only
  repeat' split
  all_goals simp [h]

@[simp] theorem outOk_execCvtdq {s : State} (h : s.contents.Ok) (f) : OutOk (execCvtdq f s) := h.issue _ _ fun c => by simp [h]

end Sys2Proof.Machine
end

section
/-! SUPPORT. The form of memory and scratch through the performance of loads, stores and atomic operations. -/

namespace Sys2Proof.Machine

/-! ### Escape records -/

theorem Contents.Ok.escape {s t : State} (h : s.contents.Ok) {c es} (ht : Ctx.escape c s es = .ok t) : t.contents.Ok := by
  unfold Ctx.escape at ht
  dsimp only at ht
  split at ht
  · cases ht
    exact h
  · split at ht <;> cases ht
    simp only [State.contents_count, State.contents_modCtx]
    exact h.foldl _ fun s e h => h.memWriteBytes ..

theorem Contents.Ok.escapeLow {s t : State} (h : s.contents.Ok) {c dst} (ht : Ctx.escapeLow c s dst = .ok t) : t.contents.Ok := by
  unfold Ctx.escapeLow at ht
  dsimp only at ht
  split at ht
  · exact h.escape ht
  · cases ht
    exact h

/-! ### Replay log -/

@[simp] theorem Contents.Ok.replayRecord {s : State} (h : s.contents.Ok) (k addr kind lane body) :
    (s.replayRecord k addr kind lane body).contents.Ok := by
  unfold State.replayRecord
  split <;> simp [h]

/-! ### Atomic operations (Table 9.11) -/

@[simp] theorem State.contents_poisonLine (s : State) (l) : (s.poisonLine l).contents = s.contents := by
  unfold State.poisonLine
  split
  · split <;> simp
  · refine State.contents_modSkein _ _ _ fun k => ?_
    split <;> exact ⟨rfl, rfl⟩

@[simp] theorem Contents.Ok.uoLeave {s : State} (h : s.contents.Ok) (cl bs) : (s.uoLeave cl bs).contents.Ok := by
  unfold State.uoLeave
  refine Contents.Ok.foldl _ ?_ fun a x h => ?_
  · simp [h]
  · split <;> simp [h]

@[simp] theorem Contents.Ok.atomPerform {s : State} (h : s.contents.Ok) (cl part op t a rels) :
    (s.atomPerform cl part op t a rels).1.contents.Ok := by
  unfold State.atomPerform
  split
  · exact h
  · exact Contents.Ok.foldl _ (by simp [h]) fun s b h => h.byteWrite ..

/-! ### The pieces of an access (R218, R220, R226) -/

@[simp] theorem State.contents_pick (s : State) (ready single) : (s.pick ready single).2.contents = s.contents := by
  unfold State.pick
  split <;> simp
@[simp] theorem State.contents_dueAt (s : State) : s.dueAt.2.contents = s.contents := (rfl)

/-! ### Stores -/

@[simp] theorem State.contents_wrote (s : State) (cl e bs rels) : (s.wrote cl e bs rels).contents = s.contents := by
  simp [State.wrote]

@[simp] theorem Contents.Ok.performPart {s : State} (h : s.contents.Ok) (cl part e i) : (s.performPart cl part e i).contents.Ok := by
  unfold State.performPart
  split
  · split
    · dsimp only
      split <;> simp [h]
    · exact h
  · split
    · have hw := h.uoWriteBack
      dsimp only
      repeat' split
      all_goals simp [h, hw]
    · exact h
  · simp only [State.contents_wrote]
    refine Contents.Ok.foldl _ (by simp [h]) fun s b h => ?_
    split <;> simp [h]

@[simp] theorem State.contents_goHomes (s : State) (cl bs) : (s.goHomes cl bs).contents = s.contents := by simp [State.goHomes]
@[simp] theorem Contents.Ok.performParts {s : State} (h : s.contents.Ok) (cl part e is) :
    (s.performParts cl part e is).contents.Ok := Contents.Ok.foldl is (by simp [h]) fun _ i h => h.performPart cl part e i

/-! ### Lane operations of atomics (R238 to R240) -/

@[simp] theorem State.contents_landWords (s : State) (k dst n seq lanes poisoned val tags land) :
    (s.landWords k dst n seq lanes poisoned val tags land).contents = s.contents := (rfl)
@[simp] theorem State.contents_takeSeq (s : State) (k) : (s.takeSeq k).1.contents = s.contents := by
  unfold State.takeSeq
  split <;> simp
@[simp] theorem State.contents_holdBad (s : State) (k seq bad word land) : (s.holdBad k seq bad word land).contents = s.contents := by
  unfold State.holdBad
  split <;> simp

@[simp] theorem Contents.Ok.atomOne {s : State} (h : s.contents.Ok) (k r x view fences) : (s.atomOne k r x view fences).1.contents.Ok := by
  unfold State.atomOne
  extract_lets so prior v own y seen placed taken
  have hy : y.1.contents.Ok := h.atomPerform ..
  have hp : placed.contents.Ok := by simpa [placed] using hy
  have ht : taken.contents.Ok := by simpa [taken] using hp
  split
  · exact hy
  · exact ht

@[simp] theorem Contents.Ok.atomLanes {s : State} (h : s.contents.Ok) (k r is e) : (s.atomLanes k r is e).1.contents.Ok := by
  unfold State.atomLanes
  simp only [State.contents_ite, State.contents_count, ite_self]
  refine Contents.Ok.foldl_fst _ (by simp [h]) fun a x h => ?_
  cases e <;> dsimp only <;> split <;> simp [h]

@[simp] theorem Contents.Ok.atomLog {s : State} (h : s.contents.Ok) (k r) : (s.atomLog k r).contents.Ok := by
  unfold State.atomLog
  split
  · exact h.foldl _ fun s x h => h.replayRecord ..
  · exact h

@[simp] theorem Contents.Ok.atomFinish {s : State} (h : s.contents.Ok) (k r land) : (s.atomFinish k r land).contents.Ok := by
  unfold State.atomFinish
  repeat' split
  all_goals simp [h]

@[simp] theorem Contents.Ok.atomLate {s : State} (h : s.contents.Ok) (e r) : (s.atomLate e r).contents.Ok := by
  unfold State.atomLate
  repeat' split
  all_goals simp [h]

@[simp] theorem Contents.Ok.performSome {s : State} (h : s.contents.Ok) (cl part e is) : (s.performSome cl part e is).1.contents.Ok := by
  unfold State.performSome
  split <;> simp [h]
@[simp] theorem Contents.Ok.performEntry {s : State} (h : s.contents.Ok) (cl part e) : (s.performEntry cl part e).contents.Ok := by
  simp [State.performEntry, h]
@[simp] theorem State.contents_fenceSync (s : State) (k kind scope) : (s.fenceSync k kind scope).contents = s.contents := by
  simp [State.fenceSync]

@[simp] theorem State.contents_wakeFences (s : State) (cl sp) : (s.wakeFences cl sp).contents = s.contents := by
  unfold State.wakeFences
  refine State.contents_foldl _ _ _ fun a x => ?_
  split <;> simp

@[simp] theorem State.contents_enqueueStore (s : State) (k e) : (s.enqueueStore k e).contents = s.contents := (rfl)

@[simp] theorem Contents.Ok.dropStores {s : State} (h : s.contents.Ok) (cl sp p) : (s.dropStores cl sp p).contents.Ok := by
  unfold State.dropStores
  refine Contents.Ok.foldl _ ?_ fun a x h => ?_
  · simp [h]
  · simp [h]

@[simp] theorem Contents.Ok.drainFor {s : State} (h : s.contents.Ok) (k bs rel) : (s.drainFor k bs rel).contents.Ok := by
  unfold State.drainFor
  dsimp only
  split
  · exact h
  · exact (h.foldl _ fun s e h => h.performEntry ..).dropStores ..

@[simp] theorem Contents.Ok.drainStores {s : State} (h : s.contents.Ok) (k) : (s.drainStores k).contents.Ok := by
  simp [State.drainStores, h]
@[simp] theorem Contents.Ok.lateFirst {s : State} (h : s.contents.Ok) (k bs) : (s.lateFirst k bs).contents.Ok := by
  simp [State.lateFirst, h]

@[simp] theorem Contents.Ok.keepLate {s : State} (h : s.contents.Ok) (cl) : (s.keepLate cl).contents.Ok := by
  refine h.foldl _ fun s i h => ?_
  dsimp only
  split
  · exact h
  · exact (h.foldl _ fun s e h => h.performEntry ..).dropStores ..

@[simp] theorem outOk_execStorePerformed {s : State} (h : s.contents.Ok) (cl sp i) : OutOk (execStorePerformed cl sp i s) := by
  unfold execStorePerformed
  dsimp only
  split <;> simp [h]

/-! ### Loads -/

@[simp] theorem State.contents_looked (s : State) (k xs) : (s.looked k xs).contents = s.contents := by simp [State.looked]

@[simp] theorem Contents.Ok.bringLines {s : State} (h : s.contents.Ok) (k hint bs) : (s.bringLines k hint bs).contents.Ok := by
  unfold State.bringLines
  refine Contents.Ok.foldl _ ?_ fun a x h => ?_
  · simp [h]
  · split <;> simp [h]

@[simp] theorem Contents.Ok.replayLoad {s : State} (h : s.contents.Ok) (k lanes got) : (s.replayLoad k lanes got).contents.Ok := by
  unfold State.replayLoad
  split
  · exact h
  · refine h.foldl _ fun s x h => ?_
    split
    · exact h
    · refine h.foldl _ fun s b h => ?_
      dsimp only
      repeat' split
      all_goals simp [h]

@[simp] theorem Contents.Ok.finishLoad {s : State} (h : s.contents.Ok) (k m) : (s.finishLoad k m).contents.Ok := by
  simp [State.finishLoad, h]
@[simp] theorem Contents.Ok.readPiece {s : State} (h : s.contents.Ok) (k m p) : (s.readPiece k m p).1.contents.Ok := by
  simp [State.readPiece, h]

@[simp] theorem outOk_execMissDataLands {s : State} (h : s.contents.Ok) (k) : OutOk (execMissDataLands k s) := by
  unfold execMissDataLands
  split
  · split
    · next m _ =>
      have hr (xs : List (Nat × Nat × Nat)) (u : State) (hu : u.contents.Ok) :
          (xs.foldl (fun (a : State × MissLoad) q => a.1.readPiece k a.2 q) (u, m)).1.contents.Ok :=
        Contents.Ok.foldl_fst xs hu fun a q h => h.readPiece k a.2 q
      dsimp only
      split
      · simp [h]
      · split
        · exact (outOk_next _).mpr ((hr _ _ (by simp [h])).finishLoad ..)
        · exact (outOk_next _).mpr (hr _ _ (by simp [h]))
    · simp [h]
  · simp [h]

@[simp] theorem Contents.Ok.hostFailsLoad {s : State} (h : s.contents.Ok) (k m) : (s.hostFailsLoad k m).contents.Ok := by
  have hr (xs : List (Nat × Nat × Nat)) : (xs.foldl (fun (a : State × MissLoad) q => a.1.readPiece k a.2 q) (s, m)).1.contents.Ok :=
    Contents.Ok.foldl_fst xs h fun a q h => h.readPiece k a.2 q
  unfold State.hostFailsLoad
  dsimp only
  split
  · exact (hr _).finishLoad ..
  · exact hr _

@[simp] theorem State.contents_parkMiss (s : State) (k m) : (s.parkMiss k m).contents = s.contents := by simp [State.parkMiss]

end Sys2Proof.Machine
end

section
/-! SUPPORT. The form of memory and scratch through load, store, scratch and FIFO instructions. -/

namespace Sys2Proof.Machine

/-! ### Addresses (R193) -/

theorem Contents.Ok.checked {s : State} (h : s.contents.Ok) (c : Ctx) (acc n al line ea) {k : State → List LaneAcc → Res}
    (hk : ∀ lanes, (k s lanes).Ok) : (c.checked s acc n al line ea k).Ok := by
  unfold Ctx.checked
  split
  · simp
  · simp [h]
  · exact hk _

/-! ### Loads -/

@[simp] theorem State.contents_demand (s : State) (cl part lines) : (s.demand cl part lines).contents = s.contents := by
  simp [State.demand]

theorem Ctx.ok_load {s : State} (h : s.contents.Ok) (c : Ctx) (form lanes tags acq hint) : (c.load s form lanes tags acq hint).Ok := by
  unfold Ctx.load
  split
  · exact h
  · split
    · simp [h]
    · extract_lets scr drained counted synced ls looked acquired got logged words val tag lat bad p badL land q
      have hd : drained.contents.Ok := by simp [drained, h]
      have hs : synced.contents.Ok := by simpa [synced, counted] using hd
      have ha : acquired.contents.Ok := by cases acq <;> simpa [acquired, looked] using hs
      have hl : logged.contents.Ok := ha.replayLoad ..
      clear_value logged
      split
      · split
        · simpa using hl
        · simpa [p] using hl
      · simpa [q] using hd

@[simp] theorem outOk_execLd {s : State} (h : s.contents.Ok) (f) : OutOk (execLd f s) :=
  h.issue _ _ fun c => h.checked c _ _ _ _ _ fun _ => Ctx.ok_load h ..
@[simp] theorem outOk_execLds {s : State} (h : s.contents.Ok) (f) : OutOk (execLds f s) :=
  h.issue _ _ fun c => h.checked c _ _ _ _ _ fun _ => Ctx.ok_load h ..
@[simp] theorem outOk_execLdt {s : State} (h : s.contents.Ok) (f) : OutOk (execLdt f s) :=
  h.issue _ _ fun c => h.checked c _ _ _ _ _ fun _ => Ctx.ok_load h ..

/-! ### Stores -/

theorem Ctx.ok_store {s : State} (h : s.contents.Ok) (c : Ctx) (d n lanes addr rel hint) : (c.store s d n lanes addr rel hint).Ok := by
  unfold Ctx.store
  split
  · exact h
  · dsimp only
    split
    · simp
    · next e => simp [h.escape e]

@[simp] theorem outOk_execSt {s : State} (h : s.contents.Ok) (f) : OutOk (execSt f s) :=
  h.issue _ _ fun c => h.checked c _ _ _ _ _ fun _ => Ctx.ok_store h ..
@[simp] theorem outOk_execSts {s : State} (h : s.contents.Ok) (f) : OutOk (execSts f s) :=
  h.issue _ _ fun c => h.checked c _ _ _ _ _ fun _ => Ctx.ok_store h ..
@[simp] theorem outOk_execStt {s : State} (h : s.contents.Ok) (f) : OutOk (execStt f s) :=
  h.issue _ _ fun c => h.checked c _ _ _ _ _ fun _ => Ctx.ok_store h ..

/-! ### Prefetch, windows and cache control -/

@[simp] theorem State.contents_pfGo (s : State) (cl r x) : (s.pfGo cl r x).contents = s.contents := by simp [State.pfGo]

@[simp] theorem State.contents_pfAsk (s : State) (k lane a l2) : (s.pfAsk k lane a l2).contents = s.contents := by
  unfold State.pfAsk
  dsimp only
  split
  · split
    · simp
    · rw [State.contents_enterPf_getD] <;> simp
  · simp

@[simp] theorem outOk_execPf {s : State} (h : s.contents.Ok) (f) : OutOk (execPf f s) := h.issue _ _ fun c => by simp [h]

@[simp] theorem Contents.Ok.l1Evict {s : State} (h : s.contents.Ok) (cl) : (s.l1Evict cl).contents.Ok := by
  unfold State.l1Evict
  split <;> simp [h]

@[simp] theorem Contents.Ok.pfArrive {s : State} (h : s.contents.Ok) (cl) : (s.pfArrive cl).contents.Ok := by
  unfold State.pfArrive
  refine Contents.Ok.foldl _ ?_ fun a x h => ?_
  · simp [h]
  · simp [h]

@[simp] theorem outOk_execRegpf {s : State} (h : s.contents.Ok) (w1 f) : OutOk (execRegpf w1 f s) :=
  h.issue _ _ fun c => by simp [h]

@[simp] theorem outOk_execCctl {s : State} (h : s.contents.Ok) (op f) : OutOk (execCctl op f s) := by
  refine h.issue _ _ fun c => h.checked c _ _ _ _ _ fun lanes => ?_
  dsimp only
  repeat' split
  all_goals simp [h]

/-! ### FIFO banks (R189, R210, R211, R215) -/

@[simp] theorem State.contents_modBank (s : State) (cl n f) : (s.modBank cl n f).contents = s.contents := (rfl)
@[simp] theorem State.contents_fifoDone (s : State) (k nxt) : (s.fifoDone k nxt).contents = s.contents := by
  simp [State.fifoDone]

@[simp] theorem Contents.Ok.fifoServe {s : State} (h : s.contents.Ok) (cl n fuel) : (s.fifoServe cl n fuel).contents.Ok := by
  induction fuel generalizing s with
  | zero => exact h
  | succ fuel ih =>
    unfold State.fifoServe
    dsimp only
    split
    · split
      · split
        · exact ih (by simp [h])
        · exact h
      · exact h
    · split
      · split
        · split
          · split
            · exact ih (by simp [h])
            · exact h
          · exact h
        · exact h
      · exact h

theorem Ctx.ok_fifo {s : State} (h : s.contents.Ok) (c : Ctx) (n push dst) {k : State → Bank → Option State}
    (hk : ∀ b t, k s b = some t → t.contents.Ok) : (c.fifo s n push dst k).Ok := by
  unfold Ctx.fifo
  dsimp only
  split
  · simp [h]
  · split
    · simp
    · split
      · exact h
      · split
        · next e => simp [hk _ _ e]
        · simp [h]

@[simp] theorem outOk_execFpush {s : State} (h : s.contents.Ok) (f) : OutOk (execFpush f s) := by
  refine h.issue _ _ fun c => ?_
  dsimp only
  split
  · simp
  · next u e =>
    have hu : u.contents.Ok := by
      split at e
      · cases e
        exact h
      · exact h.escape e
    refine Ctx.ok_fifo hu _ _ _ _ fun b t ht => ?_
    split at ht <;> cases ht
    simp [hu]

@[simp] theorem outOk_execFpop {s : State} (h : s.contents.Ok) (f) : OutOk (execFpop f s) := by
  refine h.issue _ _ fun c => Ctx.ok_fifo h _ _ _ _ fun b t ht => ?_
  split at ht
  · split at ht <;> cases ht
    simp [h]
  · cases ht

@[simp] theorem outOk_execFifoTimeout {s : State} (h : s.contents.Ok) (k) : OutOk (execFifoTimeout k s) := by
  unfold execFifoTimeout
  repeat' split
  all_goals simp [h]

/-! ### Banks and swizzled regions -/

@[simp] theorem outOk_execBankmode {s : State} (h : s.contents.Ok) (m f) : OutOk (execBankmode m f s) :=
  h.issue _ _ fun c => by simp [h]

@[simp] theorem Contents.Ok.bankLeaves {s : State} (h : s.contents.Ok) (cl n) : (s.bankLeaves cl n).contents.Ok := by
  unfold State.bankLeaves
  refine Contents.Ok.foldl _ ?_ fun a x h => ?_
  · simp [h]
  · simp [h]

@[simp] theorem State.contents_unstallBank (s : State) (cl n) : (s.unstallBank cl n).contents = s.contents := by
  simp [State.unstallBank]

@[simp] theorem outOk_execBankModeChangeEnd {s : State} (h : s.contents.Ok) (cl n) : OutOk (execBankModeChangeEnd cl n s) := by
  unfold execBankModeChangeEnd
  dsimp only
  split
  · simp [h]
  · refine (outOk_next _).mpr (Contents.Ok.foldl _ ?_ fun s b h => h.fifoServe cl b 1100)
    split <;> simp [h]

/-- R216: SCRCFG takes whole blocks only. -/
@[simp] theorem outOk_execScrcfg {s : State} (h : s.contents.Ok) (clear f) : OutOk (execScrcfg clear f s) := by
  refine h.issue _ _ fun c => ?_
  dsimp only
  split
  · exact h
  · split
    · exact h.modSkein _ fun k hk hc => ⟨hk, fun x hx => hc x (List.mem_of_mem_filter hx)⟩
    · split
      · simp
      · next hn =>
        rw [not_or, not_or, not_not, not_not] at hn
        obtain ⟨ha, hlen, -⟩ := hn
        refine h.modSkein _ fun k hk hc => ⟨hk, fun x hx => ?_⟩
        obtain hx | rfl := mem_tset hx
        · exact hc x hx
        · exact ⟨ha, hlen⟩

end Sys2Proof.Machine
end

section
/-! SUPPORT. The form of memory and scratch through atomic instructions, fences and WAITEQ. -/

namespace Sys2Proof.Machine

/-! ### Operands -/

theorem Contents.Ok.atomEscape {s t : State} (h : s.contents.Ok) {c f op pair lanes}
    (ht : Ctx.atomEscape c s f op pair lanes = .ok t) : t.contents.Ok := h.escape ht

/-! ### Performing (R238 to R240) -/

@[simp] theorem outOk_execAtomicReturn {s : State} (h : s.contents.Ok) (k) : OutOk (execAtomicReturn k s) := by
  unfold execAtomicReturn
  repeat' split
  all_goals simp [h]

@[simp] theorem Contents.Ok.hostFails {s : State} (h : s.contents.Ok) (k) : (s.hostFails k).contents.Ok := by
  unfold State.hostFails
  split <;> simp [h]

/-! ### The instructions -/

theorem Ctx.ok_atomGo {s : State} (h : s.contents.Ok) (c : Ctx) (f op lanes sc) : (c.atomGo s f op lanes sc).Ok := by
  unfold Ctx.atomGo
  extract_lets q ticket r drained all land p x _ _ counted d
  have hq : q.1.contents.Ok := by simpa [q] using h
  have hx : x.1.contents.Ok := by
    have hd : drained.contents.Ok := by simp [drained, hq]
    have hp : p.2.contents.Ok := by simpa [p] using hd
    exact hp.atomLanes ..
  have hc : counted.contents.Ok := by
    unfold counted
    split <;> exact hq
  split
  · split
    · exact hx.atomFinish ..
    · simpa using hx
  · simpa [d] using hc

theorem outOk_atomInstr {s : State} (h : s.contents.Ok) (i op f sc) : OutOk (atomInstr i op f sc s) := by
  refine h.issue _ _ fun c => h.checked c _ _ _ _ _ fun lanes => ?_
  split
  · exact h
  · split
    · simp
    · next e => exact Ctx.ok_atomGo (h.atomEscape e) ..

@[simp] theorem outOk_execAtom {s : State} (h : s.contents.Ok) (op f) : OutOk (execAtom op f s) := outOk_atomInstr h _ _ _ _
@[simp] theorem outOk_execAtomc {s : State} (h : s.contents.Ok) (f) : OutOk (execAtomc f s) := outOk_atomInstr h _ _ _ _
@[simp] theorem outOk_execAtomsc {s : State} (h : s.contents.Ok) (op f) : OutOk (execAtomsc op f s) := outOk_atomInstr h _ _ _ _

@[simp] theorem outOk_execRed {s : State} (h : s.contents.Ok) (op f) : OutOk (execRed op f s) := by
  refine h.issue _ _ fun c => h.checked c _ _ _ _ _ fun lanes => ?_
  split
  · exact h
  · split
    · simp
    · next e => simp [h.atomEscape e]

@[simp] theorem outOk_execAtoms {s : State} (h : s.contents.Ok) (op f) : OutOk (execAtoms op f s) := by
  refine h.issue _ _ fun c => h.checked c _ _ _ _ _ fun lanes => ?_
  split
  · exact h
  · split
    · simp
    · next e => exact Ctx.ok_atomGo (h.atomEscape e) ..

@[simp] theorem outOk_execFence {s : State} (h : s.contents.Ok) (kind f) : OutOk (execFence kind f s) :=
  h.issue _ _ fun c => by simp [h]

/-! ### WAITEQ (R247) -/

@[simp] theorem Contents.Ok.waitEqBring {s : State} (h : s.contents.Ok) (k w) : (s.waitEqBring k w).contents.Ok := by
  simp [State.waitEqBring, h]
@[simp] theorem Contents.Ok.waitEqFinish {s : State} (h : s.contents.Ok) (k w ls land) : (s.waitEqFinish k w ls land).contents.Ok := by
  simp [State.waitEqFinish, h]

@[simp] theorem outOk_execWaiteq {s : State} (h : s.contents.Ok) (ne f) : OutOk (execWaiteq ne f s) := by
  refine h.issue _ _ fun c => ?_
  split
  · exact h
  · refine h.checked c _ _ _ _ _ fun lanes => ?_
    extract_lets w brought ls looked
    split
    · simp [h]
    · have hb : brought.contents.Ok := by simp [brought, h]
      have hl : looked.contents.Ok := by simpa [looked] using hb
      split
      · exact hl.waitEqFinish ..
      · simpa using hl

@[simp] theorem outOk_execWaiteqWake {s : State} (h : s.contents.Ok) (k) : OutOk (execWaiteqWake k s) := by
  unfold execWaiteqWake
  repeat' split
  all_goals simp [h]

@[simp] theorem outOk_execWaiteqTimeout {s : State} (h : s.contents.Ok) (k) : OutOk (execWaiteqTimeout k s) := by
  unfold execWaiteqTimeout
  repeat' split
  all_goals simp [h]

end Sys2Proof.Machine
end

section
/-! SUPPORT. The form of memory and scratch through the copy engine and matrix batches. -/

namespace Sys2Proof.Machine

/-! ### Bytes an engine reaches (R173, R257, R258) -/

@[simp] theorem State.contents_engineRequest (s : State) (cl key cls c addr) :
    (s.engineRequest cl key cls c addr).contents = s.contents := by
  simp [State.engineRequest]

@[simp] theorem Contents.Ok.logLines {s : State} (h : s.contents.Ok) (strand logged a i bs) :
    (s.logLines strand logged a i bs).1.contents.Ok := by
  unfold State.logLines
  dsimp only
  split
  · exact h
  · refine Contents.Ok.foldl_fst _ h fun m b h => ?_
    repeat' split
    all_goals simp [h]

/-! ### Reporting (R249, R259, R260) -/

theorem State.contents_failTrap {s : State} {strand k} {p : State × Trap} (hp : s.failTrap strand k = some p) :
    p.1.contents = s.contents := by
  obtain ⟨st, -, hp⟩ := Option.bind_eq_some_iff.mp hp
  obtain ⟨f, -, rfl⟩ := Option.map_eq_some_iff.mp hp
  rfl

@[simp] theorem State.contents_trapWaiter (s : State) (k t) : (s.trapWaiter k t).contents = s.contents := by
  unfold State.trapWaiter
  split <;> simp

@[simp] theorem State.contents_waitcDone (s : State) (k cls) : (s.waitcDone k cls).contents = s.contents := by
  unfold State.waitcDone
  split
  · next e => rw [State.contents_trapWaiter, State.contents_failTrap e]
  · simp

@[simp] theorem State.contents_waitcServe (s : State) (strand cls) : (s.waitcServe strand cls).contents = s.contents := by
  unfold State.waitcServe
  split
  · rfl
  · refine State.contents_foldl _ _ _ fun s p => ?_
    split
    · split <;> simp
    · rfl

@[simp] theorem Contents.Ok.finishOp {s : State} (h : s.contents.Ok) (strand k num fail) : (s.finishOp strand k num fail).contents.Ok := by
  simp [State.finishOp, h]

/-! ### Collectives (R267) -/

@[simp] theorem State.contents_dequeue (s : State) (o) : (s.dequeue o).contents = s.contents := (rfl)
@[simp] theorem State.contents_setEng (s : State) (o) : (s.setEng o).contents = s.contents := (rfl)

@[simp] theorem Contents.Ok.collRead {s : State} (h : s.contents.Ok) (o src len m fuel) : (s.collRead o src len m fuel).1.contents.Ok := by
  induction fuel generalizing s m with
  | zero => exact h
  | succ fuel ih =>
    unfold State.collRead
    dsimp only
    split
    · exact h
    · split
      · exact h
      · exact ih (by simp [h]) _

@[simp] theorem Contents.Ok.performPiece {s : State} (h : s.contents.Ok) (part p) : (s.performPiece part p).contents.Ok := by
  have hw (bs : List (ByteAt × Byte)) : (bs.foldl (fun (a : State) b => a.locWrite (some part) b.1.loc b.2) s).contents.Ok :=
    h.foldl bs fun s b h => h.locWrite ..
  unfold State.performPiece
  dsimp only
  split <;> simp [hw]

@[simp] theorem Move.contents_writeOut (m : Move) (o dst bs bad i fuel) : (m.writeOut o dst bs bad i fuel).s.contents = m.s.contents := by
  induction fuel generalizing m i with
  | zero => rfl
  | succ fuel ih =>
    unfold Move.writeOut
    dsimp only
    split
    · rfl
    · split
      · rfl
      · rw [ih]
        repeat' split
        all_goals simp

@[simp] theorem Contents.Ok.collPerform {s : State} (h : s.contents.Ok) (ops) : (s.collPerform ops).contents.Ok := by
  unfold State.collPerform
  extract_lets sigs read
  split
  · exact h.foldl _ fun s o h => Contents.Ok.finishOp (by simpa using h) ..
  · have hr : read.1.contents.Ok := by
      refine Contents.Ok.foldl_fst _ h fun a o h => ?_
      dsimp only
      split
      · exact h.collRead ..
      · exact h
    refine hr.foldl _ fun s o h => ?_
    dsimp only
    split
    · split <;> simp [h]
    · exact h

/-! ### Copies and gathers, burst by burst (R251, R254, R258, R262) -/

@[simp] theorem Contents.Ok.burst {s : State} (h : s.contents.Ok) (o rs r n hold) : (s.burst o rs r n hold).1.contents.Ok := by
  unfold State.burst
  cases hs : r.src <;> cases hd : r.dst <;> dsimp only [hs, hd]
  all_goals repeat' split
  all_goals simp [h]

@[simp] theorem State.ok_bursts {s : State} (h : s.contents.Ok) (o rs hold fuel) : (s.bursts o rs hold fuel).Ok := by
  induction fuel generalizing s o with
  | zero => exact h
  | succ fuel ih =>
    unfold State.bursts
    split
    · exact h
    · next r _ =>
      split
      · exact ih h _
      · split
        · simp [h]
        · have hb := h.burst o rs r (burstLen r o.pos) hold
          split
          · next e =>
            rw [e] at hb
            exact hb
          · next e =>
            rw [e] at hb
            exact ih hb _

@[simp] theorem State.contents_startEng (s : State) (o) : (s.startEng o).1.contents = s.contents := by
  unfold State.startEng
  split <;> simp
@[simp] theorem Contents.Ok.endEng {s : State} (h : s.contents.Ok) (o) : (s.endEng o).contents.Ok := by
  unfold State.endEng
  split <;> simp [h]
@[simp] theorem Contents.Ok.lastBurst {s : State} (h : s.contents.Ok) (o fail) : (s.lastBurst o fail).contents.Ok := by
  unfold State.lastBurst
  split <;> simp [h]

@[simp] theorem Contents.Ok.flyParts {s : State} (h : s.contents.Ok) (o n) : (s.flyParts o n).1.contents.Ok := by
  cases n with
  | zero =>
    show (o.flying.foldl (fun a p => a.performPiece (s.strandPart o.strand) p) s).contents.Ok
    exact h.foldl _ fun s p h => h.performPiece ..
  | succ n =>
    simp only [State.flyParts]
    split
    · exact h.performPiece ..
    · exact h

@[simp] theorem Contents.Ok.perform {s : State} (h : s.contents.Ok) (o) : (s.perform o).contents.Ok := by
  unfold State.perform
  split
  · split
    · exact h
    · exact Contents.Ok.endEng (Contents.Ok.flyParts (s := { s with freeCtr := s.freeCtr + 1 }) h ..) _
  · split
    · repeat' split
      all_goals simp [h]
    · split
      · exact h
      · extract_lets p rs n src started
        have hb := State.ok_bursts (s := started) (by simpa [started, src, p] using h) p.2 rs (n != 0)
          (if n = 0 then burstCount rs else n)
        split
        · next e =>
          rw [e] at hb
          exact Contents.Ok.lastBurst hb ..
        · next e =>
          rw [e] at hb
          simpa using hb
        · next e =>
          rw [e] at hb
          split
          · exact hb
          · simpa using hb

@[simp] theorem outOk_execEngineOpComplete {s : State} (h : s.contents.Ok) (strand k num) :
    OutOk (execEngineOpComplete strand k num s) := by
  unfold execEngineOpComplete
  split <;> simp [h]

/-! ### Matrix batches -/

@[simp] theorem State.contents_mxTrap (s : State) (strand b) : (s.mxTrap strand b).1.contents = s.contents := by
  unfold State.mxTrap
  split <;> simp
@[simp] theorem State.contents_mxReissue (s : State) (strand n) : (s.mxReissue strand n).contents = s.contents := (rfl)
@[simp] theorem State.contents_mxDiscard (s : State) (strand n) : (s.mxDiscard strand n).contents = s.contents := (rfl)

@[simp] theorem State.ok_mxNeed {s : State} (h : s.contents.Ok) (strand stop) : (s.mxNeed strand stop).Ok := by
  unfold State.mxNeed
  repeat' split
  all_goals simp [h]

@[simp] theorem State.contents_mwaitDone (s : State) (k b dst tags) : (s.mwaitDone k b dst tags).contents = s.contents := by
  unfold State.mwaitDone
  split <;> simp

@[simp] theorem State.contents_mxServe (s : State) (strand) : (s.mxServe strand).contents = s.contents := by
  unfold State.mxServe
  split
  · rfl
  · refine State.contents_foldl _ _ _ fun a x => ?_
    repeat' split
    all_goals simp

end Sys2Proof.Machine
end

section
/-! SUPPORT. The form of memory and scratch through copy-engine instructions, waits, barriers and semaphores. -/

namespace Sys2Proof.Machine

/-! ### Operand checks at issue (R257) -/

@[simp] theorem Ctx.ok_operandTrap {s : State} (h : s.contents.Ok) (c : Ctx) (k e) : (c.operandTrap s k e).Ok := by
  unfold Ctx.operandTrap
  split <;> simp [h]
@[simp] theorem Contents.Ok.issueEngine {s : State} (h : s.contents.Ok) (c : Ctx) (k kind promise) :
    (c.issueEngine s k kind promise).contents.Ok := by
  simp [Ctx.issueEngine, h]

theorem Ctx.ok_engineInstr {s : State} (h : s.contents.Ok) (c : Ctx) (k err dst) {go : State → State}
    (hgo : ∀ s, s.contents.Ok → (go s).contents.Ok) : (c.engineInstr s k err dst go).Ok := by
  unfold Ctx.engineInstr
  split
  · exact h
  · split
    · simp [h]
    · split
      · exact Ctx.ok_operandTrap h ..
      · split
        · simp
        · next e => exact hgo _ (h.escapeLow e)

@[simp] theorem State.contents_newPromise (s : State) (strand) : (s.newPromise strand).1.contents = s.contents := (rfl)

@[simp] theorem outOk_execCopy {s : State} (h : s.contents.Ok) (k f) : OutOk (execCopy k f s) := by
  refine h.issue _ _ fun c => ?_
  dsimp only
  refine Ctx.ok_engineInstr ?_ _ _ _ _ fun s h => ?_
  · split <;> simp [h]
  · simp [h]

@[simp] theorem outOk_execGather {s : State} (h : s.contents.Ok) (f) : OutOk (execGather f s) :=
  h.issue _ _ fun _ => Ctx.ok_engineInstr h _ _ _ _ fun _ h => h.issueEngine ..
@[simp] theorem outOk_execColl {s : State} (h : s.contents.Ok) (op f) : OutOk (execColl op f s) :=
  h.issue _ _ fun c => Ctx.ok_engineInstr h _ _ _ _ fun s h => by simp [h]

/-! ### WAITC and SLEEPT -/

@[simp] theorem Ctx.ok_waitcM {s : State} (h : s.contents.Ok) (c : Ctx) (n) : (c.waitcM s n).Ok := by
  have hn := State.ok_mxNeed h c.strand (c.st.stopWithin (c.st.cnt .m - n))
  unfold Ctx.waitcM
  split
  · simp
  · split
    · simp [h]
    · split
      all_goals
        next e =>
          rw [e] at hn
          simp [show State.contents _ |>.Ok from hn]

@[simp] theorem outOk_execWaitc {s : State} (h : s.contents.Ok) (k f) : OutOk (execWaitc k f s) := by
  refine h.endRunWith _ _ fun c s h => ?_
  dsimp only
  split
  · exact Ctx.ok_waitcM h ..
  · split
    · split
      · next e => simpa [State.contents_failTrap e] using h
      · simp [h]
    · simp [h]

@[simp] theorem outOk_execSleept {s : State} (h : s.contents.Ok) (f) : OutOk (execSleept f s) :=
  h.endRunWith _ _ fun c s h => by simp [h]

@[simp] theorem outOk_execSleeptWake {s : State} (h : s.contents.Ok) (k) : OutOk (execSleeptWake k s) := by
  unfold execSleeptWake
  repeat' split
  all_goals simp [h]

/-! ### Barriers (R270 to R273) -/

@[simp] theorem State.contents_modBarrier (s : State) (k b f) : (s.modBarrier k b f).contents = s.contents := by
  unfold State.modBarrier
  repeat' split
  all_goals simp

@[simp] theorem State.contents_barServe (s : State) (k b) : (s.barServe k b).contents = s.contents := by
  unfold State.barServe
  split
  · rfl
  · refine State.contents_foldl _ _ _ fun a x => ?_
    repeat' split
    all_goals simp

theorem Contents.Ok.arrive {s : State} (h : s.contents.Ok) {c b reg} {p : State × Word} (hp : Ctx.arrive c s b reg = some p) :
    p.1.contents.Ok := by
  obtain ⟨bar, -, hp⟩ := Option.bind_eq_some_iff.mp hp
  dsimp only at hp
  split at hp <;> cases hp
  dsimp only
  split <;> simp [h]

@[simp] theorem Ctx.ok_barWait {s : State} (h : s.contents.Ok) (c : Ctx) (b phase) : (c.barWait s b phase).Ok := by
  unfold Ctx.barWait
  split <;> simp [h]

@[simp] theorem outOk_execBar {s : State} (h : s.contents.Ok) (f) : OutOk (execBar f s) := by
  refine h.endRunWith _ _ fun c s h => ?_
  dsimp only
  split
  · simp
  · split
    · simp
    · next e => exact Ctx.ok_barWait (by simpa using h.arrive e) ..

@[simp] theorem outOk_execBara {s : State} (h : s.contents.Ok) (f) : OutOk (execBara f s) := by
  refine h.issue _ _ fun c => ?_
  dsimp only
  split
  · simp
  · next e => simpa using h.arrive e

@[simp] theorem outOk_execBarw {s : State} (h : s.contents.Ok) (f) : OutOk (execBarw f s) := by
  unfold execBarw
  refine h.endRunWith _ _ fun c s h => ?_
  dsimp only
  repeat' split
  all_goals simp [h]

/-! ### Semaphores (R274) -/

@[simp] theorem State.contents_modSem (s : State) (launch n f) : (s.modSem launch n f).contents = s.contents := (rfl)

@[simp] theorem State.contents_semServe (s : State) (launch n fuel) : (s.semServe launch n fuel).contents = s.contents := by
  induction fuel generalizing s with
  | zero => rfl
  | succ fuel ih =>
    unfold State.semServe
    repeat' split
    all_goals simp [ih]

@[simp] theorem outOk_execSemp {s : State} (h : s.contents.Ok) (f) : OutOk (execSemp f s) := by
  refine h.endRunWith _ _ fun c s h => ?_
  have ha := Ctx.ok_await h c (.sem f.a.toNat)
  dsimp only
  split
  · simp
  · split
    · next e =>
      rw [e] at ha
      simpa using ha
    · exact ha

@[simp] theorem outOk_execSemv {s : State} (h : s.contents.Ok) (f) : OutOk (execSemv f s) := by
  unfold execSemv
  refine h.issue _ _ fun c => ?_
  dsimp only
  repeat' split
  all_goals simp [h]

/-! ### FETCHW (R275) -/

@[simp] theorem outOk_execFetchw {s : State} (h : s.contents.Ok) (f) : OutOk (execFetchw f s) :=
  h.issue _ _ fun c => by simp [h]

@[simp] theorem Contents.Ok.scrWord {s : State} (h : s.contents.Ok) (sk o w) : (s.scrWord sk o w).contents.Ok := by
  simp [State.scrWord, h]

@[simp] theorem outOk_execFetchwReply {s : State} (h : s.contents.Ok) (part idx) : OutOk (execFetchwReply part idx s) := by
  have hput {s : State} (h : s.contents.Ok) (sk o w x y z : Nat) :
      ((((s.scrWord sk (o + 4) x).scrWord sk (o + 8) y).scrWord sk (o + 12) z).scrWord sk o w).contents.Ok :=
    ((((h.scrWord ..).scrWord ..).scrWord ..).scrWord ..)
  unfold execFetchwReply
  split
  · simp [h]
  · dsimp only
    repeat' split
    all_goals simp [h, hput]

/-! ### IFENCE (R276) -/

@[simp] theorem outOk_execIfence {s : State} (h : s.contents.Ok) (f) : OutOk (execIfence f s) :=
  h.endRunWith _ _ fun c s h => by simp [h]

@[simp] theorem outOk_execIfenceDone {s : State} (h : s.contents.Ok) (k) : OutOk (execIfenceDone k s) := by
  unfold execIfenceDone
  repeat' split
  all_goals simp [h]

end Sys2Proof.Machine
end

section
/-! SUPPORT. The form of memory and scratch through allotments, tasks and launches. -/

namespace Sys2Proof.Machine

/-! ### ACQ, GIVE and CLAIM -/

@[simp] theorem State.contents_requestServe (s : State) (c) : (s.requestServe c).contents = s.contents := by
  unfold State.requestServe
  split <;> simp

@[simp] theorem outOk_execAcq {s : State} (h : s.contents.Ok) (f) : OutOk (execAcq f s) := by
  refine h.endRunWith _ _ fun c s h => ?_
  have ha := Ctx.ok_await h c .acq
  split
  · simp [h]
  · split
    · next e =>
      rw [e] at ha
      rw [Res.ok_fin, State.contents_requestServe, State.contents_modSkein]
      · exact ha
      · intro k
        split <;> exact ⟨rfl, rfl⟩
    · exact ha

@[simp] theorem outOk_execSkeinGrant {s : State} (h : s.contents.Ok) (sk) : OutOk (execSkeinGrant sk s) := by
  unfold execSkeinGrant
  split <;> simp [h]

@[simp] theorem State.contents_claimServe (s : State) (sk fuel) : (s.claimServe sk fuel).contents = s.contents := by
  induction fuel generalizing s with
  | zero => rfl
  | succ fuel ih =>
    unfold State.claimServe
    repeat' split
    all_goals simp [ih]

@[simp] theorem outOk_execGive {s : State} (h : s.contents.Ok) (f) : OutOk (execGive f s) := h.issue _ _ fun c => by simp [h]

@[simp] theorem outOk_execClaim {s : State} (h : s.contents.Ok) (f) : OutOk (execClaim f s) := by
  refine h.endRunWith _ _ fun c s h => ?_
  have ha := Ctx.ok_await h c (.claim f.imm26.toNat)
  dsimp only
  split
  · simp
  · split
    · next e =>
      rw [e] at ha
      simpa using ha
    · exact ha

/-! ### Queues (R299, R300) -/

@[simp] theorem State.contents_softSave (s : State) (k) : (s.softSave k).contents = s.contents := by
  unfold State.softSave
  split <;> simp

@[simp] theorem outOk_execTaskPushAccept {s : State} (h : s.contents.Ok) (k) : OutOk (execTaskPushAccept k s) := by
  unfold execTaskPushAccept
  dsimp only
  split <;> simp [h]

@[simp] theorem State.contents_startPush (s : State) (d p) : (s.startPush d p).contents = s.contents := (rfl)

theorem Contents.Ok.checkedUnit {s : State} (h : s.contents.Ok) (c : Ctx) (acc n al a front) {k : State → LaneAcc → Res}
    (hk : ∀ x, (k s x).Ok) : (c.checkedUnit s acc n al a front k).Ok := by
  unfold Ctx.checkedUnit
  split
  · simp
  · simp [h]
  · split
    · split
      · simp
      · exact hk _
    · exact h

@[simp] theorem outOk_execTspawn {s : State} (h : s.contents.Ok) (f) : OutOk (execTspawn f s) := by
  refine h.issue _ _ fun c => ?_
  dsimp only
  split
  · exact h
  · refine h.checkedUnit c _ _ _ _ _ fun x => ?_
    split
    · simp
    · split
      · simp
      · next e => simpa using Contents.Ok.escapeLow (by simp [h]) e

@[simp] theorem outOk_execTpop {s : State} (h : s.contents.Ok) (f) : OutOk (execTpop f s) := by
  refine h.endRunWith _ _ fun c s h => ?_
  have ha := Ctx.ok_await h c (.tpop (clusterDie c.cluster) f.imm26.toNat f.a.toNat (c.tagsIn c.f.laneSet))
  dsimp only
  split
  · simp
  · split
    · next e =>
      rw [e] at ha
      simpa using ha
    · exact ha

/-! ### TDONE (R317) -/

@[simp] theorem Contents.Ok.decBlock {s : State} (h : s.contents.Ok) (c x) : (Ctx.decBlock c s x).contents.Ok := by
  have hw (part : Option Nat) (bs : List (ByteAt × Byte)) {s : State} (h : s.contents.Ok) :
      (bs.foldl (fun (a : State) b => a.byteWrite c.cluster part [] b.1 b.2) s).contents.Ok :=
    h.foldl bs fun s b h => h.byteWrite ..
  unfold Ctx.decBlock
  dsimp only
  split
  · exact hw _ _ (by simp [h])
  · exact hw _ _ (by simp [h])

/-- The addresses and the blocks are made opaque first: the two matches over them are then plain case splits. -/
@[simp] theorem outOk_execTdone {s : State} (h : s.contents.Ok) (f) : OutOk (execTdone f s) := by
  unfold execTdone
  refine h.issue _ _ fun c => ?_
  extract_lets a b fault wait blks
  have hw va : (wait va).Ok := by simp [wait, h]
  have hf x : (fault x).Ok := by simp [fault]
  clear_value a b blks wait fault
  generalize c.f.task = o
  generalize blks.findSome? _ = q
  generalize blks.find? _ = r
  generalize he : c.escapeLow s _ = e
  cases o with
  | none => exact trivial
  | some t =>
  cases q with
  | some va => exact hw va
  | none =>
  cases r with
  | some x => exact hf _
  | none =>
  cases e with
  | error e => exact trivial
  | ok u =>
    have hu : ((u.drainStores c.k).syncPoint c.k).contents.Ok := by simp [h.escapeLow he]
    simp only [Res.ok_next, State.contents_ite, State.contents_park, State.contents_softSave, ite_self,
      State.contents_tqServe, State.contents_modFib]
    refine hu.foldl blks fun s x h => ?_
    split
    · exact h.decBlock c _
    · exact h

/-! ### Acceptance -/

@[simp] theorem Contents.Ok.zeroHeights {s : State} (h : s.contents.Ok) (l fr) : (s.zeroHeights l fr).contents.Ok := by
  simp [State.zeroHeights, h]
@[simp] theorem State.contents_setEvSel (s : State) (cl w) : (s.setEvSel cl w).contents = s.contents := (rfl)
@[simp] theorem State.contents_zeroCounters (s : State) (cl) : (s.zeroCounters cl).contents = s.contents := (rfl)
@[simp] theorem State.contents_passBegin (s : State) (part p) : (s.passBegin part p).contents = s.contents := by
  simp [State.passBegin]
@[simp] theorem Contents.Ok.admitLaunch {s : State} (h : s.contents.Ok) (l fr) : (s.admitLaunch l fr).contents.Ok := by
  unfold State.admitLaunch
  split <;> simp [h]
@[simp] theorem Contents.Ok.failLaunch {s : State} (h : s.contents.Ok) (l cause) : (s.failLaunch l cause).contents.Ok := by
  simp [State.failLaunch, h]
@[simp] theorem State.contents_lqLooked (s : State) (part line) : (s.lqLooked part line).contents = s.contents := (rfl)

@[simp] theorem Contents.Ok.acceptHost {s : State} (h : s.contents.Ok) (part) : (s.acceptHost part).contents.Ok := by
  unfold State.acceptHost
  dsimp only
  repeat' split
  all_goals simp [h]

@[simp] theorem State.contents_statusTo (s : State) (k dst act tags w) : (s.statusTo k dst act tags w).contents = s.contents := by
  simp [State.statusTo]

@[simp] theorem Contents.Ok.acceptDevice {s : State} (h : s.contents.Ok) (part) : (s.acceptDevice part).contents.Ok := by
  unfold State.acceptDevice
  dsimp only
  repeat' split
  all_goals simp [h]

@[simp] theorem outOk_execLaunchAccept {s : State} (h : s.contents.Ok) (part device) : OutOk (execLaunchAccept part device s) := by
  simp [execLaunchAccept, h]
@[simp] theorem State.contents_lqReport (s : State) (line) : (s.lqReport line).contents = s.contents := by simp [State.lqReport]

@[simp] theorem outOk_execLqRecall {s : State} (h : s.contents.Ok) (part) : OutOk (execLqRecall part s) := by
  unfold execLqRecall
  dsimp only
  repeat' split
  all_goals simp [h]

@[simp] theorem outOk_execLaunch {s : State} (h : s.contents.Ok) (f) : OutOk (execLaunch f s) := by
  refine h.issue _ _ fun c => ?_
  split
  · exact h
  · refine h.checkedUnit c _ _ _ _ _ fun x => ?_
    extract_lets u part v r l issuer own
    have hv : v.contents.Ok := by simp [v, u, h]
    clear_value own l r v
    split
    · simp
    · split
      · simp
      · next e => simpa using hv.escapeLow e

/-! ### Placement (R285 to R287, R293) -/

/-- A cell that is not listed reads as zero, so zeroing drops cells. -/
@[simp] theorem Contents.Ok.zeroCells {s : State} (h : s.contents.Ok) (c part key n) : (s.zeroCells c part key n).contents.Ok := by
  have hl (ls : List Nat) : (ls.foldl (fun (a : State) l => a.logLine (some part) (l * 128)) s).contents.Ok :=
    h.foldl ls fun s l h => h.logLine _ _
  simp only [State.zeroCells, State.contents_modCluster]
  exact (hl _).of_mem rfl (memWf_filter _ _ ((State.contents_ok_iff _).mp (hl _)).1)

@[simp] theorem Contents.Ok.zeroPrivate {s : State} (h : s.contents.Ok) (c key lo n) : (s.zeroPrivate c key lo n).contents.Ok :=
  h.foldl _ fun _ _ h => h.zeroCells _ _ _ _

/-- A new skein has no cell of scratch and no swizzled area. -/
@[simp] theorem Contents.Ok.placeSkein {s : State} (h : s.contents.Ok) (n l c index point) :
    (s.placeSkein n l c index point).contents.Ok := by
  have hn (key : Nat) (k : Skein) (hs : memWf k.scratch = true) (hc : SlotsOk k.scrcfg) :
      ({ s with skeins := tset s.skeins key k } : State).contents.Ok := by
    rw [State.contents_ok_iff] at h ⊢
    refine ⟨h.1, fun e he => ?_⟩
    obtain he | rfl := mem_tset he
    · exact h.2 e he
    · exact ⟨hs, hc⟩
  unfold State.placeSkein
  extract_lets num key banks k a priv b d e
  have ha : a.contents.Ok := hn key k rfl fun _ h => nomatch h
  have hd : d.contents.Ok := by simp [d, b, ha]
  clear_value d
  rw [State.contents_count]
  refine hd.foldl _ fun s i h => ?_
  dsimp only
  split
  · simpa using h
  · exact h

@[simp] theorem State.contents_placeList (s : State) (d) : (s.placeList d).contents = s.contents := by simp [State.placeList]

theorem Contents.Ok.placeNext {s t : State} (h : s.contents.Ok) {n l} (ht : s.placeNext n l = some t) : t.contents.Ok := by
  unfold State.placeNext at ht
  split at ht
  · cases ht
  · split at ht
    · obtain ⟨p, -, ht⟩ := Option.bind_eq_some_iff.mp ht
      obtain ⟨c, -, rfl⟩ := Option.map_eq_some_iff.mp ht
      simp [h]
    · split at ht
      · cases ht
      · obtain ⟨c, -, rfl⟩ := Option.map_eq_some_iff.mp ht
        simp [h]

@[simp] theorem outOk_execSkeinPlace {s : State} (h : s.contents.Ok) (part) : OutOk (execSkeinPlace part s) := by
  have hs : (s.placeList (s.frontierDie part)).contents.Ok := by simpa using h
  simp only [execSkeinPlace, outOk_next, State.contents_placeList]
  cases e : List.findSome? _ _ with
  | none => exact hs
  | some t =>
    obtain ⟨x, -, ht⟩ := List.exists_of_findSome?_eq_some e
    exact hs.placeNext ht

@[simp] theorem outOk_execPointComplete {s : State} (h : s.contents.Ok) (sk) : OutOk (execPointComplete sk s) := by
  unfold execPointComplete
  dsimp only
  split <;> simp [h]

@[simp] theorem State.contents_readyWalks (s : State) (c ks) : (s.readyWalks c ks).contents = s.contents := by
  simp [State.readyWalks]

@[simp] theorem Contents.Ok.frontServe {s : State} (h : s.contents.Ok) (fuel) : (s.frontServe fuel).contents.Ok := by
  induction fuel generalizing s with
  | zero => exact h
  | succ fuel ih =>
    unfold State.frontServe
    repeat' split
    all_goals simp [h, ih]

@[simp] theorem outOk_execPoolEntryGrant {s : State} (h : s.contents.Ok) (unit loc) : OutOk (execPoolEntryGrant unit loc s) := by
  unfold execPoolEntryGrant
  dsimp only
  repeat' split
  all_goals simp [h]

end Sys2Proof.Machine
end

section
/-! SUPPORT. The form of memory and scratch through matrix instructions. -/

namespace Sys2Proof.Machine

/-! ### Accumulators (R350, R351) -/

theorem State.contents_bindAcc {s t : State} {sk a} (ht : s.bindAcc sk a = some t) : t.contents = s.contents := by
  unfold State.bindAcc at ht
  split at ht
  · cases ht
    rfl
  · split at ht
    · split at ht
      · cases ht
        rw [State.contents_modSkein, State.contents_modCluster]
        exact fun _ => ⟨rfl, rfl⟩
      · cases ht
    · cases ht
  · cases ht

@[simp] theorem State.contents_setAccRow (s : State) (sk a l ws) : (s.setAccRow sk a l ws).contents = s.contents := by
  unfold State.setAccRow
  split <;> simp

/-! ### Operand bytes (R349, R364) -/

@[simp] theorem Contents.Ok.mxLog {s : State} (h : s.contents.Ok) (o xs) : (s.mxLog o xs).contents.Ok := by
  unfold State.mxLog
  split
  · exact h
  · exact Contents.Ok.foldl_fst _ h fun m x h => Contents.Ok.foldl_fst _ h fun m r h => h.logLines _ _ _ _ _

@[simp] theorem State.contents_mxFlag (s : State) (strand f) : (s.mxFlag strand f).contents = s.contents := (rfl)
@[simp] theorem State.contents_countTiles (s : State) (strand ops) : (s.countTiles strand ops).contents = s.contents := (rfl)

theorem Contents.Ok.withAcc {s : State} (h : s.contents.Ok) (sk a) {k : State → State}
    (hk : ∀ s, s.contents.Ok → (k s).contents.Ok) : (s.withAcc sk a k).Ok := by
  unfold State.withAcc
  split
  · next e => exact hk _ (by rwa [State.contents_bindAcc e])
  · simp

@[simp] theorem State.contents_accUpdate (s : State) (o a f) : (s.accUpdate o a f).contents = s.contents := by
  simp [State.accUpdate]

@[simp] theorem State.ok_mxMma {s : State} (h : s.contents.Ok) (o mode ta tb acc pa pb sa sb info) :
    (s.mxMma o mode ta tb acc pa pb sa sb info).Ok := by
  unfold State.mxMma
  dsimp only
  generalize s.mxRows o false pa _ _ _ = ra
  generalize s.mxRows o false pb _ _ _ = rb
  generalize s.mxRows o false (pb + info.getD 0) _ _ _ = rm
  cases ra with
  | error x => exact trivial
  | ok ra =>
    cases rb with
    | error x => exact trivial
    | ok rb =>
      cases rm with
      | error x => exact trivial
      | ok rm =>
        dsimp only
        split
        · simp
        · exact h.withAcc _ _ fun s h => by simp [h]

@[simp] theorem Contents.Ok.mxWrite {s : State} (h : s.contents.Ok) (strand rs v) : (s.mxWrite strand rs v).contents.Ok := by
  unfold State.mxWrite
  refine Contents.Ok.foldl _ ?_ fun a x h => ?_
  · simp [h]
  · simp [h]

@[simp] theorem State.ok_mxMcomp {s : State} (h : s.contents.Ok) (o t dst src ss ds info) : (s.mxMcomp o t dst src ss ds info).Ok := by
  unfold State.mxMcomp
  dsimp only
  generalize s.mxRows o false src _ _ _ = rs
  generalize s.mxRows o true dst _ _ _ = rd
  generalize s.mxRows o true (dst + info) _ _ _ = rm
  cases rs with
  | error x => exact trivial
  | ok rs =>
    cases rd with
    | error x => exact trivial
    | ok rd =>
      cases rm with
      | error x => exact trivial
      | ok rm =>
        refine Contents.Ok.mxWrite (Contents.Ok.mxWrite ?_ _ _ _) _ _ _
        simp [h]

@[simp] theorem State.ok_mxMsacc {s : State} (h : s.contents.Ok) (o acc part oa ob) : (s.mxMsacc o acc part oa ob).Ok := by
  unfold State.mxMsacc
  dsimp only
  split
  · simp
  · split
    · exact h
    · split
      · exact trivial
      · exact trivial
      · exact h.withAcc _ _ fun s h => by simpa using h

@[simp] theorem State.ok_mxMove {s : State} (h : s.contents.Ok) (o out acc fmt base stride) : (s.mxMove o out acc fmt base stride).Ok := by
  unfold State.mxMove
  dsimp only
  split
  · exact trivial
  · split
    · split
      · simp
      · simp [h]
    · split
      · exact h
      · exact h.withAcc _ _ fun s h => by simp [h]

@[simp] theorem State.ok_mxEffect {s : State} (h : s.contents.Ok) (o) : (s.mxEffect o).Ok := by
  unfold State.mxEffect
  dsimp only
  split
  case h_1 | h_2 =>
    split
    · exact h
    · simp [h]
  case h_4 =>
    split
    · exact h
    · exact h.withAcc _ _ fun s h => by simpa using h
  all_goals simp [h]

/-! ### The queue (R358, R364) -/

@[simp] theorem State.contents_mxSet (s : State) (c i o) : (s.mxSet c i o).contents = s.contents := (rfl)
@[simp] theorem Contents.Ok.mxAbort {s : State} (h : s.contents.Ok) (c i o cause addr write) :
    (s.mxAbort c i o cause addr write).contents.Ok := by
  simp [State.mxAbort, h]
@[simp] theorem Contents.Ok.mxComplete {s : State} (h : s.contents.Ok) (c i o) : (s.mxComplete c i o).contents.Ok := by
  simp [State.mxComplete, h]

@[simp] theorem State.contents_mxHome (s : State) (o lines) : (s.mxHome o lines).contents = s.contents := by
  unfold State.mxHome
  refine State.contents_foldl _ _ _ fun a x => ?_
  split <;> simp

theorem State.contents_mxBegin {s t : State} {c i o} (ht : s.mxBegin c i o = some t) : t.contents = s.contents := by
  unfold State.mxBegin at ht
  split at ht
  · cases ht
    simp
  · split at ht
    · cases ht
    · dsimp only at ht
      split at ht
      · cases ht
        simp
      · cases ht
        simp

@[simp] theorem outOk_execMatrixOpPerform {s : State} (h : s.contents.Ok) (c i) : OutOk (execMatrixOpPerform c i s) := by
  unfold execMatrixOpPerform
  split
  · next o _ =>
    split
    · simpa using h
    · split
      · next e =>
        rw [outOk_next, State.contents_mxBegin e]
        exact h
      · split
        · simpa using h
        · have he := State.ok_mxEffect h o
          split
          · next e =>
            rw [e] at he
            exact (outOk_next _).mpr (Contents.Ok.mxComplete (by simpa using he) _ _ _)
          · simpa using h
          · simp [h]
  · simpa using h

@[simp] theorem outOk_execMxPinTimeout {s : State} (h : s.contents.Ok) (c i) : OutOk (execMxPinTimeout c i s) := by
  unfold execMxPinTimeout
  repeat' split
  all_goals simp [h]

@[simp] theorem outOk_execMxAccExhausted {s : State} (h : s.contents.Ok) (c i) : OutOk (execMxAccExhausted c i s) := by
  unfold execMxAccExhausted
  repeat' split
  all_goals simp [h]

/-! ### Checks at issue (R363) -/

@[simp] theorem Ctx.ok_mxIssue {s : State} (h : s.contents.Ok) (c : Ctx) (types rs al dst kind) :
    (c.mxIssue s types rs al dst kind).Ok := by
  unfold Ctx.mxIssue
  split
  · simpa using h
  · split
    · simp
    · split
      · simp
      · split
        · simp
        · next e => simp [h.escapeLow e]

@[simp] theorem Ctx.ok_mmaIssue {s : State} (h : s.contents.Ok) (c : Ctx) (mode f sparse) : (c.mmaIssue s mode f sparse).Ok :=
  Ctx.ok_mxIssue h ..
@[simp] theorem outOk_execMma {s : State} (h : s.contents.Ok) (mode f) : OutOk (execMma mode f s) :=
  h.issue _ _ fun _ => Ctx.ok_mmaIssue h ..
@[simp] theorem outOk_execMmas {s : State} (h : s.contents.Ok) (mode f) : OutOk (execMmas mode f s) :=
  h.issue _ _ fun _ => Ctx.ok_mmaIssue h ..
@[simp] theorem outOk_execMcomp {s : State} (h : s.contents.Ok) (f) : OutOk (execMcomp f s) :=
  h.issue _ _ fun _ => Ctx.ok_mxIssue h ..
@[simp] theorem outOk_execMsacc {s : State} (h : s.contents.Ok) (f) : OutOk (execMsacc f s) :=
  h.issue _ _ fun _ => Ctx.ok_mxIssue h ..

@[simp] theorem outOk_execMbatch {s : State} (h : s.contents.Ok) (f) : OutOk (execMbatch f s) :=
  h.issue _ _ fun c => by simp [h]

@[simp] theorem Ctx.ok_mwaitEnd {s : State} (h : s.contents.Ok) (c : Ctx) (b only dst) : (c.mwaitEnd s b only dst).Ok := by
  unfold Ctx.mwaitEnd
  dsimp only
  split <;> simp [h]

@[simp] theorem outOk_execMwait {s : State} (h : s.contents.Ok) (f) : OutOk (execMwait f s) := by
  refine h.endRunWith _ _ fun c s h => ?_
  split
  · simp
  · dsimp only
    split
    · simp
    · next b _ _ t e =>
      have ht := h.escapeLow e
      split
      · split
        · exact Ctx.ok_mwaitEnd (by simpa using ht) ..
        · exact Ctx.ok_await (by simpa using ht) ..
      · have hn := State.ok_mxNeed ht c.strand (c.st.stopUpTo b)
        split
        · next e =>
          rw [e] at hn
          exact hn
        · next e =>
          rw [e] at hn
          split
          · exact Ctx.ok_mwaitEnd hn ..
          · exact Ctx.ok_await hn ..

@[simp] theorem outOk_execMrel {s : State} (h : s.contents.Ok) (f) : OutOk (execMrel f s) :=
  h.issue _ _ fun _ => Ctx.ok_mxIssue h ..
@[simp] theorem outOk_execMzero {s : State} (h : s.contents.Ok) (f) : OutOk (execMzero f s) :=
  h.issue _ _ fun _ => Ctx.ok_mxIssue h ..
@[simp] theorem Ctx.ok_moveIssue {s : State} (h : s.contents.Ok) (c : Ctx) (f out scr) : (c.moveIssue s f out scr).Ok :=
  Ctx.ok_mxIssue h ..
@[simp] theorem outOk_execMrda {s : State} (h : s.contents.Ok) (f) : OutOk (execMrda f s) :=
  h.issue _ _ fun _ => Ctx.ok_moveIssue h ..
@[simp] theorem outOk_execMwra {s : State} (h : s.contents.Ok) (f) : OutOk (execMwra f s) :=
  h.issue _ _ fun _ => Ctx.ok_moveIssue h ..
@[simp] theorem outOk_execMsta {s : State} (h : s.contents.Ok) (f) : OutOk (execMsta f s) :=
  h.issue _ _ fun _ => Ctx.ok_moveIssue h ..
@[simp] theorem outOk_execMlda {s : State} (h : s.contents.Ok) (f) : OutOk (execMlda f s) :=
  h.issue _ _ fun _ => Ctx.ok_moveIssue h ..

@[simp] theorem outOk_execMstat {s : State} (h : s.contents.Ok) (f) : OutOk (execMstat f s) := by
  unfold execMstat
  refine h.issue _ _ fun c => ?_
  split <;> simp [h]

end Sys2Proof.Machine
end

section
/-! SUPPORT. The form of memory and scratch through special-function and function-register instructions. -/

namespace Sys2Proof.Machine

@[simp] theorem Ctx.contents_putLater (s : State) (c : Ctx) (reg lanes val cov) :
    (c.putLater s reg lanes val cov).1.contents = s.contents := by
  unfold Ctx.putLater
  split <;> simp

@[simp] theorem Ctx.contents_orLater (s : State) (c : Ctx) (fl) : (c.orLater s fl).1.contents = s.contents := by
  unfold Ctx.orLater
  dsimp only
  repeat' split
  all_goals simp

@[simp] theorem outOk_sfuInstr {s : State} (h : s.contents.Ok) (i f op) : OutOk (sfuInstr i f op s) :=
  h.issue _ _ fun c => by simp [h]

@[simp] theorem outOk_execRcp {s : State} (h : s.contents.Ok) (f) : OutOk (execRcp f s) := by simp [execRcp, h]
@[simp] theorem outOk_execRsq {s : State} (h : s.contents.Ok) (f) : OutOk (execRsq f s) := by simp [execRsq, h]
@[simp] theorem outOk_execSqrt {s : State} (h : s.contents.Ok) (f) : OutOk (execSqrt f s) := by simp [execSqrt, h]
@[simp] theorem outOk_execDiv {s : State} (h : s.contents.Ok) (f) : OutOk (execDiv f s) := by simp [execDiv, h]
@[simp] theorem outOk_execExp2 {s : State} (h : s.contents.Ok) (f) : OutOk (execExp2 f s) := by simp [execExp2, h]
@[simp] theorem outOk_execLog2 {s : State} (h : s.contents.Ok) (f) : OutOk (execLog2 f s) := by simp [execLog2, h]
@[simp] theorem outOk_execSinpi {s : State} (h : s.contents.Ok) (f) : OutOk (execSinpi f s) := by simp [execSinpi, h]
@[simp] theorem outOk_execCospi {s : State} (h : s.contents.Ok) (f) : OutOk (execCospi f s) := by simp [execCospi, h]
@[simp] theorem outOk_execTanh {s : State} (h : s.contents.Ok) (f) : OutOk (execTanh f s) := by simp [execTanh, h]
@[simp] theorem outOk_execSigm {s : State} (h : s.contents.Ok) (f) : OutOk (execSigm f s) := by simp [execSigm, h]
@[simp] theorem State.contents_sfuHold (s : State) (cluster spindle before e after t) :
    (s.sfuHold cluster spindle before e after t).contents = s.contents := by
  simp [State.sfuHold]

@[simp] theorem outOk_execSfuResultLands {s : State} (h : s.contents.Ok) (cluster spindle) :
    OutOk (execSfuResultLands cluster spindle s) := by
  unfold execSfuResultLands
  dsimp only
  split
  · split
    · next e _ => cases e.withheld <;> simpa using h
    · simpa using h
  · split
    · simpa using h
    · split
      · simpa using h
      · split <;> simpa using h
  · simpa using h

/-! ### Functions and the pool (R378, R380, R386) -/

theorem State.ok_fnSrc (s : State) (o r) {k : FnVal → FnRes} (hk : ∀ f, (k f).Ok) : (s.fnSrc o r k).Ok := by
  unfold State.fnSrc
  split
  · exact hk _
  · simp

@[simp] theorem State.ok_fnStore {s : State} (h : s.contents.Ok) (o d f) : (s.fnStore o d f).Ok := by
  unfold State.fnStore
  dsimp only
  split <;> simp [h]

@[simp] theorem State.contents_fnFlags (s : State) (o fl) : (s.fnFlags o fl).contents = s.contents := by simp [State.fnFlags]

@[simp] theorem State.ok_fnBuild {s : State} (h : s.contents.Ok) (o d tol e lo hi tag) : (s.fnBuild o d tol e lo hi tag).Ok := by
  unfold State.fnBuild
  extract_lets c t cap
  split
  · simp
  · split
    · simp
    · have hs := State.ok_fnStore h o d { lo := lo, hi := hi, coef := t.take 128, tag := tag }
      split
      · next e =>
        rw [e] at hs
        simpa using hs
      · exact hs

/-! ### Results in v-registers (R383) -/

@[simp] theorem State.contents_fnLand (s : State) (o i v tag) : (s.fnLand o i v tag).contents = s.contents := by
  unfold State.fnLand
  split <;> simp
@[simp] theorem State.contents_fnDrop (s : State) (o) : (s.fnDrop o).contents = s.contents := (rfl)

/-! ### The operations -/

@[simp] theorem State.ok_fnCombine {s : State} (h : s.contents.Ok) (o f op) : (s.fnCombine o f op).Ok := by
  refine s.ok_fnSrc _ _ fun a => s.ok_fnSrc _ _ fun b => ?_
  split
  · simp
  · exact State.ok_fnBuild h ..

@[simp] theorem Contents.Ok.fnLog {s : State} (h : s.contents.Ok) (o a shared) : (s.fnLog o a shared).contents.Ok := by
  simp [State.fnLog, h]

@[simp] theorem State.ok_fnPerform {s : State} (h : s.contents.Ok) (o) : (s.fnPerform o).Ok := by
  have hst (cl : Nat) (bs : List (ByteAt × Byte)) {s : State} (h : s.contents.Ok) :
      (bs.foldl (fun (a : State) b => match b.1.loc with
        | .mem x => a.homeWrite cl (some (a.strandPart o.strand)) x b.2
        | l => a.locPut (some (a.strandPart o.strand)) l b.2) s).contents.Ok := by
    refine h.foldl bs fun s b h => ?_
    split
    · simp [h]
    · simp [h]
  unfold State.fnPerform
  dsimp only
  split
  case h_1 =>
    split
    · simp
    · exact State.ok_fnStore (by simp [h]) ..
  case h_2 =>
    refine s.ok_fnSrc _ _ fun g => ?_
    rw [FnRes.ok_done, State.contents_fnLand]
    exact hst _ _ (by simp [h])
  case h_3 => exact State.ok_fnBuild h ..
  case h_4 =>
    refine s.ok_fnSrc _ _ fun g => ?_
    split
    · simp
    · simpa using h
  case h_8 => exact s.ok_fnSrc _ _ fun g => State.ok_fnBuild h ..
  case h_9 =>
    refine s.ok_fnSrc _ _ fun a => s.ok_fnSrc _ _ fun b => ?_
    split
    · simp
    · exact State.ok_fnBuild h ..
  case h_10 => exact s.ok_fnSrc _ _ fun g => State.ok_fnBuild h ..
  case h_11 => exact s.ok_fnSrc _ _ fun g => State.ok_fnBuild h ..
  case h_12 =>
    refine s.ok_fnSrc _ _ fun g => ?_
    split
    · simp
    · simpa using h
  case h_13 =>
    refine s.ok_fnSrc _ _ fun g => ?_
    split
    · exact h
    · split
      · simp
      · split
        · simp
        · simpa using h
  case h_14 =>
    refine s.ok_fnSrc _ _ fun g => ?_
    split
    · simp
    · exact State.ok_fnBuild h ..
  all_goals simp [h]

@[simp] theorem Contents.Ok.fnHold {s : State} (h : s.contents.Ok) (o t) : (s.fnHold o t).contents.Ok := by
  simp [State.fnHold, h]

@[simp] theorem outOk_execFnOpPerform {s : State} (h : s.contents.Ok) (strand) : OutOk (execFnOpPerform strand s) := by
  unfold execFnOpPerform
  dsimp only
  split
  · next o _ => cases o.held <;> simp [h]
  · next o _ _ =>
    have hp := State.ok_fnPerform (s := (s.count (strandCluster strand) 0x29 1).goHomeBytes (strandCluster strand) o.bytes)
      (by simpa using h) o
    split
    · next e =>
      rw [e] at hp
      exact (outOk_next _).mpr (Contents.Ok.tryEndStrand (by simpa using hp) _)
    · simp [h]
  · simpa using h

/-! ### Issue (R381, R382) -/

@[simp] theorem Ctx.ok_fnIssue {s : State} (h : s.contents.Ok) (c : Ctx) (outs o) : (c.fnIssue s outs o).Ok := by
  unfold Ctx.fnIssue
  extract_lets p fl q
  have hp : p.1.contents.Ok := Contents.Ok.foldl_fst _ h fun a r h => by
    split
    · simpa using h
    · exact h
  clear_value p
  simpa [q] using hp

theorem Contents.Ok.fnUnit {s : State} (h : s.contents.Ok) (i) {body : Ctx → State → Res} (hb : ∀ c, (body c s).Ok) :
    OutOk (fnInstr i s body) := by
  refine h.issue _ _ fun c => ?_
  split
  · simpa using h
  · exact hb c

theorem Contents.Ok.fnAccess {s : State} (h : s.contents.Ok) (c : Ctx) (acc n a) {k : State → List LaneAcc → Res}
    (hk : ∀ as, (k s as).Ok) : (c.fnAccess s acc n a k).Ok := by
  unfold Ctx.fnAccess
  split
  · simp
  · split
    · simp
    · simpa using h
    · split
      · simp
      · exact hk _

@[simp] theorem outOk_execFnld {s : State} (h : s.contents.Ok) (f) : OutOk (execFnld f s) := by
  refine h.fnUnit _ fun c => ?_
  dsimp only
  split
  · exact trivial
  · split
    · exact trivial
    · refine h.fnAccess c _ _ _ fun as => ?_
      split
      · simp
      · next e => exact Ctx.ok_fnIssue (by simp [h.escapeLow e]) ..

@[simp] theorem outOk_execFnst {s : State} (h : s.contents.Ok) (f) : OutOk (execFnst f s) := by
  refine h.fnUnit _ fun c => ?_
  dsimp only
  split
  · exact trivial
  · refine h.fnAccess c _ _ _ fun as => ?_
    split
    · simp
    · next e => exact Ctx.ok_fnIssue (by simp [h.escapeLow e]) ..

@[simp] theorem outOk_execFnfit {s : State} (h : s.contents.Ok) (f) : OutOk (execFnfit f s) := by
  refine h.fnUnit _ fun c => ?_
  dsimp only
  split
  · exact trivial
  · split
    · exact trivial
    · split
      · exact trivial
      · exact Ctx.ok_fnIssue h ..

@[simp] theorem outOk_execFneval {s : State} (h : s.contents.Ok) (f) : OutOk (execFneval f s) :=
  h.fnUnit _ fun _ => Ctx.ok_fnIssue h ..
@[simp] theorem outOk_execFnadd {s : State} (h : s.contents.Ok) (f) : OutOk (execFnadd f s) :=
  h.fnUnit _ fun _ => Ctx.ok_fnIssue h ..
@[simp] theorem outOk_execFnsub {s : State} (h : s.contents.Ok) (f) : OutOk (execFnsub f s) :=
  h.fnUnit _ fun _ => Ctx.ok_fnIssue h ..
@[simp] theorem outOk_execFnmul {s : State} (h : s.contents.Ok) (f) : OutOk (execFnmul f s) :=
  h.fnUnit _ fun _ => Ctx.ok_fnIssue h ..

@[simp] theorem outOk_execFnaff {s : State} (h : s.contents.Ok) (f) : OutOk (execFnaff f s) := by
  refine h.fnUnit _ fun c => ?_
  split
  · exact trivial
  · exact Ctx.ok_fnIssue h ..

@[simp] theorem outOk_execFncomp {s : State} (h : s.contents.Ok) (f) : OutOk (execFncomp f s) :=
  h.fnUnit _ fun _ => Ctx.ok_fnIssue h ..
@[simp] theorem outOk_execFndiff {s : State} (h : s.contents.Ok) (f) : OutOk (execFndiff f s) :=
  h.fnUnit _ fun _ => Ctx.ok_fnIssue h ..
@[simp] theorem outOk_execFnint {s : State} (h : s.contents.Ok) (f) : OutOk (execFnint f s) :=
  h.fnUnit _ fun _ => Ctx.ok_fnIssue h ..
@[simp] theorem outOk_execFnquad {s : State} (h : s.contents.Ok) (f) : OutOk (execFnquad f s) :=
  h.fnUnit _ fun _ => Ctx.ok_fnIssue h ..
@[simp] theorem outOk_execFnroot {s : State} (h : s.contents.Ok) (f) : OutOk (execFnroot f s) :=
  h.fnUnit _ fun _ => Ctx.ok_fnIssue h ..

@[simp] theorem outOk_execFndom {s : State} (h : s.contents.Ok) (f) : OutOk (execFndom f s) := by
  refine h.fnUnit _ fun c => ?_
  split
  · exact trivial
  · exact Ctx.ok_fnIssue h ..

@[simp] theorem outOk_execFninfo {s : State} (h : s.contents.Ok) (f) : OutOk (execFninfo f s) :=
  h.fnUnit _ fun _ => Ctx.ok_fnIssue h ..
@[simp] theorem outOk_execFnrel {s : State} (h : s.contents.Ok) (f) : OutOk (execFnrel f s) :=
  h.fnUnit _ fun _ => Ctx.ok_fnIssue h ..

end Sys2Proof.Machine
end

section
/-! SUPPORT. The form of memory and scratch through register writes. -/

namespace Sys2Proof.Machine

theorem WrRes.contents_orElse {w : WrRes} (hw : w.Ok) {s : State} (h : s.contents.Ok) : (w.orElse s).contents.Ok := by
  cases w with
  | ok s' => exact hw
  | bad => exact h
  | refused => exact h
  | wait => exact h

/-! ### XL_INV (R182) -/

@[simp] theorem State.ok_xlInvWrite {s : State} (h : s.contents.Ok) (key v) : (s.xlInvWrite key v).Ok := by
  unfold State.xlInvWrite
  extract_lets c psz n what mine u inv w
  have hw : w.contents.Ok := by simpa [w, u] using h
  clear_value w
  split
  · simp
  · split
    · simp
    · refine hw.foldl _ fun s f h => ?_
      split
      · split
        · simpa using h
        · exact h
      · exact h

@[simp] theorem outOk_execXlInvWrite {s : State} (h : s.contents.Ok) (ctx v) : OutOk (execXlInvWrite ctx v s) :=
  (outOk_next _).mpr (WrRes.contents_orElse (State.ok_xlInvWrite h ..) h)
@[simp] theorem State.contents_readyUnits (s : State) (p) : (s.readyUnits p).contents = s.contents := by simp [State.readyUnits]
@[simp] theorem outOk_execXlInvDone {s : State} (h : s.contents.Ok) (ctx) : OutOk (execXlInvDone ctx s) := by
  simp [execXlInvDone, h]

/-! ### FQ_RESUME (R325, R291) -/

@[simp] theorem Contents.Ok.fqResume {s : State} (h : s.contents.Ok) (key v) : (s.fqResume key v).contents.Ok := by
  unfold State.fqResume
  refine Contents.Ok.foldl _ (h.foldl _ fun a f h => ?_) fun a l h => ?_
  · split
    · split
      · simpa using h
      · exact h
    · exact h
  · split
    · split
      · exact Contents.Ok.writeCompletion (by simpa using h) ..
      · exact h
    · exact h

@[simp] theorem outOk_execFqResume {s : State} (h : s.contents.Ok) (ctx v) : OutOk (execFqResume ctx v s) := by
  simp [execFqResume, h]

/-! ### Stops (R440 to R443, Table 12.7) -/

@[simp] theorem Contents.Ok.writeStop {s : State} (h : s.contents.Ok) (k) : (s.writeStop k).contents.Ok := by
  unfold State.writeStop
  repeat' split
  all_goals simp [h]

@[simp] theorem State.contents_goOn (s : State) (k step) : (s.goOn k step).contents = s.contents := by simp [State.goOn]
@[simp] theorem Contents.Ok.stopWritten {s : State} (h : s.contents.Ok) (k) : (s.stopWritten k).contents.Ok := by
  unfold State.stopWritten
  split <;> simp [h]
@[simp] theorem Contents.Ok.stopFibre {s : State} (h : s.contents.Ok) (k cause detail) : (s.stopFibre k cause detail).contents.Ok := by
  simp [State.stopFibre, h]
@[simp] theorem Contents.Ok.askStop {s : State} (h : s.contents.Ok) (k) : (s.askStop k).contents.Ok := by
  unfold State.askStop
  split <;> simp [h]
@[simp] theorem State.contents_releaseFibre (s : State) (k step) : (s.releaseFibre k step).contents = s.contents := by
  unfold State.releaseFibre
  split <;> simp
@[simp] theorem outOk_execDbgStop {s : State} (h : s.contents.Ok) (ctx cluster sid path) : OutOk (execDbgStop ctx cluster sid path s) := by
  unfold execDbgStop
  cases s.dbgFib? ctx cluster sid path <;> simp [h]

@[simp] theorem outOk_execDbgRelease {s : State} (h : s.contents.Ok) (ctx cluster sid path) :
    OutOk (execDbgRelease ctx cluster sid path s) := by
  unfold execDbgRelease
  cases s.dbgFib? ctx cluster sid path <;> simp [h]

@[simp] theorem outOk_execDbgStep {s : State} (h : s.contents.Ok) (ctx cluster sid path) : OutOk (execDbgStep ctx cluster sid path s) := by
  unfold execDbgStep
  cases s.dbgFib? ctx cluster sid path <;> simp [h]
@[simp] theorem outOk_execDbgStopAll {s : State} (h : s.contents.Ok) (ctx) : OutOk (execDbgStopAll ctx s) :=
  (outOk_next _).mpr (h.foldl _ fun _ k h => h.askStop k)
@[simp] theorem outOk_execDbgReleaseAll {s : State} (h : s.contents.Ok) (ctx) : OutOk (execDbgReleaseAll ctx s) := by
  simp [execDbgReleaseAll, h]

@[simp] theorem State.ok_dbgOp {s : State} (h : s.contents.Ok) (key v) : (s.dbgOp key v).Ok := by
  unfold State.dbgOp
  dsimp only
  generalize s.dbgFib? _ _ _ _ = hit
  split
  case h_4 => exact h.foldl _ fun s k h => h.askStop k
  case h_5 => simpa using h
  case h_6 => simp
  all_goals cases hit <;> simp [h]

/-! ### Compaction (R467 to R469) -/

@[simp] theorem outOk_execCmpPark {s : State} (h : s.contents.Ok) (part exempt) : OutOk (execCmpPark part exempt s) := by
  simp [execCmpPark, h]
@[simp] theorem State.contents_cmpResume (s : State) (part) : (s.cmpResume part).contents = s.contents := (rfl)
@[simp] theorem outOk_execCmpUnpark {s : State} (h : s.contents.Ok) (part) : OutOk (execCmpUnpark part s) := by
  simp [execCmpUnpark, h]
@[simp] theorem outOk_execCmpFwd {s : State} (h : s.contents.Ok) (part) : OutOk (execCmpFwd part s) := by simp [execCmpFwd, h]
@[simp] theorem State.contents_forward (s : State) (part t) : (s.forward part t).contents = s.contents := by
  simp [State.forward]

@[simp] theorem outOk_execCmpFwdDone {s : State} (h : s.contents.Ok) (part) : OutOk (execCmpFwdDone part s) := by
  unfold execCmpFwdDone
  repeat' split
  all_goals simp [h]

@[simp] theorem State.ok_cmpCtlWrite {s : State} (h : s.contents.Ok) (part fib v) : (s.cmpCtlWrite part fib v).Ok := by
  simp [State.cmpCtlWrite, h]

/-! ### Buffer pools (R457, R458) -/

@[simp] theorem Contents.Ok.poolRetest {s : State} (h : s.contents.Ok) (unit loc fuel) : (s.poolRetest unit loc fuel).contents.Ok := by
  induction fuel generalizing s with
  | zero => exact h
  | succ fuel ih =>
    unfold State.poolRetest
    split
    · next t e => exact ih (outOk_execPoolEntryGrant h unit loc t e)
    · exact h

@[simp] theorem State.ok_bpLimWrite {s : State} (h : s.contents.Ok) (sel v) : (s.bpLimWrite sel v).Ok := by
  unfold State.bpLimWrite
  dsimp only
  split
  · exact Contents.Ok.poolRetest (by simpa using h) ..
  · simp

@[simp] theorem outOk_execBpLimWrite {s : State} (h : s.contents.Ok) (part ctx v) : OutOk (execBpLimWrite part ctx v s) :=
  (outOk_next _).mpr (WrRes.contents_orElse (State.ok_bpLimWrite h ..) h)

/-! ### Task queues, counters, the Ephemeris and measurement -/

@[simp] theorem State.ok_tqCfgWrite {s : State} (h : s.contents.Ok) (d q v) : (s.tqCfgWrite d q v).Ok := by
  simp [State.tqCfgWrite, h]
@[simp] theorem outOk_execTqCfgWrite {s : State} (h : s.contents.Ok) (die queue v) : OutOk (execTqCfgWrite die queue v s) :=
  (outOk_next _).mpr (WrRes.contents_orElse (State.ok_tqCfgWrite h ..) h)
@[simp] theorem State.ok_evSelWrite {s : State} (h : s.contents.Ok) (cl v) : (s.evSelWrite cl v).Ok := by
  simp [State.evSelWrite, h]
@[simp] theorem outOk_execEvSelWrite {s : State} (h : s.contents.Ok) (cluster v) : OutOk (execEvSelWrite cluster v s) :=
  (outOk_next _).mpr (WrRes.contents_orElse (State.ok_evSelWrite h ..) h)
@[simp] theorem State.ok_ephCtlWrite {s : State} (h : s.contents.Ok) (part v) : (s.ephCtlWrite part v).Ok := by
  simp [State.ephCtlWrite, h]
@[simp] theorem outOk_execEphCtlWrite {s : State} (h : s.contents.Ok) (part v) : OutOk (execEphCtlWrite part v s) :=
  (outOk_next _).mpr (WrRes.contents_orElse (State.ok_ephCtlWrite h ..) h)
@[simp] theorem State.ok_mrCtlWrite {s : State} (h : s.contents.Ok) (part v) : (s.mrCtlWrite part v).Ok := by
  simp [State.mrCtlWrite, h]
@[simp] theorem outOk_execMrCtlWrite {s : State} (h : s.contents.Ok) (part v) : OutOk (execMrCtlWrite part v s) :=
  (outOk_next _).mpr (WrRes.contents_orElse (State.ok_mrCtlWrite h ..) h)

/-! ### Writes -/

@[simp] theorem State.ok_putCtx {s : State} (h : s.contents.Ok) (r ok f) : (s.putCtx r ok f).Ok := by simp [State.putCtx, h]
@[simp] theorem State.ok_putPart {s : State} (h : s.contents.Ok) (r ok f) : (s.putPart r ok f).Ok := by simp [State.putPart, h]
@[simp] theorem State.ok_putFib {s : State} (h : s.contents.Ok) (r f) : (s.putFib r f).Ok := by
  unfold State.putFib
  split <;> simp [h]
@[simp] theorem State.ok_putStrand {s : State} (h : s.contents.Ok) (r f) : (s.putStrand r f).Ok := by
  unfold State.putStrand
  split <;> simp [h]
@[simp] theorem State.ok_writeTrap {s : State} (h : s.contents.Ok) (r n v) : (s.writeTrap r n v).Ok := by
  simp [State.writeTrap, h]
@[simp] theorem State.ok_writeUnit {s : State} (h : s.contents.Ok) (r n v) : (s.writeUnit r n v).Ok := by
  simp [State.writeUnit, h]
@[simp] theorem State.contents_bpResolve (s : State) (r i) : (s.bpResolve r i).contents = s.contents := (rfl)
@[simp] theorem State.ok_trCtlWrite {s : State} (h : s.contents.Ok) (part v) : (s.trCtlWrite part v).Ok := by
  simp [State.trCtlWrite, h]
@[simp] theorem State.ok_writeDebug {s : State} (h : s.contents.Ok) (r n v) : (s.writeDebug r n v).Ok := by
  simp [State.writeDebug, h]
@[simp] theorem Contents.Ok.clusterLeaves {s : State} (h : s.contents.Ok) (p cl) : (s.clusterLeaves p cl).contents.Ok := by
  simp only [State.clusterLeaves, State.contents_modCluster, State.contents_ite, State.contents_count, ite_self]
  exact h.foldl _ fun s line h => h.evict _ _

@[simp] theorem State.ok_rangeWrite {s : State} (h : s.contents.Ok) (p v) : (s.rangeWrite p v).Ok := by
  unfold State.rangeWrite
  dsimp only
  split
  · simp
  · rw [WrRes.ok_ok, State.contents_modPart]
    exact h.foldl _ fun s c h => h.clusterLeaves _ _

@[simp] theorem State.ok_waysWrite {s : State} (h : s.contents.Ok) (p v) : (s.waysWrite p v).Ok := by simp [State.waysWrite, h]
@[simp] theorem State.ok_coloursWrite {s : State} (h : s.contents.Ok) (p hi v) : (s.coloursWrite p hi v).Ok := by
  simp [State.coloursWrite, h]
@[simp] theorem State.ok_baseTblWrite {s : State} (h : s.contents.Ok) (p hi v) : (s.baseTblWrite p hi v).Ok := by
  simp [State.baseTblWrite, h]
@[simp] theorem State.ok_writePart {s : State} (h : s.contents.Ok) (r n v) : (s.writePart r n v).Ok := by
  simp [State.writePart, h]
@[simp] theorem State.ok_writeXl {s : State} (h : s.contents.Ok) (r n v) : (s.writeXl r n v).Ok := by
  simp [State.writeXl, h]
@[simp] theorem State.ok_regWrite {s : State} (h : s.contents.Ok) (r n v) : (s.regWrite r n v).Ok := by
  simp [State.regWrite, h]

end Sys2Proof.Machine
end

section
/-! SUPPORT. The form of memory and scratch through substitution and system instructions, and code that arrives. -/

namespace Sys2Proof.Machine

/-! ### TRAP, BRK and RTE -/

@[simp] theorem outOk_execTrap {s : State} (h : s.contents.Ok) (f) : OutOk (execTrap f s) :=
  h.endRunWith _ _ fun c s h => by simp [h]

@[simp] theorem outOk_execBrk {s : State} (h : s.contents.Ok) (f) : OutOk (execBrk f s) :=
  h.endRunWith _ _ fun c s h => by simp [h]

@[simp] theorem Ctx.contents_rteTo (s : State) (c : Ctx) (sl ref) : (c.rteTo s sl ref).contents = s.contents := by
  simp [Ctx.rteTo]

@[simp] theorem outOk_execRte {s : State} (h : s.contents.Ok) (f) : OutOk (execRte f s) := by
  unfold execRte
  refine h.endRunWith _ _ fun c s h => ?_
  repeat' split
  all_goals simp [h]

/-! ### System registers (R343) -/

@[simp] theorem outOk_execSrrd {s : State} (h : s.contents.Ok) (f) : OutOk (execSrrd f s) := h.issue _ _ fun c => by simp [h]

theorem Contents.Ok.escapeSr {s t : State} (h : s.contents.Ok) {c : Ctx} {a n} (ht : c.escapeSr s a n = .ok t) : t.contents.Ok := by
  unfold Ctx.escapeSr at ht
  split at ht
  · exact h.escape ht
  · cases ht
    exact h

@[simp] theorem outOk_execSrwr {s : State} (h : s.contents.Ok) (f) : OutOk (execSrwr f s) := by
  refine h.issue _ _ fun c => ?_
  dsimp only
  split
  · exact h
  · split
    · simp
    · simp
    · simpa using h
    · split
      · simp
      · next e =>
        have hu := h.escapeSr e
        split
        · have hd := hu.drainStores c.k
          exact WrRes.contents_orElse (State.ok_regWrite hd ..) hd
        · exact WrRes.contents_orElse (State.ok_regWrite hu ..) hu

/-! ### Counts -/

@[simp] theorem outOk_execCycrd {s : State} (h : s.contents.Ok) (f) : OutOk (execCycrd f s) := h.issue _ _ fun c => by simp [h]

@[simp] theorem outOk_execEvrd {s : State} (h : s.contents.Ok) (f) : OutOk (execEvrd f s) := h.issue _ _ fun c => by simp [h]

@[simp] theorem outOk_execTrmark {s : State} (h : s.contents.Ok) (f) : OutOk (execTrmark f s) :=
  h.issue _ _ fun c => by simp [h]

/-! ### CKPT (R346) -/

@[simp] theorem outOk_execCkpt {s : State} (h : s.contents.Ok) (f) : OutOk (execCkpt f s) := h.issue _ _ fun c => by simp [h]

@[simp] theorem outOk_execCkptTake {s : State} (h : s.contents.Ok) (part) : OutOk (execCkptTake part s) := by
  unfold execCkptTake
  repeat' split
  all_goals simp [h]

/-! ### The substitution table and the escape log (R423 to R427) -/

@[simp] theorem outOk_execSbrd {s : State} (h : s.contents.Ok) (f) : OutOk (execSbrd f s) := by
  unfold execSbrd
  refine h.issue _ _ fun c => ?_
  split <;> simp [h]

@[simp] theorem outOk_execEscrd {s : State} (h : s.contents.Ok) (f) : OutOk (execEscrd f s) := h.issue _ _ fun c => by simp [h]

@[simp] theorem outOk_execSbwd {s : State} (h : s.contents.Ok) (f) : OutOk (execSbwd f s) := by
  unfold execSbwd
  refine h.issue _ _ fun c => ?_
  split <;> simp [h]

@[simp] theorem State.contents_subFree (s : State) (cl part n) : (s.subFree cl part n).contents = s.contents := by
  simp [State.subFree]
@[simp] theorem State.contents_doneFree (s : State) (cl part) : (s.doneFree cl part).contents = s.contents := (rfl)

@[simp] theorem outOk_execSbclr {s : State} (h : s.contents.Ok) (f) : OutOk (execSbclr f s) := by
  unfold execSbclr
  refine h.issue _ _ fun c => ?_
  repeat' split
  all_goals simp [h]

/-! ### Code that arrives -/

@[simp] theorem outOk_execCodeArrival {s : State} (h : s.contents.Ok) (k) : OutOk (execCodeArrival k s) := by
  unfold execCodeArrival
  repeat' split
  all_goals simp [h]

@[simp] theorem outOk_execCodeUnarrived {s : State} (h : s.contents.Ok) (k) : OutOk (execCodeUnarrived k s) := by
  unfold execCodeUnarrived
  repeat' split
  all_goals simp [h]

end Sys2Proof.Machine
end

section
/-! SUPPORT. The form of memory and scratch through events of the units around the fibres. -/

namespace Sys2Proof.Machine

/-! ### Slots (R72, R74, R300, R468) -/

@[simp] theorem outOk_execSlotHandout {s : State} (h : s.contents.Ok) (cluster spindle slot) :
    OutOk (execSlotHandout cluster spindle slot s) := by
  unfold execSlotHandout
  repeat' split
  all_goals simp [h]

@[simp] theorem outOk_execDeferredTrapDelivery {s : State} (h : s.contents.Ok) (k) : OutOk (execDeferredTrapDelivery k s) := by
  unfold execDeferredTrapDelivery
  repeat' split
  all_goals simp [h]

/-! ### Walks and page requests (R179 to R181, R456) -/

@[simp] theorem State.contents_grantWalk (s : State) (c idx) : (s.grantWalk c idx).contents = s.contents := by
  unfold State.grantWalk
  split <;> simp

@[simp] theorem outOk_execWalkComplete {s : State} (h : s.contents.Ok) (c idx) : OutOk (execWalkComplete c idx s) := by
  have hpf (key : Nat) (ps : List PfReq) (s : State) :
      (ps.foldl (fun (a : State) r => (a.enterPf c key r.va r).getD (a.count c 0x1C 1)) s).contents = s.contents := by
    refine State.contents_foldl _ _ _ fun a r => ?_
    cases e : a.enterPf c key r.va r with
    | none => simp
    | some t => simpa using State.contents_enterPf e
  unfold execWalkComplete
  split
  · simpa using h
  · split
    · simpa using h
    · extract_lets key u w note t
      have hw : w.contents = s.contents := by simp [w, u]
      have hn (e : Cause) : (note w e).contents = w.contents := by simp [note]
      clear_value w note
      have ht : t.contents = s.contents := by
        simp only [t]
        split
        · rw [hpf, hw]
        · split <;> simp [hn, hw]
      rw [outOk_next, State.contents_readyWalks, ht]
      exact h

@[simp] theorem Contents.Ok.walkNow {s : State} (h : s.contents.Ok) (c key page fuel) : (s.walkNow c key page fuel).contents.Ok := by
  induction fuel generalizing s with
  | zero => exact h
  | succ fuel ih =>
    unfold State.walkNow
    split
    · exact h
    · split
      · next w _ =>
        split
        · next t e => exact ih (outOk_execWalkComplete h w.1 w.2 t e)
        · exact h
      · exact h

@[simp] theorem Contents.Ok.runEng {s : State} (h : s.contents.Ok) (o fuel) : (s.runEng o fuel).contents.Ok := by
  induction fuel generalizing s o with
  | zero => exact h
  | succ fuel ih =>
    unfold State.runEng
    extract_lets p rs cl key q
    have hq : q.1.contents.Ok := by simpa [q, p] using Contents.Ok.flyParts (s := p.1) (by simpa [p] using h) p.2 0
    clear_value q
    have hr : EngRes.Ok (if q.2.ending.isSome then .more q.1 q.2 else q.1.bursts q.2 rs false (burstCount rs)) := by
      split
      · exact hq
      · exact State.ok_bursts hq ..
    split
    · next e =>
      rw [e] at hr
      exact Contents.Ok.lastBurst hr ..
    · next e =>
      rw [e] at hr
      exact Contents.Ok.endEng hr ..
    · next u x e =>
      rw [e] at hr
      have hu : (u.setEng x).contents.Ok := by simpa using hr
      dsimp only
      split
      · split
        · exact ih (hu.walkNow ..) _
        · exact hu.walkNow ..
      · exact hu

@[simp] theorem Contents.Ok.keepPromises {s : State} (h : s.contents.Ok) (cl) : (s.keepPromises cl).contents.Ok := by
  refine h.foldl _ fun a o h => ?_
  extract_lets before b
  have hb : b.contents.Ok := by
    refine h.foldl _ fun a x h => ?_
    split
    · simpa using h
    · exact h
  clear_value b
  split
  · exact hb.runEng ..
  · exact hb

@[simp] theorem outOk_execArbAgeStep {s : State} (h : s.contents.Ok) : OutOk (execArbAgeStep s) := by simp [execArbAgeStep, h]

@[simp] theorem outOk_execPageRequestDrain {s : State} (h : s.contents.Ok) (die ctx) : OutOk (execPageRequestDrain die ctx s) := by
  unfold execPageRequestDrain
  split
  · simpa using h
  · dsimp only
    split
    · simpa using h
    · refine (outOk_next _).mpr (Contents.Ok.poolRetest ?_ _ _ _)
      split <;> simp [h]

/-! ### Carding (R406 to R408) -/

@[simp] theorem outOk_execTrial {s : State} (h : s.contents.Ok) (cluster job sample cand) :
    OutOk (execTrial cluster job sample cand s) := by
  unfold execTrial
  split <;> simp [h]

@[simp] theorem outOk_execCandidateInstall {s : State} (h : s.contents.Ok) (cluster job cand) :
    OutOk (execCandidateInstall cluster job cand s) := by
  unfold execCandidateInstall
  dsimp only
  repeat' split
  all_goals simp [h]

/-! ### The Ephemeris (R432, R433) -/

@[simp] theorem Contents.Ok.ephPut {s : State} (h : s.contents.Ok) (part r) : (s.ephPut part r).contents.Ok := by
  simp [State.ephPut, h]

@[simp] theorem Contents.Ok.ephDrain {s : State} (h : s.contents.Ok) (part fuel) : (s.ephDrain part fuel).contents.Ok := by
  induction fuel generalizing s with
  | zero => exact h
  | succ fuel ih =>
    unfold State.ephDrain
    repeat' split
    all_goals simp [h, ih]

@[simp] theorem Contents.Ok.ephTake {s : State} (h : s.contents.Ok) (part r) : (s.ephTake part r).contents.Ok := by
  simp [State.ephTake, h]

@[simp] theorem Contents.Ok.ephTickOf {s : State} (h : s.contents.Ok) (part) : (s.ephTickOf part).contents.Ok := by
  have hr (rs : List (List Byte)) : (rs.foldl (fun (a : State) r => a.ephTake part r) (s.ephDrain part 16)).contents.Ok :=
    Contents.Ok.foldl rs (h.ephDrain _ _) fun s r h => h.ephTake _ _
  simpa [State.ephTickOf] using hr _

@[simp] theorem outOk_execEphemerisTick {s : State} (h : s.contents.Ok) : OutOk (execEphemerisTick s) :=
  (outOk_next _).mpr (h.foldl _ fun _ p h => h.ephTickOf p)

/-! ### Trace streams (R434 to R439) -/

@[simp] theorem Contents.Ok.traceDrain {s : State} (h : s.contents.Ok) (c part n) : (s.traceDrain c part n).contents.Ok := by
  induction n generalizing s with
  | zero => exact h
  | succ n ih =>
    unfold State.traceDrain
    dsimp only
    split
    · exact h
    · split
      · refine ih ?_
        simp only [State.contents_ite, State.contents_raise, State.contents_modCluster, ite_self]
        exact h.foldl _ fun s b h => h.memWrite _ _ _
      · exact h

@[simp] theorem Contents.Ok.traceHold {s : State} (h : s.contents.Ok) (c) : (s.traceHold c).contents.Ok := by
  unfold State.traceHold
  dsimp only
  split
  · refine Contents.Ok.foldl _ (by simpa using h) fun a f h => ?_
    split
    · simp [h]
    · exact h
  · split
    · refine Contents.Ok.foldl _ (by simpa using h) fun a f h => ?_
      split
      · simpa using h
      · exact h
    · exact h

@[simp] theorem outOk_execTraceDrain {s : State} (h : s.contents.Ok) (c) : OutOk (execTraceDrain c s) := by
  unfold execTraceDrain
  split
  · simpa using h
  · exact (outOk_next _).mpr ((h.traceDrain _ _ _).traceHold c)

/-! ### Undo and measurement (R338, R447) -/

@[simp] theorem Contents.Ok.undoAll {s : State} (h : s.contents.Ok) (part) : (s.undoAll part).contents.Ok := by
  simp only [State.undoAll, State.contents_l2Drop]
  refine Contents.Ok.foldl _ (h.foldl _ fun s n h => h.memWriteBytes _ _ _) fun s c h => ?_
  refine Contents.Ok.foldl _ h fun s n h => ?_
  simp [h]

@[simp] theorem State.contents_icClear (s : State) (part) : (s.icClear part).contents = s.contents := by simp [State.icClear]
@[simp] theorem Contents.Ok.passRecord {s : State} (h : s.contents.Ok) (part) : (s.passRecord part).contents.Ok :=
  (h.foldl _ fun _ _ h => h.memWriteBytes _ _ _).memWriteBytes _ _ _

@[simp] theorem Contents.Ok.rerun {s : State} (h : s.contents.Ok) (n) : (s.rerun n).contents.Ok := by
  unfold State.rerun
  dsimp only
  repeat' split
  all_goals simp [h]

@[simp] theorem outOk_execMeasurePassEnd {s : State} (h : s.contents.Ok) (part) : OutOk (execMeasurePassEnd part s) := by
  unfold execMeasurePassEnd
  dsimp only
  split
  · simpa using h
  · split
    · simpa using h
    · split
      · refine (outOk_next _).mpr (Contents.Ok.rerun ?_ _)
        simp [h]
      · simp [h]

end Sys2Proof.Machine
end

section
/-! SUPPORT. The form of memory and scratch through pre-emption, kills and the halt line. -/

namespace Sys2Proof.Machine

/-! ### The soft request and the halt (R328, R330) -/

@[simp] theorem outOk_execSliceEnd {s : State} (h : s.contents.Ok) (ctx) : OutOk (execSliceEnd ctx s) := by
  simp [execSliceEnd, h]
@[simp] theorem State.contents_haltFibre (s : State) (k) : (s.haltFibre k).contents = s.contents := by simp [State.haltFibre]

@[simp] theorem outOk_execInstructionLevelHalt {s : State} (h : s.contents.Ok) (ctx) : OutOk (execInstructionLevelHalt ctx s) := by
  unfold execInstructionLevelHalt
  dsimp only
  split <;> simp [h]

/-! ### The save (R309, R329, Table 12.5) -/

/-- The skein leaves with its scratch. -/
@[simp] theorem Contents.Ok.refire {s : State} (h : s.contents.Ok) (sk) : (s.refire sk).contents.Ok := by
  unfold State.refire
  split
  · exact h
  · extract_lets u
    have hu : u.contents.Ok := by simpa [u] using h
    exact hu.of_subset (fun _ he => List.mem_of_mem_filter he) rfl

@[simp] theorem Contents.Ok.saveAccs {s : State} (h : s.contents.Ok) (sk) : (s.saveAccs sk).contents.Ok := by
  unfold State.saveAccs
  split <;> simp [h]
@[simp] theorem State.contents_saveOps (s : State) (strand) : (s.saveOps strand).contents = s.contents := (rfl)

@[simp] theorem outOk_execContextSaveEnd {s : State} (h : s.contents.Ok) (ctx) : OutOk (execContextSaveEnd ctx s) := by
  unfold execContextSaveEnd
  split
  · simpa using h
  · extract_lets reason s0 area base
    have h0 : s0.contents.Ok := h.foldl _ fun s e h => h.refire _
    clear_value s0 area
    split
    · simpa using h
    · next t ht =>
      have ht := h0.agentWrite ht
      extract_lets u v w x
      have hu : u.contents.Ok := by simpa [u] using ht
      have hv : v.contents.Ok := hu.foldl _ fun s e h => by simp [h]
      have hw : w.contents.Ok := by simpa [w] using hv
      simpa [x] using hw

/-! ### Kill (R334) -/

@[simp] theorem Contents.Ok.flushCtx {s : State} (h : s.contents.Ok) (key) : (s.flushCtx key).contents.Ok := by
  have hm (cl : Nat) (es : List StoreEntry) {s : State} (h : s.contents.Ok) :
      (es.foldl (fun (a : State) e => a.performEntry cl (a.partOf e.strand) e) s).contents.Ok :=
    h.foldl es fun s e h => h.performEntry _ _ _
  refine h.foldl _ fun s c h => h.foldl _ fun s i h => ?_
  rw [State.contents_modSpindle]
  exact hm _ _ h

@[simp] theorem Contents.Ok.flushAtomics {s : State} (h : s.contents.Ok) (key) : (s.flushAtomics key).contents.Ok := by
  unfold State.flushAtomics
  refine Contents.Ok.foldl _ ?_ fun a x h => ?_
  · simp [h]
  · simp [h]

@[simp] theorem Contents.Ok.freeFifos {s : State} (h : s.contents.Ok) (key c) : (s.freeFifos key c).contents.Ok := by
  unfold State.freeFifos
  refine Contents.Ok.foldl _ ?_ fun a x h => ?_
  · simp [h]
  · simp [h]

@[simp] theorem Contents.Ok.purgeCluster {s : State} (h : s.contents.Ok) (key c) : (s.purgeCluster key c).contents.Ok := by
  simp [State.purgeCluster, h]
@[simp] theorem State.contents_purgeShared (s : State) (key) : (s.purgeShared key).contents = s.contents := (rfl)

@[simp] theorem Contents.Ok.killLaunches {s : State} (h : s.contents.Ok) (key cause) : (s.killLaunches key cause).contents.Ok := by
  unfold State.killLaunches
  refine Contents.Ok.foldl _ ?_ fun a x h => ?_
  · simp [h]
  · simp [h]

@[simp] theorem State.contents_serveAll (s : State) : s.serveAll.contents = s.contents := by simp [State.serveAll]

/-- The skeins of the context leave, and the others stay as they are. -/
@[simp] theorem Contents.Ok.killCtx {s : State} (h : s.contents.Ok) (key cause) : (s.killCtx key cause).contents.Ok := by
  unfold State.killCtx
  extract_lets u v w x y z r t
  have hu : u.contents.Ok := (h.flushCtx key).flushAtomics key
  clear_value u
  have hx : x.contents.Ok := by simpa [x, w, v] using hu
  clear_value x
  have hy : y.contents.Ok := hx.foldl _ fun s c h => h.purgeCluster _ _
  clear_value y
  have hz : z.contents.Ok := hy.foldl _ fun s e h => by simpa using h
  clear_value z
  have hr : r.contents.Ok := hz.of_subset (fun _ he => List.mem_of_mem_filter he) rfl
  clear_value r
  rw [State.contents_serveAll, State.contents_modCtx]
  exact hr.killLaunches _ _

@[simp] theorem outOk_execKill {s : State} (h : s.contents.Ok) (ctx) : OutOk (execKill ctx s) := by
  unfold execKill
  extract_lets c u
  have hu : u.contents.Ok := h.killCtx _ _
  clear_value c u
  split
  · split
    · refine (outOk_next _).mpr ?_
      cases e : State.agentWrite _ _ _ _ _ with
      | none => exact hu
      | some t => exact hu.agentWrite e
    · simpa using h
  · simpa using h

/-! ### Restore (R233, R295, R310, R367) -/

theorem Contents.Ok.restoreFrontier {s t : State} (h : s.contents.Ok) {n} (ht : s.restoreFrontier n = some t) : t.contents.Ok := by
  unfold State.restoreFrontier at ht
  split at ht
  · cases ht
    exact h
  · split at ht
    · cases ht
      exact h
    · obtain ⟨im, -, rfl⟩ := Option.map_eq_some_iff.mp ht
      dsimp only
      rw [State.contents_modLaunch]
      exact h.foldl _ fun s x h => h.setHeight _ _ _

@[simp] theorem State.contents_restoreAccs (s : State) (sk) : (s.restoreAccs sk).contents = s.contents := by
  unfold State.restoreAccs
  split
  · rfl
  · refine (State.contents_foldl _ _ _ fun a e => ?_).trans ?_
    · split
      · rw [State.contents_modSkein, State.contents_modCluster]
        exact fun _ => ⟨rfl, rfl⟩
      · rfl
    · exact State.contents_modSkein _ _ _ fun _ => ⟨rfl, rfl⟩

@[simp] theorem State.contents_requeue (s : State) (c ms es) : (s.requeue c ms es).contents = s.contents := (rfl)

@[simp] theorem State.contents_restoreSkein (s : State) (sk) : (s.restoreSkein sk).contents = s.contents := by
  have hm (es : List (Nat × Strand)) (m : State × List Nat) :
      (es.foldl (fun (a : State × List Nat) e =>
        (a.1.modStrand e.1 fun st => { st with spindle := fewest a.2 }, a.2 ++ [fewest a.2])) m).1.contents = m.1.contents :=
    List.foldlRecOn (motive := fun (x : State × List Nat) => x.1.contents = m.1.contents) es _ rfl fun a ha e _ => by simpa using ha
  unfold State.restoreSkein
  split
  · rfl
  · dsimp only
    split
    · rfl
    · simp [hm]

@[simp] theorem outOk_execContextRestore {s : State} (h : s.contents.Ok) (ctx) : OutOk (execContextRestore ctx s) := by
  have hf (ns : List Nat) : (ns.foldl (fun (a : State) n => (a.restoreFrontier n).getD a) s).contents.Ok := by
    refine h.foldl ns fun a n h => ?_
    cases e : a.restoreFrontier n with
    | none => exact h
    | some t => exact h.restoreFrontier e
  unfold execContextRestore
  dsimp only
  split
  · simpa using h
  · split
    · simpa using h
    · split
      · exact (outOk_next _).mpr (h.killCtx _ _)
      · refine (outOk_next _).mpr ?_
        rw [State.contents_serveAll]
        rw [State.contents_foldl _ _ _ fun s n => s.contents_fire n]
        rw [State.contents_foldl]
        · split
          · rw [State.contents_modCtx]
            exact hf _
          · exact hf _
        · simp

/-! ### The halt line (R335, R336) -/

@[simp] theorem Contents.Ok.haltPart {s : State} (h : s.contents.Ok) (part cause) : (s.haltPart part cause).contents.Ok := by
  unfold State.haltPart
  split
  · exact h
  · extract_lets recs recs' u base v w x
    have hv : v.contents.Ok := Contents.Ok.foldl (s := u) _ (by simpa [u] using h) fun s r h => h.memWriteBytes _ _ _
    have hx : x.contents.Ok := Contents.Ok.foldl (s := w) _ (by simpa [w] using hv) fun s c h => h.killCtx _ _
    simpa using hx

@[simp] theorem outOk_execHaltLine {s : State} (h : s.contents.Ok) (part cause) : OutOk (execHaltLine part cause s) := by
  simp only [execHaltLine, outOk_next]
  split
  · exact h.haltPart _ _
  · exact h

end Sys2Proof.Machine
end

section
/-! SUPPORT. The form of memory and scratch through the host link, the mailbox and the staged start. -/

namespace Sys2Proof.Machine

/-! ### Launch queues (R473, R480) -/

@[simp] theorem State.contents_lqEnWrite (s : State) (part en) : (s.lqEnWrite part en).contents = s.contents := by
  simp [State.lqEnWrite]
@[simp] theorem outOk_execLqEnable {s : State} (h : s.contents.Ok) (part en) : OutOk (execLqEnable part en s) := by
  simp [execLqEnable, h]
@[simp] theorem State.contents_lqWrite (s : State) (part ofs v) : (s.lqWrite part ofs v).contents = s.contents := by
  simp [State.lqWrite]

/-! ### The management mailbox (R479) -/

@[simp] theorem State.contents_mbDone (s : State) (op part code) : (s.mbDone op part code).contents = s.contents := by
  unfold State.mbDone
  split <;> simp
@[simp] theorem State.contents_mbPut (s : State) (ofs bs) : (s.mbPut ofs bs).contents = s.contents := (rfl)
@[simp] theorem outOk_execFwLoad {s : State} (h : s.contents.Ok) (ofs bytes) : OutOk (execFwLoad ofs bytes s) := by
  simp [execFwLoad, h]
@[simp] theorem outOk_execFwActivate {s : State} (h : s.contents.Ok) : OutOk (execFwActivate s) := by simp [execFwActivate, h]

@[simp] theorem Contents.Ok.destroyCtx {s : State} (h : s.contents.Ok) (key) : (s.destroyCtx key).contents.Ok := by
  unfold State.destroyCtx
  refine Contents.Ok.foldl _ ?_ fun a x h => ?_
  · simp [h]
  · simp [h]

@[simp] theorem State.ok_xlCtlMach {s : State} (h : s.contents.Ok) (key v) : (s.xlCtlMach key v).Ok := by
  simp [State.xlCtlMach, h]
@[simp] theorem State.ok_partWrite {s : State} (h : s.contents.Ok) (part ctx sr v) : (s.partWrite part ctx sr v).Ok := by
  simp [State.partWrite, h]

@[simp] theorem outOk_execPartWr {s : State} (h : s.contents.Ok) (part ctx sr v) : OutOk (execPartWr part ctx sr v s) := by
  unfold execPartWr
  dsimp only
  split
  · simpa using h
  · have hw := State.ok_partWrite h part ctx sr v
    split
    · next e =>
      rw [e] at hw
      simpa using hw
    all_goals simpa using h

@[simp] theorem outOk_execPartRd {s : State} (h : s.contents.Ok) (part ctx sr) : OutOk (execPartRd part ctx sr s) := by
  simp [execPartRd, h]
@[simp] theorem outOk_execRollback {s : State} (h : s.contents.Ok) (part) : OutOk (execRollback part s) := by
  simp [execRollback, h]
@[simp] theorem outOk_execPartReset {s : State} (h : s.contents.Ok) (part) : OutOk (execPartReset part s) := by
  simp [execPartReset, h]
@[simp] theorem outOk_execPeerWr {s : State} (h : s.contents.Ok) (part idx bytes) : OutOk (execPeerWr part idx bytes s) := by
  simp [execPeerWr, h]
@[simp] theorem outOk_execNeighWr {s : State} (h : s.contents.Ok) (idx bytes) : OutOk (execNeighWr idx bytes s) := by
  simp [execNeighWr, h]
@[simp] theorem outOk_execPowerLimit {s : State} (h : s.contents.Ok) (watts) : OutOk (execPowerLimit watts s) := by
  simp [execPowerLimit, h]
@[simp] theorem outOk_execTelemetry {s : State} (h : s.contents.Ok) : OutOk (execTelemetry s) := by simp [execTelemetry, h]

@[simp] theorem Contents.Ok.mbCommand {s : State} (h : s.contents.Ok) (v) : (s.mbCommand v).contents.Ok := by
  unfold State.mbCommand
  extract_lets part d w u r
  have hu : u.contents.Ok := by simpa [u] using h
  have hr : OutOk r := by
    clear_value u
    unfold r
    split
    case h_11 => simpa using hu
    all_goals simp [hu]
  clear_value r
  split
  · exact hr _ rfl
  · exact hu

/-! ### Plain register writes (R5, R471) -/

@[simp] theorem Contents.Ok.bar0Write {s : State} (h : s.contents.Ok) (ofs v) : (s.bar0Write ofs v).contents.Ok := by
  unfold State.bar0Write
  repeat' split
  all_goals simp [h]

@[simp] theorem outOk_execRegisterWrite {s : State} (h : s.contents.Ok) (t v) : OutOk (execRegisterWrite t v s) := by
  cases t with
  | bar0 ofs => exact (outOk_next _).mpr (h.bar0Write _ _)
  | sr part ctx cluster num => exact (outOk_next _).mpr (WrRes.contents_orElse (State.ok_regWrite h ..) h)

/-! ### The staged start, reset and the clock (R12, R480, R481, R484) -/

@[simp] theorem outOk_execClockChange {s : State} (h : s.contents.Ok) (k) : OutOk (execClockChange k s) := by
  simp [execClockChange, h]

/-- The contents of memory stay (R480), and no skein does. -/
@[simp] theorem outOk_execResetRelease {s : State} (h : s.contents.Ok) : OutOk (execResetRelease s) :=
  (outOk_next _).mpr (h.of_subset (fun _ he => nomatch he) rfl)

@[simp] theorem State.contents_stageEnd (s : State) (bit needs err) : (s.stageEnd bit needs err).contents = s.contents := by
  simp [State.stageEnd]
@[simp] theorem outOk_execStageADone {s : State} (h : s.contents.Ok) (err) : OutOk (execStageADone err s) := by
  simp [execStageADone, h]
@[simp] theorem outOk_execStageBDone {s : State} (h : s.contents.Ok) (err) : OutOk (execStageBDone err s) := by
  simp [execStageBDone, h]
@[simp] theorem outOk_execStageCDone {s : State} (h : s.contents.Ok) (err) : OutOk (execStageCDone err s) := by
  simp [execStageCDone, h]
@[simp] theorem outOk_execStageDDone {s : State} (h : s.contents.Ok) (err) : OutOk (execStageDDone err s) := by
  simp [execStageDDone, h]

/-! ### Link errors (R476) -/

@[simp] theorem Contents.Ok.haltAll {s : State} (h : s.contents.Ok) (cause) : (s.haltAll cause).contents.Ok :=
  h.foldl _ fun _ p h => h.haltPart p cause
@[simp] theorem Contents.Ok.linkFails {s : State} (h : s.contents.Ok) : s.linkFails.contents.Ok := by
  refine Contents.Ok.haltAll (Contents.Ok.foldl _ ?_ fun s f h => h.hostFails _) _
  simpa using h
@[simp] theorem outOk_execHostLinkLoss {s : State} (h : s.contents.Ok) : OutOk (execHostLinkLoss s) := by
  simp [execHostLinkLoss, h]
@[simp] theorem outOk_execIdeIntegrityFail {s : State} (h : s.contents.Ok) : OutOk (execIdeIntegrityFail s) := by
  simp [execIdeIntegrityFail, h]
@[simp] theorem outOk_execPortDown {s : State} (h : s.contents.Ok) (port) : OutOk (execPortDown port s) := by
  simp [execPortDown, h]

/-! ### Accesses of the host and of peers (R232, R337, R470, R478, R483) -/

@[simp] theorem outOk_execHostCxlMemAccess {s : State} (h : s.contents.Ok) (ofs write len) :
    OutOk (execHostCxlMemAccess ofs write len s) := by
  unfold execHostCxlMemAccess
  repeat' split
  all_goals simp [h]

@[simp] theorem outOk_execPeerWrite {s : State} (h : s.contents.Ok) (part idx ofs bytes) : OutOk (execPeerWrite part idx ofs bytes s) := by
  simp [execPeerWrite, h]
@[simp] theorem outOk_execSpdmMessage {s : State} (h : s.contents.Ok) (m bytes) : OutOk (execSpdmMessage m bytes s) := by
  simp [execSpdmMessage, h]

end Sys2Proof.Machine
end

section
/-! SUPPORT. The form of memory and scratch through cross-lane instructions. -/

namespace Sys2Proof.Machine

@[simp] theorem Ctx.contents_putCross (s : State) (c : Ctx) (d val tag) : (c.putCross s d val tag).contents = s.contents := (rfl)

@[simp] theorem outOk_execShfl {s : State} (h : s.contents.Ok) (m f) : OutOk (execShfl m f s) :=
  h.issue _ _ fun c => by simp [h]

@[simp] theorem outOk_execBcast {s : State} (h : s.contents.Ok) (f) : OutOk (execBcast f s) := h.issue _ _ fun c => by simp [h]

@[simp] theorem Ctx.contents_putTriple (s : State) (c : Ctx) (d a v) : (c.putTriple s d a v).contents = s.contents := (rfl)

@[simp] theorem outOk_execVote {s : State} (h : s.contents.Ok) (m f) : OutOk (execVote m f s) := by
  unfold execVote
  refine h.issue _ _ fun c => ?_
  split <;> simp [h]

@[simp] theorem Ctx.ok_lanePut {s : State} (h : s.contents.Ok) (c : Ctx) (op d res tag) : (c.lanePut s op d res tag).Ok := by
  unfold Ctx.lanePut
  split <;> simp [h]

@[simp] theorem outOk_execLred {s : State} (h : s.contents.Ok) (op f) : OutOk (execLred op f s) :=
  h.issue _ _ fun c => by simp [h]

@[simp] theorem outOk_execLscan {s : State} (h : s.contents.Ok) (op f) : OutOk (execLscan op f s) :=
  h.issue _ _ fun c => by simp [h]

@[simp] theorem outOk_execMatchLanes {s : State} (h : s.contents.Ok) (f) : OutOk (execMatchLanes f s) :=
  h.issue _ _ fun c => by simp [h]

@[simp] theorem outOk_execLeader {s : State} (h : s.contents.Ok) (f) : OutOk (execLeader f s) :=
  h.issue _ _ fun c => by simp [h]

end Sys2Proof.Machine
end

section
/-! SUPPORT. The form of memory and scratch through every instruction and every event, and the step. -/

namespace Sys2Proof.Machine

/-- Each meaning has its own lemma above. -/
@[simp] theorem outOk_exec {s : State} (h : s.contents.Ok) (i) : OutOk (exec i s) := by
  cases i <;> simp [exec, h]

/-! ### Beats (R64, R69, R70) -/

@[simp] theorem State.contents_notFetched (s : State) (k f st fuel) : (s.notFetched k f st fuel).contents = s.contents := by
  unfold State.notFetched
  split <;> simp
@[simp] theorem State.contents_beatIssue (s : State) (c i slot k f j) : (s.beatIssue c i slot k f j).contents = s.contents := by
  simp [State.beatIssue]

theorem Contents.Ok.atBoundary {s t : State} (h : s.contents.Ok) {k f} (ht : s.atBoundary k f = some t) : t.contents.Ok := by
  unfold State.atBoundary at ht
  split at ht
  · cases ht
    simpa using h
  · split at ht
    · cases ht
      simp [h]
    · split at ht
      · cases ht
      · split at ht
        · next e =>
          cases ht
          exact outOk_execDeferredTrapDelivery h k _ e
        · cases ht

@[simp] theorem State.ok_slotTry {s : State} (h : s.contents.Ok) (c i slot k) : (s.slotTry c i slot k).Ok := by
  unfold State.slotTry
  split
  next f st _ _ =>
    dsimp only
    generalize (if f.beats.length = 0 then ((s.substStart k).fib? k).getD f else f) = g
    split
    · exact trivial
    split
    · exact trivial
    split
    · simpa using h
    split
    · exact trivial
    split
    · next e =>
      split at e
      · exact h.atBoundary e
      · cases e
    split
    · exact trivial
    split
    · split
      · exact trivial
      split
      · split
        · exact trivial
        · exact (SlotRes.ok_noted _ _).mpr (by rwa [State.contents_modFib])
      split
      · exact trivial
      · exact (SlotRes.ok_beat _).mpr (by rwa [State.contents_beatIssue])
    · exact (SlotRes.ok_moved _).mpr (by rwa [State.contents_notFetched])
  next => simpa using h

@[simp] theorem State.contents_idleBeat (s : State) (c) : (s.idleBeat c).contents = s.contents := by
  unfold State.idleBeat
  split <;> simp

@[simp] theorem Contents.Ok.slotScan {s : State} (h : s.contents.Ok) (c i ns why) : (s.slotScan c i ns why).contents.Ok := by
  induction ns generalizing s why with
  | nil =>
    unfold State.slotScan
    dsimp only
    split
    · split <;> simpa using h
    · simpa using h
  | cons n ns ih =>
    unfold State.slotScan
    split
    · exact ih h _
    · next k _ =>
      have ht := State.ok_slotTry h c i n k
      split
      · next e =>
        rw [e] at ht
        exact ht
      · next e =>
        rw [e] at ht
        exact ih ht _
      · exact ih h _
      · next e =>
        rw [e] at ht
        exact ih ht _

@[simp] theorem Contents.Ok.spindleBeat {s : State} (h : s.contents.Ok) (c i) : (s.spindleBeat c i).contents.Ok := by
  unfold State.spindleBeat
  dsimp only
  split
  · simpa using h
  · exact Contents.Ok.slotScan (by simpa using h) _ _ _ _

@[simp] theorem Contents.Ok.beatPhase {s : State} (h : s.contents.Ok) : s.beatPhase.contents.Ok :=
  h.foldl _ fun _ c h => h.foldl _ fun _ i h => h.spindleBeat c i

/-! ### What is due in the present cycle -/

theorem Contents.Ok.fibreDue {s t : State} (h : s.contents.Ok) {k f} (ht : s.fibreDue k f = some t) : t.contents.Ok := by
  unfold State.fibreDue at ht
  split at ht
  · cases ht
  · split at ht
    · cases ht
      simp [h]
    · split at ht
      · cases ht
        simp [h]
      · split at ht
        · obtain ⟨n, -, ht⟩ := Option.bind_eq_some_iff.mp ht
          split at ht
          · cases ht
            simpa using h
          · cases ht
        · split at ht
          · cases ht
            simpa using h
          · cases ht
        · split at ht
          · cases ht
            simpa using h
          · cases ht
        · cases ht
      · cases ht

theorem Contents.Ok.mailboxDue {s t : State} (h : s.contents.Ok) (ht : s.mailboxDue = some t) : t.contents.Ok := by
  unfold State.mailboxDue at ht
  split at ht
  · cases ht
  · split at ht
    · next e =>
      split at ht
      · cases ht
        exact outOk_execPartWr h _ _ _ _ _ e
      · cases ht
    · cases ht

theorem Contents.Ok.selfDue {s t : State} (h : s.contents.Ok) (ht : s.selfDue = some t) : t.contents.Ok := by
  unfold State.selfDue at ht
  cases e : s.allFibs.findSome? fun f => s.fibreDue f.1 f.2 with
  | none =>
    rw [e] at ht
    exact h.mailboxDue ht
  | some u =>
    rw [e] at ht
    cases ht
    obtain ⟨f, -, hf⟩ := List.exists_of_findSome?_eq_some e
    exact h.fibreDue hf

/-! ### The next cycle -/

@[simp] theorem State.contents_cycleCounts (s : State) (c) : (s.cycleCounts c).contents = s.contents := by
  simp [State.cycleCounts]
@[simp] theorem State.contents_settleAll (s : State) : s.settleAll.contents = s.contents := (rfl)
@[simp] theorem State.contents_clockStep (s : State) : s.clockStep.contents = s.contents := by simp [State.clockStep]

@[simp] theorem Contents.Ok.tick {s : State} (h : s.contents.Ok) : s.tick.contents.Ok := by
  unfold State.tick
  extract_lets u v w x y eph arb
  have hw : w.contents.Ok := by simpa [w, v, u] using h
  have hx : x.contents.Ok := hw.foldl _ fun s c h => (((h.l1Evict _).pfArrive _).keepPromises _).keepLate _
  have hy : y.contents.Ok := hx.foldl _ fun s p h => h.ephDrain _ _
  simpa using hy

/-! ### An instruction's beat-2 moment -/

@[simp] theorem State.outOk_runIssue {s : State} (h : s.contents.Ok) (is) : OutOk (s.runIssue is) := by
  unfold State.runIssue
  dsimp only
  split
  · simpa using h
  · split
    · split
      · split
        · simpa using h
        · exact outOk_exec (by simpa using h) _
      · simpa using h
    · simpa using h

@[simp] theorem State.outOk_runEvent {s : State} (h : s.contents.Ok) (e) : OutOk (s.runEvent e) := by
  unfold State.runEvent
  split
  · exact outOk_exec h e
  · simpa using h

/-! ### The step -/

theorem outOk_step {s : State} (h : s.contents.Ok) : OutOk (step s) := by
  unfold step
  split
  · exact State.outOk_runEvent (by simpa using h) _
  · split
    · exact State.outOk_runIssue h _
    · split
      · exact (outOk_next _).mpr h.beatPhase
      · split
        · next e => exact (outOk_next _).mpr (h.selfDue e)
        · split
          · exact outOk_exec h _
          · exact (outOk_next _).mpr h.tick

end Sys2Proof.Machine
end

section
/-! SUPPORT. The statement about the form of memory and scratch, settled. -/

namespace Sys2Proof.Machine

/-- Settles O5: each agent's move keeps the form of what memory and scratch hold. -/
theorem memoryKeepsItsForm : Obligations.MemoryKeepsItsForm := by
  unfold Obligations.MemoryKeepsItsForm
  exact fun s t hs ht => (memOk_iff t).mpr (outOk_step ((memOk_iff s).mp hs) t ht)

end Sys2Proof.Machine
end

section
/-! SUPPORT. Bytes and numbers, and the bits of an instruction that lies in memory before other bytes. -/

namespace Sys2Proof

@[simp] theorem length_bytesOfNat (n v : Nat) : (bytesOfNat n v).length = n := by
  induction n generalizing v with
  | zero => rfl
  | succ n ih => simp [bytesOfNat, ih]

/-- The number that the bytes of `v` and then others stand for. -/
theorem natOfBytes_bytesOfNat_append (n v : Nat) (bs : List Byte) :
    natOfBytes (bytesOfNat n v ++ bs) = 2 ^ (8 * n) * natOfBytes bs + v % 2 ^ (8 * n) := by
  induction n generalizing v with
  | zero => simp [bytesOfNat, Nat.mod_one]
  | succ n ih =>
    have hp : 2 ^ (8 * (n + 1)) = 256 * 2 ^ (8 * n) := by ring
    have hv : (BitVec.ofNat 8 v).toNat = v % 256 := BitVec.toNat_ofNat ..
    rw [bytesOfNat, List.cons_append, natOfBytes, ih, hv, hp, Nat.mod_mul]
    ring

/-- Two windows of 128 bits agree in every field that ends at bit `n` or lower. -/
def AgreeBelow (n : Nat) (w v : BitVec 128) : Prop := ∀ k len, k + len ≤ n → w.extractLsb' k len = v.extractLsb' k len

theorem agreeBelow_of_getLsbD {n : Nat} {w v : BitVec 128} (h : ∀ j < n, w.getLsbD j = v.getLsbD j) : AgreeBelow n w v := by
  intro k len hk
  apply BitVec.eq_of_getLsbD_eq
  intro j hj
  simp [hj, h (k + j) (by omega)]

/-- The window that the decoder takes at an instruction holds its bits, whatever follows. -/
theorem agreeBelow_window {n : Nat} (hn : n ≤ 16) (v : BitVec 128) (rest : List Byte) :
    AgreeBelow (8 * n) (BitVec.ofNat 128 (natOfBytes ((bytesOfNat n v.toNat ++ rest).take 16))) v := by
  apply agreeBelow_of_getLsbD
  intro j hj
  have hj' : j < 128 := by omega
  rw [List.take_append, List.take_of_length_le (by simpa using hn), natOfBytes_bytesOfNat_append, BitVec.getLsbD_ofNat,
    Nat.testBit_two_pow_mul_add _ (Nat.mod_lt _ (by positivity)), Nat.testBit_mod_two_pow]
  simp [hj, hj', BitVec.testBit_toNat]

end Sys2Proof
end

section
/-! SUPPORT. The fields of the formats: what the decoder reads in the bits that the encoder writes (Tables 2.1, 2.2, 2.4, 2.5). -/

namespace Sys2Proof

/-! ### Length -/

theorem Ext.len_lt (e : Ext) : e.len.toNat < 3 := by cases e <;> simp [Ext.len]

theorem guardLen_pos (g : Option (BitVec 32)) : 0 < (guardLen g).toNat ∧ (guardLen g).toNat < 3 := by cases g <;> simp [guardLen]

theorem Ext.bytes_eq (e : Ext) : e.bytes = lenBytes e.len := by cases e <;> rfl

theorem guard_bytes_eq (g : Option (BitVec 32)) : (if g.isSome then 16 else 12) = lenBytes (guardLen g) := by cases g <;> rfl

/-! ### What stands at a field's place -/

/-- LEN, OPC and SUB of a window, the last at the place its format has it (R25, R26). -/
def HeadIs (w : BitVec 128) (len : BitVec 2) (opc subAt sub : Nat) : Prop :=
  lenField w = len ∧ w.extractLsb' 6 8 = BitVec.ofNat 8 opc ∧ w.extractLsb' subAt 4 = BitVec.ofNat 4 sub

theorem HeadIs.opc {w : BitVec 128} {len : BitVec 2} {opc subAt sub : Nat} (h : HeadIs w len opc subAt sub) (ho : opc < 256) :
    opcField w = opc := by
  rw [opcField, h.2.1, BitVec.toNat_ofNat, Nat.mod_eq_of_lt ho]

theorem HeadIs.sub {w : BitVec 128} {len : BitVec 2} {opc subAt sub : Nat} (h : HeadIs w len opc subAt sub) (hs : sub < 16) :
    (w.extractLsb' subAt 4).toNat = sub := by
  rw [h.2.2, BitVec.toNat_ofNat, Nat.mod_eq_of_lt hs]

/-- A window with the LEN and the trailing parcels of an extension holds it. -/
theorem extField_eq {w : BitVec 128} {e : Ext} (hl : lenField w = e.len) (h1 : w.extractLsb' 64 32 = e.w1)
    (h2 : w.extractLsb' 96 32 = e.guard.getD 0) : extField w = e := by
  rw [extField, hl, h1, h2]
  cases e <;> rfl

/-- A window with the LEN and the guard word of a T96 or A96 instruction holds it. -/
theorem guardField_eq {w : BitVec 128} {g : Option (BitVec 32)} (hl : lenField w = guardLen g)
    (h : w.extractLsb' 96 32 = g.getD 0) : guardField w = g := by
  rw [guardField, hl, h]
  cases g <;> rfl

section
variable (opc sub : Nat)

theorem X64.head_bits (f : X64) : HeadIs (f.bits opc sub) f.ext.len opc 46 sub := by
  refine ⟨?_, ?_, ?_⟩ <;>
    simp (disch := decide) only [lenField, X64.bits, BitVec.extractLsb'_append_eq_of_add_le, BitVec.extractLsb'_append_eq_of_le,
      BitVec.extractLsb'_eq_self, Nat.reduceSub]

theorem I64.head_bits (f : I64) : HeadIs (f.bits opc sub) f.ext.len opc 30 sub := by
  refine ⟨?_, ?_, ?_⟩ <;>
    simp (disch := decide) only [lenField, I64.bits, BitVec.extractLsb'_append_eq_of_add_le, BitVec.extractLsb'_append_eq_of_le,
      BitVec.extractLsb'_eq_self, Nat.reduceSub]

theorem T96.head_bits (f : T96) : HeadIs (f.bits opc sub) (guardLen f.guard) opc 30 sub := by
  refine ⟨?_, ?_, ?_⟩ <;>
    simp (disch := decide) only [lenField, T96.bits, BitVec.extractLsb'_append_eq_of_add_le, BitVec.extractLsb'_append_eq_of_le,
      BitVec.extractLsb'_eq_self, Nat.reduceSub]

theorem A96.head_bits (f : A96) : HeadIs (f.bits opc sub) (guardLen f.guard) opc 38 sub := by
  refine ⟨?_, ?_, ?_⟩ <;>
    simp (disch := decide) only [lenField, A96.bits, BitVec.extractLsb'_append_eq_of_add_le, BitVec.extractLsb'_append_eq_of_le,
      BitVec.extractLsb'_eq_self, Nat.reduceSub]

theorem x64Fields_bits (f : X64) : x64Fields (f.bits opc sub) = f := by
  have he : extField (f.bits opc sub) = f.ext := by
    refine extField_eq (f.head_bits opc sub).1 ?_ ?_ <;>
      simp (disch := decide) only [X64.bits, BitVec.extractLsb'_append_eq_of_add_le, BitVec.extractLsb'_append_eq_of_le,
        BitVec.extractLsb'_eq_self, Nat.reduceSub]
  rw [x64Fields, he]
  simp (disch := decide) only [X64.bits, BitVec.extractLsb'_append_eq_of_add_le, BitVec.extractLsb'_append_eq_of_le,
    BitVec.extractLsb'_eq_self, Nat.reduceSub]

theorem i64Fields_bits (f : I64) : i64Fields (f.bits opc sub) = f := by
  have he : extField (f.bits opc sub) = f.ext := by
    refine extField_eq (f.head_bits opc sub).1 ?_ ?_ <;>
      simp (disch := decide) only [I64.bits, BitVec.extractLsb'_append_eq_of_add_le, BitVec.extractLsb'_append_eq_of_le,
        BitVec.extractLsb'_eq_self, Nat.reduceSub]
  rw [i64Fields, he]
  simp (disch := decide) only [I64.bits, BitVec.extractLsb'_append_eq_of_add_le, BitVec.extractLsb'_append_eq_of_le,
    BitVec.extractLsb'_eq_self, Nat.reduceSub]

theorem t96Fields_bits (f : T96) : t96Fields (f.bits opc sub) = f := by
  have hg : guardField (f.bits opc sub) = f.guard := by
    refine guardField_eq (f.head_bits opc sub).1 ?_
    simp (disch := decide) only [T96.bits, BitVec.extractLsb'_append_eq_of_le, BitVec.extractLsb'_eq_self, Nat.reduceSub]
  rw [t96Fields, hg]
  simp (disch := decide) only [T96.bits, BitVec.extractLsb'_append_eq_of_add_le, BitVec.extractLsb'_append_eq_of_le,
    BitVec.extractLsb'_eq_self, Nat.reduceSub]

theorem a96Fields_bits (f : A96) : a96Fields (f.bits opc sub) = f := by
  have hg : guardField (f.bits opc sub) = f.guard := by
    refine guardField_eq (f.head_bits opc sub).1 ?_
    simp (disch := decide) only [A96.bits, BitVec.extractLsb'_append_eq_of_le, BitVec.extractLsb'_eq_self, Nat.reduceSub]
  rw [a96Fields, hg]
  simp (disch := decide) only [A96.bits, BitVec.extractLsb'_append_eq_of_add_le, BitVec.extractLsb'_append_eq_of_le,
    BitVec.extractLsb'_eq_self, Nat.reduceSub]

end

/-! ### The decoder reads no bit above the instruction's length (R25, R29, R32) -/

section
variable {w v : BitVec 128}

theorem AgreeBelow.extField_eq (h : AgreeBelow (8 * lenBytes (lenField v)) w v) (hl : lenField w = lenField v) :
    extField w = extField v := by
  unfold extField lenBytes at *
  rw [hl]
  split
  · rfl
  · next h1 => rw [h 64 32 (by omega)]
  · next h0 h1 =>
    have h2 : 2 ≤ (lenField v).toNat := Nat.two_le_iff _ |>.mpr ⟨h0, h1⟩
    rw [h 64 32 (by omega), h 96 32 (by omega)]

theorem AgreeBelow.guardField_eq (h : AgreeBelow (8 * lenBytes (lenField v)) w v) (hl : lenField w = lenField v) :
    guardField w = guardField v := by
  unfold guardField lenBytes at *
  rw [hl]
  split
  · next h2 => rw [h 96 32 (by omega)]
  · rfl

theorem AgreeBelow.head (h : AgreeBelow (8 * lenBytes (lenField v)) w v) {len : BitVec 2} {opc subAt sub : Nat} (hs : subAt ≤ 60)
    (hv : HeadIs v len opc subAt sub) : HeadIs w len opc subAt sub := by
  have low : ∀ k n, k + n ≤ 64 → w.extractLsb' k n = v.extractLsb' k n := fun k n hk => h k n (by unfold lenBytes; omega)
  rwa [HeadIs, lenField, low _ _ (by decide), low _ _ (by decide), low _ _ (by omega)]

theorem AgreeBelow.x64Fields_eq (h : AgreeBelow (8 * lenBytes (lenField v)) w v) : x64Fields w = x64Fields v := by
  have low : ∀ k n, k + n ≤ 64 → w.extractLsb' k n = v.extractLsb' k n := fun k n hk => h k n (by unfold lenBytes; omega)
  simp (disch := decide) only [x64Fields, low, h.extField_eq (low _ _ (by decide))]

theorem AgreeBelow.i64Fields_eq (h : AgreeBelow (8 * lenBytes (lenField v)) w v) : i64Fields w = i64Fields v := by
  have low : ∀ k n, k + n ≤ 64 → w.extractLsb' k n = v.extractLsb' k n := fun k n hk => h k n (by unfold lenBytes; omega)
  simp (disch := decide) only [i64Fields, low, h.extField_eq (low _ _ (by decide))]

theorem AgreeBelow.t96Fields_eq (h : AgreeBelow (8 * lenBytes (lenField v)) w v) (h0 : 0 < (lenField v).toNat) :
    t96Fields w = t96Fields v := by
  have low : ∀ k n, k + n ≤ 96 → w.extractLsb' k n = v.extractLsb' k n := fun k n hk => h k n (by unfold lenBytes; omega)
  simp (disch := decide) only [t96Fields, low, h.guardField_eq (low _ _ (by decide))]

theorem AgreeBelow.a96Fields_eq (h : AgreeBelow (8 * lenBytes (lenField v)) w v) (h0 : 0 < (lenField v).toNat) :
    a96Fields w = a96Fields v := by
  have low : ∀ k n, k + n ≤ 96 → w.extractLsb' k n = v.extractLsb' k n := fun k n hk => h k n (by unfold lenBytes; omega)
  simp (disch := decide) only [a96Fields, low, h.guardField_eq (low _ _ (by decide))]

end
end Sys2Proof
end

section
/-! SUPPORT. Table 2.8: every instruction stands in the row of its opcode, at its SUB. -/

namespace Sys2Proof

/-- Bounds of the OPC and SUB fields (R26). -/
theorem Instr.opcSub_lt (i : Instr) : i.opcSub.1 < 256 ∧ i.opcSub.2 < 16 := by
  cases i
  case iadd k _ | isub k _ | imad k _ | icmp k _ | cvta k _ | fadd k _ | fsub k _ | fmul k _ | ffma k _ | fcmp k _ | frnd k _ |
    fscalb k _ | fdot2 k _ | cvtfi k _ | cvtif k _ | cvtff k _ | shfl k _ | vote k _ | lred k _ | lscan k _ | bankmode k _ |
    scrcfg k _ | fence k _ | copy k _ | coll k _ | mma k _ | mmas k _ | iaddi k _ | icmpi k _ | brc k _ | bru k _ | brany k _ |
    brall k _ | waitc k _ | regpf k _ | cctl k _ | atom k _ | atomsc k _ | red k _ | atoms k _ | waiteq k _ =>
    cases k <;> exact ⟨of_decide_eq_true rfl, of_decide_eq_true rfl⟩
  all_goals exact ⟨of_decide_eq_true rfl, of_decide_eq_true rfl⟩

section
variable {i : Instr} {opc sub : Nat} (ho : i.opcSub = (opc, sub))
include ho

/-- An X64 or M96 instruction stands in its row, and those without a 64-bit form are longer. -/
theorem Instr.listed_x {f : X64} (hf : i.fields = .x f) (hl : i.lenOk = true) :
    ∃ r, xRow opc f = some r ∧ rowPick opc r sub = .ok i ∧ (longOnly opc = true → f.isLong = true) := by
  cases i
  case copy k _ | coll k _ | mma k _ | mmas k _ =>
    cases hf
    cases k <;> cases ho <;> exact ⟨_, rfl, rfl, fun _ => hl⟩
  case gather | mcomp | msacc | mbatch | mrel | mzero | mrda | mwra | msta | mlda | mstat | fnld | fnst | fnfit | fneval | fnadd |
    fnsub | fnmul | fnaff | fncomp | fndiff | fnint | fnquad | fnroot | fndom | fninfo | fnrel =>
    cases hf
    cases ho
    exact ⟨_, rfl, rfl, fun _ => hl⟩
  case iadd k _ | isub k _ | imad k _ | icmp k _ | cvta k _ | fadd k _ | fsub k _ | fmul k _ | ffma k _ | fcmp k _ | frnd k _ |
    fscalb k _ | fdot2 k _ | cvtfi k _ | cvtif k _ | cvtff k _ | shfl k _ | vote k _ | lred k _ | lscan k _ | bankmode k _ |
    scrcfg k _ | fence k _ =>
    cases hf
    cases k <;> cases ho <;> exact ⟨_, rfl, rfl, nofun⟩
  case nop | imul | imulh | imadw | idiv | irem | imin | imax | iabs | ineg | and | or | xor | andn | orn | xnor | shl | shrl |
    shra | fshr | bfx | bfi | popc | clz | ctz | brev | sel | mov | lea | iadd64 | isub64 | permb | pack | unpack | fmin | fmax |
    fminn | fmaxn | fclass | fabs | fneg | fcopysign | ftwosum | fdot4q | cvtq | cvtdq | rcp | rsq | sqrt | div | exp2 | log2 |
    sinpi | cospi | tanh | sigm | bcast | matchLanes | leader | bara | semv | fetchw | give | tspawn | tdone | launch | sbrd |
    escrd | sbwd | sbclr | cycrd | trmark | evrd | ckpt =>
    cases hf
    cases ho
    exact ⟨_, rfl, rfl, nofun⟩
  all_goals cases hf

/-- An I64 instruction stands in its row, and only MOVI is longer than 64 bits (R30). -/
theorem Instr.listed_i {f : I64} (hf : i.fields = .i f) (hl : i.lenOk = true) :
    (∀ g, xRow opc g = none) ∧
      ∃ r, iRow opc f = some r ∧ rowPick opc r sub = .ok i ∧ (opc ≠ 0x36 → f.ext = .l64) := by
  cases i
  case iaddi k _ | icmpi k _ =>
    cases hf
    cases k <;> cases ho <;> exact ⟨fun _ => rfl, _, rfl, rfl, fun _ => of_decide_eq_true hl⟩
  case andi | ori | xori | shli | shrli | shrai | srrd | srwr =>
    cases hf
    cases ho
    exact ⟨fun _ => rfl, _, rfl, rfl, fun _ => of_decide_eq_true hl⟩
  case movi =>
    cases hf
    cases ho
    exact ⟨fun _ => rfl, _, rfl, rfl, fun hm => absurd rfl hm⟩
  all_goals cases hf

/-- A T96 instruction stands in its row. -/
theorem Instr.listed_t {f : T96} (hf : i.fields = .t f) :
    (∀ g, xRow opc g = none) ∧ (∀ g, iRow opc g = none) ∧ ∃ r, tRow opc f = some r ∧ rowPick opc r sub = .ok i := by
  cases i
  case brc k _ | bru k _ | brany k _ | brall k _ | waitc k _ =>
    cases hf
    cases k <;> cases ho <;> exact ⟨fun _ => rfl, fun _ => rfl, _, rfl, rfl⟩
  case runend | bra | jmpi | call | calli | ret | rcvg | endk | yield | sleept | bar | barw | semp | ifence | mwait | acq |
    claim | tpop | trap | rte | brk =>
    cases hf
    cases ho
    exact ⟨fun _ => rfl, fun _ => rfl, _, rfl, rfl⟩
  all_goals cases hf

/-- An A96 instruction stands in its row, unless its operation is one that its opcode does not have. -/
theorem Instr.listed_a {f : A96} (hf : i.fields = .a f) (hs : i.subOk = true) :
    (∀ g, xRow opc g = none) ∧ (∀ g, iRow opc g = none) ∧ (∀ g, tRow opc g = none) ∧
      ∃ r, aRow opc f = some r ∧ rowPick opc r sub = .ok i := by
  cases i
  case regpf k _ | cctl k _ | atomsc k _ | waiteq k _ =>
    cases hf
    cases k <;> cases ho <;> exact ⟨fun _ => rfl, fun _ => rfl, fun _ => rfl, _, rfl, rfl⟩
  case atom k _ | atoms k _ =>
    cases hf
    cases k
    case cas => cases hs
    all_goals
      cases ho
      exact ⟨fun _ => rfl, fun _ => rfl, fun _ => rfl, _, rfl, rfl⟩
  case red k _ =>
    cases hf
    cases k
    case exch | cas => cases hs
    all_goals
      cases ho
      exact ⟨fun _ => rfl, fun _ => rfl, fun _ => rfl, _, rfl, rfl⟩
  case ld | st | lds | sts | ldt | stt | pf | fpush | fpop | atomc =>
    cases hf
    cases ho
    exact ⟨fun _ => rfl, fun _ => rfl, fun _ => rfl, _, rfl, rfl⟩
  all_goals cases hf

end

/-- Every instruction has a format. -/
theorem Instr.fields_ne_event {i : Instr} (h : i.isEvent = false) : i.fields ≠ .event := by
  cases i <;> cases h <;> nofun

end Sys2Proof
end

section
/-! SUPPORT. Decoding gives an encoded instruction back: first from its 128 bits, then from its bytes in memory. -/

namespace Sys2Proof

theorem X64.len_ne_zero {f : X64} (h : f.isLong = true) : f.ext.len.toNat ≠ 0 := by
  unfold X64.isLong at h
  split at h
  · cases h
  · cases hf : f.ext <;> simp_all [Ext.len]

/-- LEN of an instruction, and its length in bytes by it (R25). -/
theorem Instr.len_bits {i : Instr} (h : i.isEvent = false) :
    (lenField i.bits).toNat < 3 ∧ i.bytes = lenBytes (lenField i.bits) := by
  unfold Instr.bits Instr.bytes
  cases hf : i.fields with
  | x f => rw [(f.head_bits _ _).1]; exact ⟨f.ext.len_lt, f.ext.bytes_eq⟩
  | i f => rw [(f.head_bits _ _).1]; exact ⟨f.ext.len_lt, f.ext.bytes_eq⟩
  | t f => rw [(f.head_bits _ _).1]; exact ⟨(guardLen_pos _).2, guard_bytes_eq _⟩
  | a f => rw [(f.head_bits _ _).1]; exact ⟨(guardLen_pos _).2, guard_bytes_eq _⟩
  | event => exact absurd hf (Instr.fields_ne_event h)

section
variable {i : Instr} {w : BitVec 128}

theorem decodeBits_x {f : X64} (hf : i.fields = .x f) (hl : i.lenOk = true) (hw : x64Fields w = f)
    (hh : HeadIs w f.ext.len i.opcSub.1 46 i.opcSub.2) : decodeBits w = .ok i := by
  obtain ⟨r, hr, hp, hlong⟩ := Instr.listed_x (Prod.mk.eta (p := i.opcSub)).symm hf hl
  have h0 : ¬ (f.ext.len.toNat = 0 ∧ longOnly i.opcSub.1 = true) := fun h => X64.len_ne_zero (hlong h.2) h.1
  simp only [decodeBits, hh.opc i.opcSub_lt.1, hh.sub i.opcSub_lt.2, hh.1, hw, hr, h0, if_false, hp]

theorem decodeBits_i {f : I64} (hf : i.fields = .i f) (hl : i.lenOk = true) (hw : i64Fields w = f)
    (hh : HeadIs w f.ext.len i.opcSub.1 30 i.opcSub.2) : decodeBits w = .ok i := by
  obtain ⟨hx, r, hr, hp, hshort⟩ := Instr.listed_i (Prod.mk.eta (p := i.opcSub)).symm hf hl
  have h0 : ¬ (f.ext.len.toNat ≠ 0 ∧ i.opcSub.1 ≠ 0x36) := fun h => h.1 (by rw [hshort h.2]; rfl)
  simp only [decodeBits, hh.opc i.opcSub_lt.1, hh.sub i.opcSub_lt.2, hh.1, hw, hx, hr, h0, if_false, hp]

theorem decodeBits_t {f : T96} (hf : i.fields = .t f) (hw : t96Fields w = f)
    (hh : HeadIs w (guardLen f.guard) i.opcSub.1 30 i.opcSub.2) : decodeBits w = .ok i := by
  obtain ⟨hx, hi, r, hr, hp⟩ := Instr.listed_t (Prod.mk.eta (p := i.opcSub)).symm hf
  simp only [decodeBits, hh.opc i.opcSub_lt.1, hh.sub i.opcSub_lt.2, hh.1, hw, hx, hi, hr, (guardLen_pos f.guard).1.ne', if_false, hp]

theorem decodeBits_a {f : A96} (hf : i.fields = .a f) (hs : i.subOk = true) (hw : a96Fields w = f)
    (hh : HeadIs w (guardLen f.guard) i.opcSub.1 38 i.opcSub.2) : decodeBits w = .ok i := by
  obtain ⟨hx, hi, ht, r, hr, hp⟩ := Instr.listed_a (Prod.mk.eta (p := i.opcSub)).symm hf hs
  simp only [decodeBits, hh.opc i.opcSub_lt.1, hh.sub i.opcSub_lt.2, hh.1, hw, hx, hi, ht, hr, (guardLen_pos f.guard).1.ne',
    if_false, hp]

end

/-- A well-formed instruction has an encoding, a length that its format allows, and a SUB that its opcode has. -/
theorem WellFormed.parts {i : Instr} (h : WellFormed i) : i.isEvent = false ∧ i.lenOk = true ∧ i.subOk = true := by
  simp only [WellFormed, Instr.wf, Bool.and_eq_true, Bool.not_eq_true'] at h
  exact ⟨h.1.1.1, h.1.1.2, h.1.2⟩

/-- Whatever lies above a well-formed instruction's own length, its bits decode to it. -/
theorem decodeBits_of_agree {i : Instr} (hwf : WellFormed i) {w : BitVec 128} (h : AgreeBelow (8 * i.bytes) w i.bits) :
    decodeBits w = .ok i := by
  obtain ⟨he, hl, hs⟩ := hwf.parts
  rw [(Instr.len_bits he).2] at h
  cases hf : i.fields with
  | x f =>
    simp only [Instr.bits, hf] at h
    exact decodeBits_x hf hl (h.x64Fields_eq.trans (x64Fields_bits ..)) (h.head (by decide) (f.head_bits ..))
  | i f =>
    simp only [Instr.bits, hf] at h
    exact decodeBits_i hf hl (h.i64Fields_eq.trans (i64Fields_bits ..)) (h.head (by decide) (f.head_bits ..))
  | t f =>
    simp only [Instr.bits, hf] at h
    have h0 : 0 < (lenField (f.bits i.opcSub.1 i.opcSub.2)).toNat := by rw [(f.head_bits ..).1]; exact (guardLen_pos _).1
    exact decodeBits_t hf ((h.t96Fields_eq h0).trans (t96Fields_bits ..)) (h.head (by decide) (f.head_bits ..))
  | a f =>
    simp only [Instr.bits, hf] at h
    have h0 : 0 < (lenField (f.bits i.opcSub.1 i.opcSub.2)).toNat := by rw [(f.head_bits ..).1]; exact (guardLen_pos _).1
    exact decodeBits_a hf hs ((h.a96Fields_eq h0).trans (a96Fields_bits ..)) (h.head (by decide) (f.head_bits ..))
  | event => exact absurd hf (Instr.fields_ne_event he)

/-- Settles O1: the window at an instruction agrees with its bits below its length, and the decoder reads nothing above it. -/
theorem decodeReadsBackEncode : Obligations.DecodeReadsBackEncode := by
  unfold Obligations.DecodeReadsBackEncode
  intro i rest hwf
  obtain ⟨h3, hb⟩ := Instr.len_bits hwf.parts.1
  have hn : 8 ≤ i.bytes ∧ i.bytes ≤ 16 := by rw [hb, lenBytes]; omega
  have hw : AgreeBelow (8 * i.bytes) (BitVec.ofNat 128 (natOfBytes ((encodeBytes i ++ rest).take 16))) i.bits :=
    agreeBelow_window hn.2 i.bits rest
  have hl : lenField (BitVec.ofNat 128 (natOfBytes ((encodeBytes i ++ rest).take 16))) = lenField i.bits := hw 0 2 (by omega)
  have hlen : (encodeBytes i ++ rest).length = i.bytes + rest.length := by rw [List.length_append, encodeBytes, length_bytesOfNat]
  unfold decode
  dsimp only
  rw [hl, hlen, ← hb, if_neg (by omega), if_neg (by omega), if_neg (by omega), decodeBits_of_agree hwf hw]

end Sys2Proof
end

section
/-! SUPPORT. The parcels that the specification writes out. -/

namespace Sys2Proof

/-- Parcels that are the encoding of a well-formed instruction decode to it. -/
theorem decode_parcels {ws : List Word} {i : Instr} (hwf : WellFormed i) (h : (ws.flatMap fun w => bytesOfNat 4 w.toNat) = encodeBytes i)
    (hn : 4 * ws.length = i.bytes) : decode (ws.flatMap fun w => bytesOfNat 4 w.toNat) = .ok (i, 4 * ws.length) := by
  have hd := decodeReadsBackEncode i [] hwf
  rwa [List.append_nil, ← h, ← hn] at hd

/-- Settles O2: each row of parcels is the encoding of the instruction named, which is well formed, and decoding reads it back. -/
theorem writtenOutWordsDecode : Obligations.WrittenOutWordsDecode := by
  unfold Obligations.WrittenOutWordsDecode
  refine ⟨?_, ?_, ?_, ?_, ?_, ?_, ?_, ?_, ?_, ?_, ?_, ?_, ?_, ?_, ?_, ?_⟩ <;> exact decode_parcels rfl rfl rfl

end Sys2Proof
end

section
/-! SUPPORT. What an instruction that touches registers only leaves: writes in flight to the registers it names, and flags to vfst. -/

namespace Sys2Proof.Machine

/-! ### Writes in flight to some registers -/

/-- What leads from `s` to `t` is writes issued to registers `rs`, and flags to vfst, in lanes of act. -/
def Ctx.Wrote (c : Ctx) (rs : List Nat) (s t : State) : Prop :=
  ∃ new : List Flight, t = s.withFlights c.strand new ∧
    ∀ x ∈ new, (x.reg ∈ rs ∨ x.reg = 252 ∧ x.orIn = true) ∧ x.lanes &&& ~~~c.act = 0

theorem Ctx.Wrote.refl (c : Ctx) (rs : List Nat) (s : State) : c.Wrote rs s s :=
  ⟨[], (State.withFlights_nil s _).symm, by simp⟩

theorem Ctx.Wrote.trans {c : Ctx} {rs : List Nat} {s t u : State} (h : c.Wrote rs s t) (h' : c.Wrote rs t u) : c.Wrote rs s u := by
  obtain ⟨n, rfl, hn⟩ := h
  obtain ⟨m, rfl, hm⟩ := h'
  exact ⟨n ++ m, State.withFlights_append .., List.forall_mem_append.mpr ⟨hn, hm⟩⟩

/-- A strand that is not there takes no change. -/
theorem State.modStrand_none {s : State} {k : Nat} (h : s.strand? k = none) (f : Strand → Strand) : s.modStrand k f = s := by
  unfold State.modStrand
  rw [tmod_id]
  intro st hst
  cases h.symm.trans hst

/-- A change of the instruction's strand writes what it writes where the strand is there. -/
theorem Ctx.wrote_modStrand {c : Ctx} {rs : List Nat} {s : State} {f : Strand → Strand}
    (h : ∀ st, s.strand? c.strand = some st → c.Wrote rs s (s.modStrand c.strand f)) : c.Wrote rs s (s.modStrand c.strand f) := by
  cases hs : s.strand? c.strand with
  | none => rw [State.modStrand_none hs]; exact .refl ..
  | some st => exact h st hs

/-- A write of the flight `fl` is one write. -/
theorem Ctx.wrote_launchWrite {c : Ctx} {rs : List Nat} {s : State} {fl : Strand → Flight}
    (h : ∀ st, ((fl st).reg ∈ rs ∨ (fl st).reg = 252 ∧ (fl st).orIn = true) ∧ (fl st).lanes &&& ~~~c.act = 0) :
    c.Wrote rs s (s.modStrand c.strand fun st => st.launchWrite (fl st)) := by
  refine Ctx.wrote_modStrand fun st hst => ⟨[{ fl st with seq := st.seq }], ?_, by simpa using h st⟩
  refine State.modStrand_congr _ _ _ _ fun st' hst' => ?_
  cases hst.symm.trans hst'
  rfl

/-- Lanes of `a` that all lie in `b` lie in what `b` lies in. -/
theorem lanes_within_trans {a b d : Lanes} (hab : a &&& ~~~b = 0) (hbd : b &&& ~~~d = 0) : a &&& ~~~d = 0 := by
  apply BitVec.eq_of_getLsbD_eq
  intro l hl
  have hab := congrArg (·.getLsbD l) hab
  have hbd := congrArg (·.getLsbD l) hbd
  simp only [BitVec.getLsbD_and, BitVec.getLsbD_not, hl, decide_true, Bool.true_and] at hab hbd ⊢
  revert hab hbd
  generalize a.getLsbD l = x, b.getLsbD l = y, d.getLsbD l = z
  decide +revert

theorem lanes_and_within (m p : Lanes) : (m &&& p) &&& ~~~m = 0 := by
  rw [BitVec.and_comm m p, BitVec.and_assoc, BitVec.and_not_self]
  exact BitVec.and_zero

section
variable {c : Ctx} {rs : List Nat} {s t : State} (h : c.Wrote rs s t)
include h

theorem Ctx.Wrote.putAt {reg : Nat} (hr : reg ∈ rs) {lanes : Lanes} (hl : lanes &&& ~~~c.act = 0) (val : Nat → Word) (cov : Word)
    (ld : Nat × Nat × Nat) (tag : Nat → Option Tag) : c.Wrote rs s (c.putAt t reg lanes val cov ld tag) := by
  refine h.trans (Ctx.wrote_modStrand fun st hst => ?_)
  obtain ⟨new, e, hn⟩ := Ctx.putAt_writes hst reg lanes val cov ld tag
  exact ⟨new, e, fun x hx => ⟨.inl ((hn x hx).1 ▸ hr), lanes_within_trans (hn x hx).2 hl⟩⟩

theorem Ctx.Wrote.orFlags (fl : Nat → Flags) (lat : Nat) : c.Wrote rs s (c.orFlags t fl lat) := by
  refine h.trans ?_
  unfold Ctx.orFlags
  dsimp only
  split
  · exact .refl ..
  · exact Ctx.wrote_launchWrite fun st => ⟨.inr ⟨rfl, rfl⟩, lanes_and_within ..⟩

/-- Registers written together, from `reg` on. -/
theorem Ctx.Wrote.putSpan {reg n : Nat} (hr : ∀ k < n, reg + k ∈ rs) (val : Nat → Nat → Word) (lat : Nat) (tag : Nat → Option Tag) :
    c.Wrote rs s (c.putSpan t reg n val lat tag) :=
  List.foldlRecOn (motive := fun a => c.Wrote rs s a) _ _ h fun _ ha k hk =>
    ha.putAt (hr k (List.mem_range.mp hk)) (BitVec.and_not_self _) ..

end

section
variable {c : Ctx} {s t : State} {d : BitVec 8}

/-! The forms in which the meanings write D alone, or D and flags. -/

theorem Ctx.Wrote.putD (h : c.Wrote [d.toNat] s t) (val : Nat → Word) (cov : Word) (lat : Nat) (tag : Nat → Option Tag) :
    c.Wrote [d.toNat] s (c.putBits t d.toNat c.act val cov lat tag) := h.putAt List.mem_cons_self (BitVec.and_not_self _) ..

theorem Ctx.Wrote.put (h : c.Wrote [d.toNat] s t) (val : Nat → Word) (lat : Nat) : c.Wrote [d.toNat] s (c.put t d val lat) := h.putD ..

theorem Ctx.Wrote.putCross (h : c.Wrote [d.toNat] s t) (val : Nat → Word) (tag : Nat → Option Tag) :
    c.Wrote [d.toNat] s (c.putCross t d val tag) := h.putD ..

theorem Ctx.Wrote.putPred (h : c.Wrote [d.toNat] s t) (b : Nat) (ts : Nat → List Bool) (lat : Nat) :
    c.Wrote [d.toNat] s (c.putPred t d b ts lat) := h.putD ..

theorem Ctx.Wrote.putElems {f : X64} (h : c.Wrote [f.d.toNat] s t) (w : Nat) (val : Nat → Word) (lat : Nat) :
    c.Wrote [f.d.toNat] s (c.putElems t f w val lat) := h.putD ..

theorem Ctx.Wrote.putSat (h : c.Wrote [d.toNat] s t) (w : Nat) (dm : BitVec 8) (res : Nat → List (Nat × Bool)) (lat : Nat) :
    c.Wrote [d.toNat] s (c.putSat t d w dm res lat) := (h.putD ..).orFlags ..

theorem Ctx.Wrote.putPair (h : c.Wrote [d.toNat, d.toNat + 1] s t) (val : Nat → DWord) (lat : Nat) :
    c.Wrote [d.toNat, d.toNat + 1] s (c.putPair t d val lat) := h.putSpan (by simp; omega) ..

theorem Ctx.Wrote.putTriple {a : BitVec 8} (h : c.Wrote [d.toNat, d.toNat + 1, d.toNat + 2] s t) (v : Nat → Lanes) :
    c.Wrote [d.toNat, d.toNat + 1, d.toNat + 2] s (c.putTriple t d a v) := h.putSpan (by simp; omega) ..

end

/-! ### Effects that touch registers only -/

/-- An effect on `s` that is a trap, or writes to registers `rs` and flags, the run going on. -/
def Ctx.RegsOnly (c : Ctx) (rs : List Nat) (s : State) : Res → Prop
  | .next t => c.Wrote rs s t
  | .trap _ => True
  | _ => False

theorem Ctx.regsOnly_trap {c : Ctx} {rs : List Nat} {s : State} (t : Trap) : c.RegsOnly rs s (.trap t) := trivial

/-- Floating-point results go to D, and their flags to vfst, or the enabled trap is taken (R138). -/
theorem Ctx.regsOnly_fpPut (c : Ctx) (s : State) (d : BitVec 8) (w : Nat) (dm : BitVec 8) (order : List Cause)
    (res : Nat → List (Nat × Flags)) : c.RegsOnly [d.toNat] s (c.fpPut s d w dm order res) := by
  unfold Ctx.fpPut
  dsimp only
  split
  · exact Ctx.regsOnly_trap _
  · exact ((Ctx.Wrote.refl ..).putD ..).orFlags ..

/-- A reduction goes to D, and its flags to vfst, or the enabled trap is taken (R169). -/
theorem Ctx.regsOnly_lanePut (c : Ctx) (s : State) (op : LaneOp) (d : BitVec 8) (res : Nat → Word × Flags) (tag : Nat → Option Tag) :
    c.RegsOnly [d.toNat] s (c.lanePut s op d res tag) := by
  unfold Ctx.lanePut
  split
  · exact Ctx.regsOnly_trap _
  · exact ((Ctx.Wrote.refl ..).putCross ..).orFlags ..

/-- A division writes D, or traps before any effect (R109). -/
theorem regsOnly_divBody (rem : Bool) (f : X64) (c : Ctx) (s : State) : c.RegsOnly [f.d.toNat] s (divBody rem f c s) := by
  unfold divBody
  dsimp only
  split
  · exact Ctx.regsOnly_trap _
  · exact (Ctx.Wrote.refl ..).putSat ..

/-! ### Instructions that touch registers only -/

/-- `g` is `issue` of `i` with an effect that touches registers `rs` only, and vfst. -/
def RegIssue (rs : List Nat) (i : Instr) (g : State → Host.Outcome State Fault Refusal) : Prop :=
  ∃ body, (∀ s, g s = issue i s body) ∧ ∀ (c : Ctx) (s : State), c.RegsOnly rs s (body c s)

theorem issue_regIssue {rs : List Nat} {i : Instr} {body : Ctx → State → Res} (h : ∀ (c : Ctx) (s : State), c.RegsOnly rs s (body c s)) :
    RegIssue rs i fun s => issue i s body := ⟨body, fun _ => rfl, h⟩

section
variable (i : Instr)

theorem intBin_regIssue (f : X64) (k : ModKind) (lat : Nat) (op : Nat → Nat → Nat × Bool) :
    RegIssue [f.d.toNat] i (intBin i f k lat op) := issue_regIssue fun _ _ => (Ctx.Wrote.refl ..).putSat ..

theorem intUn_regIssue (f : X64) (k : ModKind) (lat : Nat) (op : Nat → Nat × Bool) :
    RegIssue [f.d.toNat] i (intUn i f k lat op) := issue_regIssue fun _ _ => (Ctx.Wrote.refl ..).putSat ..

theorem intTer_regIssue (f : X64) (k : ModKind) (lat : Nat) (op : Nat → Nat → Nat → Nat → Nat × Bool) :
    RegIssue [f.d.toNat] i (intTer i f k lat op) := issue_regIssue fun _ _ => (Ctx.Wrote.refl ..).putSat ..

theorem intImm_regIssue (f : I64) (lat : Nat) (op : Nat → Nat × Bool) :
    RegIssue [f.d.toNat] i (intImm i f lat op) := issue_regIssue fun _ _ => (Ctx.Wrote.refl ..).putSat ..

theorem rawBin_regIssue (f : X64) (op : Word → Word → Word) :
    RegIssue [f.d.toNat] i (rawBin i f op) := issue_regIssue fun _ _ => (Ctx.Wrote.refl ..).putElems ..

theorem logicImm_regIssue (f : I64) (op : LogicOp) :
    RegIssue [f.d.toNat] i (logicImm i f op) := issue_regIssue fun _ _ => (Ctx.Wrote.refl ..).put ..

theorem fpElem_regIssue (f : X64) (order : List Cause) (op : Nat → Nat → Nat → Nat × Flags) :
    RegIssue [f.d.toNat] i (fpElem i f order op) := issue_regIssue fun _ _ => Ctx.regsOnly_fpPut ..

theorem dotInstr_regIssue (f : X64) (w : Nat) (ev : Nat → Val) :
    RegIssue [f.d.toNat] i (dotInstr i f w ev) := issue_regIssue fun _ _ => Ctx.regsOnly_fpPut ..

end

/-- CVTA writes D or the pair D by its kind, or traps (R122). -/
theorem execCvta_regIssue {k : CvtaKind} {f : X64} {rs : List Nat} (h : writesTo (.cvta k f) = some rs) :
    RegIssue rs (.cvta k f) (execCvta k f) := by
  refine issue_regIssue fun c s => ?_
  cases k <;> cases h <;> dsimp only
  case scr => exact (Ctx.Wrote.refl ..).putPair ..
  case cls => exact (Ctx.Wrote.refl ..).put ..
  case prv =>
    split
    · exact Ctx.regsOnly_trap _
    · exact (Ctx.Wrote.refl ..).putPair ..
  case toscr =>
    split
    · exact Ctx.regsOnly_trap _
    · exact (Ctx.Wrote.refl ..).put ..

/-- VOTE writes D, or the triple D (R167). -/
theorem execVote_regIssue {m : VoteMode} {f : X64} {rs : List Nat} (h : writesTo (.vote m f) = some rs) :
    RegIssue rs (.vote m f) (execVote m f) := by
  refine issue_regIssue fun c s => ?_
  cases m <;> cases h
  case any | all => exact (Ctx.Wrote.refl ..).putCross ..
  case ballot => exact (Ctx.Wrote.refl ..).putTriple ..

/-- FCMP writes predicate bits of D, and flags, or takes the enabled trap (R143). -/
theorem execFcmp_regIssue (cc : FCmp) (f : X64) : RegIssue [f.d.toNat] (.fcmp cc f) (execFcmp cc f) := by
  refine issue_regIssue fun c s => ?_
  dsimp only
  split
  · exact Ctx.regsOnly_trap _
  · exact ((Ctx.Wrote.refl ..).putPred ..).orFlags ..

/-- FTWOSUM writes the pair D, and flags, or takes the enabled trap (R148). -/
theorem execFtwosum_regIssue (f : X64) : RegIssue [f.d.toNat, f.d.toNat + 1] (.ftwosum f) (execFtwosum f) := by
  refine issue_regIssue fun c s => ?_
  dsimp only
  split
  · exact Ctx.regsOnly_trap _
  · exact ((Ctx.Wrote.refl ..).putPair ..).orFlags ..

/-- CVTFI traps for a value out of range where FLG3 asks so, else it is a floating-point result (R151). -/
theorem execCvtfi_regIssue (t : FType) (f : X64) : RegIssue [f.d.toNat] (.cvtfi t f) (execCvtfi t f) := by
  refine issue_regIssue fun c s => ?_
  dsimp only
  split
  · exact Ctx.regsOnly_trap _
  · exact Ctx.regsOnly_fpPut ..

theorem execCvtff_regIssue (k : CvtffKind) (f : X64) : RegIssue [f.d.toNat] (.cvtff k f) (execCvtff k f) := by
  refine issue_regIssue fun c s => ?_
  cases k <;> exact Ctx.regsOnly_fpPut ..

/-- CVTQ writes vamax in lanes of act where the magnitude grows, a byte of D where DMASK enables it, and flags, or traps (R155). -/
theorem execCvtq_regIssue (f : X64) : RegIssue [f.d.toNat, 251] (.cvtq f) (execCvtq f) := by
  refine issue_regIssue fun c s => ?_
  dsimp only
  split
  · exact Ctx.regsOnly_trap _
  split
  · exact Ctx.regsOnly_trap _
  · refine Ctx.Wrote.orFlags ?_ ..
    split
    · exact (Ctx.Wrote.putAt (.refl ..) (by simp) (lanes_and_within ..) ..).putAt (by simp) (BitVec.and_not_self _) ..
    · exact Ctx.Wrote.putAt (.refl ..) (by simp) (lanes_and_within ..) ..

theorem execCvtdq_regIssue (f : X64) : RegIssue [f.d.toNat] (.cvtdq f) (execCvtdq f) := by
  refine issue_regIssue fun c s => ?_
  dsimp only
  split
  · exact Ctx.regsOnly_trap _
  · exact Ctx.regsOnly_fpPut ..

/-- BCAST writes D, or traps where its source lane is not in act (R166). -/
theorem execBcast_regIssue (f : X64) : RegIssue [f.d.toNat] (.bcast f) (execBcast f) := by
  refine issue_regIssue fun c s => ?_
  split
  · exact Ctx.regsOnly_trap _
  · exact (Ctx.Wrote.refl ..).putCross ..

/-- Every instruction that touches registers only is one issue whose effect is writes to the registers it names and flags, or a trap.
The cases are grouped by the operation that the meanings share. -/
theorem exec_regIssue {i : Instr} {rs : List Nat} (h : writesTo i = some rs) : RegIssue rs i (exec i) := by
  cases i <;> unfold exec
  case cvta => exact execCvta_regIssue h
  case vote => exact execVote_regIssue h
  all_goals cases h
  case iadd | isub | imul | imulh | imin | imax | shl | shrl | shra => exact intBin_regIssue ..
  case iaddi | shli | shrli | shrai => exact intImm_regIssue ..
  case imad | fshr | bfx | bfi => exact intTer_regIssue ..
  case iabs | ineg | popc | clz | ctz | brev => exact intUn_regIssue ..
  case and | or | xor | andn | orn | xnor => exact rawBin_regIssue ..
  case andi | ori | xori => exact logicImm_regIssue ..
  case fadd | fsub | fmul | ffma | fmin | fmax | fminn | fmaxn | fclass | fabs | fneg | fcopysign | frnd => exact fpElem_regIssue ..
  case fdot2 | fdot4q => exact dotInstr_regIssue ..
  case idiv | irem => exact issue_regIssue fun _ _ => regsOnly_divBody ..
  case fscalb | cvtif => exact issue_regIssue fun _ _ => Ctx.regsOnly_fpPut ..
  case lred | lscan => exact issue_regIssue fun _ _ => Ctx.regsOnly_lanePut ..
  case imadw | lea | iadd64 | isub64 | cycrd => exact issue_regIssue fun _ _ => (Ctx.Wrote.refl ..).putPair ..
  case icmp | icmpi => exact issue_regIssue fun _ _ => (Ctx.Wrote.refl ..).putPred ..
  case sel | mov => exact issue_regIssue fun _ _ => (Ctx.Wrote.refl ..).putElems ..
  case movi | unpack | evrd => exact issue_regIssue fun _ _ => (Ctx.Wrote.refl ..).put ..
  case permb => exact issue_regIssue fun _ _ => (Ctx.Wrote.refl ..).putD ..
  case pack => exact issue_regIssue fun _ _ => (Ctx.Wrote.refl ..).putSat ..
  case shfl | leader => exact issue_regIssue fun _ _ => (Ctx.Wrote.refl ..).putCross ..
  case matchLanes => exact issue_regIssue fun _ _ => (Ctx.Wrote.refl ..).putTriple ..
  case fcmp => exact execFcmp_regIssue ..
  case ftwosum => exact execFtwosum_regIssue _
  case cvtfi => exact execCvtfi_regIssue ..
  case cvtff => exact execCvtff_regIssue ..
  case cvtq => exact execCvtq_regIssue _
  case cvtdq => exact execCvtdq_regIssue _
  case bcast => exact execBcast_regIssue _

end Sys2Proof.Machine
end

section
/-! SUPPORT. What writes in flight and the move to the next instruction leave alone, and the statement about it, settled. -/

namespace Sys2Proof.Machine

/-- Another fibre after a change of one. -/
theorem State.fib?_modFib_ne (s : State) {k n : Nat} (f : Fibre → Fibre) (h : n ≠ k) : (s.modFib k f).fib? n = s.fib? n := by
  by_cases hs : fibStrand n = fibStrand k
  · have hp : fibPath n ≠ fibPath k := fun hp => h (by unfold fibStrand fibPath at *; omega)
    unfold State.fib? State.modFib
    rw [hs, State.strand?_modStrand_self]
    cases s.strand? (fibStrand k) with
    | none => rfl
    | some st => exact tget?_tmod_ne _ _ hp
  · exact State.fib?_modFib_strand_ne s f hs

section
variable (c : Ctx) (s : State) (new : List Flight)

theorem Ctx.advance_onlyStrands : OnlyStrands s (c.advance (s.withFlights c.strand new)) := rfl

theorem Ctx.advance_memSame : MemSame s (c.advance (s.withFlights c.strand new)) := ⟨rfl, fun l => by cases l <;> rfl⟩

theorem Ctx.advance_otherStrands : OtherStrands c.strand s (c.advance (s.withFlights c.strand new)) := fun _ h =>
  (State.strand?_modStrand_ne _ _ h).trans (State.strand?_modStrand_ne _ _ h)

theorem Ctx.advance_fib?_ne {k : Nat} (h : k ≠ c.k) : (c.advance (s.withFlights c.strand new)).fib? k = s.fib? k :=
  (State.fib?_modFib_ne _ _ h).trans (State.fib?_modStrand_of_paths _ _ _ _ fun _ => rfl)

/-- The strand of the instruction: its registers are as they were, and the writes are in flight behind those that were. -/
theorem Ctx.advance_strand? {st : Strand} (h : s.strand? c.strand = some st) :
    ∃ st', (c.advance (s.withFlights c.strand new)).strand? c.strand = some st' ∧ st'.regs = st.regs ∧
      st'.flights = st.flights ++ new :=
  ⟨_, (State.strand?_modStrand_self _ _ _).trans (congrArg _ (State.strand?_withFlights new h)), rfl, rfl⟩

end

/-- Settles O9: the effect of such an instruction is a trap, or writes to the registers it names and flags, which leave the rest. -/
theorem registerInstructionsKeepTheRest : Obligations.RegisterInstructionsKeepTheRest := by
  unfold Obligations.RegisterInstructionsKeepTheRest
  intro s t c i rs hi hrs ht
  obtain ⟨body, hg, hbody⟩ := exec_regIssue hrs
  have hb := hbody c s
  rw [hg, issue_eq body hi] at ht
  cases e : body c s with
  | trap tr =>
    rw [e] at ht
    cases ht
    exact .inl ⟨tr, rfl⟩
  | next u =>
    rw [e] at ht hb
    cases ht
    obtain ⟨new, rfl, hn⟩ := hb
    obtain ⟨st, hst, hregs, hfl⟩ := c.advance_strand? s new hi.strand
    exact .inr ⟨c.advance_onlyStrands s new, c.advance_memSame s new, ⟨rfl, rfl⟩, c.advance_otherStrands s new, ⟨_, rfl⟩,
      fun _ hk => c.advance_fib?_ne s new hk, st, new, hst, hregs, hfl, hn⟩
  | again u | fin u | trapIn u tr => rw [e] at hb; cases hb

end Sys2Proof.Machine
end

section
/-! SUPPORT. Lane sets given by a predicate, and what a terminator comes to. -/

namespace Sys2Proof.Machine

/-! ### Lane sets -/

/-- A sum of powers of two below `n` stays below 2^n, and holds the bits named. -/
theorem foldl_pow_spec (p : Nat → Bool) (n : Nat) :
    (List.range n).foldl (fun a j => if p j then a + 2 ^ j else a) 0 < 2 ^ n ∧
      ∀ l, ((List.range n).foldl (fun a j => if p j then a + 2 ^ j else a) 0).testBit l = (decide (l < n) && p l) := by
  induction n with
  | zero => simp
  | succ n ih =>
    rw [List.range_succ, List.foldl_append, List.foldl_cons, List.foldl_nil]
    obtain ⟨hlt, hbit⟩ := ih
    generalize (List.range n).foldl (fun a j => if p j then a + 2 ^ j else a) 0 = x at hlt hbit
    split
    · next hp =>
      have hor : x + 2 ^ n = 2 ^ n ||| x := by simpa [Nat.add_comm] using Nat.two_pow_add_eq_or_of_lt hlt 1
      refine ⟨by rw [pow_succ]; omega, fun l => ?_⟩
      rw [hor, Nat.testBit_or, Nat.testBit_two_pow, hbit]
      rcases Nat.lt_trichotomy l n with h | rfl | h
      · simp [h, Nat.lt_succ_of_lt h, h.ne']
      · simp [hp]
      · simp [show ¬ l < n by omega, show ¬ l < n + 1 by omega, h.ne]
    · next hp =>
      refine ⟨by rw [pow_succ]; omega, fun l => ?_⟩
      rw [hbit]
      rcases Nat.lt_trichotomy l n with h | rfl | h
      · simp [h, Nat.lt_succ_of_lt h]
      · simp [hp]
      · simp [show ¬ l < n by omega, show ¬ l < n + 1 by omega]

/-- The members of a lane set given by a predicate. -/
@[simp] theorem getLsbD_lanesOf (p : Nat → Bool) (l : Nat) : (lanesOf p).getLsbD l = (decide (l < 96) && p l) := by
  unfold lanesOf allLanes
  rw [BitVec.getLsbD_ofNat, (foldl_pow_spec p 96).2, ← Bool.and_assoc, Bool.and_self]

@[simp] theorem getElem_lanesOf (p : Nat → Bool) {l : Nat} (h : l < 96) : (lanesOf p)[l] = p l := by
  rw [← BitVec.getLsbD_eq_getElem, getLsbD_lanesOf, decide_eq_true h, Bool.true_and]

/-- Lane sets with the same lanes are the same. -/
theorem lanes_ext {a b : Lanes} (h : ∀ l, l < 96 → (a.getLsbD l = true ↔ b.getLsbD l = true)) : a = b :=
  BitVec.eq_of_getLsbD_eq fun l hl => Bool.eq_iff_iff.mpr (h l hl)

theorem mem_lanesIn {m : Lanes} {l : Nat} : l ∈ lanesIn m ↔ m.getLsbD l = true := by
  simp only [lanesIn, allLanes, List.mem_filter, List.mem_range, and_iff_right_iff_imp]
  exact BitVec.lt_of_getLsbD

/-- The lowest member of a set is a member. -/
theorem getLsbD_of_lowLane? {m : Lanes} {l : Nat} (h : lowLane? m = some l) : m.getLsbD l = true :=
  mem_lanesIn.mp (List.mem_of_head? h)

/-- The uniform lane is a lane (R87). -/
theorem Ctx.low_lt (c : Ctx) : c.low < 96 := by
  unfold Ctx.low
  cases ha : lowLane? c.act with
  | some l => exact BitVec.lt_of_getLsbD (getLsbD_of_lowLane? ha)
  | none =>
    cases hs : lowLane? c.f.laneSet with
    | some l => simpa [Option.orElse] using BitVec.lt_of_getLsbD (getLsbD_of_lowLane? hs)
    | none => simp [Option.orElse]

/-! ### Terminators -/

section
variable {i : Instr} {s u t : State} {c : Ctx} {body : Ctx → State → Res}

/-- A terminator whose run passes its tests places the fibre as its effect says. -/
theorem endRunWith_fin (h : Ends i s c u) (hb : body c u = .fin t) : endRunWith i s body = .next t :=
  issue_fin h.1 (by simp only [h.2, hb])

/-- A terminator that traps leaves the tests of its run to its next execution. -/
theorem endRunWith_trap {tr : Trap} (h : Ends i s c u) (hb : body c u = .trap tr) (hn : tr.next = false) :
    endRunWith i s body = .next (c.afterTrap s i tr) :=
  issue_trap h.1 (by simp [h.2, hb, hn])

end

theorem Ctx.gotoNext_eq {c : Ctx} (h : c.fallsOff = false) (s : State) : c.gotoNext s = .fin (c.goesTo s c.nextPc) := by
  simp [Ctx.gotoNext, h, Ctx.goto, Ctx.goesTo]

theorem Ctx.await_eq {c : Ctx} (h : c.fallsOff = false) (s : State) (w : Wait) : c.await s w = .fin (c.parksAt s w) := by
  simp [Ctx.await, h, Ctx.parksAt]

/-! ### Targets and conditions of branches (R85, R92) -/

theorem Ctx.target_eq_some_iff {c : Ctx} {f : T96} {t : DWord} : c.target f = some t ↔ transfersTo c f t := by
  unfold Ctx.target pcTarget transfersTo
  dsimp only
  constructor
  · intro h
    split at h
    · cases h
    · cases h
      exact ⟨((pcOffset c.f.pc : Int) + 4 * f.imm26.toInt).toNat, by omega, by omega, rfl⟩
  · rintro ⟨o, hlt, ho, rfl⟩
    rw [if_neg (by omega), ← ho, Int.toNat_natCast]

theorem Ctx.target_eq_none_iff {c : Ctx} {f : T96} : c.target f = none ↔ ¬ ∃ t, transfersTo c f t := by
  simp only [← Ctx.target_eq_some_iff, Option.eq_none_iff_forall_ne_some, not_exists, ne_eq]

/-- The lanes in which the condition holds are those of the model, and no others. -/
theorem holdIn_iff {c : Ctx} {k : Cond} {f : T96} {T : Lanes} : HoldIn c k f T ↔ T = c.condLanes k f := by
  have key : ∀ l, l < 96 → ((c.condLanes k f).getLsbD l = true ↔
      c.act.getLsbD l = true ∧ condHolds k f.b.toNat (c.rd f.a.toNat l) = true) := by
    intro l hl
    simp [Ctx.condLanes, hl]
  have spec : HoldIn c k f T ↔
      ∀ l, l < 96 → (T.getLsbD l = true ↔ c.act.getLsbD l = true ∧ condHolds k f.b.toNat (c.rd f.a.toNat l) = true) := by
    unfold HoldIn
    cases k <;> simp [condHolds]
  rw [spec]
  constructor
  · exact fun h => lanes_ext fun l hl => (h l hl).trans (key l hl).symm
  · rintro rfl
    exact key

/-- The condition holds in some lane when the set of such lanes is not empty. -/
theorem exists_holdIn_iff {c : Ctx} {k : Cond} {f : T96} : (∃ T, HoldIn c k f T ∧ T ≠ 0) ↔ c.condLanes k f ≠ 0 := by
  simp only [holdIn_iff, exists_eq_left]

/-- In a single lane it is the condition of that lane's word. -/
theorem condLanes_single_ne_zero {c : Ctx} {k : Cond} {f : T96} {n : Nat} (hn : n < 96) :
    ({ c with act := lanesOf fun l => l == n } : Ctx).condLanes k f ≠ 0 ↔ condHolds k f.b.toNat (c.rd f.a.toNat n) = true := by
  have bit : ∀ l, l < 96 → ((({ c with act := lanesOf fun l => l == n } : Ctx).condLanes k f).getLsbD l = true ↔
      l = n ∧ condHolds k f.b.toNat (c.rd f.a.toNat l) = true) := by
    intro l hl
    simp [Ctx.condLanes, hl, Ctx.rd, Ctx.rv]
  constructor
  · intro h
    by_contra hc
    refine h (lanes_ext fun l hl => ?_)
    rw [bit l hl]
    exact ⟨by rintro ⟨rfl, hl⟩; exact absurd hl hc, by simp⟩
  · intro hc h
    have := (bit n hn).mpr ⟨rfl, hc⟩
    simp [h] at this

/-! ### The branches -/

section
variable {i : Instr} {s u : State} {c : Ctx} {f : T96} {taken : Ctx → Bool}

theorem wholeBranch_taken {t : DWord} (h : Ends i s c u) (ht : transfersTo c f t) (hk : taken c = true) :
    wholeBranch i f taken s = .next (c.goesTo (c.branchNote u c.f.laneSet) t) :=
  endRunWith_fin h (by simp only [Ctx.target_eq_some_iff.mpr ht, hk, if_true]; rfl)

theorem wholeBranch_not_taken {t : DWord} (h : Ends i s c u) (ht : transfersTo c f t) (hk : taken c = false) (ho : c.fallsOff = false) :
    wholeBranch i f taken s = .next (c.goesTo (c.branchNote u 0) c.nextPc) :=
  endRunWith_fin h (by
    simp only [Ctx.target_eq_some_iff.mpr ht, hk, Bool.false_eq_true, if_false]
    exact Ctx.gotoNext_eq ho _)

/-- A branch of the whole fibre, from what its condition says. -/
theorem wholeBranch_goes (h : Ends i s c u) {p : Prop} (hp : p ↔ taken c = true) {t : DWord} (ht : transfersTo c f t) :
    (p → wholeBranch i f taken s = .next (c.goesTo (c.branchNote u c.f.laneSet) t)) ∧
      (¬ p → c.fallsOff = false → wholeBranch i f taken s = .next (c.goesTo (c.branchNote u 0) c.nextPc)) :=
  ⟨fun hk => wholeBranch_taken h ht (hp.mp hk),
    fun hk ho => wholeBranch_not_taken h ht (Bool.eq_false_iff.mpr fun hc => hk (hp.mpr hc)) ho⟩

theorem wholeBranch_wraps (h : Ends i s c u) (hn : ¬ ∃ t, transfersTo c f t) :
    wholeBranch i f taken s = .next (c.afterTrap s i { cause := .pcWrap }) :=
  endRunWith_trap h (by simp only [Ctx.target_eq_none_iff.mpr hn]) rfl

/-- A transfer whose target leaves the 40 bits of an offset traps with PC_WRAP (R85). -/
theorem branch_wraps (hi : i = .bra f ∨ ∃ k, i = .brc k f ∨ i = .bru k f ∨ i = .brany k f ∨ i = .brall k f) (h : Ends i s c u)
    (hn : ¬ ∃ t, transfersTo c f t) : exec i s = .next (c.afterTrap s i { cause := .pcWrap }) := by
  have ht := Ctx.target_eq_none_iff.mpr hn
  rcases hi with rfl | ⟨k, rfl | rfl | rfl | rfl⟩ <;> unfold exec
  case inl => unfold execBra; exact endRunWith_trap h (by simp only [ht]) rfl
  case inr.inl => unfold execBrc; exact endRunWith_trap h (by simp only [ht]) rfl
  all_goals exact wholeBranch_wraps h hn

end

/-- Settles O27: each branch is one effect at the end of a run, whose condition is that of the statement. -/
theorem branchesGoWhereTheyName : Obligations.BranchesGoWhereTheyName := by
  unfold Obligations.BranchesGoWhereTheyName
  intro s u c f
  refine ⟨fun h ho => endRunWith_fin h (Ctx.gotoNext_eq ho u), fun t h ht => ?_, fun i taken h hi t ht => ?_,
    fun i hi h hn => branch_wraps hi h hn⟩
  · exact endRunWith_fin h (by simp only [Ctx.target_eq_some_iff.mpr ht]; rfl)
  · obtain ⟨k, ⟨rfl, hc⟩ | ⟨rfl, hc⟩ | ⟨rfl, hc⟩⟩ := hi
    · rw [exists_holdIn_iff, condLanes_single_ne_zero c.low_lt] at hc
      exact wholeBranch_goes h hc ht
    · rw [exists_holdIn_iff] at hc
      exact wholeBranch_goes h (by simpa using hc) ht
    · rw [holdIn_iff] at hc
      exact wholeBranch_goes h (by simpa using hc.trans (and_congr_right fun _ => eq_comm)) ht

end Sys2Proof.Machine
end

section
/-! SUPPORT. Statements about the ends of runs that fail, with the states in which they do. -/

namespace Sys2Proof.Machine

/-- A terminator without a guard or a publish list. -/
def plainEnd (el : BitVec 1) (a : BitVec 8) (imm26 : BitVec 26) : T96 :=
  { rsv := 0, yl := 0, el := el, p2 := 248, p1 := 248, p0 := 248, imm26 := imm26, flg := 0, b := 0, a := a, r5 := 0, stall := 0
    guard := none }

/-! ### YIELD of a run in candidate mode -/

/-- A run in candidate mode whose candidate does not write the output v0 (R409, R413). -/
def keptOutputRun : RunRec :=
  { start := 0
    instrs := [{ pc := 0, instr := .runend (plainEnd 0 0 0) }]
    lanes := 1
    use := some { idx := 0, entry := 0, serial := 0, cand := true, body := [], text := [], endI := none, term := 0, ins := [], outs := [0] } }

/-- One fibre of one lane at the terminator of that run. -/
def keptOutputState : State :=
  { strands := [(0, { blocks := 1, paths := [(0, { laneSet := 1, pc := 0, state := .running, run := some keptOutputRun })] })]
    cur := some { fib := 0, r0 := 0, r1 := 1, r2 := 2 } }

/-- The taint tags of v0 of strand 0 in the state an outcome leads to. -/
def tagsLeft (o : Host.Outcome State Fault Refusal) : Option (List (Nat × Tag)) :=
  match o with
  | .next t => (t.strand? 0).map fun st => (st.row 0).tags
  | _ => none

theorem yield_tags_kept_output :
    tagsLeft (exec (.yield (plainEnd 0 0 0)) keptOutputState) = some [(0, { entry := 0, serial := 0, direct := true })] := rfl

/-- Refutes O31: YIELD at the end of a run in candidate mode marks an output that the candidate left as it was with the direct tag
(R409, R413), so a register of the strand is not as it was before. -/
theorem not_nopAdvancesYieldParks : ¬ Obligations.NopAdvancesYieldParks := by
  unfold Obligations.NopAdvancesYieldParks
  intro h
  obtain ⟨-, hy, -⟩ := h
  obtain ⟨c, hc, hcheck, hoff, htest, hk, hst⟩ : ∃ c, mkCtx (.yield (plainEnd 0 0 0)) keptOutputState { fib := 0, r0 := 0, r1 := 1, r2 := 2 } = some c ∧
      c.check = none ∧ c.fallsOff = false ∧ (c.substEnd keptOutputState).2 = none ∧ c.strand = 0 ∧ (c.st.row 0).tags = [] :=
    ⟨_, rfl, rfl, rfl, rfl, rfl, rfl⟩
  have hi : Issues (.yield (plainEnd 0 0 0)) keptOutputState c := ⟨_, rfl, hc, hcheck⟩
  obtain ⟨t, -, ht, -, -, -, -, -, -, hregs⟩ := hy keptOutputState _ c _ ⟨hi, Prod.ext rfl htest⟩ hoff
  obtain ⟨st', hst', hrow, -⟩ := hregs 0 c.st hi.strand
  have htags := yield_tags_kept_output
  rw [hk] at hst'
  rw [ht, tagsLeft, hst', Option.map_some, hrow, hst] at htags
  cases htags

/-! ### An ineligible run that the sampler has taken -/

/-- A run that begins at reference 0 and whose body is no eligible one. -/
def ineligibleRun : RunRec := { start := 0, instrs := [{ pc := 0, instr := .runend (plainEnd 0 0 0) }] }

/-- A fibre at the terminator of that run, with EL set. -/
def ineligibleCtx : Ctx :=
  { k := 0, i := .runend (plainEnd 1 0 0), f := { laneSet := 1, pc := 0, run := some ineligibleRun }, st := { blocks := 1 }
    is := { fib := 0, r0 := 0, r1 := 1, r2 := 2 }, t := (0, 1, 2), mask := 1, act := 1 }

/-- The operand sampler of cluster 0 holds an entry for the run, taken before its text was known (R406). -/
def sampledState : State := { clusters := [(0, { sampler := [some { part := 0, start := 0 }] })] }

/-- Refutes O32: the test that finds a run ineligible frees the sampler entry that was taken for it before its text was known (log entry
49), so the state is not the one before. -/
theorem not_runsEndAndResume : ¬ Obligations.RunsEndAndResume := by
  unfold Obligations.RunsEndAndResume
  intro h
  obtain ⟨⟨⟨-, htest⟩, -⟩, -⟩ := h
  have hs := htest sampledState ineligibleCtx ineligibleRun _ rfl rfl rfl rfl rfl rfl rfl
  have hfree : ((ineligibleCtx.substEnd sampledState).1.cluster 0).sampler = [none] := rfl
  rw [hs] at hfree
  cases hfree

/-! ### BRC in a strand whose path table is full -/

/-- 98 fibres stand in the path table; the last of them, of lanes 0 and 1, is at a BRC. -/
def fullPathsState : State :=
  { strands := [(0,
      { blocks := 1, regs := [(253, { vals := [1, 1] })]
        paths := (List.range 98).map fun p => (p, { laneSet := 3, pc := 0, state := .running }) })]
    cur := some { fib := 97, r0 := 0, r1 := 1, r2 := 2 } }

/-- The lanes of the fibre of path 97 in the state an outcome leads to. -/
def laneSetLeft (o : Host.Outcome State Fault Refusal) : Option Lanes :=
  match o with
  | .next t => (t.fib? 97).map fun g => g.laneSet
  | _ => none

set_option maxRecDepth 4096 in
theorem brc_overwrites_parent : laneSetLeft (exec (.brc .bset (plainEnd 0 249 4)) fullPathsState) = some 2 := rfl

set_option maxRecDepth 4096 in
/-- Refutes O28: with no free path the new fibre takes path 97, and a parent that stands there is overwritten, so no fibre keeps the lanes
that go the other way. -/
theorem not_brcSplitsTheFibre : ¬ Obligations.BrcSplitsTheFibre := by
  unfold Obligations.BrcSplitsTheFibre
  intro h
  obtain ⟨c, hc, hcheck, hoff, hend, hk, hset, hT, hmask, ht⟩ :
      ∃ c, mkCtx (.brc .bset (plainEnd 0 249 4)) fullPathsState { fib := 97, r0 := 0, r1 := 1, r2 := 2 } = some c ∧ c.check = none ∧
        c.fallsOff = false ∧ c.substEnd fullPathsState = (fullPathsState, none) ∧ c.k = 97 ∧ c.f.laneSet = 3 ∧
        c.condLanes .bset (plainEnd 0 249 4) = 2 ∧ c.mask = 3 ∧ transfersTo c (plainEnd 0 249 4) 16 :=
    ⟨_, rfl, rfl, rfl, rfl, rfl, rfl, rfl, rfl, ⟨16, by decide, rfl, rfl⟩⟩
  obtain ⟨-, -, hsplit⟩ := h fullPathsState _ c .bset _ 16 2 ⟨⟨_, rfl, hc, hcheck⟩, hend⟩ ht (holdIn_iff.mpr hT.symm)
  obtain ⟨v, p, g, st', hv, -, hp, -, -, -, -, -, hleft, -⟩ := hsplit (by decide) (by rw [hmask]; decide) hoff
  have hlanes := brc_overwrites_parent
  rw [hv, laneSetLeft, ← hk, hp, Option.map_some, hleft, hset, hmask] at hlanes
  exact absurd hlanes (by decide)

end Sys2Proof.Machine
end

section
/-! SUPPORT. When a write in flight is seen, and which of two stays (R66, R99). -/

namespace Sys2Proof.Machine

theorem laneW_laneVec (f : Nat → Word) {l : Nat} (h : l < 96) : laneW (laneVec f) l = f l := by
  simp [laneW, laneVec, allLanes, h]

/-- With no write to the register in flight a write lands when its latency says. -/
theorem Strand.landAfter_of_idle {st : Strand} {r : Nat} (h : ∀ x ∈ st.flights, x.reg ≠ r) (lanes : Lanes) (ld : Nat × Nat × Nat) :
    st.landAfter r lanes ld = ld := by
  unfold Strand.landAfter
  revert h
  generalize st.flights = fs
  intro h
  induction fs with
  | nil => rfl
  | cons x xs ih =>
    have hx : (x.reg == r) = false := beq_eq_false_iff_ne.mpr (h x List.mem_cons_self)
    simp only [List.foldl_cons, hx, Bool.false_and, Bool.false_eq_true, if_false]
    exact ih fun y hy => h y (List.mem_cons_of_mem _ hy)

/-- A register with no other write in flight shows the new ones over its row. -/
theorem Strand.view_of_new {st : Strand} {r : Nat} (h : ∀ x ∈ st.flights, x.reg ≠ r) (hr : r < 248) (new : List Flight) (q l g n : Nat) :
    (({ st with flights := st.flights ++ new, seq := q } : Strand).view r l g n).w =
      (layFlights l (sortFlights g (new.filter fun f => f.reg == r && f.lanes.getLsbD l && f.seen g n)) [] ((st.row r).lane l)).w := by
  have hold : (st.flights.filter fun f => f.reg == r && f.lanes.getLsbD l && f.seen g n) = [] :=
    List.filter_eq_nil_iff.mpr fun x hx => by simp [h x hx]
  have hkeep : ∀ w, keepBits r w = w := fun w => if_neg (by omega)
  simp only [Strand.view, List.filter_append, hold, List.nil_append, hkeep]
  rfl

/-- The last of the writes laid sets the bits it covers, where no later-issued one was laid before. -/
theorem layFlights_last {l : Nat} {f : Flight} (ho : f.orIn = false) {hist : List (Nat × Word)} (hh : ∀ h ∈ hist, h.1 ≤ f.seq)
    (v : LaneVal) : (layFlights l [f] hist v).w = (v.w &&& ~~~f.covAt l) ||| (laneW f.vals l &&& f.covAt l) := by
  have hnone : hist.foldl (fun a h => if h.1 > f.seq then a ||| h.2 else a) 0 = (0 : Word) := by
    induction hist with
    | nil => rfl
    | cons x xs ih =>
      rw [List.foldl_cons, if_neg (by have := hh x List.mem_cons_self; omega)]
      exact ih fun y hy => hh y (List.mem_cons_of_mem _ hy)
  simp only [layFlights, ho, Bool.false_eq_true, if_false, hnone]
  have hfull : ∀ w : Word, w &&& 4294967295#32 = w := fun w => by simpa using BitVec.and_allOnes (x := w)
  have hcov : f.covAt l &&& ~~~(0 : Word) = f.covAt l := hfull _
  rw [hcov]
  by_cases hm : f.covAt l = 0
  · simp [hm, hfull]
  · rw [if_neg (by simpa using hm)]

/-- Two writes that land in the order in which they were issued are laid in it. -/
theorem sortFlights_pair {g : Nat} {a b : Flight} (hl : tri (a.land.getD (tri1 0)) g ≤ tri (b.land.getD (tri1 0)) g)
    (hs : a.seq < b.seq) : sortFlights g [a, b] = [a, b] := by
  simp only [sortFlights, List.foldl_cons, List.foldl_nil, insertFlight]
  rw [if_neg (by omega)]

/-- The write that an instruction issues to a stored register. -/
theorem Ctx.flight_of_lt (c : Ctx) {r : Nat} (hr : r < 248) (lanes : Lanes) (val : Nat → Word) (cov : Word) (tag : Nat → Option Tag)
    (ld : Nat × Nat × Nat) : ∃ fl, c.flight r lanes val cov tag (some ld) = some fl ∧ fl.reg = r ∧ fl.lanes = lanes ∧ fl.cov = cov ∧
      fl.land = some ld ∧ fl.orIn = false ∧ ∀ l, l < 96 → lanes.getLsbD l = true → laneW fl.vals l &&& cov = val l &&& cov := by
  unfold Ctx.flight
  simp only [hr, true_or, if_true]
  refine ⟨_, rfl, rfl, rfl, rfl, rfl, rfl, fun l hl hm => ?_⟩
  rw [laneW_laneVec _ hl, if_pos hm]
  split
  · rfl
  · ext j hj
    cases hc : cov[j] <;> simp [hc]

/-- Issuing it: it lands when its latency says, but not before the earlier writes to the register. -/
theorem Ctx.putBits_of_lt {c : Ctx} {s : State} {st : Strand} (hs : s.strand? c.strand = some st) {r : Nat} (hr : r < 248)
    (lanes : Lanes) (val : Nat → Word) (cov : Word) (lat : Nat) (tag : Nat → Option Tag) :
    ∃ fl : Flight, c.putBits s r lanes val cov lat tag = s.withFlights c.strand [fl] ∧ fl.reg = r ∧ fl.lanes = lanes ∧ fl.cov = cov ∧
      fl.seq = st.seq ∧ fl.land = some (st.landAfter r lanes (c.landing lat)) ∧ fl.orIn = false ∧
      ∀ l, l < 96 → lanes.getLsbD l = true → laneW fl.vals l &&& cov = val l &&& cov := by
  have hld : c.landSpan s [r] lanes lat = st.landAfter r lanes (c.landing lat) := by simp [Ctx.landSpan, hs]
  obtain ⟨fl, hf, hreg, hlanes, hcov, hland, ho, hval⟩ := c.flight_of_lt hr lanes val cov tag (st.landAfter r lanes (c.landing lat))
  refine ⟨{ fl with seq := st.seq }, ?_, hreg, hlanes, hcov, rfl, hland, ho, hval⟩
  rw [Ctx.putBits, hld, Ctx.putAt_eq hs, hf]

theorem tri_triMap (f : Nat → Nat) (t : Nat × Nat × Nat) (g : Nat) : tri (triMap f t) g = f (tri t g) := by
  unfold tri triMap; split <;> [rfl; split <;> rfl]

theorem tri_triMax (a b : Nat × Nat × Nat) (g : Nat) : tri (triMax a b) g = max (tri a g) (tri b g) := by
  unfold tri triMax; split <;> [rfl; split <;> rfl]

theorem tri_landing (c : Ctx) (lat g : Nat) : tri (c.landing lat) g = tri c.t g + 3 * lat := tri_triMap _ _ _

/-- Behind a write to lanes of the same register a write lands no earlier than that one. -/
theorem Strand.landAfter_of_one {st : Strand} {r l : Nat} (h : ∀ x ∈ st.flights, x.reg ≠ r) {f : Flight} (hr : f.reg = r)
    {lanes : Lanes} (hl : f.lanes.getLsbD l = true ∧ lanes.getLsbD l = true) {x : Nat × Nat × Nat} (hx : f.land = some x) (ld : Nat × Nat × Nat) (q : Nat) :
    ({ st with flights := st.flights ++ [f], seq := q } : Strand).landAfter r lanes ld = triMax ld x := by
  have hmeet : f.lanes &&& lanes ≠ 0 := fun h0 => by
    have := congrArg (·.getLsbD l) h0
    simp [hl] at this
  have hidle := Strand.landAfter_of_idle h lanes ld
  unfold Strand.landAfter at hidle ⊢
  rw [List.foldl_append, hidle, List.foldl_cons, List.foldl_nil, if_pos (by rw [hr, beq_self_eq_true, Bool.true_and]; exact bne_iff_ne.mpr hmeet), hx]

theorem covAt_of_lt {f : Flight} (h : f.reg < 248) (l : Nat) : f.covAt l = f.cov := if_neg (by omega)

theorem Flight.seen_iff {f : Flight} {ld : Nat × Nat × Nat} (h : f.land = some ld) {g n : Nat} : f.seen g n = decide (tri ld g ≤ n) := by
  rw [Flight.seen, h]

section
variable {s : State} {c : Ctx} {r : Nat} {lanes : Lanes} {tag : Nat → Option Tag} (hs : s.strand? c.strand = some c.st) (hr : r < 248)
  (hidle : ∀ x ∈ c.st.flights, x.reg ≠ r)
include hs hr hidle

/-- A write to a register with nothing in flight is seen from its landing on, in its lanes and bits (R66). -/
theorem Ctx.putBits_visible (val : Nat → Word) (cov : Word) (lat : Nat) :
    ∃ st, (c.putBits s r lanes val cov lat tag).strand? c.strand = some st ∧ ∀ l g n, l < 96 →
      (n < tri c.t g + 3 * lat → (st.view r l g n).w = laneW (c.st.row r).vals l) ∧
      (tri c.t g + 3 * lat ≤ n → (st.view r l g n).w =
        if lanes.getLsbD l = true then (laneW (c.st.row r).vals l &&& ~~~cov) ||| (val l &&& cov) else laneW (c.st.row r).vals l) := by
  obtain ⟨f, hput, hreg, hlanes, hcov, -, hland, ho, hval⟩ := Ctx.putBits_of_lt hs hr lanes val cov lat tag
  rw [Strand.landAfter_of_idle hidle] at hland
  refine ⟨_, by rw [hput]; exact State.strand?_withFlights _ hs, fun l g n hl => ?_⟩
  have hseen : f.seen g n = decide (tri c.t g + 3 * lat ≤ n) := by rw [Flight.seen_iff hland, tri_landing]
  rw [Strand.view_of_new hidle hr]
  refine ⟨fun hn => ?_, fun hn => ?_⟩
  · simp [hseen, show ¬ tri c.t g + 3 * lat ≤ n by omega, sortFlights, layFlights, Row.lane]
  · by_cases hm : lanes.getLsbD l = true
    · have hnew : sortFlights g ([f].filter fun f => f.reg == r && f.lanes.getLsbD l && f.seen g n) = [f] := by
        simp [hreg, hlanes, hm, hseen, hn, sortFlights, insertFlight]
      rw [hnew, layFlights_last ho (by simp), covAt_of_lt (hreg ▸ hr), hcov, hval l hl hm, if_pos hm]
      rfl
    · simp [hlanes, hm, sortFlights, layFlights, Row.lane]

/-- Of two writes to one register the later issued stays (R99). -/
theorem Ctx.putBits_later_stays {d : Ctx} (hk : d.strand = c.strand) {l g n la lb : Nat} (a b : Nat → Word) (hl : l < 96)
    (hm : lanes.getLsbD l = true) (ha : tri c.t g + 3 * la ≤ n) (hb : tri d.t g + 3 * lb ≤ n) :
    ∃ st, (d.putBits (c.putBits s r lanes a 0xFFFFFFFF la tag) r lanes b 0xFFFFFFFF lb tag).strand? c.strand = some st ∧
      (st.view r l g n).w = b l := by
  obtain ⟨f, hput, hreg, hlanes, -, hseq, hland, ho, -⟩ := Ctx.putBits_of_lt hs hr lanes a 0xFFFFFFFF la tag
  rw [Strand.landAfter_of_idle hidle] at hland
  have hs' := State.strand?_withFlights [f] hs
  obtain ⟨f', hput', hreg', hlanes', hcov', hseq', hland', ho', hval⟩ := Ctx.putBits_of_lt (c := d) (by rw [hk]; exact hs') hr lanes b 0xFFFFFFFF lb tag
  rw [Strand.landAfter_of_one hidle hreg ⟨hlanes ▸ hm, hm⟩ hland] at hland'
  have hst : (d.putBits (c.putBits s r lanes a 0xFFFFFFFF la tag) r lanes b 0xFFFFFFFF lb tag).strand? c.strand =
      some { c.st with flights := c.st.flights ++ [f, f'], seq := c.st.seq + 1 + 1 } := by
    rw [hk] at hput'
    rw [hput, hput', State.strand?_withFlights [f'] hs']
    simp
  refine ⟨_, hst, ?_⟩
  have hsort : sortFlights g ([f, f'].filter fun f => f.reg == r && f.lanes.getLsbD l && f.seen g n) = [f, f'] := by
    have hseen : f.seen g n = true := by rw [Flight.seen_iff hland, tri_landing]; simpa using ha
    have hseen' : f'.seen g n = true := by
      rw [Flight.seen_iff hland', tri_triMax, tri_landing, tri_landing]; simpa using ⟨hb, ha⟩
    rw [List.filter_eq_self.mpr (by simp [hreg, hreg', hlanes, hlanes', hm, hseen, hseen'])]
    refine sortFlights_pair ?_ (by simp [hseq, hseq'])
    rw [hland, hland', Option.getD_some, Option.getD_some, tri_triMax]
    exact le_max_right _ _
  have hfull : ∀ w : Word, w &&& 0xFFFFFFFF = w := fun w => by simpa using BitVec.and_allOnes (x := w)
  have hlast := hval l hl hm
  rw [hfull, hfull] at hlast
  rw [Strand.view_of_new hidle hr, hsort, layFlights, ho, if_neg (by simp), layFlights_last ho' (by simp [hseq, hseq']),
    covAt_of_lt (by omega : f'.reg < 248), hcov', hlast]
  simpa using hfull (b l)

end

/-- Settles O7: with nothing else in flight the view of the register is its row with the writes seen laid over it in landing order. -/
theorem writesBecomeVisible : Obligations.WritesBecomeVisible := by
  unfold Obligations.WritesBecomeVisible
  refine ⟨fun s c r lanes val cov lat tag hs hr hidle => ?_, fun s c d r l g n la lb lanes a b tag hs hr hidle hk hl hm hg ha hb =>
    Ctx.putBits_later_stays hs hr hidle (congrArg fibStrand hk) a b hl hm ha hb⟩
  obtain ⟨st, hst, hview⟩ := Ctx.putBits_visible (tag := tag) hs hr hidle val cov lat
  exact ⟨st, hst, fun l g n hl _ => hview l g n hl⟩

end Sys2Proof.Machine
end

section
/-! SUPPORT. What slots, fibre states, packets and the ends of runs leave alone: memory, strands, registers, fibres. -/

namespace Sys2Proof.Machine

/-! ### Memory -/

/-- What a skein has in scratch memory decides what its bytes read as. -/
theorem Skein.physOfs_congr {a b : Skein} (h : a.scrcfg = b.scrcfg) (o : Nat) : a.physOfs o = b.physOfs o := by
  unfold Skein.physOfs Skein.swizzled
  rw [h]

theorem tget?_map_snd {α β : Type} (f : α → β) (t : Table α) (k : Nat) :
    tget? (t.map fun e => (e.1, f e.2)) k = (tget? t k).map f := by
  induction t with
  | nil => rfl
  | cons e t ih =>
    obtain ⟨n, v⟩ := e
    simp only [List.map_cons, tget?]
    split
    · rfl
    · exact ih

/-- States with the same contents of memory and scratch read the same. -/
theorem memSame_of_contents {s t : State} (h : t.contents = s.contents) : MemSame s t := by
  obtain ⟨hmem, hsk⟩ : t.mem = s.mem ∧ (t.skeins.map fun e => (e.1, e.2.scratch, e.2.scrcfg)) =
      s.skeins.map fun e => (e.1, e.2.scratch, e.2.scrcfg) := by
    simpa [State.contents] using h
  refine ⟨hmem, fun l => ?_⟩
  cases l with
  | mem k => simp only [State.locRead, State.memRead, hmem]
  | scr sk o =>
    have hfind : (t.skein? sk).map (fun k => (k.scratch, k.scrcfg)) = (s.skein? sk).map fun k => (k.scratch, k.scrcfg) := by
      have := congrArg (tget? · sk) hsk
      simp only [tget?_map_snd fun k : Skein => (k.scratch, k.scrcfg)] at this
      exact this
    simp only [State.locRead]
    cases ht : t.skein? sk with
    | none => rw [ht] at hfind; cases hs : s.skein? sk <;> simp_all
    | some a =>
      cases hs : s.skein? sk with
      | none => rw [ht, hs] at hfind; cases hfind
      | some b =>
        rw [ht, hs, Option.map_some, Option.map_some, Option.some.injEq, Prod.mk.injEq] at hfind
        simp only [hfind.1, Skein.physOfs_congr hfind.2]

/-! ### Strands -/

@[simp] theorem State.packet_strands (s : State) (k type : Nat) (payload : List Byte) : (s.packet k type payload).strands = s.strands := by
  unfold State.packet; split <;> rfl

@[simp] theorem State.unslot_strands (s : State) (k : Nat) : (s.unslot k).strands = s.strands := by unfold State.unslot; split <;> rfl

@[simp] theorem State.count_strands (s : State) (cl code n : Nat) : (s.count cl code n).strands = s.strands := rfl

theorem State.strand?_of_strands {s t : State} (h : t.strands = s.strands) (n : Nat) : t.strand? n = s.strand? n := by
  simp only [State.strand?, h]

theorem State.fib?_of_strands {s t : State} (h : t.strands = s.strands) (n : Nat) : t.fib? n = s.fib? n := by
  simp only [State.fib?, State.strand?_of_strands h]

/-- A strand without its fibres: its registers, its writes in flight and what else it holds. -/
def State.bare (s : State) (n : Nat) : Option Strand := (s.strand? n).map fun st => { st with paths := [] }

theorem State.bare_of_strands {s t : State} (h : t.strands = s.strands) (n : Nat) : t.bare n = s.bare n := by
  simp only [State.bare, State.strand?_of_strands h]

@[simp] theorem State.bare_modFib (s : State) (k n : Nat) (f : Fibre → Fibre) : (s.modFib k f).bare n = s.bare n := by
  unfold State.bare State.modFib
  by_cases h : n = fibStrand k
  · subst h
    rw [State.strand?_modStrand_self]
    cases s.strand? (fibStrand k) <;> rfl
  · rw [State.strand?_modStrand_ne _ _ h]

@[simp] theorem State.bare_packet (s : State) (k type n : Nat) (payload : List Byte) : (s.packet k type payload).bare n = s.bare n :=
  State.bare_of_strands (by simp) n

@[simp] theorem State.bare_unslot (s : State) (k n : Nat) : (s.unslot k).bare n = s.bare n := State.bare_of_strands (by simp) n

@[simp] theorem State.bare_park (s : State) (k n : Nat) (w : Wait) : (s.park k w).bare n = s.bare n := by
  unfold State.park; dsimp only; split <;> simp

@[simp] theorem State.bare_ready (s : State) (k n : Nat) : (s.ready k).bare n = s.bare n := by
  unfold State.ready; dsimp only; split <;> simp

@[simp] theorem State.bare_toReady (s : State) (k n : Nat) : (s.toReady k).bare n = s.bare n := by
  unfold State.toReady
  split
  · split <;> simp
  · rfl

@[simp] theorem Ctx.bare_closeRun (c : Ctx) (s : State) (n : Nat) : (c.closeRun s).bare n = s.bare n := State.bare_modFib ..

/-! ### Registers -/

theorem regKept_of_bare {k r : Nat} {s t : State} (h : t.bare k = s.bare k) : RegKept k r s t := by
  intro st hst
  unfold State.bare at h
  rw [hst] at h
  obtain ⟨st', hst', heq⟩ := Option.map_eq_some_iff.mp h
  have hregs : st'.regs = st.regs := congrArg (·.regs) heq
  have hfl : st'.flights = st.flights := congrArg (·.flights) heq
  exact ⟨st', hst', by simp only [Strand.row, hregs], by rw [hfl]⟩

theorem RegKept.trans {k r : Nat} {s t u : State} (h : RegKept k r s t) (h' : RegKept k r t u) : RegKept k r s u := by
  intro st hst
  obtain ⟨st', hst', hrow, hfl⟩ := h st hst
  obtain ⟨st'', hst'', hrow', hfl'⟩ := h' st' hst'
  exact ⟨st'', hst'', hrow'.trans hrow, hfl'.trans hfl⟩

/-- Setting one register leaves another. -/
theorem Strand.poke_kept (st : Strand) {q r : Nat} (h : r ≠ q) (lanes : Lanes) (w : Nat → Word) :
    (st.poke q lanes w).row r = st.row r ∧
      ((st.poke q lanes w).flights.filter fun x => x.reg == r) = st.flights.filter fun x => x.reg == r := by
  refine ⟨by simp only [Strand.row, Strand.poke, tget?_tset_ne _ _ h], ?_⟩
  unfold Strand.poke
  dsimp only
  induction st.flights with
  | nil => rfl
  | cons x xs ih =>
    rw [List.map_cons, List.filter_cons, List.filter_cons, ih]
    by_cases hx : x.reg = q
    · simp [hx, Ne.symm h]
    · simp [hx]

/-- The end of a run sets q0 to q7 (R60). -/
def Strand.clearQs (st : Strand) (lanes : Lanes) : Strand := (List.range 8).foldl (fun a q => a.poke (240 + q) lanes fun _ => 0) st

theorem Strand.clearQs_kept (st : Strand) {r : Nat} (h : r < 240 ∨ 247 < r) (lanes : Lanes) :
    (st.clearQs lanes).row r = st.row r ∧
      ((st.clearQs lanes).flights.filter fun x => x.reg == r) = st.flights.filter fun x => x.reg == r := by
  unfold Strand.clearQs
  refine List.foldlRecOn (motive := fun a : Strand => a.row r = st.row r ∧
    (a.flights.filter fun x => x.reg == r) = st.flights.filter fun x => x.reg == r) _ _ ⟨rfl, rfl⟩ fun a ih q hq => ?_
  have := a.poke_kept (q := 240 + q) (r := r) (by have := List.mem_range.mp hq; omega) lanes fun _ => 0
  exact ⟨this.1.trans ih.1, this.2.trans ih.2⟩

theorem Strand.clearQs_paths (st : Strand) (lanes : Lanes) : (st.clearQs lanes).paths = st.paths :=
  List.foldlRecOn (motive := fun a : Strand => a.paths = st.paths) _ _ rfl fun _ ih _ _ => ih

theorem State.endRun_eq {s : State} {k : Nat} {f : Fibre} (h : s.fib? k = some f) (pc : DWord) :
    s.endRun k pc = (s.modStrand (fibStrand k) fun st => st.clearQs f.laneSet).modFib k fun f =>
      { f with pc := pc, runPos := 0, after := none, run := none, walks := [], noPromise := false } := by
  unfold State.endRun; rw [h]; rfl

/-- The end of a run leaves every register but q0 to q7. -/
theorem State.regKept_endRun (s : State) (k strand : Nat) (pc : DWord) {r : Nat} (hr : r < 240 ∨ 247 < r) :
    RegKept strand r s (s.endRun k pc) := by
  cases hf : s.fib? k with
  | none => unfold State.endRun; rw [hf]; exact regKept_of_bare rfl
  | some f =>
    rw [State.endRun_eq hf]
    refine RegKept.trans ?_ (regKept_of_bare (State.bare_modFib ..))
    intro st hst
    by_cases hk : strand = fibStrand k
    · subst hk
      exact ⟨_, (State.strand?_modStrand_self ..).trans (congrArg _ hst), st.clearQs_kept hr _⟩
    · exact ⟨st, (State.strand?_modStrand_ne _ _ hk).trans hst, rfl, rfl⟩

/-! ### Fibres -/

@[simp] theorem State.fib?_packet (s : State) (k type n : Nat) (payload : List Byte) : (s.packet k type payload).fib? n = s.fib? n :=
  State.fib?_of_strands (by simp) n

@[simp] theorem State.fib?_unslot (s : State) (k n : Nat) : (s.unslot k).fib? n = s.fib? n := State.fib?_of_strands (by simp) n

/-- A fibre that parks. -/
theorem State.fib?_park_self {s : State} {k : Nat} {f : Fibre} (h : s.fib? k = some f) (w : Wait) :
    ∃ b, (s.park k w).fib? k = some { f with state := .parked, wait := w, beats := [], wsHeld := false, saved := b } := by
  unfold State.park
  dsimp only
  split
  · exact ⟨_, by rw [State.fib?_modFib_self, State.fib?_unslot, h]; rfl⟩
  · exact ⟨_, by rw [State.fib?_packet, State.fib?_modFib_self, State.fib?_unslot, h]; rfl⟩

/-- A fibre that becomes ready. -/
theorem State.fib?_ready_self {s : State} {k : Nat} {f : Fibre} (h : s.fib? k = some f) :
    (s.ready k).fib? k = some { f with state := .ready, wait := .none, pubs := [], stamp := s.cycle, beats := [], wsHeld := false } := by
  have hcycle : (s.unslot k).cycle = s.cycle := by unfold State.unslot; split <;> rfl
  unfold State.ready
  dsimp only
  split
  · rw [State.fib?_packet, State.fib?_modFib_self, State.fib?_unslot, h]; rfl
  · rw [State.fib?_modFib_self, State.fib?_unslot, h]; rfl

/-- Another fibre when one parks or becomes ready. -/
theorem State.fib?_park_ne (s : State) {k n : Nat} (w : Wait) (h : n ≠ k) : (s.park k w).fib? n = s.fib? n := by
  unfold State.park; dsimp only; split <;> simp [State.fib?_modFib_ne _ _ h]

theorem State.fib?_ready_ne (s : State) {k n : Nat} (h : n ≠ k) : (s.ready k).fib? n = s.fib? n := by
  unfold State.ready; dsimp only; split <;> simp [State.fib?_modFib_ne _ _ h]

/-- The wait for the publish list leaves a fibre READY or PARKED, and the same else (R62). -/
theorem State.fib?_toReady_self {s : State} {k : Nat} {f : Fibre} (h : s.fib? k = some f) :
    ∃ g, (s.toReady k).fib? k = some g ∧ (g.state = .ready ∨ g.state = .parked) ∧ g.wait = .none ∧ g.pc = f.pc ∧ g.runPos = f.runPos ∧
      g.laneSet = f.laneSet ∧ g.tokens = f.tokens ∧ g.after = f.after := by
  obtain ⟨st, hst, -⟩ := Option.bind_eq_some_iff.mp h
  unfold State.toReady
  rw [h, hst]
  dsimp only
  split
  · exact ⟨_, State.fib?_ready_self h, .inl rfl, rfl, rfl, rfl, rfl, rfl, rfl⟩
  · obtain ⟨b, hb⟩ := State.fib?_park_self h .none
    exact ⟨_, hb, .inr rfl, rfl, rfl, rfl, rfl, rfl, rfl⟩

theorem State.fib?_toReady_ne (s : State) {k n : Nat} (h : n ≠ k) : (s.toReady k).fib? n = s.fib? n := by
  unfold State.toReady
  split
  · split
    · exact s.fib?_ready_ne h
    · exact s.fib?_park_ne _ h
  · rfl

/-- A fibre whose run ends. -/
theorem State.fib?_endRun_self {s : State} {k : Nat} {f : Fibre} (h : s.fib? k = some f) (pc : DWord) :
    ∃ g, (s.endRun k pc).fib? k = some g ∧ g.pc = pc ∧ g.runPos = 0 ∧ g.after = none ∧ g.run = none ∧ g.laneSet = f.laneSet ∧
      g.tokens = f.tokens ∧ g.state = f.state ∧ g.wait = f.wait := by
  refine ⟨{ f with pc := pc, runPos := 0, after := none, run := none, walks := [], noPromise := false }, ?_, rfl, rfl, rfl, rfl, rfl, rfl, rfl, rfl⟩
  rw [State.endRun_eq h, State.fib?_modFib_self, State.fib?_modStrand_of_paths _ _ _ _ fun st => st.clearQs_paths _, h]
  rfl

theorem State.fib?_endRun_ne (s : State) {k n : Nat} (h : n ≠ k) (pc : DWord) : (s.endRun k pc).fib? n = s.fib? n := by
  cases hf : s.fib? k with
  | none => unfold State.endRun; rw [hf]
  | some f => rw [State.endRun_eq hf, State.fib?_modFib_ne _ _ h, State.fib?_modStrand_of_paths _ _ _ _ fun st => st.clearQs_paths _]

/-! ### The tests of a run that ends -/

@[simp] theorem State.modSampler_strands (s : State) (cl part : Nat) (start : DWord) (f : Sampler → Option Sampler) :
    (s.modSampler cl part start f).strands = s.strands := by unfold State.modSampler; split <;> rfl

@[simp] theorem State.modSampler_skeins (s : State) (cl part : Nat) (start : DWord) (f : Sampler → Option Sampler) :
    (s.modSampler cl part start f).skeins = s.skeins := by unfold State.modSampler; split <;> rfl

@[simp] theorem State.sample_strands (s : State) (cl part : Nat) (r : RunRec) (n : Nat) : (s.sample cl part r n).strands = s.strands := by
  unfold State.sample; dsimp only; split <;> [split <;> rfl; rfl]

@[simp] theorem State.sample_skeins (s : State) (cl part : Nat) (r : RunRec) (n : Nat) : (s.sample cl part r n).skeins = s.skeins := by
  unfold State.sample; dsimp only; split <;> [split <;> rfl; rfl]

/-- The end of a checked execution changes the substitution table at most. -/
theorem Ctx.checkedEnd_keeps (c : Ctx) (s : State) (r : RunRec) (u : SubstUse) :
    (c.checkedEnd s r u).1.strands = s.strands ∧ (c.checkedEnd s r u).1.skeins = s.skeins := by
  unfold Ctx.checkedEnd
  dsimp only
  split
  · split <;> exact ⟨rfl, rfl⟩
  · repeat' split
    all_goals exact ⟨rfl, rfl⟩

/-- The path table of a strand. -/
def State.pathsOf (s : State) (n : Nat) : Option (Table Fibre) := (s.strand? n).map (·.paths)

theorem State.fib?_of_pathsOf {s t : State} {n : Nat} (h : t.pathsOf (fibStrand n) = s.pathsOf (fibStrand n)) : t.fib? n = s.fib? n := by
  have key : ∀ x : State, x.fib? n = (x.pathsOf (fibStrand n)).bind fun p => tget? p (fibPath n) := fun x => by
    unfold State.fib? State.pathsOf
    cases x.strand? (fibStrand n) <;> rfl
  rw [key, key, h]

theorem State.pathsOf_of_strands {s t : State} (h : t.strands = s.strands) (n : Nat) : t.pathsOf n = s.pathsOf n := by
  simp only [State.pathsOf, State.strand?_of_strands h]

theorem State.pathsOf_modStrand (s : State) (k n : Nat) (f : Strand → Strand) (h : ∀ st, (f st).paths = st.paths) :
    (s.modStrand k f).pathsOf n = s.pathsOf n := by
  unfold State.pathsOf
  by_cases e : n = k
  · subst e
    rw [State.strand?_modStrand_self]
    cases s.strand? n <;> simp [h]
  · rw [State.strand?_modStrand_ne _ _ e]

@[simp] theorem Ctx.pathsOf_tagOutputs (c : Ctx) (s : State) (r : RunRec) (u : SubstUse) (n : Nat) :
    (c.tagOutputs s r u).pathsOf n = s.pathsOf n :=
  State.pathsOf_modStrand _ _ _ _ fun _ => List.foldlRecOn (motive := fun a : Strand => a.paths = _) _ _ rfl fun _ ih _ _ => ih

@[simp] theorem Ctx.pathsOf_provenance (c : Ctx) (s : State) (r : RunRec) (u : SubstUse) (n : Nat) :
    (c.provenance s r u).pathsOf n = s.pathsOf n := State.pathsOf_modStrand _ _ _ _ fun _ => rfl

theorem Ctx.substEnd_keeps (c : Ctx) (s : State) (h : (c.substEnd s).2 = none) (n : Nat) :
    (c.substEnd s).1.pathsOf n = s.pathsOf n ∧ (c.substEnd s).1.skeins = s.skeins := by
  unfold Ctx.substEnd at h ⊢
  dsimp only at h ⊢
  split
  · exact ⟨rfl, rfl⟩
  · next r hr =>
    rw [hr] at h
    dsimp only at h
    split
    · exact ⟨rfl, rfl⟩
    · next ht =>
      rw [if_neg ht] at h
      split
      · next u hu =>
        rw [hu] at h
        dsimp only at h
        split
        · exact ⟨by simp, rfl⟩
        · next hc =>
          rw [if_neg hc] at h
          obtain ⟨hst, hsk⟩ := c.checkedEnd_keeps s (c.observeEnd r) u
          have hn : (c.checkedEnd s (c.observeEnd r) u).2 = none := h
          rw [if_neg (by rw [hn]; simp)]
          exact ⟨State.pathsOf_of_strands hst n, hsk⟩
      · next hu =>
        rw [hu] at h
        dsimp only at h
        split
        · next hb => rw [hb] at h; cases h
        · repeat' split
          all_goals exact ⟨State.pathsOf_of_strands (by simp [State.samplerDrop]) n, by simp [State.samplerDrop]⟩

section
variable {i : Instr} {s u : State} {c : Ctx}

theorem Ends.pathsOf (h : Ends i s c u) (n : Nat) : u.pathsOf n = s.pathsOf n := by
  have hk := c.substEnd_keeps s (by rw [h.2]) n
  rw [h.2] at hk
  exact hk.1

theorem Ends.fib (h : Ends i s c u) : u.fib? c.k = some c.f := (State.fib?_of_pathsOf (h.pathsOf _)).trans h.1.fib

theorem Ends.skeins (h : Ends i s c u) : u.skeins = s.skeins := by
  have hk := c.substEnd_keeps s (by rw [h.2]) 0
  rw [h.2] at hk
  exact hk.2

theorem Ends.contents (h : Ends i s c u) : u.contents = s.contents := by
  have hc := c.contents_substEnd s
  rw [h.2] at hc
  exact hc

end

end Sys2Proof.Machine
end

section
/-! SUPPORT. Transfers to a code reference, and the statement about jumps, calls and returns, settled. -/

namespace Sys2Proof.Machine

@[simp] theorem State.icKeep_strands (s : State) (q line : Nat) (x : IcItem) : (s.icKeep q line x).strands = s.strands := by
  unfold State.icKeep; dsimp only; repeat' split
  all_goals rfl

theorem State.holdEntry_strands (s : State) (q part h : Nat) : (s.holdEntry q part h).strands = s.strands := State.icKeep_strands ..

/-- A fibre set to a code reference. -/
theorem State.fib?_setRef_self {s : State} {k : Nat} {f : Fibre} (h : s.fib? k = some f) (ref : DWord) :
    ∃ g, (s.setRef k ref).fib? k = some g ∧ g.pc = ref ∧ g.runPos = f.runPos ∧ g.laneSet = f.laneSet := by
  unfold State.setRef
  dsimp only
  rw [State.fib?_modFib_self, State.fib?_of_strands (State.holdEntry_strands ..), h]
  exact ⟨_, rfl, rfl, rfl, rfl⟩

@[simp] theorem State.bare_setRef (s : State) (k n : Nat) (ref : DWord) : (s.setRef k ref).bare n = s.bare n := by
  rw [State.setRef, State.bare_modFib, State.bare_of_strands (State.holdEntry_strands ..)]

/-- Writes to a span of registers leave every fibre. -/
@[simp] theorem Ctx.fib?_putSpan (c : Ctx) (s : State) (reg m : Nat) (val : Nat → Nat → Word) (lat : Nat) (tag : Nat → Option Tag) (n : Nat) :
    (c.putSpan s reg m val lat tag).fib? n = s.fib? n := by
  unfold Ctx.putSpan
  refine List.foldlRecOn (motive := fun a : State => a.fib? n = s.fib? n) _ _ rfl fun a ih r _ => ?_
  unfold Ctx.putAt
  rw [State.fib?_modStrand_of_paths, ih]
  intro st
  split <;> rfl

/-- A fibre whose run is closed at its terminator. -/
theorem Ctx.fib?_closeRun_self {c : Ctx} {s : State} {f : Fibre} (h : s.fib? c.k = some f) :
    ∃ g, (c.closeRun s).fib? c.k = some g ∧ g.laneSet = f.laneSet ∧ g.tokens = f.tokens := by
  unfold Ctx.closeRun
  rw [State.fib?_modFib_self, h]
  exact ⟨_, rfl, rfl, rfl⟩

/-- A transfer to a checked code reference. -/
theorem Ctx.gotoRef_spec {c : Ctx} {v : State} {f : Fibre} (h : v.fib? c.k = some f) (r : DWord) :
    ∃ t g, c.gotoRef v r = .fin t ∧ t.fib? c.k = some g ∧ g.pc = r ∧ g.runPos = 0 ∧ g.laneSet = f.laneSet ∧
      t.contents = v.contents ∧ ∀ n, n < 240 ∨ 247 < n → RegKept c.strand n v t := by
  obtain ⟨f₁, h₁, hset₁, -⟩ := c.fib?_closeRun_self h
  obtain ⟨f₂, h₂, -, hpos₂, -, -, hset₂, -⟩ := State.fib?_endRun_self h₁ r
  obtain ⟨f₃, h₃, hpc₃, hpos₃, hset₃⟩ := State.fib?_setRef_self h₂ r
  obtain ⟨g, hg, -, -, hpc, hpos, hset, -⟩ := State.fib?_toReady_self ((State.fib?_packet _ c.k 5 c.k
    (BitVec.ofNat 8 1 :: bytesOfNat 8 r.toNat ++ lanesBytes c.mask)).trans h₃)
  refine ⟨_, g, rfl, hg, hpc.trans hpc₃, hpos.trans (hpos₃.trans hpos₂), hset.trans (hset₃.trans (hset₂.trans hset₁)), by simp,
    fun n hn => ?_⟩
  exact ((regKept_of_bare (c.bare_closeRun v c.strand)).trans (State.regKept_endRun _ c.k _ r hn)).trans (regKept_of_bare (by simp))

/-- The trap of a reference is that of its check. -/
theorem Ctx.refTrap_eq (c : Ctx) {s u : State} (h : u.skeins = s.skeins) (r : DWord) :
    c.refTrap u r = (u.refCheck c.cluster (s.strandPart c.strand) r).map fun e => { cause := e, addr := r } := by
  have hpart : u.strandPart c.strand = s.strandPart c.strand := by
    simp only [State.strandPart, State.strandCtx, State.skein?, h]
  rw [Ctx.refTrap, hpart]

section
variable {i : Instr} {s u : State} {c : Ctx} {f : T96}

/-- A jump through a pair, from the check of its reference. -/
theorem jumpPair_trap {e : Cause} (h : Ends i s c u) (he : c.refTrap u (c.rdPairLow f.a.toNat) = some { cause := e, addr := c.rdPairLow f.a.toNat }) :
    jumpPair i f s = .next (c.afterTrap s i { cause := e, addr := c.rdPairLow f.a.toNat }) :=
  endRunWith_trap h (by simp only [he]) rfl

theorem jumpPair_goes {t : State} (h : Ends i s c u) (he : c.refTrap u (c.rdPairLow f.a.toNat) = none)
    (ht : c.gotoRef u (c.rdPairLow f.a.toNat) = .fin t) : jumpPair i f s = .next t :=
  endRunWith_fin h (by simp only [he, ht])

end

/-- Settles O29: each transfer is one effect at the end of a run, through the check of its reference. -/
theorem jumpsCallsAndReturns : Obligations.JumpsCallsAndReturns := by
  unfold Obligations.JumpsCallsAndReturns
  intro s u c f
  refine ⟨fun i r s' h hi => ?_, fun t h ht ho => ?_⟩
  · have htrap := c.refTrap_eq h.skeins r
    rcases hi with ⟨hi, rfl, rfl⟩ | ⟨rfl, ho, rfl, rfl⟩
    · have hexec : exec i s = jumpPair i f s := by rcases hi with rfl | rfl <;> rfl
      rw [hexec]
      refine ⟨fun e he => jumpPair_trap h (by rw [htrap, he]; rfl), fun he => ?_⟩
      obtain ⟨t, g, ht, hg, hpc, hpos, hset, hmem, hregs⟩ := Ctx.gotoRef_spec h.fib (c.rdPairLow f.a.toNat)
      exact ⟨t, g, jumpPair_goes h (by rw [htrap, he]; rfl) ht, hg, hpc, hpos, hset,
        memSame_of_contents (hmem.trans h.contents), hregs⟩
    · refine ⟨fun e he => endRunWith_trap h (by simp only [htrap, he, Option.map_some]) rfl, fun he => ?_⟩
      obtain ⟨t, g, ht, hg, hpc, hpos, hset, hmem, hregs⟩ := Ctx.gotoRef_spec
        (v := c.putPair u f.a (fun _ => c.link) 2) ((c.fib?_putSpan ..).trans h.fib) (c.rdPairLow f.b.toNat)
      refine ⟨t, g, endRunWith_fin h ?_, hg, hpc, hpos, hset, memSame_of_contents ?_, hregs⟩
      · simp only [htrap, he, ho, Option.map_none, Bool.false_eq_true, if_false, ht]
      · rw [hmem, Ctx.contents_putPair, h.contents]
  · exact endRunWith_fin h (by simp only [Ctx.target_eq_some_iff.mpr ht, ho]; rfl)

end Sys2Proof.Machine
end

section
/-! SUPPORT. Merging and ending fibres (R81, R82), and the statement about them, settled. -/

namespace Sys2Proof.Machine

/-! ### Tables and sets -/

theorem tget?_terase_ne {α : Type} (t : Table α) {n m : Nat} (h : m ≠ n) : tget? (terase t n) m = tget? t m := by
  induction t with
  | nil => rfl
  | cons e t ih =>
    obtain ⟨k, v⟩ := e
    by_cases hk : k = n
    · subst hk
      have hne : ¬ k = m := fun e => h e.symm
      simpa [terase, tget?, hne] using ih
    · have hcons : terase ((k, v) :: t) n = (k, v) :: terase t n := by simp [terase, hk]
      rw [hcons, tget?, tget?, ih]

/-- Erasing several keys. -/
theorem tget?_foldl_terase {α β : Type} (ms : List (Nat × β)) (t : Table α) (n : Nat) :
    tget? (ms.foldl (fun a m => terase a m.1) t) n = if n ∈ ms.map (·.1) then none else tget? t n := by
  induction ms generalizing t with
  | nil => rfl
  | cons m ms ih =>
    rw [List.foldl_cons, ih]
    by_cases hm : n = m.1
    · simp [hm]
    · rw [tget?_terase_ne _ hm]
      simp only [List.map_cons, List.mem_cons, hm, false_or]

/-- With rising keys an entry is what its key finds. -/
theorem tget?_of_mem {α : Type} {t : Table α} (h : (t.map (·.1)).Pairwise (· < ·)) {k : Nat} {v : α} (hm : (k, v) ∈ t) :
    tget? t k = some v := by
  induction t with
  | nil => cases hm
  | cons e t ih =>
    obtain ⟨n, w⟩ := e
    rw [List.map_cons, List.pairwise_cons] at h
    obtain ⟨hlt, ht⟩ := h
    rcases List.mem_cons.mp hm with heq | hm
    · cases heq; simp [tget?]
    · have hne : n ≠ k := (hlt k (List.mem_map.mpr ⟨_, hm, rfl⟩)).ne
      rw [tget?, if_neg hne, ih ht hm]

/-- The bits of a union. -/
theorem getLsbD_foldl_or {α : Type} {w : Nat} (φ : α → BitVec w) (ms : List α) (b : BitVec w) (l : Nat) :
    (ms.foldl (fun a m => a ||| φ m) b).getLsbD l = true ↔ b.getLsbD l = true ∨ ∃ m ∈ ms, (φ m).getLsbD l = true := by
  induction ms generalizing b with
  | nil => simp
  | cons m ms ih => rw [List.foldl_cons, ih]; simp [or_assoc]

theorem getLsbD_union {α : Type} {w : Nat} (φ : α → BitVec w) (ms : List α) (l : Nat) :
    (ms.foldl (fun a m => a ||| φ m) 0).getLsbD l = true ↔ ∃ m ∈ ms, (φ m).getLsbD l = true := by
  rw [getLsbD_foldl_or]; simp

/-- A set of tokens without token `k`. -/
theorem getLsbD_without (t : BitVec 16) (k j : Nat) :
    (t &&& ~~~BitVec.ofNat 16 (2 ^ k)).getLsbD j = true ↔ t.getLsbD j = true ∧ j ≠ k := by
  rw [BitVec.getLsbD_and, BitVec.getLsbD_not, BitVec.getLsbD_ofNat, Nat.testBit_two_pow, Bool.and_eq_true]
  refine and_congr_right fun h => ?_
  rw [decide_eq_true (BitVec.lt_of_getLsbD h), Bool.true_and, Bool.true_and, Bool.not_eq_true', decide_eq_false_iff_not, eq_comm]

@[simp] theorem fibStrand_mkFib {strand p : Nat} (h : p < 128) : fibStrand (mkFib strand p) = strand := by
  unfold fibStrand mkFib; omega

@[simp] theorem fibPath_mkFib {strand p : Nat} (h : p < 128) : fibPath (mkFib strand p) = p := by
  unfold fibPath mkFib; omega

/-! ### Path tables -/

theorem State.fib?_eq_pathsOf (s : State) (n : Nat) : s.fib? n = (s.pathsOf (fibStrand n)).bind fun p => tget? p (fibPath n) := by
  unfold State.fib? State.pathsOf
  cases s.strand? (fibStrand n) <;> rfl

@[simp] theorem State.pathsOf_packet (s : State) (k type n : Nat) (payload : List Byte) : (s.packet k type payload).pathsOf n = s.pathsOf n :=
  State.pathsOf_of_strands (by simp) n

@[simp] theorem State.pathsOf_unslot (s : State) (k n : Nat) : (s.unslot k).pathsOf n = s.pathsOf n := State.pathsOf_of_strands (by simp) n

@[simp] theorem State.pathsOf_mapOwners (s : State) (k n : Nat) (f : List Nat → List Nat) : (s.mapOwners k f).pathsOf n = s.pathsOf n := by
  unfold State.mapOwners; dsimp only; split <;> rfl

@[simp] theorem State.pathsOf_forsake (s : State) (k n : Nat) : (s.forsake k).pathsOf n = s.pathsOf n :=
  State.pathsOf_modStrand _ _ _ _ fun _ => rfl

/-- A strand whose path entry is freed. -/
theorem State.pathsOf_freed (s : State) (strand p : Nat) (g : Strand → Strand) (hg : ∀ st, (g st).paths = terase st.paths p) :
    (s.modStrand strand g).pathsOf strand = (s.pathsOf strand).map (terase · p) := by
  unfold State.pathsOf
  rw [State.strand?_modStrand_self]
  cases s.strand? strand <;> simp [hg]

/-! ### Merging -/

/-- The wait of a terminator that is over (R62). -/
theorem State.fib?_waitDone_self {s : State} {k : Nat} {f : Fibre} {pc : DWord} (h : s.fib? k = some f) (ha : f.after = some pc) :
    ∃ g, (s.waitDone k).fib? k = some g ∧ g.pc = pc ∧ g.runPos = 0 ∧ g.laneSet = f.laneSet ∧ g.tokens = f.tokens := by
  obtain ⟨f₁, h₁, hpc₁, hpos₁, -, -, hset₁, htok₁, -⟩ := State.fib?_endRun_self h pc
  obtain ⟨g, hg, -, -, hpc, hpos, hset, htok, -⟩ := State.fib?_toReady_self h₁
  refine ⟨g, ?_, hpc.trans hpc₁, hpos.trans hpos₁, hset.trans hset₁, htok.trans htok₁⟩
  unfold State.waitDone
  rw [h]
  dsimp only
  rw [ha]
  exact hg

theorem State.fib?_waitDone_ne (s : State) {k n : Nat} (h : n ≠ k) : (s.waitDone k).fib? n = s.fib? n := by
  unfold State.waitDone
  split
  · split
    · rw [State.fib?_toReady_ne _ h, State.fib?_endRun_ne _ h]
    · exact s.fib?_ready_ne h
  · rfl

/-- A member of a merge group gives its stores to the first and leaves its path entry (R81, R219). -/
def State.absorb (strand key : Nat) (a : State) (m : Nat × Fibre) : State :=
  let a := (((a.packet key 4 [BitVec.ofNat 8 m.1]).shareStores (mkFib strand m.1) key).disownStores (mkFib strand m.1)).forsake
    (mkFib strand m.1)
  a.modStrand strand fun st =>
    { st.discard m.2.laneSet (fun r => !m.2.pubs.contains r) a.cycle with paths := terase st.paths m.1 }

theorem State.pathsOf_absorbAll (strand key : Nat) (ms : List (Nat × Fibre)) (s : State) :
    (ms.foldl (State.absorb strand key) s).pathsOf strand = (s.pathsOf strand).map fun t => ms.foldl (fun a m => terase a m.1) t := by
  induction ms generalizing s with
  | nil => simp
  | cons m ms ih =>
    rw [List.foldl_cons, ih, State.absorb, State.pathsOf_freed _ _ m.1 _ fun _ => rfl]
    simp [State.shareStores, State.disownStores, Function.comp_def]

/-- A merge group of which the first alone may hold a task merges in it. -/
theorem State.mergeGroup_spec {s : State} {strand k p0 : Nat} {f0 : Fibre} {rest : List (Nat × Fibre)} {pc : DWord} (hp : p0 < 128)
    (h : s.fib? (mkFib strand p0) = some f0) (ha : f0.after = some pc) (hrest : ∀ m ∈ rest, m.1 < 128 ∧ m.1 ≠ p0 ∧ m.2.task = none) :
    ∃ g, (s.mergeGroup strand k ((p0, f0) :: rest)).fib? (mkFib strand p0) = some g ∧ g.pc = pc ∧ g.runPos = 0 ∧
      g.laneSet = ((p0, f0) :: rest).foldl (fun a m => a ||| m.2.laneSet) 0 ∧
      g.tokens = ((p0, f0) :: rest).foldl (fun a m => a ||| m.2.tokens) 0 &&& ~~~BitVec.ofNat 16 (2 ^ k) ∧
      ∀ m ∈ rest, (s.mergeGroup strand k ((p0, f0) :: rest)).fib? (mkFib strand m.1) = none := by
  have hone : rest.filter (fun m => m.2.task.isSome) = [] :=
    List.filter_eq_nil_iff.mpr fun m hm => by simp [(hrest m hm).2.2]
  have hpaths := State.pathsOf_absorbAll strand (mkFib strand p0) rest s
  have hstay : (rest.foldl (State.absorb strand (mkFib strand p0)) s).fib? (mkFib strand p0) = some f0 := by
    rw [State.fib?_eq_pathsOf, fibStrand_mkFib hp, fibPath_mkFib hp] at h ⊢
    rw [hpaths]
    cases hs : s.pathsOf strand with
    | none => rw [hs] at h; cases h
    | some t =>
      rw [hs] at h
      have hnot : p0 ∉ rest.map (·.1) := fun hm => by
        obtain ⟨m, hm, he⟩ := List.mem_map.mp hm
        exact (hrest m hm).2.1 he
      rw [Option.map_some, Option.bind_some, tget?_foldl_terase, if_neg hnot]
      exact h
  have hgone : ∀ m ∈ rest, (rest.foldl (State.absorb strand (mkFib strand p0)) s).fib? (mkFib strand m.1) = none := fun m hm => by
    have hlt := (hrest m hm).1
    rw [State.fib?_eq_pathsOf, fibStrand_mkFib hlt, fibPath_mkFib hlt, hpaths]
    cases s.pathsOf strand with
    | none => rfl
    | some t => rw [Option.map_some, Option.bind_some, tget?_foldl_terase, if_pos (List.mem_map.mpr ⟨m, hm, rfl⟩)]
  have hne : ∀ m ∈ rest, mkFib strand m.1 ≠ mkFib strand p0 := fun m hm he => (hrest m hm).2.1 (by unfold mkFib at he; omega)
  have hdone : ∀ u : Fibre → Fibre, (u f0).after = some pc →
      ∃ g, (((rest.foldl (State.absorb strand (mkFib strand p0)) s).modFib (mkFib strand p0) u).waitDone (mkFib strand p0)).fib?
        (mkFib strand p0) = some g ∧ g.pc = pc ∧ g.runPos = 0 ∧ g.laneSet = (u f0).laneSet ∧ g.tokens = (u f0).tokens ∧
        ∀ m ∈ rest, (((rest.foldl (State.absorb strand (mkFib strand p0)) s).modFib (mkFib strand p0) u).waitDone
          (mkFib strand p0)).fib? (mkFib strand m.1) = none := fun u hu => by
    obtain ⟨g, hg, hpc, hpos, hset, htok⟩ := State.fib?_waitDone_self (k := mkFib strand p0) (f := u f0)
      ((State.fib?_modFib_self _ _ u).trans (congrArg _ hstay)) hu
    refine ⟨g, hg, hpc, hpos, hset, htok, fun m hm => ?_⟩
    rw [State.fib?_waitDone_ne _ (hne m hm), State.fib?_modFib_ne _ _ (hne m hm), hgone m hm]
  unfold State.mergeGroup
  dsimp only
  rw [List.filter_cons, hone]
  split
  · next hsome =>
    split at hsome <;> cases hsome
  · refine hdone _ ?_
    exact ha

/-- The carriers of a token that all stand at one RCVG of it: the merge test joins them. -/
theorem State.tryMerge_joins {s : State} {strand k : Nat} {st : Strand} {f0 : Fibre} {ms : List (Nat × Fibre)} (hs : s.strand? strand = some st)
    (hms : (st.paths.filter fun p => p.2.tokens.getLsbD k) = ms) (hne : ms ≠ [])
    (hat : ∀ m ∈ ms, m.2.wait = .rcvg k ∧ m.2.pc = f0.pc) : s.tryMerge strand k = s.mergeGroup strand k ms := by
  have hall : (ms.all fun p => p.2.wait == .rcvg k) = true := List.all_eq_true.mpr fun m hm => by simp [(hat m hm).1]
  have hpcs : ((ms.map (·.2.pc)).eraseDups) = [f0.pc] := by
    cases ms with
    | nil => cases hne rfl
    | cons m rest =>
      have hrest : ((rest.map (·.2.pc)).filter fun x => !x == f0.pc) = [] :=
        List.filter_eq_nil_iff.mpr fun x hx => by
          obtain ⟨n, hn, rfl⟩ := List.mem_map.mp hx
          simp [(hat n (List.mem_cons_of_mem _ hn)).2]
      rw [List.map_cons, (hat m List.mem_cons_self).2, List.eraseDups_cons, hrest]
      rfl
  have hgroup : (ms.filter fun p => p.2.pc == f0.pc) = ms := List.filter_eq_self.mpr fun m hm => by simp [(hat m hm).2]
  unfold State.tryMerge
  rw [hs]
  dsimp only
  rw [hms, hall, hpcs, if_pos (by simpa using hne), List.foldl_cons, List.foldl_nil, hgroup]

/-- The carriers of a token in rising order: the lowest, and others above it. -/
theorem carriers_eq_cons {t : Table Fibre} {k p0 : Nat} {f0 : Fibre} (h : (t.map (·.1)).Pairwise (· < ·)) (hm : (p0, f0) ∈ t)
    (hc : f0.tokens.getLsbD k = true) (hlow : ∀ p ∈ t, p.2.tokens.getLsbD k = true → p0 ≤ p.1) :
    ∃ rest, (t.filter fun p => p.2.tokens.getLsbD k) = (p0, f0) :: rest ∧ ∀ m ∈ rest, p0 < m.1 := by
  induction t with
  | nil => cases hm
  | cons e t ih =>
    rw [List.map_cons, List.pairwise_cons] at h
    obtain ⟨hlt, ht⟩ := h
    rcases List.mem_cons.mp hm with rfl | hm
    · exact ⟨_, List.filter_cons_of_pos hc, fun m hmem => hlt _ (List.mem_map.mpr ⟨m, (List.mem_filter.mp hmem).1, rfl⟩)⟩
    · have hno : ¬ e.2.tokens.getLsbD k = true := fun hy => by
        have h1 := hlow e List.mem_cons_self hy
        have h2 := hlt p0 (List.mem_map.mpr ⟨_, hm, rfl⟩)
        omega
      rw [List.filter_cons, if_neg hno]
      exact ih ht hm fun p hp => hlow p (List.mem_cons_of_mem _ hp)

/-- The merge of the carriers of a token at one RCVG (R81). -/
theorem State.tryMerge_spec {s : State} {strand k p0 : Nat} {st : Strand} {f0 : Fibre} {pc : DWord} (hs : s.strand? strand = some st)
    (hsort : (st.paths.map (·.1)).Pairwise (· < ·)) (hlt : ∀ p ∈ st.paths, p.1 < 97) (hm : (p0, f0) ∈ st.paths)
    (hafter : f0.after = some pc) (hc : f0.tokens.getLsbD k = true)
    (hall : ∀ p ∈ st.paths, p.2.tokens.getLsbD k = true →
      p.2.wait = .rcvg k ∧ p.2.pc = f0.pc ∧ p0 ≤ p.1 ∧ (p.2.task = none ∨ p.1 = p0)) :
    ∃ g, (s.tryMerge strand k).fib? (mkFib strand p0) = some g ∧ g.pc = pc ∧ g.runPos = 0 ∧
      (∀ l, g.laneSet.getLsbD l = true ↔ ∃ p ∈ st.paths, p.2.tokens.getLsbD k = true ∧ p.2.laneSet.getLsbD l = true) ∧
      (∀ j, g.tokens.getLsbD j = true ↔ j ≠ k ∧ ∃ p ∈ st.paths, p.2.tokens.getLsbD k = true ∧ p.2.tokens.getLsbD j = true) ∧
      ∀ p ∈ st.paths, p.2.tokens.getLsbD k = true → p.1 ≠ p0 → (s.tryMerge strand k).fib? (mkFib strand p.1) = none := by
  obtain ⟨rest, hms, habove⟩ := carriers_eq_cons hsort hm hc fun p hp ht => (hall p hp ht).2.2.1
  have hmem : ∀ p, p ∈ (p0, f0) :: rest ↔ p ∈ st.paths ∧ p.2.tokens.getLsbD k = true := fun p => by rw [← hms, List.mem_filter]
  have hp0 : p0 < 128 := by have := hlt _ hm; omega
  have hfib : s.fib? (mkFib strand p0) = some f0 := by
    rw [State.fib?, fibStrand_mkFib hp0, fibPath_mkFib hp0, hs]
    exact tget?_of_mem hsort hm
  have hrest : ∀ m ∈ rest, m.1 < 128 ∧ m.1 ≠ p0 ∧ m.2.task = none := fun m hmr => by
    obtain ⟨hp, ht⟩ := (hmem m).mp (List.mem_cons_of_mem _ hmr)
    have h1 := hlt m hp
    have h2 := habove m hmr
    exact ⟨by omega, by omega, (hall m hp ht).2.2.2.resolve_right (by omega)⟩
  have hjoin := State.tryMerge_joins (f0 := f0) hs hms (List.cons_ne_nil _ _) fun m hm' => by
    obtain ⟨hp, ht⟩ := (hmem m).mp hm'
    exact ⟨(hall m hp ht).1, (hall m hp ht).2.1⟩
  obtain ⟨g, hg, hpc, hpos, hset, htok, hgone⟩ := State.mergeGroup_spec (k := k) hp0 hfib hafter hrest
  rw [hjoin]
  refine ⟨g, hg, hpc, hpos, fun l => ?_, fun j => ?_, fun p hp ht hne => hgone p ?_⟩
  · rw [hset, getLsbD_union fun m : Nat × Fibre => m.2.laneSet]
    simp only [hmem, and_assoc]
  · rw [htok, getLsbD_without, getLsbD_union fun m : Nat × Fibre => m.2.tokens, and_comm]
    simp only [hmem, and_assoc]
  · exact (List.mem_cons.mp ((hmem p).mpr ⟨hp, ht⟩)).resolve_left fun he => hne (congrArg Prod.fst he)

/-! ### RCVG -/

theorem Ctx.othersAt_iff (c : Ctx) (k : Nat) :
    c.othersAt k = true ↔ ¬ ∃ p ∈ c.st.paths, p.1 ≠ fibPath c.k ∧ p.2.tokens.getLsbD k = true ∧ p.2.wait ≠ .rcvg k := by
  simp only [Ctx.othersAt, List.all_eq_true, Bool.or_eq_true, beq_iff_eq, Bool.not_eq_true', not_exists, not_and, ne_eq, not_not]
  refine forall₂_congr fun p _ => ?_
  cases p.2.tokens.getLsbD k <;> simp [or_iff_not_imp_left]

/-- A fibre that parks at a terminator. -/
theorem Ctx.fib?_parksAt {c : Ctx} {s : State} {f : Fibre} (h : s.fib? c.k = some f) (w : Wait) :
    ∃ g, (c.parksAt s w).fib? c.k = some g ∧ g.state = .parked ∧ g.wait = w ∧ g.after = some c.nextPc := by
  obtain ⟨f₁, h₁, -⟩ := c.fib?_closeRun_self h
  obtain ⟨b, hb⟩ := State.fib?_park_self (s := (c.closeRun s).modFib c.k fun f => { f with after := some c.nextPc })
    ((State.fib?_modFib_self _ _ _).trans (congrArg _ h₁)) w
  exact ⟨_, hb, rfl, rfl, rfl⟩

/-- RCVG of a token that the fibre carries (R94). -/
theorem execRcvg_eq {s u : State} {c : Ctx} {f : T96} (h : Ends (.rcvg f) s c u) (ho : c.fallsOff = false)
    (hk : c.f.tokens.getLsbD f.flg.toNat = true) : execRcvg f s = .next (
      if c.othersAt f.flg.toNat then ((((c.closeRun u).modFib c.k fun g =>
        { g with after := some c.nextPc, wait := .rcvg f.flg.toNat }).unslot c.k).tryMerge c.strand f.flg.toNat).parkLeft c.k f.flg.toNat
      else c.parksAt u (.rcvg f.flg.toNat)) := by
  refine endRunWith_fin h ?_
  simp only [hk, ho, Bool.not_true, Bool.not_false, Bool.and_true, Bool.false_eq_true, if_false, Ctx.await_eq ho]
  split <;> rfl

theorem rcvgParksAndMerges : RcvgParksAndMerges := by
  refine ⟨fun s u c f h ho => ⟨fun hk => ?_, fun hk ha => ⟨?_, ?_⟩, fun hk ha => ?_⟩,
    fun s strand k p0 st f0 pc hs hsort hlt hm hafter hc hall => State.tryMerge_spec hs hsort hlt hm hafter hc hall⟩
  · exact endRunWith_fin h (by simp only [hk, Bool.not_false, if_true, Ctx.gotoNext_eq ho])
  · exact (execRcvg_eq h ho hk).trans (by rw [if_neg fun hat => (c.othersAt_iff _).mp hat ha])
  · exact Ctx.fib?_parksAt h.fib _
  · exact (execRcvg_eq h ho hk).trans (by rw [if_pos ((c.othersAt_iff _).mpr ha)])

/-! ### ENDK -/

/-- A strand with a fibre left does not end. -/
theorem State.tryEndStrand_of_paths {s : State} {k : Nat} {t : Table Fibre} (h : s.pathsOf k = some t) (ht : t ≠ []) :
    s.tryEndStrand k = s := by
  obtain ⟨st, hst, rfl⟩ := Option.map_eq_some_iff.mp h
  have hempty : st.paths.isEmpty = false := by simpa using ht
  have hab : s.mxAbandon k = s := by
    unfold State.mxAbandon
    rw [hst]
    simp [hempty]
  have hover : s.strandOver k = false := by
    unfold State.strandOver
    rw [hst]
    simp [hempty]
  unfold State.tryEndStrand
  simp [hab, hover]

theorem State.tryMerges_zero (s : State) (strand : Nat) : s.tryMerges strand 0 = s := by
  unfold State.tryMerges
  exact List.foldlRecOn (motive := fun a : State => a = s) _ _ rfl fun a ih j _ => by simp [ih]

/-- What the end of a fibre frees in its strand, before the merge tests (R82). -/
def State.freeFibre (s : State) (k : Nat) (f : Fibre) : State :=
  let s := (((s.unslot k).packet k 6 []).disownStores k).forsake k
  s.modStrand (fibStrand k) fun st => { st.discard f.laneSet (fun _ => true) s.cycle with paths := terase st.paths (fibPath k) }

theorem State.endFibre_freeFibre {s : State} {k : Nat} {f : Fibre} (h : s.fib? k = some f) :
    s.endFibre k = ((s.freeFibre k f).tryMerges (fibStrand k) f.tokens).tryEndStrand (fibStrand k) := by
  unfold State.endFibre; rw [h]; rfl

theorem State.pathsOf_freeFibre (s : State) (k : Nat) (f : Fibre) :
    (s.freeFibre k f).pathsOf (fibStrand k) = (s.pathsOf (fibStrand k)).map (terase · (fibPath k)) := by
  unfold State.freeFibre
  dsimp only
  rw [State.pathsOf_freed _ _ (fibPath k) _ fun _ => rfl, State.pathsOf_forsake, State.disownStores, State.pathsOf_mapOwners]
  simp

/-- A fibre that ends where no token is carried and another fibre stays frees its path entry, and that is all of the strand. -/
theorem State.endFibre_eq {s : State} {k : Nat} {f : Fibre} {t : Table Fibre} (h : s.fib? k = some f) (hp : s.pathsOf (fibStrand k) = some t)
    (ht : f.tokens = 0) (hother : ∃ p ∈ t, p.1 ≠ fibPath k) : s.endFibre k = s.freeFibre k f := by
  have hne : terase t (fibPath k) ≠ [] := by
    obtain ⟨p, hp, hpk⟩ := hother
    exact List.ne_nil_of_mem (List.mem_filter.mpr ⟨hp, by simpa using hpk⟩)
  rw [State.endFibre_freeFibre h, ht, State.tryMerges_zero]
  exact State.tryEndStrand_of_paths ((s.pathsOf_freeFibre k f).trans (by rw [hp]; rfl)) hne

theorem State.fib?_freeFibre (s : State) (k : Nat) (f : Fibre) : (s.freeFibre k f).fib? k = none := by
  rw [State.fib?_eq_pathsOf, State.pathsOf_freeFibre]
  cases s.pathsOf (fibStrand k) <;> simp

theorem State.contents_freeFibre (s : State) (k : Nat) (f : Fibre) : (s.freeFibre k f).contents = s.contents := by
  simp [State.freeFibre]

/-- What a table finds stands in it. -/
theorem mem_of_tget? {α : Type} {t : Table α} {k : Nat} {v : α} (h : tget? t k = some v) : (k, v) ∈ t := by
  induction t with
  | nil => cases h
  | cons e t ih =>
    obtain ⟨n, w⟩ := e
    rw [tget?_cons] at h
    split at h
    · next hn => cases h; cases hn; exact List.mem_cons_self
    · exact List.mem_cons_of_mem _ (ih h)

theorem endkEndsTheFibre : EndkEndsTheFibre := by
  refine fun s u c f h => ⟨fun t ht => endRunWith_trap h (by simp only [ht]) rfl, fun ht =>
    ⟨endRunWith_fin h (by simp only [ht]), fun hother hzero => ?_⟩⟩
  have hst := h.1.strand
  have hpaths : u.pathsOf (fibStrand c.k) = some c.st.paths := (h.pathsOf _).trans (congrArg (Option.map Strand.paths) hst)
  have htok : c.f.tokens = 0 := by
    have hf := h.1.fib
    rw [State.fib?, show s.strand? (fibStrand c.k) = some c.st from hst] at hf
    exact hzero _ (mem_of_tget? hf)
  rw [State.endFibre_eq h.fib hpaths htok hother]
  exact ⟨u.fib?_freeFibre c.k c.f, memSame_of_contents ((u.contents_freeFibre c.k c.f).trans h.contents)⟩

/-- Settles O30: the merge joins the carriers in the lowest path, and the end of a fibre frees its entry. -/
theorem fibresMergeAndEnd : Obligations.FibresMergeAndEnd := ⟨rcvgParksAndMerges, endkEndsTheFibre⟩

end Sys2Proof.Machine
end

section
/-! SUPPORT. Slots and deferred traps (R72, R160), and the statement about them. -/

namespace Sys2Proof.Machine

/-! ### Lists by index -/

theorem getElem?_lset {α : Type} (l : List α) (n i : Nat) (a : α) :
    (lset l n a)[i]? = if i = n then l[i]?.map (fun _ => a) else l[i]? := by
  induction l generalizing n i with
  | nil => simp [lset]
  | cons x l ih =>
    cases n with
    | zero => cases i <;> simp [lset]
    | succ n => cases i <;> simp [lset, ih]

/-- A spindle after a change of it. -/
theorem State.spindle_modSpindle_self (s : State) {c i : Nat} (h : i < (s.cluster c).spindles.length) (f : Spindle → Spindle) :
    (s.modSpindle c i f).spindle c i = f (s.spindle c i) := by
  unfold State.spindle State.modSpindle
  rw [State.cluster_modCluster_self, List.getD_eq_getElem?_getD, getElem?_lset, if_pos rfl, List.getElem?_eq_getElem h]
  rfl

/-! ### The fibre that comes first (R72) -/

theorem keyLt_iff {a b : Nat × Nat × Nat × Nat} : keyLt a b = true ↔
    a.1 < b.1 ∨ a.1 = b.1 ∧ (a.2.1 < b.2.1 ∨ a.2.1 = b.2.1 ∧ (a.2.2.1 < b.2.2.1 ∨ a.2.2.1 = b.2.2.1 ∧ a.2.2.2 < b.2.2.2)) := by
  simp [keyLt]

/-- Not to come before is transitive. -/
theorem keyLt_false_trans {a b c : Nat × Nat × Nat × Nat} (h : keyLt a b = false) (h' : keyLt b c = false) : keyLt a c = false := by
  rw [← Bool.not_eq_true, keyLt_iff] at *
  omega

theorem keyLt_asymm {a b : Nat × Nat × Nat × Nat} (h : keyLt a b = true) : keyLt b a = false := by
  rw [← Bool.not_eq_true, keyLt_iff] at *
  omega

/-- Of two the one whose key comes first. -/
def firstOf {α : Type} (φ : α → Nat × Nat × Nat × Nat) (a : Option α) (f : α) : Option α :=
  match a with
  | none => some f
  | some b => if keyLt (φ f) (φ b) then some f else a

/-- What is first of two comes from them, and neither comes before it. -/
theorem firstOf_spec {α : Type} (φ : α → Nat × Nat × Nat × Nat) (a : Option α) (f : α) :
    ∃ w, firstOf φ a f = some w ∧ (a = some w ∨ w = f) ∧ ∀ x, a = some x ∨ x = f → keyLt (φ x) (φ w) = false := by
  have hirr : ∀ x : α, keyLt (φ x) (φ x) = false := fun x => by rw [← Bool.not_eq_true, keyLt_iff]; omega
  cases a with
  | none => exact ⟨f, rfl, .inr rfl, by rintro x (h | rfl) <;> [cases h; exact hirr x]⟩
  | some b =>
    unfold firstOf
    dsimp only
    split
    · next h => exact ⟨f, rfl, .inr rfl, by rintro x (h' | rfl) <;> [(cases h'; exact keyLt_asymm h); exact hirr x]⟩
    · next h =>
      exact ⟨b, rfl, .inl rfl, by rintro x (h' | rfl) <;> [(cases h'; exact hirr b); exact Bool.eq_false_iff.mpr h]⟩

/-- The first of a list: nothing of the list comes before it. -/
theorem foldl_firstOf {α : Type} (φ : α → Nat × Nat × Nat × Nat) (l : List α) (a : Option α) (h : a ≠ none ∨ l ≠ []) :
    ∃ w, l.foldl (firstOf φ) a = some w ∧ (a = some w ∨ w ∈ l) ∧ ∀ x, a = some x ∨ x ∈ l → keyLt (φ x) (φ w) = false := by
  induction l generalizing a with
  | nil =>
    obtain ⟨b, rfl⟩ := Option.ne_none_iff_exists'.mp (h.resolve_right (by simp))
    have hirr : keyLt (φ b) (φ b) = false := by rw [← Bool.not_eq_true, keyLt_iff]; omega
    exact ⟨b, rfl, .inl rfl, by rintro x (h' | h') <;> [(cases h'; exact hirr); cases h']⟩
  | cons f l ih =>
    obtain ⟨b, hb, hfrom, hmin⟩ := firstOf_spec φ a f
    obtain ⟨w, hw, hwfrom, hwmin⟩ := ih (firstOf φ a f) (.inl (by simp [hb]))
    refine ⟨w, hw, ?_, fun x hx => ?_⟩
    · rcases hwfrom with he | hl
      · rw [hb] at he
        cases he
        exact hfrom.imp_right fun e => by rw [e]; exact List.mem_cons_self
      · exact .inr (List.mem_cons_of_mem _ hl)
    · have hold : a = some x ∨ x = f → keyLt (φ x) (φ w) = false := fun hx => keyLt_false_trans (hmin x hx) (hwmin b (.inl hb))
      rcases hx with hx | hx
      · exact hold (.inl hx)
      · rcases List.mem_cons.mp hx with hx | hx
        · exact hold (.inr hx)
        · exact hwmin x (.inr hx)

/-- A fibre that its strand holds stands in the list of all. -/
theorem State.mem_allFibs {s : State} {k : Nat} {f : Fibre} (h : s.fib? k = some f) : (k, f) ∈ s.allFibs := by
  obtain ⟨st, hst, hf⟩ := Option.bind_eq_some_iff.mp h
  have hk : mkFib (fibStrand k) (fibPath k) = k := by unfold mkFib fibStrand fibPath; omega
  exact List.mem_flatMap.mpr ⟨_, mem_of_tget? hst, List.mem_map.mpr ⟨_, mem_of_tget? hf, by rw [hk]⟩⟩

theorem State.nextHand_eq (s : State) (c i : Nat) : s.nextHand c i =
    ((s.allFibs.filter fun f => s.mayHand c i f.1 f.2).foldl (firstOf fun f => s.handKey f.1 f.2) none).map (·.1) := by
  unfold State.nextHand
  congr 2
  funext a f
  cases a <;> rfl

/-- A fibre that comes before every other that may take the slot takes it. -/
theorem State.nextHand_of_first {s : State} {c i k : Nat} {f : Fibre} (hk : s.fib? k = some f) (hm : s.mayHand c i k f = true)
    (hfirst : ∀ j g, (j, g) ∈ s.allFibs ∧ s.mayHand c i j g = true → j ≠ k → keyLt (s.handKey k f) (s.handKey j g) = true) :
    s.nextHand c i = some k := by
  have hmem : (k, f) ∈ s.allFibs.filter fun f => s.mayHand c i f.1 f.2 := List.mem_filter.mpr ⟨State.mem_allFibs hk, hm⟩
  obtain ⟨w, hw, hfrom, hmin⟩ := foldl_firstOf (fun f => s.handKey f.1 f.2) _ none (.inr (List.ne_nil_of_mem hmem))
  rw [State.nextHand_eq, hw, Option.map_some, Option.some.injEq]
  by_contra hne
  have hbefore := hfirst w.1 w.2 (List.mem_filter.mp (hfrom.resolve_left (by simp))) hne
  rw [hmin _ (.inr hmem)] at hbefore
  cases hbefore

theorem State.nextHand_none {s : State} {c i : Nat} (h : ∀ k f, ¬ ((k, f) ∈ s.allFibs ∧ s.mayHand c i k f = true)) :
    s.nextHand c i = none := by
  have hnil : (s.allFibs.filter fun f => s.mayHand c i f.1 f.2) = [] :=
    List.filter_eq_nil_iff.mpr fun x hx hm => h x.1 x.2 ⟨hx, hm⟩
  rw [State.nextHand_eq, hnil]
  rfl

theorem regsSame_of_bare {s t : State} (h : ∀ n, t.bare n = s.bare n) : RegsSame s t := by
  intro k st hst
  have hk := h k
  unfold State.bare at hk
  rw [hst] at hk
  obtain ⟨st', hst', heq⟩ := Option.map_eq_some_iff.mp hk
  have hregs : st'.regs = st.regs := congrArg (·.regs) heq
  have hfl : st'.flights = st.flights := congrArg (·.flights) heq
  exact ⟨st', hst', hregs, hfl⟩

/-- A free slot and the fibre it goes to. -/
theorem slotHandout_spec {s : State} {c i n k : Nat} {f : Fibre} (hfree : (s.spindle c i).slots[n]? = some none) (hk : s.fib? k = some f)
    (hnext : s.nextHand c i = some k) :
    ∃ t, exec (.slotHandout c i n) s = .next t ∧ MemSame s t ∧ RegsSame s t ∧
      t.fib? k = some { f with state := .running, last3 := false, beats := [] } ∧
      (i < (s.cluster c).spindles.length → (t.spindle c i).slots = lset (s.spindle c i).slots n (some k)) := by
  refine ⟨(s.modSpindle c i fun sp => { sp with slots := lset sp.slots n (some k) }).modFib k fun f =>
    { f with state := .running, last3 := false, beats := [] }, ?_, memSame_of_contents rfl, ?_, ?_, fun hi => ?_⟩
  · show execSlotHandout c i n s = _
    unfold execSlotHandout
    rw [if_pos hfree, hnext]
  · exact regsSame_of_bare fun m => State.bare_modFib ..
  · rw [State.fib?_modFib_self, State.fib?_of_strands (State.modSpindle_strands ..), hk]
    rfl
  · show ((s.modSpindle c i fun sp => { sp with slots := lset sp.slots n (some k) }).spindle c i).slots = _
    rw [s.spindle_modSpindle_self hi]

theorem slotHandout_stays {s : State} {c i n : Nat}
    (h : (s.spindle c i).slots[n]? ≠ some none ∨ ∀ k f, ¬ ((k, f) ∈ s.allFibs ∧ s.mayHand c i k f = true)) :
    exec (.slotHandout c i n) s = .next s := by
  show execSlotHandout c i n s = _
  unfold execSlotHandout
  split
  · next hfree => rw [State.nextHand_none (h.resolve_left (not_not.mpr hfree))]
  · rfl

/-! ### Deferred traps (R160) -/

/-- Only the fibre that is there matters to a change of it. -/
theorem State.modFib_congr {s : State} {k : Nat} {f : Fibre} (h : s.fib? k = some f) (g g' : Fibre → Fibre) (he : g f = g' f) :
    s.modFib k g = s.modFib k g' := by
  unfold State.modFib
  refine State.modStrand_congr _ _ _ _ fun st hst => ?_
  rw [State.fib?, hst] at h
  rw [tmod_congr st.paths (fibPath k) g g' fun a ha => ?_]
  rw [show tget? st.paths (fibPath k) = some f from h] at ha
  cases ha
  exact he

/-- Where the oldest deferred cause is delivered: a fibre in its slot at a boundary, with nothing of it about to issue. -/
theorem deferred_held_iff {s : State} {k : Nat} {f : Fibre} :
    (f.slot.isSome || f.wait.entering || !f.beats.isEmpty || f.state != .running || (s.stopCheck k f).isSome) = false ↔
      f.slot = none ∧ f.wait.entering = false ∧ f.beats = [] ∧ f.state = .running ∧ s.stopCheck k f = none := by
  simp [and_assoc]

/-- The delivery of a fibre's deferred causes, from the one found. -/
theorem deferredTrapDelivery_stays {s : State} {k : Nat} {f : Fibre} {st : Strand} (hf : s.fib? k = some f)
    (hst : s.strand? (fibStrand k) = some st)
    (h : (∀ e ∈ f.deferred, s.cycle < e.2.since) ∨
      ¬ (f.slot = none ∧ f.wait.entering = false ∧ f.beats = [] ∧ f.state = .running ∧ s.stopCheck k f = none)) :
    exec (.deferredTrapDelivery k) s = .next s := by
  show execDeferredTrapDelivery k s = _
  unfold execDeferredTrapDelivery
  rw [hf, hst]
  dsimp only
  split
  · rfl
  · next e he =>
    have hat := h.resolve_left fun hall => by
      have := List.find?_some he
      have hlt := hall e (List.mem_of_find?_eq_some he)
      simp at this
      omega
    rw [if_pos]
    rw [← Bool.not_eq_false]
    exact fun hc => hat (deferred_held_iff.mp hc)

theorem deferredTrapDelivery_delivers {s : State} {k n : Nat} {f : Fibre} {st : Strand} {pre post : List (Nat × Trap)} {tr : Trap}
    (hf : s.fib? k = some f) (hst : s.strand? (fibStrand k) = some st) (hd : f.deferred = pre ++ (n, tr) :: post)
    (hpre : ∀ e ∈ pre, s.cycle < e.2.since) (hdue : tr.since ≤ s.cycle)
    (hat : f.slot = none ∧ f.wait.entering = false ∧ f.beats = [] ∧ f.state = .running ∧ s.stopCheck k f = none) :
    exec (.deferredTrapDelivery k) s = .next
      ((s.modFib k fun g => { g with deferred := pre ++ post }).deliver k tr f.pc (f.runPos == 0)
        (st.mask f.laneSet (s.cycle, s.cycle, s.cycle))) := by
  have hnone : (pre.find? fun e => decide (e.2.since ≤ s.cycle)) = none :=
    List.find?_eq_none.mpr fun e he => by have := hpre e he; simp; omega
  have hfind : (f.deferred.find? fun e => decide (e.2.since ≤ s.cycle)) = some (n, tr) := by
    rw [hd, List.find?_append, hnone, List.find?_cons_of_pos (by simpa using hdue)]
    rfl
  have hnot : (n, tr) ∉ pre := fun hm => by have : s.cycle < tr.since := hpre _ hm; omega
  have herase : f.deferred.erase (n, tr) = pre ++ post := by
    rw [hd, List.erase_append_right _ hnot, List.erase_cons_head]
  show execDeferredTrapDelivery k s = _
  unfold execDeferredTrapDelivery
  rw [hf, hst]
  dsimp only
  rw [hfind]
  dsimp only
  rw [if_neg (by rw [deferred_held_iff.mpr hat]; simp)]
  rw [State.modFib_congr hf (fun f => { f with deferred := f.deferred.erase (n, tr) }) (fun g => { g with deferred := pre ++ post })
    (by rw [herase])]
  rfl

theorem slotsAndDeferredTraps : SlotsAndDeferredTraps :=
  ⟨fun _ _ _ _ => ⟨slotHandout_stays, fun _ _ hfree hk hm hfirst =>
      slotHandout_spec hfree hk (State.nextHand_of_first hk hm fun j g hj hne => keyLt_iff.mpr (hfirst j g hj hne))⟩,
    fun _ _ _ _ hf hst => ⟨deferredTrapDelivery_stays hf hst, fun _ _ _ _ => deferredTrapDelivery_delivers hf hst⟩⟩

end Sys2Proof.Machine
end

section
/-! SUPPORT. Walks, page requests, vectors and the arrival of code (R179 to R182, R456, R463), and the statement about them, settled. -/

namespace Sys2Proof.Machine

/-! ### What a read at the home slice leaves alone (R180) -/

/-- The walks and translations of a cluster. -/
def Cluster.walks (c : Cluster) : List Miss × List Xlat := (c.misses, c.tlb)

/-- From `s` to `t` neither walks nor translations changed, nor anything that a walk reads, nor a strand. -/
structure WalksSame (s t : State) : Prop where
  strands : t.strands = s.strands
  mem : t.mem = s.mem
  poison : t.poison = s.poison
  ctxs : t.ctxs = s.ctxs
  contents : t.contents = s.contents
  walks : ∀ c, (t.cluster c).walks = (s.cluster c).walks

theorem WalksSame.refl (s : State) : WalksSame s s := ⟨rfl, rfl, rfl, rfl, rfl, fun _ => rfl⟩

theorem WalksSame.trans {s t u : State} (h : WalksSame s t) (h' : WalksSame t u) : WalksSame s u where
  strands := h'.strands.trans h.strands
  mem := h'.mem.trans h.mem
  poison := h'.poison.trans h.poison
  ctxs := h'.ctxs.trans h.ctxs
  contents := h'.contents.trans h.contents
  walks c := (h'.walks c).trans (h.walks c)

theorem WalksSame.foldl {α : Type} (l : List α) (g : State → α → State) (h : ∀ a x, WalksSame a (g a x)) (s : State) :
    WalksSame s (l.foldl g s) :=
  List.foldlRecOn (motive := fun a => WalksSame s a) _ _ (.refl s) fun a ih x _ => ih.trans (h a x)

/-- A change of a cluster that leaves its walks and translations alone. -/
theorem State.walks_modCluster (s : State) (c n : Nat) (f : Cluster → Cluster) (h : ∀ x, (f x).walks = x.walks) :
    ((s.modCluster c f).cluster n).walks = (s.cluster n).walks := by
  by_cases e : n = c
  · subst e; rw [State.cluster_modCluster_self, h]
  · rw [State.cluster_modCluster_ne _ _ e]

theorem State.walksSame_modCluster (s : State) (c : Nat) (f : Cluster → Cluster) (h : ∀ x, (f x).walks = x.walks) :
    WalksSame s (s.modCluster c f) := ⟨rfl, rfl, rfl, rfl, rfl, fun n => s.walks_modCluster c n f h⟩

theorem State.walksSame_count (s : State) (cl code n : Nat) : WalksSame s (s.count cl code n) :=
  s.walksSame_modCluster _ _ fun _ => rfl

theorem State.walksSame_l2 (s : State) (x : Table L2Line) (n : Nat) : WalksSame s { s with l2 := x, freeCtr := n } :=
  ⟨rfl, rfl, rfl, rfl, rfl, fun _ => rfl⟩

theorem State.walksSame_l2Drop (s : State) (p : Nat → L2Line → Bool) : WalksSame s (s.l2Drop p) := by
  unfold State.l2Drop
  dsimp only
  split
  · exact .refl s
  · refine WalksSame.trans (WalksSame.foldl _ _ (fun a c => ?_) s) (State.walksSame_l2 _ _ _)
    split
    · exact .refl a
    · refine WalksSame.trans ?_ (State.walksSame_count ..)
      exact a.walksSame_modCluster _ _ fun _ => rfl

theorem State.walksSame_l2Room (s : State) (line : Nat) : WalksSame s (s.l2Room line) := by
  unfold State.l2Room
  dsimp only
  split
  · exact .refl s
  · split
    · exact .refl s
    · exact (s.walksSame_l2 s.l2 (s.freeCtr + 1)).trans (State.walksSame_l2Drop ..)

theorem State.walksSame_atHome (s : State) (cl p line : Nat) : WalksSame s (s.atHome cl p line) := by
  unfold State.atHome
  dsimp only
  generalize (if (tget? s.l2 line).isSome then 0x16 else 0x17) = code
  refine (s.walksSame_count cl code 1).trans ?_
  split
  · exact State.walksSame_count ..
  · split
    · exact .refl _
    · exact (State.walksSame_l2Room ..).trans (State.walksSame_l2 _ _ _)

theorem State.walksSame_goHome (s : State) (cl key : Nat) : WalksSame s (s.goHome cl key) := by
  unfold State.goHome
  split
  · exact s.walksSame_atHome ..
  · exact .refl s

/-- A walk depends on memory, its errors and the context. -/
theorem WalksSame.walk {s t : State} (h : WalksSame s t) (key va : Nat) : t.walk key va = s.walk key va := by
  simp only [State.walk, State.ctx, h.mem, h.poison, h.ctxs]

theorem WalksSame.of_packet (s : State) (k type : Nat) (payload : List Byte) : WalksSame s (s.packet k type payload) := by
  unfold State.packet
  split
  · exact s.walksSame_modCluster _ _ fun _ => rfl
  · exact .refl s

theorem WalksSame.of_unslot (s : State) (k : Nat) : WalksSame s (s.unslot k) := by
  unfold State.unslot
  split
  · exact .refl s
  · exact s.walksSame_modCluster _ _ fun _ => rfl

/-! ### Fibres that wait for a walk become ready -/

theorem State.walks_ready (s : State) (k n : Nat) : ((s.ready k).cluster n).walks = (s.cluster n).walks := by
  unfold State.ready
  dsimp only
  split
  · exact ((WalksSame.of_packet _ k 10 []).walks n).trans ((WalksSame.of_unslot s k).walks n)
  · exact (WalksSame.of_unslot s k).walks n

/-- Readying some of the fibres leaves memory, registers, walks and translations. -/
theorem State.readyWalks_keeps (s : State) (c : Nat) (ks : List Nat) :
    (s.readyWalks c ks).contents = s.contents ∧ (∀ n, (s.readyWalks c ks).bare n = s.bare n) ∧
      ∀ n, ((s.readyWalks c ks).cluster n).walks = (s.cluster n).walks := by
  unfold State.readyWalks
  refine List.foldlRecOn (motive := fun a : State => a.contents = s.contents ∧ (∀ n, a.bare n = s.bare n) ∧
    ∀ n, (a.cluster n).walks = (s.cluster n).walks) _ _ ⟨rfl, fun _ => rfl, fun _ => rfl⟩ fun a ih e _ => ?_
  obtain ⟨hmem, hbare, hwalks⟩ := ih
  split
  · exact ⟨(a.contents_ready _).trans hmem, fun n => (a.bare_ready _ n).trans (hbare n), fun n => (a.walks_ready _ n).trans (hwalks n)⟩
  · exact ⟨hmem, hbare, hwalks⟩

/-- A fibre that is readied, or not, among others. -/
theorem State.fib?_foldl_ready (l : List (Nat × Fibre)) (p : Nat × Fibre → Bool) {s : State} {k : Nat} {g : Fibre}
    (h : s.fib? k = some g) :
    ∃ g', (l.foldl (fun a f => if p f then a.ready f.1 else a) s).fib? k = some g' ∧ g'.pc = g.pc ∧ g'.walks = g.walks ∧
      ((g.state = .ready ∨ ∃ f ∈ l, f.1 = k ∧ p f = true) → g'.state = .ready) := by
  induction l generalizing s g with
  | nil => exact ⟨g, h, rfl, rfl, by simp⟩
  | cons e l ih =>
    rw [List.foldl_cons]
    by_cases hp : p e = true
    · rw [if_pos hp]
      by_cases he : e.1 = k
      · subst he
        obtain ⟨g', hg', hpc, hw, hst⟩ := ih (State.fib?_ready_self h)
        exact ⟨g', hg', hpc, hw, fun _ => hst (.inl rfl)⟩
      · obtain ⟨g', hg', hpc, hw, hst⟩ := ih ((s.fib?_ready_ne (Ne.symm he)).trans h)
        refine ⟨g', hg', hpc, hw, fun hor => hst (hor.imp_right ?_)⟩
        rintro ⟨f, hf, hfk, hpf⟩
        rcases List.mem_cons.mp hf with rfl | hf
        · exact absurd hfk he
        · exact ⟨f, hf, hfk, hpf⟩
    · rw [if_neg hp]
      obtain ⟨g', hg', hpc, hw, hst⟩ := ih h
      refine ⟨g', hg', hpc, hw, fun hor => hst (hor.imp_right ?_)⟩
      rintro ⟨f, hf, hfk, hpf⟩
      rcases List.mem_cons.mp hf with rfl | hf
      · exact absurd hpf hp
      · exact ⟨f, hf, hfk, hpf⟩

/-- A fibre that waits for a walk of its cluster that has ended issues again. -/
theorem State.fib?_readyWalks {s : State} {c k : Nat} {ks : List Nat} {g : Fibre} (h : s.fib? k = some g) (hk : k ∈ ks)
    (hc : fibCluster k = c) (hs : g.state = .parked) (hw : g.wait = .walk) :
    ∃ g', (s.readyWalks c ks).fib? k = some g' ∧ g'.state = .ready ∧ g'.pc = g.pc ∧ g'.walks = g.walks := by
  obtain ⟨g', hg', hpc, hwalks, hst⟩ := State.fib?_foldl_ready s.allFibs (fun f => fibCluster f.1 == c && f.2.wait == .walk &&
    f.2.state == .parked && (ks.contains f.1 || !((s.cluster c).misses.flatMap (·.fibs)).contains f.1)) h
  exact ⟨g', hg', hst (.inr ⟨(k, g), State.mem_allFibs h, rfl, by simp [hc, hw, hs, hk]⟩), hpc, hwalks⟩

/-! ### The failure of a walk is noted (R180) -/

/-- A fibre that waits for a walk notes that it failed. -/
def Fibre.noteWalk (page : Nat) (e : Cause) (f : Fibre) : Fibre := if f.wait == .walk then { f with walks := f.walks ++ [(page, e)] } else f

theorem Fibre.noteWalk_spec {f : Fibre} (h : f.wait = .walk) (page : Nat) (e : Cause) :
    (f.noteWalk page e).state = f.state ∧ (f.noteWalk page e).wait = .walk ∧ (f.noteWalk page e).pc = f.pc ∧
      (f.noteWalk page e).walks = f.walks ++ [(page, e)] := by
  unfold Fibre.noteWalk
  rw [if_pos (by simp [h])]
  exact ⟨rfl, h, rfl, rfl⟩

/-- A failed walk is noted for the fibres and the units that wait for it. -/
def State.noteWalk (s : State) (c : Nat) (m : Miss) (e : Cause) : State :=
  let s := m.units.foldl (fun a u => a.modCluster c fun x => x.noteUnit m.page e u) s
  m.fibs.foldl (fun a k => a.modFib k (Fibre.noteWalk m.page e)) s

theorem State.noteWalk_keeps (s : State) (c : Nat) (m : Miss) (e : Cause) :
    (s.noteWalk c m e).contents = s.contents ∧ (∀ n, (s.noteWalk c m e).bare n = s.bare n) ∧
      ∀ n, ((s.noteWalk c m e).cluster n).walks = (s.cluster n).walks := by
  have hunits := WalksSame.foldl m.units (fun a u => a.modCluster c fun x => x.noteUnit m.page e u)
    (fun a u => a.walksSame_modCluster _ _ fun x => by cases u <;> rfl) s
  unfold State.noteWalk
  dsimp only
  refine List.foldlRecOn (motive := fun a : State => a.contents = s.contents ∧ (∀ n, a.bare n = s.bare n) ∧
    ∀ n, (a.cluster n).walks = (s.cluster n).walks) _ _
    ⟨hunits.contents, fun n => State.bare_of_strands hunits.strands n, hunits.walks⟩ fun a ih k _ => ?_
  obtain ⟨hmem, hbare, hwalks⟩ := ih
  exact ⟨hmem, fun n => (a.bare_modFib ..).trans (hbare n), hwalks⟩

/-- A fibre that waits finds the failure noted. -/
theorem State.fib?_noteWalk {s : State} {c k : Nat} {m : Miss} {g : Fibre} (e : Cause) (h : s.fib? k = some g) (hw : g.wait = .walk) :
    ∃ g', (s.noteWalk c m e).fib? k = some g' ∧ g'.state = g.state ∧ g'.wait = .walk ∧ g'.pc = g.pc ∧
      (k ∈ m.fibs → (m.page, e) ∈ g'.walks) := by
  have hunits := WalksSame.foldl m.units (fun a u => a.modCluster c fun x => x.noteUnit m.page e u)
    (fun a u => a.walksSame_modCluster _ _ fun x => by cases u <;> rfl) s
  have hstart := (State.fib?_of_strands hunits.strands k).trans h
  unfold State.noteWalk
  dsimp only
  generalize (m.units.foldl (fun a u => a.modCluster c fun x => x.noteUnit m.page e u) s) = a at hstart
  have key : ∀ (ks : List Nat) (a : State) (g : Fibre), a.fib? k = some g → g.wait = .walk →
      ∃ g', (ks.foldl (fun a k => a.modFib k (Fibre.noteWalk m.page e)) a).fib? k = some g' ∧ g'.state = g.state ∧ g'.wait = .walk ∧
        g'.pc = g.pc ∧ (k ∈ ks ∨ (m.page, e) ∈ g.walks → (m.page, e) ∈ g'.walks) := by
    intro ks
    induction ks with
    | nil => exact fun a g h hw => ⟨g, h, rfl, hw, rfl, by simp⟩
    | cons j ks ih =>
      intro a g h hw
      rw [List.foldl_cons]
      by_cases hj : j = k
      · subst hj
        obtain ⟨hst₁, hw₁, hpc₁, hwalks₁⟩ := Fibre.noteWalk_spec hw m.page e
        obtain ⟨g', hg', hst, hw', hpc, hin⟩ := ih (a.modFib j _) (g.noteWalk m.page e) (by rw [State.fib?_modFib_self, h]; rfl) hw₁
        exact ⟨g', hg', hst.trans hst₁, hw', hpc.trans hpc₁, fun _ => hin (.inr (by simp [hwalks₁]))⟩
      · obtain ⟨g', hg', hst, hw', hpc, hin⟩ := ih (a.modFib j _) g ((State.fib?_modFib_ne _ _ (Ne.symm hj)).trans h) hw
        refine ⟨g', hg', hst, hw', hpc, fun hor => hin (hor.imp_left fun hm => ?_)⟩
        exact (List.mem_cons.mp hm).resolve_left (Ne.symm hj)
  obtain ⟨g', hg', hst, hw', hpc, hin⟩ := key m.fibs a g hstart hw
  exact ⟨g', hg', hst, hw', hpc, fun hm => hin (.inl hm)⟩

/-! ### WALK_COMPLETE -/

theorem State.misses_of_walks {s t : State} {c : Nat} (h : (t.cluster c).walks = (s.cluster c).walks) :
    (t.cluster c).misses = (s.cluster c).misses ∧ (t.cluster c).tlb = (s.cluster c).tlb := Prod.mk.inj h

theorem walkComplete_waits {s : State} {c i : Nat} {m : Miss} (hm : (s.cluster c).misses[i]? = some m) (hw : m.walker = false) :
    exec (.walkComplete c i) s = .next (s.grantWalk c i) := by
  show execWalkComplete c i s = _
  unfold execWalkComplete
  rw [hm]
  simp [hw]

/-- The walker that is free goes to the walk whose turn it is (R180). -/
theorem State.grantWalk_eq {s : State} {c i : Nat} {m : Miss} (hm : (s.cluster c).misses[i]? = some m) :
    s.grantWalk c i =
      if s.nextGrant (clusterDie c) = some (c, i) ∧ s.walkers (clusterDie c) < 64 then
        s.modCluster c fun x => { x with misses := lset x.misses i { m with walker := true } }
      else s := by
  unfold State.grantWalk
  dsimp only
  rw [hm]
  by_cases hg : s.nextGrant (clusterDie c) = some (c, i) <;> by_cases hn : s.walkers (clusterDie c) < 64 <;> simp [hg, hn]

/-- The state in which the outcome of a walk is taken: the walk is over, and its reads at the home slice are made. -/
def State.walkRead (s : State) (c i : Nat) (m : Miss) : State :=
  let s := (s.modCluster c fun x => { x with misses := x.misses.eraseIdx i }).count c 0x14 1
  (walkKeys s.mem s.poison m.part m.ctx (m.page * 4096 % 2 ^ 57) walkLevels (s.ctx (ctxKey m.part m.ctx)).root).foldl (fun a k => a.goHome c k) s

/-- What the outcome of a walk without prefetches leaves (R179, R180, R182). -/
def State.walkTaken (s : State) (c : Nat) (m : Miss) : State :=
  if m.stale then s
  else
    match s.walk (ctxKey m.part m.ctx) (m.page * 4096) with
    | .ok x => s.tlbFill c x
    | .invalid => s.noteWalk c m .ldXlate
    | .error => s.noteWalk c m .walkError

theorem walkComplete_ends {s : State} {c i : Nat} {m : Miss} (hm : (s.cluster c).misses[i]? = some m) (hw : m.walker = true)
    (hp : m.pfs = []) : exec (.walkComplete c i) s = .next (((s.walkRead c i m).walkTaken c m).readyWalks c m.fibs) := by
  show execWalkComplete c i s = _
  unfold execWalkComplete
  rw [hm]
  simp only [hw, hp, Bool.not_true, Bool.false_eq_true, if_false, List.foldl_nil]
  rfl

/-- The reads of a walk leave all but the list of walks. -/
theorem State.walkRead_keeps (s : State) (c i : Nat) (m : Miss) :
    (s.walkRead c i m).strands = s.strands ∧ (s.walkRead c i m).contents = s.contents ∧
      (∀ key va, (s.walkRead c i m).walk key va = s.walk key va) ∧
      ((s.walkRead c i m).cluster c).misses = (s.cluster c).misses.eraseIdx i ∧ ((s.walkRead c i m).cluster c).tlb = (s.cluster c).tlb := by
  have hsame : WalksSame (s.modCluster c fun x => { x with misses := x.misses.eraseIdx i }) (s.walkRead c i m) :=
    (State.walksSame_count ..).trans (WalksSame.foldl _ _ (fun a k => a.walksSame_goHome c k) _)
  obtain ⟨hmiss, htlb⟩ := State.misses_of_walks (hsame.walks c)
  rw [State.cluster_modCluster_self] at hmiss htlb
  exact ⟨hsame.strands, hsame.contents, fun key va => hsame.walk key va, hmiss, htlb⟩

theorem State.walkTaken_keeps (s : State) (c : Nat) (m : Miss) :
    (s.walkTaken c m).contents = s.contents ∧ (∀ n, (s.walkTaken c m).bare n = s.bare n) ∧
      ((s.walkTaken c m).cluster c).misses = (s.cluster c).misses := by
  unfold State.walkTaken
  split
  · exact ⟨rfl, fun _ => rfl, rfl⟩
  · split
    · exact ⟨rfl, fun _ => rfl, by unfold State.tlbFill; rw [State.cluster_modCluster_self]⟩
    · obtain ⟨hmem, hbare, hwalks⟩ := s.noteWalk_keeps c m .ldXlate
      exact ⟨hmem, hbare, (State.misses_of_walks (hwalks c)).1⟩
    · obtain ⟨hmem, hbare, hwalks⟩ := s.noteWalk_keeps c m .walkError
      exact ⟨hmem, hbare, (State.misses_of_walks (hwalks c)).1⟩

/-- A fibre that waits for the walk, when its outcome is taken: it still waits, and a failure is noted. -/
theorem State.fib?_walkTaken {s : State} {c k : Nat} {m : Miss} {g : Fibre} (h : s.fib? k = some g) (hw : g.wait = .walk) (hk : k ∈ m.fibs) :
    ∃ g', (s.walkTaken c m).fib? k = some g' ∧ g'.state = g.state ∧ g'.wait = .walk ∧ g'.pc = g.pc ∧
      (m.stale = false → s.walk (ctxKey m.part m.ctx) (m.page * 4096) = .invalid → (m.page, Cause.ldXlate) ∈ g'.walks) ∧
      (m.stale = false → s.walk (ctxKey m.part m.ctx) (m.page * 4096) = .error → (m.page, Cause.walkError) ∈ g'.walks) := by
  unfold State.walkTaken
  split
  · next hst => exact ⟨g, h, rfl, hw, rfl, by simp [hst], by simp [hst]⟩
  · split
    · next hx => exact ⟨g, h, rfl, hw, rfl, by simp [hx], by simp [hx]⟩
    · next hx =>
      obtain ⟨g', hg', hst, hw', hpc, hin⟩ := State.fib?_noteWalk (c := c) (m := m) .ldXlate h hw
      exact ⟨g', hg', hst, hw', hpc, fun _ _ => hin hk, by simp [hx]⟩
    · next hx =>
      obtain ⟨g', hg', hst, hw', hpc, hin⟩ := State.fib?_noteWalk (c := c) (m := m) .walkError h hw
      exact ⟨g', hg', hst, hw', hpc, by simp [hx], fun _ _ => hin hk⟩

end Sys2Proof.Machine
end

section
/-! SUPPORT. The statement about walks, page requests, vectors, ages and the arrival of code, part by part, settled. -/

namespace Sys2Proof.Machine

/-! ### Walks -/

/-- A walk takes a walker in its turn (R180). -/
theorem walkComplete_grants {s : State} {c i : Nat} {m : Miss} (hm : (s.cluster c).misses[i]? = some m) (hw : m.walker = false) :
    let mine := s.nextGrant (clusterDie c) = some (c, i) ∧ s.walkers (clusterDie c) < 64
    (¬ mine → exec (.walkComplete c i) s = .next s) ∧
      (mine → ∃ t, exec (.walkComplete c i) s = .next t ∧ MemSame s t ∧ RegsSame s t ∧
        (t.cluster c).misses[i]? = some { m with walker := true }) := by
  intro mine
  rw [walkComplete_waits hm hw, State.grantWalk_eq hm]
  refine ⟨fun hn => by rw [if_neg hn], fun hy => ?_⟩
  rw [if_pos hy]
  refine ⟨_, rfl, memSame_of_contents rfl, regsSame_of_bare fun _ => rfl, ?_⟩
  rw [State.cluster_modCluster_self]
  exact (getElem?_lset _ _ _ _).trans (by rw [if_pos rfl, hm]; rfl)

/-- A walk that ends (R179, R180, R182). -/
theorem walkComplete_answers {s : State} {c i : Nat} {m : Miss} (hm : (s.cluster c).misses[i]? = some m) (hw : m.walker = true)
    (hp : m.pfs = []) : ∃ t, exec (.walkComplete c i) s = .next t ∧ MemSame s t ∧ RegsSame s t ∧
      (t.cluster c).misses = (s.cluster c).misses.eraseIdx i ∧ (m.stale = true → (t.cluster c).tlb = (s.cluster c).tlb) ∧
      (∀ x, m.stale = false → s.walk (ctxKey m.part m.ctx) (m.page * 4096) = .ok x → x ∈ (t.cluster c).tlb) ∧
      ∀ k g, k ∈ m.fibs → fibCluster k = c → s.fib? k = some g → g.state = .parked → g.wait = .walk →
        ∃ h, t.fib? k = some h ∧ h.state = .ready ∧ h.pc = g.pc ∧
          (m.stale = false → s.walk (ctxKey m.part m.ctx) (m.page * 4096) = .invalid → (m.page, Cause.ldXlate) ∈ h.walks) ∧
          (m.stale = false → s.walk (ctxKey m.part m.ctx) (m.page * 4096) = .error → (m.page, Cause.walkError) ∈ h.walks) := by
  obtain ⟨hstr, hmem₁, hwalk, hmiss₁, htlb₁⟩ := s.walkRead_keeps c i m
  obtain ⟨hmem₂, hbare₂, hmiss₂⟩ := (s.walkRead c i m).walkTaken_keeps c m
  obtain ⟨hmem₃, hbare₃, hwalks₃⟩ := ((s.walkRead c i m).walkTaken c m).readyWalks_keeps c m.fibs
  obtain ⟨hmiss₃, htlb₃⟩ := State.misses_of_walks (hwalks₃ c)
  refine ⟨_, walkComplete_ends hm hw hp, memSame_of_contents (hmem₃.trans (hmem₂.trans hmem₁)),
    regsSame_of_bare fun n => (hbare₃ n).trans ((hbare₂ n).trans (State.bare_of_strands hstr n)), hmiss₃.trans (hmiss₂.trans hmiss₁),
    fun hst => ?_, fun x hst hx => ?_, fun k g hk hc hf hs hwait => ?_⟩
  · rw [htlb₃, State.walkTaken, if_pos hst, htlb₁]
  · have htaken : (s.walkRead c i m).walkTaken c m = (s.walkRead c i m).tlbFill c x := by
      unfold State.walkTaken
      rw [if_neg (by simp [hst]), hwalk, hx]
    rw [htlb₃, htaken, State.tlbFill, State.cluster_modCluster_self]
    simp
  · obtain ⟨g₂, hg₂, hs₂, hw₂, hpc₂, hinv, herr⟩ := State.fib?_walkTaken (c := c) (m := m) ((State.fib?_of_strands hstr k).trans hf) hwait hk
    obtain ⟨h, hh, hready, hpc, hwalks⟩ := State.fib?_readyWalks hg₂ hk hc (hs₂.trans hs) hw₂
    rw [hwalk] at hinv herr
    exact ⟨h, hh, hready, hpc.trans hpc₂, fun a b => hwalks ▸ hinv a b, fun a b => hwalks ▸ herr a b⟩

/-! ### Page requests (R181) -/

/-- From `s` to `t` no more than memory changed, with what numbers and logs its writes. -/
def OnlyMemory (s t : State) : Prop :=
  ∃ mem hist parts n rels, t = { s with mem := mem, hist := hist, parts := parts, writeNo := n, writeRels := rels }

theorem OnlyMemory.trans {s t u : State} (h : OnlyMemory s t) (h' : OnlyMemory t u) : OnlyMemory s u := by
  obtain ⟨_, _, _, _, _, rfl⟩ := h
  obtain ⟨_, _, _, _, _, rfl⟩ := h'
  exact ⟨_, _, _, _, _, rfl⟩

theorem State.onlyMemory_logLine (s : State) (part : Option Nat) (key : Nat) : OnlyMemory s (s.logLine part key) := by
  unfold State.logLine
  split
  · exact ⟨_, _, _, _, _, rfl⟩
  · dsimp only
    split
    · exact ⟨_, _, _, _, _, rfl⟩
    · split <;> exact ⟨_, _, _, _, _, rfl⟩

theorem State.onlyMemory_memPut (s : State) (part : Option Nat) (key : Nat) (b : Byte) : OnlyMemory s (s.memPut part key b) := by
  unfold State.memPut
  split
  · exact ⟨_, _, _, _, _, rfl⟩
  · exact (s.onlyMemory_logLine part key).trans ⟨_, _, _, _, _, rfl⟩

theorem State.onlyMemory_memWriteBytes (s : State) (part : Option Nat) (key : Nat) (bs : List Byte) :
    OnlyMemory s (s.memWriteBytes part key bs) := by
  have key : ∀ (bs : List Byte) (s : State) (key : Nat), OnlyMemory s (s.memPuts part key bs) := by
    intro bs
    induction bs with
    | nil => exact fun s _ => ⟨_, _, _, _, _, rfl⟩
    | cons b bs ih => exact fun s key => (s.onlyMemory_memPut part key b).trans (ih _ _)
  exact OnlyMemory.trans ⟨_, _, _, _, _, rfl⟩ (key bs s.beginOther _)

theorem Context.prqRoom_iff {c : Context} : c.prqRoom = true ↔ c.en = true ∧ c.prqEn = true ∧ c.prqHead - c.prqTail ≠ c.prqSize := by
  simp [Context.prqRoom, and_assoc]

theorem pageRequestDrain_stays {s : State} {d x : Nat}
    (h : (∀ e ∈ (s.die d).prq, ctxKey e.part e.ctx ≠ x) ∨ ¬ (s.ctx x).prqRoom = true) : exec (.pageRequestDrain d x) s = .next s := by
  show execPageRequestDrain d x s = _
  unfold execPageRequestDrain
  split
  · rfl
  · next e he =>
    have hmine : ctxKey e.part e.ctx = x := by simpa using List.find?_some he
    have hroom := h.resolve_left fun hall => hall e (List.mem_of_find?_eq_some he) hmine
    simp [hroom]

/-- A pool without requests that wait is as it was. -/
theorem State.poolRetest_prq {s : State} {d : Nat} (h : (s.die d).prqWait = []) : s.poolRetest 4 d 1 = s := by
  unfold State.poolRetest execPoolEntryGrant
  simp [h, State.poolRetest]

/-- A vector raised or not, where none else of the state matters. -/
theorem State.raise_keeps (s : State) (v : Nat) :
    (s.raise v).ctxs = s.ctxs ∧ (s.raise v).dies = s.dies ∧ (s.raise v).mem = s.mem := by
  unfold State.raise; split <;> exact ⟨rfl, rfl, rfl⟩

theorem State.raise_congr {s t : State} (hm : t.msix = s.msix) (hi : t.irqs = s.irqs) (hp : t.msixPba = s.msixPba) (v : Nat) :
    (t.raise v).irqs = (s.raise v).irqs ∧ (t.raise v).msixPba = (s.raise v).msixPba := by
  have hv : t.vecMasked v = s.vecMasked v := by simp only [State.vecMasked, State.msixWord, hm]
  unfold State.raise
  rw [hv]
  split <;> simp [hi, hp]

theorem pageRequestDrain_writes {s : State} {d x : Nat} {pre post : List PrqEntry} {e : PrqEntry} (hq : (s.die d).prq = pre ++ e :: post)
    (hpre : ∀ y ∈ pre, ctxKey y.part y.ctx ≠ x) (hmine : ctxKey e.part e.ctx = x) (hroom : (s.ctx x).prqRoom = true)
    (hwait : (s.die d).prqWait = []) :
    ∃ t, exec (.pageRequestDrain d x) s = .next t ∧ (t.ctx x).prqHead = (s.ctx x).prqHead + 1 ∧ (t.die d).prq = pre ++ post ∧
      t.mem = (s.memWriteBytes (some e.part) ((s.ctx x).prqRing.toNat % 2 ^ 56 / 32 * 32 + 32 * ((s.ctx x).prqHead.toNat % (s.ctx x).prqSize.toNat))
        (prqBytes e)).mem ∧
      let r := if (s.ctx x).prqIrq = true ∨ e.irq = true then s.raise (4 * e.part + 1) else s
      t.irqs = r.irqs ∧ t.msixPba = r.msixPba := by
  have hfind : ((s.die d).prq.find? fun e => ctxKey e.part e.ctx == x) = some e := by
    have hnone : (pre.find? fun e => ctxKey e.part e.ctx == x) = none :=
      List.find?_eq_none.mpr fun y hy => by simpa using hpre y hy
    rw [hq, List.find?_append, hnone, List.find?_cons_of_pos (by simpa using hmine)]
    rfl
  have herase : (s.die d).prq.erase e = pre ++ post := by
    rw [hq, List.erase_append_right _ fun hm => hpre e hm hmine, List.erase_cons_head]
  show ∃ t, execPageRequestDrain d x s = .next t ∧ _
  unfold execPageRequestDrain
  rw [hfind]
  dsimp only
  rw [if_neg (by simp [hroom])]
  generalize hkey : (s.ctx x).prqRing.toNat % 2 ^ 56 / 32 * 32 + 32 * ((s.ctx x).prqHead.toNat % (s.ctx x).prqSize.toNat) = key
  obtain ⟨mem, hist, parts, n, rels, hwr⟩ := s.onlyMemory_memWriteBytes (some e.part) key (prqBytes e)
  rw [hwr]
  generalize ha : (({ s with mem := mem, hist := hist, parts := parts, writeNo := n, writeRels := rels } : State).modCtx x
    fun c => { c with prqHead := c.prqHead + 1 }).modDie d (fun y => { y with prq := y.prq.erase e }) = a
  have hctx : (a.ctx x).prqHead = (s.ctx x).prqHead + 1 := by
    subst ha
    exact congrArg Context.prqHead (State.ctx_modCtx_self s x fun c => { c with prqHead := c.prqHead + 1 })
  have hdie : a.die d = { s.die d with prq := pre ++ post } := by subst ha; rw [State.die_modDie_self, ← herase]; rfl
  have hmem : a.mem = mem := by subst ha; rfl
  have hraise := State.raise_congr (s := s) (t := a) (by subst ha; rfl) (by subst ha; rfl) (by subst ha; rfl) (4 * e.part + 1)
  have hirqs : a.irqs = s.irqs ∧ a.msixPba = s.msixPba := by subst ha; exact ⟨rfl, rfl⟩
  obtain ⟨hrc, hrd, hrm⟩ := a.raise_keeps (4 * e.part + 1)
  have hrest : ∀ b : State, b.ctxs = a.ctxs → b.dies = a.dies → b.mem = a.mem → b.poolRetest 4 d 1 = b ∧
      (b.ctx x).prqHead = (s.ctx x).prqHead + 1 ∧ (b.die d).prq = pre ++ post ∧ b.mem = mem := by
    intro b hc hd hm
    have hb : b.die d = a.die d := by simp only [State.die, hd]
    have hbc : b.ctx x = a.ctx x := by simp only [State.ctx, hc]
    exact ⟨State.poolRetest_prq (by rw [hb, hdie]; exact hwait), (congrArg Context.prqHead hbc).trans hctx, by rw [hb, hdie], hm.trans hmem⟩
  by_cases hirq : (s.ctx x).prqIrq = true ∨ e.irq = true
  · obtain ⟨hpool, hhead, hprq, hm⟩ := hrest _ hrc hrd hrm
    rw [if_pos (by simpa using hirq), hpool]
    exact ⟨_, rfl, hhead, hprq, hm, by rw [if_pos hirq]; exact hraise⟩
  · obtain ⟨hpool, hhead, hprq, hm⟩ := hrest a rfl rfl rfl
    rw [if_neg (by simpa using hirq), hpool]
    exact ⟨_, rfl, hhead, hprq, hm, by rw [if_neg hirq]; exact hirqs⟩

/-! ### Vectors -/

theorem State.raise_open {s : State} {v : Nat} (h : s.vecMasked v = false) :
    (s.raise v).irqs = s.irqs ++ [v] ∧ (s.raise v).msixPba = s.msixPba := by
  unfold State.raise
  rw [if_neg (by simp [h])]
  exact ⟨rfl, rfl⟩

theorem State.raise_masked {s : State} {v : Nat} (hv : v < 128) (h : s.vecMasked v = true) :
    (s.raise v).irqs = s.irqs ∧ (s.raise v).msixPba.getLsbD v = true := by
  unfold State.raise
  rw [if_pos h]
  exact ⟨rfl, by simp [hv]⟩

/-! ### Ages at the arbiter (R180, R456) -/

/-- The first walk without a walker. -/
theorem Cluster.headMiss_iff {c : Cluster} {i : Nat} {m : Miss} (hm : c.misses[i]? = some m) :
    c.headMiss = some i ↔ m.walker = false ∧ (c.misses.take i).all (·.walker) = true := by
  obtain ⟨hi, hget⟩ := List.getElem?_eq_some_iff.mp hm
  unfold Cluster.headMiss
  rw [List.findIdx?_eq_some_iff_getElem]
  constructor
  · rintro ⟨_, hnot, hbefore⟩
    rw [hget] at hnot
    refine ⟨by simpa using hnot, List.all_eq_true.mpr fun y hy => ?_⟩
    obtain ⟨j, hj, rfl⟩ := List.mem_take_iff_getElem.mp hy
    simpa using hbefore j (by omega)
  · rintro ⟨hnot, hall⟩
    refine ⟨hi, by simp [hget, hnot], fun j hj => ?_⟩
    simpa using List.all_eq_true.mp hall _ (List.mem_take_iff_getElem.mpr ⟨j, by omega, rfl⟩)

/-- What the arbiter's step makes of a cluster: the walk at the head of its queue ages by its partition's weight. -/
def State.aged (s : State) (c : Cluster) : Cluster :=
  match c.headMiss with
  | some n =>
    match c.misses[n]? with
    | some m => { c with misses := lset c.misses n { m with age := min 65535 (m.age + (s.part m.part).qosWt.toNat % 128) } }
    | none => c
  | none => c

theorem State.aged_misses {s : State} {c : Cluster} {i : Nat} {m : Miss} (hm : c.misses[i]? = some m) :
    (s.aged c).misses[i]? = some (if m.walker = false ∧ (c.misses.take i).all (·.walker) = true then
      { m with age := min 65535 (m.age + (s.part m.part).qosWt.toNat % 128) } else m) := by
  unfold State.aged
  split
  · next n hn =>
    split
    · next m' hm' =>
      show (lset c.misses n _)[i]? = _
      rw [getElem?_lset]
      by_cases hin : i = n
      · subst hin
        rw [hm] at hm'
        cases hm'
        rw [if_pos rfl, if_pos ((Cluster.headMiss_iff hm).mp hn), hm]
        rfl
      · rw [if_neg hin, if_neg fun hy => hin (Option.some.inj (((Cluster.headMiss_iff hm).mpr hy).symm.trans hn)), hm]
    · next hm' =>
      exact absurd hm' (by
        unfold Cluster.headMiss at hn
        obtain ⟨hlt, -⟩ := List.findIdx?_eq_some_iff_getElem.mp hn
        simp [hlt])
  · next hn =>
    rw [if_neg fun hy => by rw [(Cluster.headMiss_iff hm).mpr hy] at hn; cases hn]
    exact hm

theorem arbAgeStep_ages {s : State} (h : s.cycle % 64 = 0) : ∃ t, exec .arbAgeStep s = .next t ∧ MemSame s t ∧ RegsSame s t ∧
    ∀ (c i : Nat) (m : Miss), (s.cluster c).misses[i]? = some m →
      (t.cluster c).misses[i]? = some
        (if m.walker = false ∧ ((s.cluster c).misses.take i).all (·.walker) = true then
          { m with age := min 65535 (m.age + (s.part m.part).qosWt.toNat % 128) } else m) := by
  refine ⟨{ s with clusters := s.clusters.map fun c => (c.1, s.aged c.2) }, ?_, memSame_of_contents rfl, regsSame_of_bare fun _ => rfl,
    fun c i m hm => ?_⟩
  · show execArbAgeStep s = _
    unfold execArbAgeStep
    rw [if_neg (by omega)]
    rfl
  · have hc : ({ s with clusters := s.clusters.map fun c => (c.1, s.aged c.2) } : State).cluster c = s.aged (s.cluster c) := by
      unfold State.cluster
      rw [tget?_map_snd]
      cases tget? s.clusters c <;> rfl
    rw [hc, State.aged_misses hm]

/-! ### Code that arrives (R463) -/

theorem State.strands_syncLines (s : State) (k : Nat) : (s.syncLines k).strands = s.strands := by
  unfold State.syncLines State.refresh
  dsimp only
  split <;> rfl

section
variable {s : State} {k since : Nat} {g : Fibre}

theorem codeArrival_eq (h : s.fib? k = some g) (hs : g.state = .parked) (hw : g.wait = .code since) :
    exec (.codeArrival k) s = .next (if s.arrived k g.pc then (s.syncPoint k).ready k else s) := by
  show execCodeArrival k s = _
  unfold execCodeArrival
  rw [h]
  simp [hs, hw]

/-- A fibre whose page has arrived goes on, and sees memory as it is then. -/
theorem State.syncPoint_ready (h : s.fib? k = some g) :
    ∃ g', ((s.syncPoint k).ready k).fib? k = some g' ∧ g'.state = .ready ∧ g'.pc = g.pc ∧ MemSame s ((s.syncPoint k).ready k) ∧
      RegsSame s ((s.syncPoint k).ready k) := by
  have hsync : (s.syncPoint k).fib? k = some { g with view := s.viewNow, pend := [] } := by
    rw [State.syncPoint, State.fib?_modFib_self, State.fib?_of_strands (s.strands_syncLines k), h]
    rfl
  refine ⟨_, State.fib?_ready_self hsync, rfl, rfl, memSame_of_contents (by simp), regsSame_of_bare fun n => ?_⟩
  rw [State.bare_ready, State.syncPoint, State.bare_modFib, State.bare_of_strands (s.strands_syncLines k)]

theorem codeUnarrived_eq {st : Strand} (h : s.fib? k = some g) (hst : s.strand? (fibStrand k) = some st) (hs : g.state = .parked)
    (hw : g.wait = .code since) : exec (.codeUnarrived k) s = .next (
      if since + (s.part (s.strandPart (fibStrand k))).codeTmo.toNat ≤ s.refCount then
        s.takeTrap k { cause := .codeUnarrived, addr := BitVec.ofNat 64 (s.fetchAddr k g), word := some 0 }
          (st.mask g.laneSet (s.cycle, s.cycle, s.cycle)) 0
      else s) := by
  have haddr : s.fetchTfaddr k = BitVec.ofNat 64 (s.fetchAddr k g) := by rw [State.fetchTfaddr, h]; rfl
  show execCodeUnarrived k s = _
  unfold execCodeUnarrived
  rw [h, hst]
  dsimp only
  rw [hw, haddr]
  dsimp only
  rw [hs, State.fibPart]
  split <;> simp_all [tri1]

end

theorem walksRequestsAndArrivals : WalksRequestsAndArrivals := by
  refine ⟨fun s c i => ⟨fun hnone => ?_, fun m hm hw => walkComplete_grants hm hw, fun m hm hw hp => walkComplete_answers hm hw hp⟩,
    fun s d x => ⟨fun h => pageRequestDrain_stays (h.imp_right fun hr => mt Context.prqRoom_iff.mp hr),
      fun pre e post hq hpre hmine hroom hwait => pageRequestDrain_writes hq hpre hmine (Context.prqRoom_iff.mpr hroom) hwait⟩,
    fun s v hv => ⟨State.raise_open, State.raise_masked hv⟩,
    fun s => ⟨fun h => ?_, arbAgeStep_ages⟩,
    fun s k since g st h hst hs hw => ⟨fun ha => ?_, fun ha => ?_, fun hlt => ?_, fun hle => ?_⟩⟩
  · show execWalkComplete c i s = _
    unfold execWalkComplete
    rw [hnone]
  · show execArbAgeStep s = _
    unfold execArbAgeStep
    rw [if_pos h]
  · rw [codeArrival_eq h hs hw, if_neg (by simp [ha])]
  · obtain ⟨g', hg', hready, hpc, hmem, hregs⟩ := State.syncPoint_ready h
    exact ⟨_, g', by rw [codeArrival_eq h hs hw, if_pos ha], hg', hready, hpc, hmem, hregs⟩
  · rw [codeUnarrived_eq h hst hs hw, if_neg (by omega)]
  · rw [codeUnarrived_eq h hst hs hw, if_pos hle]

/-- Settles O53: each event is one change of the state, whose frame is that of the operations it is made of. -/
theorem slotsWalksAndArrivals : Obligations.SlotsWalksAndArrivals := ⟨slotsAndDeferredTraps, walksRequestsAndArrivals⟩

end Sys2Proof.Machine
end

section
/-! SUPPORT. What a read may find and what an acquire makes known (R220 to R231), and the statement about it. -/

namespace Sys2Proof.Machine

/-! ### What a fibre knows (R228) -/

theorem View.num_add_self (v : View) (l : Loc) (n : Nat) : n ≤ (v.add l n).num l := by
  unfold View.add
  split
  · assumption
  · simp [View.num]

theorem View.num_le_add (v : View) (l : Loc) (n : Nat) (x : Loc) : v.num x ≤ (v.add l n).num x := by
  unfold View.add
  split
  · exact le_rfl
  · next h =>
    by_cases hx : x = l
    · subst hx
      have : n ≤ View.num { v with locs := (x, n) :: v.locs.filter (·.1 != x) } x := by simp [View.num]
      omega
    · have hfind : (List.find? (fun y => y.1 == x) (v.locs.filter fun y => y.1 != l)) = v.locs.find? fun y => y.1 == x := by
        rw [List.find?_filter]
        congr 1
        funext y
        by_cases hy : y.1 = x <;> simp [hy, hx]
      simp [View.num, Ne.symm hx, hfind]

theorem View.num_le_adds (v : View) (xs : List (Loc × Nat)) (l : Loc) : v.num l ≤ (v.adds xs).num l :=
  List.foldlRecOn (motive := fun a : View => v.num l ≤ a.num l) _ _ le_rfl fun a ih x _ => ih.trans (a.num_le_add x.1 x.2 l)

theorem View.num_adds_of_mem (v : View) {xs : List (Loc × Nat)} {l : Loc} {n : Nat} (h : (l, n) ∈ xs) : n ≤ (v.adds xs).num l := by
  induction xs generalizing v with
  | nil => cases h
  | cons x xs ih =>
    rcases List.mem_cons.mp h with rfl | h
    · exact (v.num_add_self l n).trans (View.num_le_adds _ xs l)
    · exact ih _ h

/-- The join of two views knows what either knows. -/
theorem View.num_le_join (v w : View) (l : Loc) : v.num l ≤ (v.join w).num l ∧ w.num l ≤ (v.join w).num l := by
  have hbase : v.num l ≤ View.num { v with base := max v.base w.base } l ∧ w.base ≤ View.num { v with base := max v.base w.base } l := by
    simp only [View.num]; omega
  have hadds := View.num_le_adds { v with base := max v.base w.base } w.locs l
  refine ⟨hbase.1.trans hadds, ?_⟩
  have hfound : ((w.locs.find? fun x => x.1 == l).map (·.2)).getD 0 ≤ (v.join w).num l := by
    cases hf : w.locs.find? fun x => x.1 == l with
    | none => simp
    | some x =>
      have hx : x.1 = l := by simpa using List.find?_some hf
      have hm := List.mem_of_find?_eq_some hf
      obtain ⟨y, n⟩ := x
      cases hx
      exact View.num_adds_of_mem _ hm
  exact max_le (hbase.2.trans hadds) hfound

/-- What an acquire knows: all that it knew, and what the releases that it meets hand over. -/
theorem View.num_le_meet (v : View) (scope strand : Nat) (rs : List Rel) :
    (∀ l, v.num l ≤ (v.meet scope strand rs).num l) ∧
      ∀ r ∈ rs, r.meets scope strand = true → ∀ l, r.view.num l ≤ (v.meet scope strand rs).num l := by
  have key : ∀ (qs : List Rel) (v : View), (∀ l, v.num l ≤ (qs.foldl (fun a r => a.join r.view) v).num l) ∧
      ∀ r ∈ qs, ∀ l, r.view.num l ≤ (qs.foldl (fun a r => a.join r.view) v).num l := by
    intro qs
    induction qs with
    | nil => exact fun v => ⟨fun _ => le_rfl, by simp⟩
    | cons q qs ih =>
      intro v
      obtain ⟨hall, hmem⟩ := ih (v.join q.view)
      refine ⟨fun l => (v.num_le_join q.view l).1.trans (hall l), fun r hr l => ?_⟩
      rcases List.mem_cons.mp hr with rfl | hr
      · exact (v.num_le_join r.view l).2.trans (hall l)
      · exact hmem r hr l
  obtain ⟨hall, hmem⟩ := key (rs.filter fun r => r.meets scope strand) v
  exact ⟨hall, fun r hr hm l => hmem r (List.mem_filter.mpr ⟨hr, hm⟩) l⟩

/-! ### What a read finds (R220, R227) -/

@[simp] theorem State.length_laneBytes (s : State) (k : Nat) (a : LaneAcc) : (s.laneBytes k a).length = a.bytes.length := by
  simp [State.laneBytes]

/-- Where no older value is kept, a read finds the newest. -/
theorem State.look_nil {s : State} (h : s.hist = []) (k n : Nat) (bs : List ByteAt) :
    (s.look k n bs).bytes = s.laneBytes k { lane := 0, addr := 0, bytes := bs } := by
  simp [State.look, h]

/-- The moment that the free value `n` of a read picks: the present one, or one of the older ones that are possible. -/
def momentOf (old : List Nat) (now : Nat) : Nat → Nat
  | 0 => now
  | m + 1 => old.getD (m % (old.length + 1)) now

theorem momentOf_mem (old : List Nat) (now n : Nat) : momentOf old now n = now ∨ momentOf old now n ∈ old := by
  cases n with
  | zero => exact .inl rfl
  | succ m =>
    by_cases h : m % (old.length + 1) < old.length
    · right
      simp [momentOf, List.getD_eq_getElem?_getD, h]
    · left
      simp [momentOf, List.getD_eq_getElem?_getD, List.getElem?_eq_none (Nat.le_of_not_lt h)]

/-- What a read knows of the writes to its bytes: an SO page is read in the order S (R224). -/
def State.lookView (s : State) (k : Nat) (bs : List ByteAt) : View :=
  if bs.any (·.kind == .so) then (s.viewOf k).join s.soView else s.viewOf k

/-- The older moments that a read may be as of; none where a byte is read as it is. -/
def State.lookMoments (s : State) (k : Nat) (bs : List ByteAt) : List Nat :=
  if bs.any fun b => b.kind == .uo || (forwarded (s.storesOf k) k b.loc).isSome then []
  else s.moments (s.lookView k bs) (bs.map (·.loc))

theorem State.look_bytes {s : State} (h : s.hist.isEmpty = false) (k n : Nat) (bs : List ByteAt) :
    (s.look k n bs).bytes =
      if momentOf (s.lookMoments k bs) s.writeNo n = s.writeNo then s.laneBytes k { lane := 0, addr := 0, bytes := bs }
      else bs.map fun b => s.valueAt (momentOf (s.lookMoments k bs) s.writeNo n) b.loc (s.locRead b.loc) := by
  unfold State.look
  simp only [h, Bool.false_eq_true, if_false]
  cases n <;> rfl

/-- A read finds the newest values of its bytes, or those as of an older moment after which no write to them is known. -/
theorem State.look_finds (s : State) (k n : Nat) (bs : List ByteAt) :
    (s.look k n bs).bytes = s.laneBytes k { lane := 0, addr := 0, bytes := bs } ∨
      ∃ t ∈ s.moments (s.lookView k bs) (bs.map (·.loc)), (∀ b ∈ bs, b.kind ≠ .uo ∧ forwarded (s.storesOf k) k b.loc = none) ∧
        (s.look k n bs).bytes = bs.map fun b => s.valueAt t b.loc (s.locRead b.loc) := by
  cases hh : s.hist.isEmpty with
  | true => exact .inl (State.look_nil (by simpa using hh) k n bs)
  | false =>
    rw [State.look_bytes hh]
    split
    · exact .inl rfl
    · next hnow =>
      have hold := (momentOf_mem (s.lookMoments k bs) s.writeNo n).resolve_left hnow
      unfold State.lookMoments at hold ⊢
      split at hold
      · cases hold
      · next hany =>
        rw [if_neg hany]
        refine .inr ⟨_, hold, fun b hb => ?_, rfl⟩
        simpa using fun h => hany (List.any_eq_true.mpr ⟨b, hb, h⟩)

theorem State.length_look (s : State) (k n : Nat) (bs : List ByteAt) : (s.look k n bs).bytes.length = bs.length := by
  rcases s.look_finds k n bs with h | ⟨t, -, -, h⟩ <;> simp [h]

/-! ### What a write keeps -/

theorem State.memPut_hist {s : State} {key : Nat} {b : Byte} (h : (s.linkDown && hostKey key) = false) (rels : List Rel) :
    ((s.beginWrite rels).memPut none key b).hist =
      if Config.keepsHistory then { loc := .mem key, num := s.writeNo + 1, old := s.memRead key, rels := rels } :: s.hist else [] := by
  unfold State.memPut
  rw [if_neg (by simpa [State.beginWrite] using h)]
  rfl

/-! ### Scopes (Table 9.1) -/

theorem inScope_iff {n a b : Nat} : inScope n a b = true ↔
    (n = 0 → a = b) ∧ (n = 1 → strandSkein a = strandSkein b) ∧ (n = 2 → strandCluster a / 12 = strandCluster b / 12) ∧
      (n = 3 → clusterDie (strandCluster a) = clusterDie (strandCluster b)) := by
  unfold inScope
  split
  · simp
  · simp
  · simp
  · simp
  · next h0 h1 h2 h3 => exact ⟨fun _ => ⟨fun h => (h0 h).elim, fun h => (h1 h).elim, fun h => (h2 h).elim, fun h => (h3 h).elim⟩, fun _ => rfl⟩

theorem inScope_comm (n a b : Nat) : inScope n a b = inScope n b a := by
  unfold inScope
  split
  · exact BEq.comm
  · exact BEq.comm
  · exact BEq.comm
  · exact BEq.comm
  · rfl

theorem Rel.meets_iff {r : Rel} {a : Nat} (h : r.strand = some a) (scope b : Nat) :
    r.meets scope b = true ↔ ∀ n ∈ [r.scope, scope],
      (n = 0 → a = b) ∧ (n = 1 → strandSkein a = strandSkein b) ∧ (n = 2 → strandCluster a / 12 = strandCluster b / 12) ∧
        (n = 3 → clusterDie (strandCluster a) = clusterDie (strandCluster b)) := by
  unfold Rel.meets
  rw [h]
  dsimp only
  rw [Bool.and_eq_true, inScope_comm scope, inScope_iff, inScope_iff]
  simp

/-! ### Acquires and fences (R228, R246) -/

theorem State.acquire_spec {s : State} {k : Nat} {f : Fibre} (h : s.fib? k = some f) (scope : Nat) (rels : List Rel) :
    ∃ g, (s.acquire k scope rels).fib? k = some g ∧ g.view = f.view.meet scope (fibStrand k) rels := by
  refine ⟨{ f with view := f.view.meet scope (fibStrand k) rels }, ?_, rfl⟩
  rw [State.acquire, State.fib?_modFib_self, h]
  rfl

/-- What a fence that is met makes of its fibre. -/
theorem State.fenceSync_spec {s : State} {k : Nat} {f : Fibre} (h : s.fib? k = some f) (kind : FenceKind) (scope : Nat) :
    ∃ g, (s.fenceSync k kind scope).fib? k = some g ∧
      g.view = (if kind ≠ .rel then f.view.meet scope (fibStrand k) f.pend else f.view) ∧
      (kind ≠ .acq → { scope := scope, strand := some (fibStrand k), view := g.view } ∈ g.fences) := by
  have hsync : (if kind = .rel then s else s.syncLines k).fib? k = some f := by
    split
    · exact h
    · exact (State.fib?_of_strands (s.strands_syncLines k) k).trans h
  unfold State.fenceSync State.fenceView
  rw [State.fib?_modFib_self, hsync]
  refine ⟨_, rfl, ?_, fun hk => ?_⟩
  · cases kind <;> rfl
  · have : (kind != .acq) = true := by simpa using hk
    simp [this]

theorem fence_orders {s : State} {c : Ctx} {kind : FenceKind} {f : X64} (h : Issues (.fence kind f) s c) (hm : s.fenceMet c.k kind = true) :
    ∃ t g, exec (.fence kind f) s = .next t ∧ t.fib? c.k = some g ∧ (∀ l, c.f.view.num l ≤ g.view.num l) ∧
      (kind ≠ .rel → ∀ r ∈ c.f.pend, r.meets (f.imm8.toNat % 8) c.strand = true → ∀ l, r.view.num l ≤ g.view.num l) ∧
      (kind ≠ .acq → ∃ r ∈ g.fences, r.scope = f.imm8.toNat % 8 ∧ r.strand = some c.strand ∧ r.view = g.view) := by
  have hscope : bits f.imm8.toNat 0 3 = f.imm8.toNat % 8 := by simp [bits]
  obtain ⟨g, hg, hview, hfence⟩ := State.fenceSync_spec h.fib kind (f.imm8.toNat % 8)
  have hexec : exec (.fence kind f) s = .next (c.advance (s.fenceSync c.k kind (f.imm8.toNat % 8))) := by
    show execFence kind f s = _
    exact issue_next h (by rw [hscope]; exact if_pos hm)
  obtain ⟨hknown, hmet⟩ := c.f.view.num_le_meet (f.imm8.toNat % 8) c.strand c.f.pend
  have hadv : ∃ g', (c.advance (s.fenceSync c.k kind (f.imm8.toNat % 8))).fib? c.k = some g' ∧ g'.view = g.view ∧ g'.fences = g.fences := by
    unfold Ctx.advance
    rw [State.fib?_modFib_self, hg]
    exact ⟨_, rfl, rfl, rfl⟩
  obtain ⟨g', hg', hv', hf'⟩ := hadv
  refine ⟨_, g', hexec, hg', fun l => ?_, fun hk r hr hm l => ?_, fun hk => ⟨_, hf' ▸ hfence hk, rfl, rfl, hv'.symm⟩⟩
  · rw [hv', hview]
    split
    · exact hknown l
    · exact le_rfl
  · rw [hv', hview, if_pos hk]
    exact hmet r hr hm l

theorem readsFindKnownValues : ReadsFindKnownValues := by
  refine ⟨fun s k n bs => ⟨s.length_look k n bs, (s.look_finds k n bs).imp_right ?_⟩, fun s key b rels h => ⟨fun hc => ?_, fun hc => ?_⟩,
    fun r scope a b h => Rel.meets_iff h scope b, fun s k scope f rels h => ?_, fun s c kind f h hm => fence_orders h hm⟩
  · rintro ⟨t, ht, hown, hbytes⟩
    refine ⟨t, fun w hw hb hlt => ?_, hown, hbytes⟩
    obtain ⟨b, hb, hl⟩ := hb
    by_contra hn
    have := s.moments_known _ _ t ht w hw (List.mem_map.mpr ⟨b, hb, hl⟩) (Nat.le_of_not_lt hn)
    omega
  · rw [State.memPut_hist h, if_pos hc]
  · rw [State.memPut_hist h, if_neg (by simp [hc])]
  · obtain ⟨g, hg, hview⟩ := State.acquire_spec h scope rels
    obtain ⟨hknown, hmet⟩ := f.view.num_le_meet scope (fibStrand k) rels
    exact ⟨g, hg, hview ▸ hknown, hview ▸ hmet⟩

end Sys2Proof.Machine
end

section
/-! SUPPORT. What caches, homes and prefetches do leaves strands, skeins and launches alone. -/

namespace Sys2Proof.Machine

/-- From `s` to `t` no strand, no skein and no launch changed, in one cycle. -/
structure HomeOnly (s t : State) : Prop where
  strands : t.strands = s.strands
  skeins : t.skeins = s.skeins
  launches : t.launches = s.launches
  cycle : t.cycle = s.cycle

namespace HomeOnly

theorem refl (s : State) : HomeOnly s s := ⟨rfl, rfl, rfl, rfl⟩

theorem trans {s t u : State} (h : HomeOnly s t) (h' : HomeOnly t u) : HomeOnly s u :=
  ⟨h'.strands.trans h.strands, h'.skeins.trans h.skeins, h'.launches.trans h.launches, h'.cycle.trans h.cycle⟩

theorem foldl {α : Type} (l : List α) (g : State → α → State) (h : ∀ a x, HomeOnly a (g a x)) (s : State) : HomeOnly s (l.foldl g s) :=
  List.foldlRecOn (motive := fun a => HomeOnly s a) _ _ (refl s) fun a ih x _ => ih.trans (h a x)

theorem branch {s t u : State} {p : Prop} [Decidable p] (h : HomeOnly s t) (h' : HomeOnly s u) : HomeOnly s (if p then t else u) := by
  split
  · exact h
  · exact h'

theorem ofMemory {s t : State} (h : OnlyMemory s t) : HomeOnly s t := by obtain ⟨_, _, _, _, _, rfl⟩ := h; exact ⟨rfl, rfl, rfl, rfl⟩

theorem memPut (s : State) (part : Option Nat) (key : Nat) (b : Byte) : HomeOnly s (s.memPut part key b) := .ofMemory (s.onlyMemory_memPut ..)

theorem modCluster (s : State) (c : Nat) (f : Cluster → Cluster) : HomeOnly s (s.modCluster c f) := ⟨rfl, rfl, rfl, rfl⟩

theorem l2Drop (s : State) (p : Nat → L2Line → Bool) : HomeOnly s (s.l2Drop p) := by
  unfold State.l2Drop
  dsimp only
  split
  · exact .refl s
  · refine HomeOnly.trans (HomeOnly.foldl _ _ (fun a c => ?_) s) (t := List.foldl _ s s.clusters) ⟨rfl, rfl, rfl, rfl⟩
    split
    · exact .refl a
    · exact ⟨rfl, rfl, rfl, rfl⟩

theorem l2Room (s : State) (line : Nat) : HomeOnly s (s.l2Room line) := by
  unfold State.l2Room
  dsimp only
  split
  · exact .refl s
  · split
    · exact .refl s
    · exact HomeOnly.trans (t := { s with freeCtr := s.freeCtr + 1 }) ⟨rfl, rfl, rfl, rfl⟩ (.l2Drop ..)

theorem goHome (s : State) (cl key : Nat) : HomeOnly s (s.goHome cl key) := by
  unfold State.goHome State.atHome
  dsimp only
  split
  · generalize (if (tget? s.l2 (lineOf key)).isSome then 0x16 else 0x17) = code
    refine HomeOnly.trans (t := s.count cl code 1) ⟨rfl, rfl, rfl, rfl⟩ ?_
    split
    · exact ⟨rfl, rfl, rfl, rfl⟩
    · split
      · exact .refl _
      · exact (HomeOnly.l2Room _ (lineOf key)).trans ⟨rfl, rfl, rfl, rfl⟩
  · exact .refl s

theorem goHomes (s : State) (cl : Nat) (bs : List ByteAt) : HomeOnly s (s.goHomes cl bs) :=
  HomeOnly.foldl _ _ (fun a n => .goHome a cl (n * 128)) s

theorem pfGone (s : State) (cl line : Nat) : HomeOnly s (s.pfGone cl line) := by
  unfold State.pfGone
  dsimp only
  split <;> exact ⟨rfl, rfl, rfl, rfl⟩

theorem uoWriteBack (s : State) (cl : Nat) (part : Option Nat) (line : Nat) (fences : List Rel) :
    HomeOnly s (s.uoWriteBack cl part line fences) := by
  unfold State.uoWriteBack
  split
  · exact .refl s
  · next u _ =>
    dsimp only
    split
    · exact .refl s
    · refine HomeOnly.trans ?_ (.modCluster ..)
      refine (HomeOnly.goHome s cl (line * 128)).trans (HomeOnly.trans ?_ (HomeOnly.foldl _ _ (fun a x => .memPut a ..) _))
      exact ⟨rfl, rfl, rfl, rfl⟩

theorem uoDrop (s : State) (cl line : Nat) : HomeOnly s (s.uoDrop cl line) := by
  unfold State.uoDrop
  split
  · exact (HomeOnly.modCluster ..).trans (.pfGone ..)
  · exact .refl s

theorem rcDrop (s : State) (cl line : Nat) : HomeOnly s (s.rcDrop cl line) := by
  unfold State.rcDrop
  split
  · exact (HomeOnly.modCluster ..).trans (.pfGone ..)
  · exact .refl s

theorem uoEvict (s : State) (cl : Nat) (part : Option Nat) (line : Nat) : HomeOnly s (s.uoEvict cl part line) :=
  (HomeOnly.uoWriteBack s cl part line []).trans (.uoDrop ..)

theorem makeRoom (s : State) (cl b : Nat) : HomeOnly s (s.makeRoom cl b) := by
  unfold State.makeRoom
  dsimp only
  split
  · exact .refl s
  · split
    · exact .refl s
    · exact HomeOnly.trans (t := { s with freeCtr := s.freeCtr + 1 }) ⟨rfl, rfl, rfl, rfl⟩ ((HomeOnly.uoEvict ..).trans (.rcDrop ..))

theorem rcFill (s : State) (cl line : Nat) (next : Bool) : HomeOnly s (s.rcFill cl line next) := by
  unfold State.rcFill
  split
  · exact .refl s
  · split
    · exact .refl s
    · exact (HomeOnly.makeRoom ..).trans (.modCluster ..)

theorem uoFill (s : State) (cl line : Nat) (next : Bool) : HomeOnly s (s.uoFill cl line next) := by
  unfold State.uoFill
  split
  · exact .refl s
  · dsimp only
    split
    · exact (HomeOnly.makeRoom ..).trans (.modCluster ..)
    · exact .modCluster ..

theorem refreshLine (s : State) (cl line : Nat) : HomeOnly s (s.refreshLine cl line) := by
  unfold State.refreshLine
  split
  · exact .modCluster ..
  · exact .refl s

theorem refresh (s : State) (cl : Nat) : HomeOnly s (s.refresh cl) := by
  unfold State.refresh
  exact .branch (.refl s) (.modCluster ..)

theorem uoYield (s : State) (k : Nat) (bs : List ByteAt) : HomeOnly s (s.uoYield k bs) := by
  unfold State.uoYield
  split
  · exact .refl s
  · refine HomeOnly.foldl _ _ (fun a b => ?_) s
    split
    · exact .refl a
    · split
      · exact .branch (.uoEvict ..) (.refl a)
      · exact .refl a
    · exact .refl a

theorem bringLines (s : State) (k : Nat) (hint : BitVec 2) (bs : List ByteAt) : HomeOnly s (s.bringLines k hint bs) := by
  unfold State.bringLines
  dsimp only
  refine (HomeOnly.uoYield s k bs).trans (HomeOnly.foldl _ _ (fun a b => ?_) _)
  split
  · split
    · exact .refl a
    · split
      · exact .refl a
      · exact .rcFill ..
  · split
    · exact .refl a
    · split
      · exact .refl a
      · exact (HomeOnly.refreshLine ..).trans (.uoFill ..)
  · exact .refreshLine ..
  · exact .refl a

theorem homeWrite (s : State) (cl : Nat) (part : Option Nat) (a : Nat) (v : Byte) : HomeOnly s (s.homeWrite cl part a v) := by
  unfold State.homeWrite
  dsimp only
  exact ((HomeOnly.branch (.uoEvict ..) (.refl s)).trans (.memPut _ part a v)).trans (.branch (.modCluster ..) (.refl _))

theorem uoLeave (s : State) (cl : Nat) (bs : List ByteAt) : HomeOnly s (s.uoLeave cl bs) := by
  refine HomeOnly.foldl _ _ (fun a b => ?_) s
  split
  · split
    · exact .uoEvict ..
    · exact .refl a
  · exact .refl a

theorem demand (s : State) (cl part : Nat) (lines : List Nat) : HomeOnly s (s.demand cl part lines) := by
  unfold State.demand
  dsimp only
  split <;> exact ⟨rfl, rfl, rfl, rfl⟩

end HomeOnly

end Sys2Proof.Machine
end

section
/-! SUPPORT. What performing queued stores leaves of a fibre: its seat in its strand, the strand's issue numbers, and its launch's replay. -/

namespace Sys2Proof.Machine

/-- A fibre's seat: the next issue number of its strand, and its lanes. -/
def State.seat (s : State) (k : Nat) : Option (Nat × Lanes) :=
  (s.strand? (fibStrand k)).bind fun st => (tget? st.paths (fibPath k)).map fun f => (st.seq, f.laneSet)

theorem State.seat_eq_some_iff {s : State} {k n : Nat} {ls : Lanes} : s.seat k = some (n, ls) ↔
    ∃ st f, s.strand? (fibStrand k) = some st ∧ s.fib? k = some f ∧ st.seq = n ∧ f.laneSet = ls := by
  unfold State.seat State.fib?
  cases s.strand? (fibStrand k) with
  | none => simp
  | some st => cases h : tget? st.paths (fibPath k) <;> simp [h]

/-- Launches are at most removed, and keep their flags. -/
def FlagsKept (s t : Table Launch) : Prop := ∀ n l, tget? t n = some l → ∃ l', tget? s n = some l' ∧ l.flags = l'.flags

theorem FlagsKept.refl (s : Table Launch) : FlagsKept s s := fun _ l h => ⟨l, h, rfl⟩

theorem FlagsKept.tmod (s : Table Launch) (n : Nat) (f : Launch → Launch) (hf : ∀ l, (f l).flags = l.flags) : FlagsKept s (tmod s n f) := by
  intro m l hl
  by_cases h : m = n
  · subst h
    rw [tget?_tmod_self] at hl
    obtain ⟨l', hl', rfl⟩ := Option.map_eq_some_iff.mp hl
    exact ⟨l', hl', hf l'⟩
  · rw [tget?_tmod_ne _ _ h] at hl
    exact ⟨l, hl, rfl⟩

theorem FlagsKept.terase (s : Table Launch) (n : Nat) : FlagsKept s (terase s n) := by
  intro m l hl
  by_cases h : m = n
  · subst h; rw [tget?_terase_self] at hl; cases hl
  · rw [tget?_terase_ne _ h] at hl; exact ⟨l, hl, rfl⟩

/-- Fibre `k`, where it is there, stays in its seat, and its launch is not replayed where it was not. -/
structure Stays (k : Nat) (s t : State) : Prop where of ::
  kept : s.seat k ≠ none → t.seat k = s.seat k ∧ (s.launchFlag k 5 = false → t.launchFlag k 5 = false)

namespace Stays

theorem refl (k : Nat) (s : State) : Stays k s s := ⟨fun _ => ⟨rfl, id⟩⟩

theorem trans {k : Nat} {s t u : State} (h : Stays k s t) (h' : Stays k t u) : Stays k s u := .of fun hs => by
  obtain ⟨hseat, hflag⟩ := h.kept hs
  obtain ⟨hseat', hflag'⟩ := h'.kept (hseat ▸ hs)
  exact ⟨hseat'.trans hseat, hflag' ∘ hflag⟩

theorem branch {k : Nat} {s t u : State} {p : Prop} [Decidable p] (h : Stays k s t) (h' : Stays k s u) : Stays k s (if p then t else u) := by
  split
  · exact h
  · exact h'

theorem foldl {k : Nat} {α : Type} (l : List α) (g : State → α → State) (h : ∀ a x, Stays k a (g a x)) (s : State) :
    Stays k s (l.foldl g s) :=
  List.foldlRecOn (motive := fun a => Stays k s a) _ _ (refl k s) fun a ih x _ => ih.trans (h a x)

/-- The seat, the skein's launch and the launches' flags decide it. -/
theorem intro {k : Nat} {s t : State} (hseat : t.seat k = s.seat k)
    (hskein : (t.skein? (fibSkein k)).map (·.launch) = (s.skein? (fibSkein k)).map (·.launch)) (hl : FlagsKept s.launches t.launches) :
    Stays k s t := by
  refine .of fun _ => ⟨hseat, fun hf => ?_⟩
  unfold State.launchFlag State.launchOf at *
  cases ht : t.skein? (fibSkein k) with
  | none => rfl
  | some sk =>
    rw [ht] at hskein
    obtain ⟨sk', hs, hlaunch⟩ := Option.map_eq_some_iff.mp hskein.symm
    rw [hs] at hf
    cases hl' : tget? t.launches sk.launch with
    | none => simp [hl']
    | some l =>
      obtain ⟨l', hs', hflags⟩ := hl _ _ hl'
      rw [Option.bind_some, hlaunch, hs'] at hf
      simpa [hl', hflags] using hf

theorem ofHome {k : Nat} {s t : State} (h : HomeOnly s t) : Stays k s t :=
  .intro (by simp only [State.seat, State.strand?_of_strands h.strands]) (by simp only [State.skein?, h.skeins])
    (by rw [h.launches]; exact .refl _)

/-- A change of a strand that keeps its issue number and its fibres' lanes. -/
theorem modStrand {k : Nat} (s : State) (n : Nat) (g : Strand → Strand) (hseq : ∀ st, (g st).seq = st.seq)
    (hp : ∀ st p, (tget? (g st).paths p).map (·.laneSet) = (tget? st.paths p).map (·.laneSet)) : Stays k s (s.modStrand n g) := by
  refine .intro ?_ rfl (.refl _)
  unfold State.seat
  by_cases h : fibStrand k = n
  · subst h
    rw [State.strand?_modStrand_self]
    cases s.strand? (fibStrand k) with
    | none => rfl
    | some st =>
      have := hp st (fibPath k)
      simp only [Option.map_some, Option.bind_some, hseq]
      cases h1 : tget? (g st).paths (fibPath k) <;> cases h2 : tget? st.paths (fibPath k) <;> simp_all
  · rw [State.strand?_modStrand_ne _ _ h]

theorem modFib {k : Nat} (s : State) (j : Nat) (g : Fibre → Fibre) (hg : ∀ f, (g f).laneSet = f.laneSet) : Stays k s (s.modFib j g) := by
  refine .modStrand s _ _ (fun _ => rfl) fun st p => ?_
  by_cases h : p = fibPath j
  · subst h
    rw [tget?_tmod_self]
    cases tget? st.paths (fibPath j) <;> simp [hg]
  · rw [tget?_tmod_ne _ _ h]

theorem modSkein {k : Nat} (s : State) (n : Nat) (g : Skein → Skein) (hg : ∀ x, (g x).launch = x.launch) : Stays k s (s.modSkein n g) := by
  refine .intro rfl ?_ (.refl _)
  by_cases h : fibSkein k = n
  · subst h
    rw [State.skein?_modSkein_self]
    cases s.skein? (fibSkein k) <;> simp [hg]
  · rw [State.skein?_modSkein_ne _ _ h]

theorem modLaunch {k : Nat} (s : State) (n : Nat) (g : Launch → Launch) (hg : ∀ l, (g l).flags = l.flags) : Stays k s (s.modLaunch n g) :=
  .intro rfl rfl (.tmod _ _ _ hg)

theorem packet {k : Nat} (s : State) (j type : Nat) (payload : List Byte) : Stays k s (s.packet j type payload) := by
  unfold State.packet
  exact .branch (.ofHome (.modCluster ..)) (.refl k s)

theorem unslot {k : Nat} (s : State) (j : Nat) : Stays k s (s.unslot j) := by
  unfold State.unslot
  split
  · exact .refl k s
  · exact .ofHome (.modCluster ..)

theorem ready {k : Nat} (s : State) (j : Nat) : Stays k s (s.ready j) := by
  unfold State.ready
  dsimp only
  have h : Stays k s ((s.unslot j).modFib j fun f => { f with state := .ready, wait := .none, pubs := [], stamp := s.cycle, beats := [], wsHeld := false }) :=
    (Stays.unslot s j).trans (.modFib _ _ _ fun _ => rfl)
  exact .branch (h.trans (.packet ..)) h

theorem syncLines {k : Nat} (s : State) (j : Nat) : Stays k s (s.syncLines j) :=
  (Stays.modSkein s (fibSkein j) (fun sk => { sk with logged := [] }) fun _ => rfl).trans (.ofHome (.refresh ..))

theorem fenceSync {k : Nat} (s : State) (j : Nat) (kind : FenceKind) (scope : Nat) : Stays k s (s.fenceSync j kind scope) := by
  unfold State.fenceSync
  exact (Stays.branch (.refl k s) (.syncLines s j)).trans (.modFib _ _ _ fun _ => rfl)

theorem acquire {k : Nat} (s : State) (j scope : Nat) (rels : List Rel) : Stays k s (s.acquire j scope rels) := .modFib _ _ _ fun _ => rfl

theorem learn {k : Nat} (s : State) (ks : List Nat) (seen : List (Loc × Nat)) (rels : List Rel) : Stays k s (s.learn ks seen rels) := by
  refine .foldl _ _ (fun a j => ?_) s
  exact .modFib a j _ fun _ => rfl

theorem soPlace {k : Nat} (s : State) (v : View) (seen : List (Loc × Nat)) : Stays k s (s.soPlace v seen) := .ofHome ⟨rfl, rfl, rfl, rfl⟩

theorem beginWrite {k : Nat} (s : State) (rels : List Rel) : Stays k s (s.beginWrite rels) := .ofHome ⟨rfl, rfl, rfl, rfl⟩

theorem count {k : Nat} (s : State) (cl code n : Nat) : Stays k s (s.count cl code n) := .ofHome ⟨rfl, rfl, rfl, rfl⟩

theorem modPart {k : Nat} (s : State) (p : Nat) (f : Partition → Partition) : Stays k s (s.modPart p f) := .ofHome ⟨rfl, rfl, rfl, rfl⟩

theorem memWriteBytes {k : Nat} (s : State) (part : Option Nat) (key : Nat) (bs : List Byte) : Stays k s (s.memWriteBytes part key bs) :=
  .ofHome (.ofMemory (s.onlyMemory_memWriteBytes ..))

theorem modSpindle {k : Nat} (s : State) (c i : Nat) (f : Spindle → Spindle) : Stays k s (s.modSpindle c i f) := .ofHome (.modCluster ..)

theorem locPut {k : Nat} (s : State) (part : Option Nat) (l : Loc) (b : Byte) : Stays k s (s.locPut part l b) := by
  unfold State.locPut
  split
  · exact .ofHome (.memPut ..)
  · next sk o =>
    exact (Stays.modSkein s sk (fun x => { x with scratch := cellWrite x.scratch (x.physOfs o) b }) fun _ => rfl).trans
      (.ofHome ⟨rfl, rfl, rfl, rfl⟩)

theorem poisonLine {k : Nat} (s : State) (l : Loc) : Stays k s (s.poisonLine l) := by
  unfold State.poisonLine
  split
  · exact .branch (.refl k s) (.ofHome ⟨rfl, rfl, rfl, rfl⟩)
  · exact .modSkein s _ _ fun x => by split <;> rfl

/-! ### Performing the parts of an entry -/

theorem byteWrite {k : Nat} (s : State) (cl : Nat) (part : Option Nat) (owners : List Nat) (b : ByteAt) (v : Byte) (hint : BitVec 2) :
    Stays k s (s.byteWrite cl part owners b v hint) := by
  unfold State.byteWrite
  split
  · exact .branch (.ofHome (.homeWrite ..)) (.ofHome ((HomeOnly.uoFill ..).trans (.modCluster ..)))
  · exact .ofHome (.homeWrite ..)
  · exact .locPut ..

theorem atomPerform {k : Nat} (s : State) (cl : Nat) (part : Option Nat) (op : AtomOp) (t : AType) (a : AtomLane) (rels : List Rel) :
    Stays k s (s.atomPerform cl part op t a rels).1 := by
  unfold State.atomPerform
  split
  · exact .refl k s
  · dsimp only
    exact ((Stays.ofHome (.uoLeave s cl a.acc.bytes)).trans (.beginWrite ..)).trans (.foldl _ _ (fun x b => .byteWrite x ..) _)

theorem wrote {k : Nat} (s : State) (cl : Nat) (e : StoreEntry) (bs : List ByteAt) (rels : List Rel) : Stays k s (s.wrote cl e bs rels) := by
  unfold State.wrote
  dsimp only
  exact ((Stays.branch (.soPlace ..) (.refl k s)).trans (.learn ..)).trans (.modSpindle ..)

theorem performPart {k : Nat} (s : State) (cl : Nat) (part : Option Nat) (e : StoreEntry) (i : Nat) :
    Stays k s (s.performPart cl part e i) := by
  unfold State.performPart
  split
  · split
    · exact .branch (.foldl _ _ (fun z (b : ByteAt) => .poisonLine z b.loc) s) ((Stays.atomPerform ..).trans (.wrote ..))
    · exact .refl k s
  · split
    · dsimp only
      have h : ∀ (p : Prop) [Decidable p] (line : Nat), Stays k s (if p then s else s.uoWriteBack cl part line e.fences) := fun p _ line =>
        .branch (.refl k s) (.ofHome (.uoWriteBack ..))
      exact .branch (h _ _) ((h _ _).trans (.ofHome ((HomeOnly.uoDrop ..).trans (.rcDrop ..))))
    · exact .refl k s
  · refine (((Stays.ofHome (.uoLeave ..)).trans (.beginWrite ..)).trans (.foldl _ _ (fun x b => ?_) _)).trans (.wrote ..)
    exact .branch (.poisonLine ..) (.byteWrite ..)

theorem performParts {k : Nat} (s : State) (cl : Nat) (part : Option Nat) (e : StoreEntry) (is : List Nat) :
    Stays k s (s.performParts cl part e is) :=
  (Stays.ofHome (.goHomes s cl _)).trans (.foldl _ _ (fun a i => .performPart a cl part e i) _)

theorem atomOne {k : Nat} (s : State) (j : Nat) (r : AtomReq) (x : AtomLane) (view : View) (fences : List Rel) :
    Stays k s (s.atomOne j r x view fences).1 := by
  unfold State.atomOne
  dsimp only
  generalize hy : s.atomPerform _ _ _ _ _ _ = y
  have h : Stays k s y.1 := hy ▸ .atomPerform ..
  split
  · exact h
  · refine h.trans (Stays.trans (.branch (.soPlace ..) (.refl ..)) (.branch ?_ (.refl ..)))
    exact .ofHome ⟨rfl, rfl, rfl, rfl⟩

theorem atomLanes {k : Nat} (s : State) (j : Nat) (r : AtomReq) (is : List Nat) (e : Option StoreEntry) :
    Stays k s (s.atomLanes j r is e).1 := by
  unfold State.atomLanes
  dsimp only
  generalize hp : List.foldl _ _ _ = p
  have h : Stays k s p.1 := by
    subst hp
    refine List.foldlRecOn (motive := fun a : State × AtomReq => Stays k s a.1) _ _ (.ofHome (.goHomes ..)) fun a ih x _ => ih.trans ?_
    dsimp only
    cases e with
    | none => exact .branch (.atomOne ..) ((Stays.atomOne ..).trans (.learn ..))
    | some e => exact .branch (.atomOne ..) ((Stays.atomOne ..).trans (.wrote ..))
  exact .branch h (h.trans (.count ..))

theorem replayRecord {k : Nat} (s : State) (j addr kind lane : Nat) (body : List Byte) : Stays k s (s.replayRecord j addr kind lane body) := by
  unfold State.replayRecord
  split
  · exact .refl k s
  · next sk _ =>
    dsimp only
    refine .branch (.refl k s) (.branch ?_ ?_)
    · exact (Stays.modLaunch s sk.launch (fun l => { l with logFull := true }) fun _ => rfl).trans (.modPart ..)
    · refine Stays.trans (Stays.trans ((Stays.memWriteBytes ..).trans (.modPart ..)) (.modSkein _ _ _ ?_)) (.count ..)
      exact fun _ => rfl

theorem atomLog {k : Nat} (s : State) (j : Nat) (r : AtomReq) : Stays k s (s.atomLog j r) := by
  unfold State.atomLog
  exact .branch (.foldl _ _ (fun a x => .replayRecord a ..) s) (.refl k s)

theorem hold {k : Nat} (s : State) (j seq : Nat) (t : Trap) : Stays k s (s.hold j seq t) := .modFib s j _ fun _ => rfl

theorem holdBad {k : Nat} (s : State) (j seq : Nat) (bad : List (LaneAcc × Cause)) (word : Word) (land : Nat × Nat × Nat) :
    Stays k s (s.holdBad j seq bad word land) := by
  unfold State.holdBad
  split
  · exact Stays.trans (t := { s with freeCtr := s.freeCtr + 96 }) (.ofHome ⟨rfl, rfl, rfl, rfl⟩) (.hold ..)
  · exact .refl k s

theorem atomLate {k : Nat} (s : State) (e : StoreEntry) (r : AtomReq) : Stays k s (s.atomLate e r) := by
  unfold State.atomLate
  dsimp only
  generalize hu : (if r.acq then _ else s) = u
  have h : Stays k s u := by
    subst hu
    exact .branch ((Stays.foldl _ _ (fun a j => (Stays.syncLines a j).trans (.acquire ..)) s).trans (.modSpindle ..)) (.refl k s)
  generalize hv : State.modStrand _ e.strand _ = v
  have h' : Stays k s v := by
    subst hv
    exact (h.trans (.atomLog u (mkFib e.strand 0) r)).trans (.modStrand _ _ _ (fun _ => rfl) fun _ _ => rfl)
  split
  · exact h'.trans (.holdBad ..)
  · exact h'

theorem performEntry {k : Nat} (s : State) (cl : Nat) (part : Option Nat) (e : StoreEntry) : Stays k s (s.performEntry cl part e) := by
  unfold State.performEntry State.performSome
  split
  · exact .branch ((Stays.atomLanes ..).trans (.atomLate ..)) (.atomLanes ..)
  · exact .performParts ..

/-! ### The end of strands whose stores have been performed -/

theorem wakeFences {k : Nat} (s : State) (cl sp : Nat) : Stays k s (s.wakeFences cl sp) := by
  refine .foldl _ _ (fun a f => ?_) s
  split
  · exact .branch ((Stays.fenceSync ..).trans (.ready ..)) (.refl k a)
  · exact .refl k a

theorem locWrites {k : Nat} (s : State) (part : Option Nat) (bs : List (Loc × Byte)) : Stays k s (s.locWrites part bs) :=
  (Stays.beginWrite s _).trans (.foldl _ _ (fun a _ => .locPut a ..) _)

theorem raise {k : Nat} (s : State) (v : Nat) : Stays k s (s.raise v) := by
  unfold State.raise
  exact .branch (.ofHome ⟨rfl, rfl, rfl, rfl⟩) (.ofHome ⟨rfl, rfl, rfl, rfl⟩)

theorem pageRequest {k : Nat} (s : State) (d : Nat) (e : PrqEntry) : Stays k s (s.pageRequest d e) := by
  refine .ofHome ?_
  unfold State.pageRequest
  dsimp only
  repeat' split
  all_goals exact ⟨rfl, rfl, rfl, rfl⟩

theorem eraseLaunch {k : Nat} (s : State) (n : Nat) : Stays k s { s with launches := terase s.launches n } :=
  .intro rfl rfl (.terase s.launches n)

theorem writeCompletion {k : Nat} (s : State) (n : Nat) (status count : Word) : Stays k s (s.writeCompletion n status count) := by
  unfold State.writeCompletion
  split
  · exact .refl k s
  · next l _ =>
    split
    · next s' hs' =>
      obtain ⟨bs, -, rfl⟩ := Option.map_eq_some_iff.mp hs'
      have h := (Stays.locWrites (k := k) s (some (l.ctxKey / 16)) ((bs.zip (completionBytes status count l.seq)).map fun b => (b.1.loc, b.2))).trans
        (.eraseLaunch _ n)
      exact .branch (h.trans (.raise ..)) h
    · exact (Stays.pageRequest ..).trans (.modLaunch _ _ _ fun _ => rfl)

theorem tryComplete {k : Nat} (s : State) (n : Nat) : Stays k s (s.tryComplete n) := by
  unfold State.tryComplete
  split
  · exact .refl k s
  · exact .branch (.writeCompletion ..) (.refl k s)

/-- One more strand of a launch has ended. -/
theorem endedOne {k : Nat} (s : State) (n : Nat) : Stays k s ((s.modLaunch n fun l => { l with ended := l.ended + 1 }).tryComplete n) :=
  (Stays.modLaunch s n (fun l => { l with ended := l.ended + 1 }) fun _ => rfl).trans (.tryComplete ..)

theorem unbindAll {k : Nat} (s : State) (sk : Nat) : Stays k s (s.unbindAll sk) := by
  refine .foldl _ _ (fun a e => ?_) s
  unfold State.unbind
  split
  · refine Stays.trans (.modSkein _ _ _ ?_) (.ofHome (.modCluster ..))
    exact fun _ => rfl
  · exact .refl k a

/-- The end of another skein. -/
theorem endSkein {k : Nat} (s : State) {sk : Nat} (h : fibSkein k ≠ sk) : Stays k s (s.endSkein sk) := by
  unfold State.endSkein
  split
  · exact .refl k s
  · next x _ =>
    dsimp only
    have herase : Stays k (s.unbindAll sk) { s.unbindAll sk with skeins := terase (s.unbindAll sk).skeins sk } :=
      .intro rfl (by simp only [State.skein?, tget?_terase_ne _ h]) (.refl _)
    generalize hu : List.foldl _ _ x.withdrew = u
    have hend : Stays k s u := by
      subst hu
      exact ((Stays.unbindAll s sk).trans herase).trans (.foldl _ _ (fun a n => .endedOne a n) _)
    split
    · exact hend.trans (.endedOne ..)
    · exact hend.trans (.modLaunch _ _ _ fun _ => rfl)

theorem mxAbandon {k : Nat} (s : State) (n : Nat) : Stays k s (s.mxAbandon n) := by
  unfold State.mxAbandon
  split
  · exact .refl k s
  · refine .branch ?_ (.refl k s)
    dsimp only
    split
    · refine Stays.trans (Stays.trans ?_ (.ofHome (.modCluster ..))) (.modLaunch _ _ _ fun _ => rfl)
      exact .modStrand _ _ _ (fun _ => rfl) fun _ _ => rfl
    · refine Stays.trans ?_ (.ofHome (.modCluster ..))
      exact .modStrand _ _ _ (fun _ => rfl) fun _ _ => rfl

/-- A strand that is over has no fibre. -/
theorem seat_of_strandOver {s : State} {k : Nat} (h : s.strandOver (fibStrand k) = true) : s.seat k = none := by
  unfold State.strandOver at h
  unfold State.seat
  cases hst : s.strand? (fibStrand k) with
  | none => rfl
  | some st =>
    rw [hst] at h
    have hp : st.paths = [] := by
      simp only [Bool.and_eq_true, List.isEmpty_iff] at h
      exact h.1.1.1.1
    rw [Option.bind_some, hp]
    rfl

/-- A fibre's strand stands among the strands. -/
theorem strand_of_seat {s : State} {k : Nat} (h : s.seat k ≠ none) : (s.strands.any fun e => strandSkein e.1 == fibSkein k) = true := by
  cases hst : s.strand? (fibStrand k) with
  | none => exact absurd (by unfold State.seat; rw [hst]; rfl) h
  | some st => exact List.any_eq_true.mpr ⟨_, mem_of_tget? hst, by simp [fibSkein]⟩

/-- Once a strand is over, its skein ends unless it has another strand: a fibre that is in its seat keeps it. -/
theorem endSkeinUnlessUsed {k : Nat} {a u : State} (sk : Nat) (h : Stays k a u) (hs : a.seat k ≠ none) :
    Stays k u (if u.strands.any fun e => strandSkein e.1 == sk then u else u.endSkein sk) := by
  split
  · exact .refl k u
  · next hany =>
    refine .endSkein u fun he => hany (he ▸ strand_of_seat ?_)
    rw [(h.kept hs).1]
    exact hs

/-- The end of a strand that is over leaves a fibre that is in its seat. -/
theorem tryEndStrand {k : Nat} (s : State) (n : Nat) : Stays k s (s.tryEndStrand n) := by
  unfold State.tryEndStrand
  dsimp only
  refine (Stays.mxAbandon s n).trans ?_
  generalize s.mxAbandon n = a
  split
  · next hover =>
    refine .of fun hs => ?_
    have hne : fibStrand k ≠ n := fun he => hs (seat_of_strandOver (he ▸ hover))
    have herase : Stays k a { a with strands := terase a.strands n } :=
      .intro (by simp only [State.seat, State.strand?, tget?_terase_ne _ hne]) rfl (.refl _)
    have ends := fun (u : State) (h : Stays k a u) => (h.trans (endSkeinUnlessUsed (strandSkein n) h hs)).kept hs
    refine ends _ ?_
    split
    · exact herase.trans (.branch (.modLaunch _ _ _ fun _ => rfl) (.refl ..))
    · exact herase
  · exact .refl k a

theorem dropStores {k : Nat} (s : State) (cl sp : Nat) (p : StoreEntry → Bool) : Stays k s (s.dropStores cl sp p) :=
  ((Stays.modSpindle s cl sp fun x => { x with stores := x.stores.filter fun e => !p e }).trans (.wakeFences ..)).trans
    (.foldl _ _ (fun a n => .tryEndStrand a n) _)

theorem lateFirst {k : Nat} (s : State) (j : Nat) (bs : List ByteAt) : Stays k s (s.lateFirst j bs) := by
  unfold State.lateFirst State.drainFor
  refine .branch (.branch (.refl k s) ?_) (.refl k s)
  exact (Stays.foldl _ _ (fun a e => .performEntry a ..) s).trans (.dropStores ..)

end Stays

end Sys2Proof.Machine
end

section
/-! SUPPORT. What the steps of a load leave: the writes in flight of its strand, which bytes are bad, and what the fibre reads. -/

namespace Sys2Proof.Machine

/-! ### Changes of a strand's fibres -/

/-- From `s` to `t` other strands stay, and strand `n` keeps its registers and its writes in flight. -/
structure FlightsKept (n : Nat) (s t : State) : Prop where
  others : OtherStrands n s t
  kept : ∀ st, s.strand? n = some st → ∃ st', t.strand? n = some st' ∧ st'.regs = st.regs ∧ st'.flights = st.flights

namespace FlightsKept

theorem ofBare {n : Nat} {s t : State} (h : OtherStrands n s t) (hb : t.bare n = s.bare n) : FlightsKept n s t := by
  refine ⟨h, fun st hs => ?_⟩
  unfold State.bare at hb
  rw [hs, Option.map_some] at hb
  obtain ⟨st', ht, he⟩ := Option.map_eq_some_iff.mp hb
  exact ⟨st', ht, by simpa using congrArg Strand.regs he, by simpa using congrArg Strand.flights he⟩

theorem ofStrands {s t : State} (h : t.strands = s.strands) (n : Nat) : FlightsKept n s t :=
  .ofBare (fun m _ => State.strand?_of_strands h m) (State.bare_of_strands h n)

theorem refl (n : Nat) (s : State) : FlightsKept n s s := ofStrands rfl n

theorem trans {n : Nat} {s t u : State} (h : FlightsKept n s t) (h' : FlightsKept n t u) : FlightsKept n s u :=
  ⟨fun m hm => (h'.others m hm).trans (h.others m hm), fun st hs => by
    obtain ⟨st', ht, hr, hf⟩ := h.kept st hs
    obtain ⟨st'', hu, hr', hf'⟩ := h'.kept st' ht
    exact ⟨st'', hu, hr'.trans hr, hf'.trans hf⟩⟩

theorem modFib (s : State) (k : Nat) (f : Fibre → Fibre) : FlightsKept (fibStrand k) s (s.modFib k f) :=
  .ofBare (fun _ hm => State.strand?_modStrand_ne _ _ hm) (State.bare_modFib ..)

/-- A change of a fibre that leaves its slot. -/
theorem unslotted (s : State) (k : Nat) (f : Fibre → Fibre) : FlightsKept (fibStrand k) s ((s.unslot k).modFib k f) :=
  (ofStrands (State.unslot_strands s k) _).trans (.modFib ..)

theorem park (s : State) (k : Nat) (w : Wait) : FlightsKept (fibStrand k) s (s.park k w) := by
  unfold State.park
  dsimp only
  split
  · exact .unslotted ..
  · exact (FlightsKept.unslotted ..).trans (.ofStrands (State.packet_strands ..) _)

theorem ready (s : State) (k : Nat) : FlightsKept (fibStrand k) s (s.ready k) := by
  unfold State.ready
  dsimp only
  split
  · exact (FlightsKept.unslotted ..).trans (.ofStrands (State.packet_strands ..) _)
  · exact .unslotted ..

theorem learn (s : State) (k : Nat) (seen : List (Loc × Nat)) (rels : List Rel) : FlightsKept (fibStrand k) s (s.learn [k] seen rels) := modFib ..

theorem looked (s : State) (k : Nat) (xs : List (LaneAcc × List Look)) : FlightsKept (fibStrand k) s (s.looked k xs) := by
  unfold State.looked
  dsimp only
  split
  · exact (ofStrands (s := s) (t := s.soPlace (s.viewOf k) ((xs.flatMap (·.2)).flatMap (·.seen))) rfl _).trans (learn _ k ..)
  · exact .learn s k ..

theorem acquire (s : State) (k scope : Nat) (rels : List Rel) : FlightsKept (fibStrand k) s (s.acquire k scope rels) := modFib ..

theorem hold (s : State) (k seq : Nat) (t : Trap) : FlightsKept (fibStrand k) s (s.hold k seq t) := modFib ..

theorem takeSeq (s : State) (k : Nat) : FlightsKept (fibStrand k) s (s.takeSeq k).1 := by
  unfold State.takeSeq
  split
  · exact ⟨fun _ hm => State.strand?_modStrand_ne _ _ hm, fun st hs =>
      ⟨_, (State.strand?_modStrand_self ..).trans (congrArg _ hs), rfl, rfl⟩⟩
  · exact .refl _ s

theorem regKept {n : Nat} {s t : State} (h : FlightsKept n s t) (r : Nat) : RegKept n r s t := fun st hs => by
  obtain ⟨st', ht, hr, hf⟩ := h.kept st hs
  exact ⟨st', ht, by unfold Strand.row; rw [hr], by rw [hf]⟩

end FlightsKept

/-! ### Bad bytes -/

/-- From `s` to `t` a byte is bad where it was. -/
structure BadKept (s t : State) : Prop where
  poison : t.poison = s.poison
  hostErr : t.hostErr = s.hostErr
  linkDown : t.linkDown = s.linkDown
  skeins : ∀ n, (t.skein? n).map (fun x => (x.scrPoison, x.scrcfg)) = (s.skein? n).map fun x => (x.scrPoison, x.scrcfg)

namespace BadKept

theorem refl (s : State) : BadKept s s := ⟨rfl, rfl, rfl, fun _ => rfl⟩

theorem trans {s t u : State} (h : BadKept s t) (h' : BadKept t u) : BadKept s u :=
  ⟨h'.poison.trans h.poison, h'.hostErr.trans h.hostErr, h'.linkDown.trans h.linkDown, fun n => (h'.skeins n).trans (h.skeins n)⟩

theorem foldl {α : Type} (l : List α) (g : State → α → State) (h : ∀ a x, BadKept a (g a x)) (s : State) : BadKept s (l.foldl g s) :=
  List.foldlRecOn (motive := fun a => BadKept s a) _ _ (refl s) fun a ih x _ => ih.trans (h a x)

theorem branch {s t u : State} {p : Prop} [Decidable p] (h : BadKept s t) (h' : BadKept s u) : BadKept s (if p then t else u) := by
  split
  · exact h
  · exact h'

theorem ofMemory {s t : State} (h : OnlyMemory s t) : BadKept s t := by
  obtain ⟨_, _, _, _, _, rfl⟩ := h
  exact ⟨rfl, rfl, rfl, fun _ => rfl⟩

theorem modCluster (s : State) (c : Nat) (f : Cluster → Cluster) : BadKept s (s.modCluster c f) := ⟨rfl, rfl, rfl, fun _ => rfl⟩

theorem count (s : State) (cl code n : Nat) : BadKept s (s.count cl code n) := modCluster ..

theorem modFib (s : State) (k : Nat) (f : Fibre → Fibre) : BadKept s (s.modFib k f) := ⟨rfl, rfl, rfl, fun _ => rfl⟩

theorem modPart (s : State) (p : Nat) (f : Partition → Partition) : BadKept s (s.modPart p f) := ⟨rfl, rfl, rfl, fun _ => rfl⟩

theorem modSkein (s : State) (n : Nat) (g : Skein → Skein) (h : ∀ x, (g x).scrPoison = x.scrPoison ∧ (g x).scrcfg = x.scrcfg) :
    BadKept s (s.modSkein n g) := by
  refine ⟨rfl, rfl, rfl, fun m => ?_⟩
  by_cases hm : m = n
  · subst hm
    rw [State.skein?_modSkein_self]
    cases s.skein? m <;> simp [h]
  · rw [State.skein?_modSkein_ne _ _ hm]

theorem demand (s : State) (cl part : Nat) (lines : List Nat) : BadKept s (s.demand cl part lines) := by
  unfold State.demand
  dsimp only
  split <;> exact ⟨rfl, rfl, rfl, fun _ => rfl⟩

theorem syncLines (s : State) (k : Nat) : BadKept s (s.syncLines k) := by
  unfold State.syncLines State.refresh
  refine (modSkein s (fibSkein k) (fun sk => { sk with logged := [] }) fun _ => ⟨rfl, rfl⟩).trans ?_
  exact .branch (.refl _) (.modCluster ..)

theorem looked (s : State) (k : Nat) (xs : List (LaneAcc × List Look)) : BadKept s (s.looked k xs) := by
  unfold State.looked
  dsimp only
  split <;> exact ⟨rfl, rfl, rfl, fun _ => rfl⟩

theorem acquire (s : State) (k scope : Nat) (rels : List Rel) : BadKept s (s.acquire k scope rels) := modFib ..

theorem replayRecord (s : State) (k addr kind lane : Nat) (body : List Byte) : BadKept s (s.replayRecord k addr kind lane body) := by
  unfold State.replayRecord
  split
  · exact .refl s
  · next sk _ =>
    dsimp only
    split
    · exact .refl s
    · split
      · exact ⟨rfl, rfl, rfl, fun _ => rfl⟩
      · refine BadKept.trans ?_ (.count ..)
        refine BadKept.trans ((BadKept.ofMemory (State.onlyMemory_memWriteBytes ..)).trans (.modPart ..)) (.modSkein _ _ _ ?_)
        exact fun _ => ⟨rfl, rfl⟩

theorem replayLoad (s : State) (k : Nat) (lanes : List LaneAcc) (got : List (LaneAcc × List Byte)) : BadKept s (s.replayLoad k lanes got) := by
  unfold State.replayLoad
  split
  · exact .refl s
  · refine .foldl _ _ (fun a x => ?_) s
    split
    · exact .refl a
    · refine .foldl _ _ (fun b y => ?_) a
      split
      · dsimp only
        refine .branch (.refl b) ((BadKept.replayRecord ..).trans (.modSkein _ _ _ ?_))
        exact fun _ => ⟨rfl, rfl⟩
      · exact .refl b

theorem badByte {s t : State} (h : BadKept s t) (b : ByteAt) : t.badByte b = s.badByte b := by
  unfold State.badByte
  cases b.loc with
  | mem k => simp only [h.poison, h.hostErr, h.linkDown]
  | scr sk o =>
    have hs := h.skeins sk
    dsimp only
    cases hs' : s.skein? sk with
    | none =>
      rw [hs', Option.map_none, Option.map_eq_none_iff] at hs
      rw [hs]
    | some x =>
      rw [hs', Option.map_some] at hs
      obtain ⟨y, hy, he⟩ := Option.map_eq_some_iff.mp hs
      simp only [Prod.mk.injEq] at he
      simp only [hy, Option.map_some, he.1, Skein.physOfs_congr he.2]

theorem badLane {s t : State} (h : BadKept s t) (a : LaneAcc) : t.badLane a = s.badLane a := by
  unfold State.badLane
  exact congrArg (a.bytes.findSome? ·) (funext h.badByte)

end BadKept

/-! ### Reads -/

/-- From `s` to `t` only clusters changed, and none in its lines and its store queues. -/
structure SameReads (s t : State) : Prop where
  but : t = { s with clusters := t.clusters }
  uo : ∀ c, (t.cluster c).uo = (s.cluster c).uo
  l1 : ∀ c, (t.cluster c).l1 = (s.cluster c).l1
  spindles : ∀ c, (t.cluster c).spindles = (s.cluster c).spindles

namespace SameReads

theorem refl (s : State) : SameReads s s := ⟨rfl, fun _ => rfl, fun _ => rfl, fun _ => rfl⟩

theorem trans {s t u : State} (h : SameReads s t) (h' : SameReads t u) : SameReads s u where
  but := by rw [h'.but, h.but]
  uo c := (h'.uo c).trans (h.uo c)
  l1 c := (h'.l1 c).trans (h.l1 c)
  spindles c := (h'.spindles c).trans (h.spindles c)

theorem modCluster (s : State) (c : Nat) (f : Cluster → Cluster)
    (h : ∀ x, (f x).uo = x.uo ∧ (f x).l1 = x.l1 ∧ (f x).spindles = x.spindles) : SameReads s (s.modCluster c f) := by
  have key : ∀ n, ((s.modCluster c f).cluster n).uo = (s.cluster n).uo ∧ ((s.modCluster c f).cluster n).l1 = (s.cluster n).l1 ∧
      ((s.modCluster c f).cluster n).spindles = (s.cluster n).spindles := fun n => by
    by_cases hn : n = c
    · subst hn; rw [State.cluster_modCluster_self]; exact h _
    · rw [State.cluster_modCluster_ne _ _ hn]; exact ⟨rfl, rfl, rfl⟩
  exact ⟨rfl, fun n => (key n).1, fun n => (key n).2.1, fun n => (key n).2.2⟩

/-- The same change on either side. -/
theorem both {s t : State} (h : SameReads s t) (c : Nat) (f : Cluster → Cluster) (huo : ∀ x y, y.uo = x.uo → (f y).uo = (f x).uo)
    (hl1 : ∀ x y, y.l1 = x.l1 → (f y).l1 = (f x).l1) (hsp : ∀ x y, y.spindles = x.spindles → (f y).spindles = (f x).spindles) :
    SameReads (s.modCluster c f) (t.modCluster c f) := by
  have key : ∀ n, ((t.modCluster c f).cluster n).uo = ((s.modCluster c f).cluster n).uo ∧
      ((t.modCluster c f).cluster n).l1 = ((s.modCluster c f).cluster n).l1 ∧
      ((t.modCluster c f).cluster n).spindles = ((s.modCluster c f).cluster n).spindles := fun n => by
    by_cases hn : n = c
    · subst hn
      simp only [State.cluster_modCluster_self]
      exact ⟨huo _ _ (h.uo n), hl1 _ _ (h.l1 n), hsp _ _ (h.spindles n)⟩
    · simp only [State.cluster_modCluster_ne _ _ hn]
      exact ⟨h.uo n, h.l1 n, h.spindles n⟩
  refine ⟨?_, fun n => (key n).1, fun n => (key n).2.1, fun n => (key n).2.2⟩
  unfold State.modCluster
  rw [h.but]

theorem count (s : State) (cl code n : Nat) : SameReads s (s.count cl code n) := modCluster _ _ _ fun _ => ⟨rfl, rfl, rfl⟩

theorem demand (s : State) (cl part : Nat) (lines : List Nat) : SameReads s (s.demand cl part lines) := by
  unfold State.demand
  dsimp only
  split
  · exact .refl s
  · refine SameReads.trans (SameReads.trans (SameReads.trans ?_ (.count ..)) (.count ..)) (.count ..)
    exact .modCluster _ _ _ fun _ => ⟨rfl, rfl, rfl⟩

/-- RC copies follow their homes in either. -/
theorem syncLines {s t : State} (h : SameReads s t) (k : Nat) : SameReads (s.syncLines k) (t.syncLines k) := by
  have h1 : SameReads (s.modSkein (fibSkein k) fun sk => { sk with logged := [] }) (t.modSkein (fibSkein k) fun sk => { sk with logged := [] }) :=
    ⟨by rw [h.but]; rfl, h.uo, h.l1, h.spindles⟩
  unfold State.syncLines State.refresh
  generalize (s.modSkein (fibSkein k) fun sk => { sk with logged := [] }) = a at h1 ⊢
  generalize (t.modSkein (fibSkein k) fun sk => { sk with logged := [] }) = b at h1 ⊢
  have hl : b.homeLine = a.homeLine := by rw [h1.but]; rfl
  rw [h1.l1, hl]
  split
  · exact h1
  · exact h1.both _ _ (fun x y he => he) (fun x y he => by simp only [he]) fun x y he => he

theorem myStores {s t : State} (h : SameReads s t) (k : Nat) : t.myStores k = s.myStores k := by
  unfold State.myStores State.storesOf State.spindle State.spindleOf
  rw [h.spindles, h.but]
  rfl

theorem loadMay {s t : State} (h : SameReads s t) (k : Nat) (bs : List LaneAcc) : t.loadMay k bs = s.loadMay k bs := by
  unfold State.loadMay State.readMay
  rw [h.myStores]

theorem present {s t : State} (h : SameReads s t) (cl : Nat) (bs : List LaneAcc) : t.present cl bs = s.present cl bs := by
  unfold State.present
  dsimp only
  rw [h.uo, h.l1, h.but]
  rfl

theorem laneBytes {s t : State} (h : SameReads s t) (k : Nat) (a : LaneAcc) : t.laneBytes k a = s.laneBytes k a := by
  unfold State.laneBytes State.byteRead State.storesOf State.spindle State.spindleOf
  rw [h.spindles, h.uo, h.l1, h.but]
  rfl

theorem look {s t : State} (h : SameReads s t) (k n : Nat) (bs : List ByteAt) : t.look k n bs = s.look k n bs := by
  unfold State.look State.storesOf State.spindle State.spindleOf
  simp only [h.laneBytes, h.spindles]
  rw [h.but]
  rfl

theorem lookLanes {s t : State} (h : SameReads s t) (k : Nat) (free : Nat → Nat) (bs : List LaneAcc) :
    t.lookLanes k free bs = s.lookLanes k free bs := by
  unfold State.lookLanes
  simp only [h.look]

end SameReads

end Sys2Proof.Machine
end

section
/-! SUPPORT. Words that a load writes are in flight: of fixed latency from SRAM, and of variable latency where they land at once. -/

namespace Sys2Proof.Machine

/-- A write of the words `val` to register `r` that lands at `ld`: em_k takes bits, for lanes of `set`. -/
structure Flight.Carries (x : Flight) (r : Nat) (set lanes : Lanes) (ld : Nat × Nat × Nat) (val : Nat → Word) : Prop where
  reg : x.reg = r
  orIn : x.orIn = false
  cov : x.cov = 0xFFFFFFFF
  land : x.land = some ld
  words : r < 253 → x.lanes = lanes ∧ ∀ l, l < 96 → lanes.getLsbD l = true → laneW x.vals l = val l
  bits : 253 ≤ r → x.lanes = lanes &&& set &&& groupLanes (r - 253) ∧
    ∀ l, l < 96 → x.lanes.getLsbD l = true → laneW x.vals l = if (val l).getLsbD (l % 32) then 1 else 0

theorem Ctx.flight_carries {c : Ctx} {r : Nat} (hr : r < 248 ∨ 250 < r) (val : Nat → Word) (tag : Nat → Option Tag) (ld : Nat × Nat × Nat) :
    ∃ x, c.flight r c.act val 0xFFFFFFFF tag (some ld) = some x ∧ ∀ n, { x with seq := n }.Carries r c.f.laneSet c.act ld val := by
  unfold Ctx.flight
  dsimp only
  split
  · refine ⟨_, rfl, fun n => ⟨rfl, rfl, rfl, rfl, fun _ => ⟨rfl, fun l hl ha => ?_⟩, fun h => by omega⟩⟩
    simp [laneW_laneVec _ hl, ha]
  · next h =>
    rw [if_pos (by omega)]
    refine ⟨_, rfl, fun n => ⟨rfl, rfl, rfl, rfl, fun h' => by omega, fun _ => ⟨rfl, fun l hl ha => ?_⟩⟩⟩
    have hact : c.act.getLsbD l = true := by
      rw [BitVec.getLsbD_and, BitVec.getLsbD_and, Bool.and_eq_true, Bool.and_eq_true] at ha
      exact ha.1.1
    simp [laneW_laneVec _ hl, hact]

theorem landFlight_carries {r : Nat} (hr : r < 248 ∨ 250 < r) (seq : Nat) (set lanes poisoned : Lanes) (val : Nat → Word) (tags : List (Nat × Tag))
    (ld : Nat × Nat × Nat) : ∃ x, landFlight r seq set lanes poisoned val tags ld = some x ∧ x.Carries r set lanes ld val := by
  unfold landFlight
  split
  · exact ⟨_, rfl, rfl, rfl, rfl, rfl, fun _ => ⟨rfl, fun l hl _ => laneW_laneVec _ hl⟩, fun h => by omega⟩
  · rw [if_pos (by omega)]
    refine ⟨_, rfl, rfl, rfl, rfl, rfl, fun _ => by omega, fun _ => ⟨rfl, fun l hl _ => ?_⟩⟩
    exact laneW_laneVec (fun l => if (val l).getLsbD (l % 32) then 1 else 0) hl

theorem landFlight_reg {r seq : Nat} {set lanes poisoned : Lanes} {val : Nat → Word} {tags : List (Nat × Tag)} {ld : Nat × Nat × Nat} {x : Flight}
    (h : landFlight r seq set lanes poisoned val tags ld = some x) : x.reg = r := by
  unfold landFlight at h
  split at h
  · cases h; rfl
  · split at h <;> cases h
    rfl

/-- A landing is put off at most. -/
theorem Strand.le_landAfter (st : Strand) (r : Nat) (lanes : Lanes) (ld : Nat × Nat × Nat) (b : Nat) : tri ld b ≤ tri (st.landAfter r lanes ld) b := by
  unfold Strand.landAfter
  refine List.foldlRecOn (motive := fun a => tri ld b ≤ tri a b) _ _ (Nat.le_refl _) fun a ih x _ => ?_
  split
  · split
    · rw [tri_triMax]; omega
    · exact ih
  · exact ih

theorem Strand.le_landAfters (st : Strand) (rs : List Nat) (lanes : Lanes) (ld : Nat × Nat × Nat) (b : Nat) :
    tri ld b ≤ tri (rs.foldl (fun a r => st.landAfter r lanes a) ld) b :=
  List.foldlRecOn (motive := fun a => tri ld b ≤ tri a b) _ _ (Nat.le_refl _) fun a ih r _ => ih.trans (st.le_landAfter r lanes a b)

/-- From `s` to `t` the words `val` were issued to the `n` registers from `r`, landing no earlier than `at_`, and no other write. -/
structure WritesSpan (strand r n : Nat) (set lanes : Lanes) (at_ : Nat → Nat) (val : Nat → Nat → Word) (s t : State) : Prop where
  others : OtherStrands strand s t
  writes : ∀ st, s.strand? strand = some st → ∃ st' new, t.strand? strand = some st' ∧ st'.regs = st.regs ∧ st'.flights = st.flights ++ new ∧
    (∀ x ∈ new, x.reg ∈ (List.range n).map (r + ·)) ∧
    ∀ i, i < n → r + i < 248 ∨ 250 < r + i → ∃ x ∈ new, ∃ ld, (∀ b, at_ b ≤ tri ld b) ∧ x.Carries (r + i) set lanes ld (val i)

namespace WritesSpan

variable {strand r n : Nat} {set lanes : Lanes} {at_ : Nat → Nat} {val : Nat → Nat → Word} {s t u : State}

theorem after (h : FlightsKept strand s t) (h' : WritesSpan strand r n set lanes at_ val t u) : WritesSpan strand r n set lanes at_ val s u := by
  refine ⟨fun m hm => (h'.others m hm).trans (h.others m hm), fun st hs => ?_⟩
  obtain ⟨st', ht, hregs, hfl⟩ := h.kept st hs
  rw [← hregs, ← hfl]
  exact h'.writes st' ht

theorem before (h : WritesSpan strand r n set lanes at_ val s t) (h' : FlightsKept strand t u) : WritesSpan strand r n set lanes at_ val s u := by
  refine ⟨fun m hm => (h'.others m hm).trans (h.others m hm), fun st hs => ?_⟩
  obtain ⟨st', new, ht, hregs, hfl, hnew⟩ := h.writes st hs
  obtain ⟨st'', hu, hregs', hfl'⟩ := h'.kept st' ht
  exact ⟨st'', new, hu, hregs'.trans hregs, hfl'.trans hfl, hnew⟩

theorem regKept (h : WritesSpan strand r n set lanes at_ val s t) {q : Nat} (hq : q ∉ (List.range n).map (r + ·)) : RegKept strand q s t := by
  intro st hs
  obtain ⟨st', new, ht, hregs, hfl, hnew, -⟩ := h.writes st hs
  refine ⟨st', ht, by unfold Strand.row; rw [hregs], ?_⟩
  have hnone : (new.filter fun x => x.reg == q) = [] := List.filter_eq_nil_iff.mpr fun x hx he => hq (by
    rw [← beq_iff_eq.mp he]
    exact hnew x hx)
  rw [hfl, List.filter_append, hnone, List.append_nil]

theorem inFlight (h : WritesSpan strand r n set lanes at_ val s t) {st : Strand} (hs : s.strand? strand = some st) {i : Nat} (hi : i < n) :
    InFlight t strand st.flights (r + i) set lanes at_ (val i) := by
  intro hr
  obtain ⟨st', new, ht, -, hfl, -, hnew⟩ := h.writes st hs
  obtain ⟨x, hx, ld, hle, hc⟩ := hnew i hi hr
  exact ⟨st', new, x, ld, ht, hfl, hx, hc.reg, hc.orIn, hc.cov, hc.land, fun b _ => hle b, hc.words, hc.bits⟩

end WritesSpan

/-- The write of an instruction to one register. -/
theorem Ctx.putAt_carries {c : Ctx} {s : State} {st : Strand} (h : s.strand? c.strand = some st) (r : Nat) (val : Nat → Word)
    (ld : Nat × Nat × Nat) (tag : Nat → Option Tag) :
    ∃ new : List Flight, c.putAt s r c.act val 0xFFFFFFFF ld tag = s.withFlights c.strand new ∧ (∀ x ∈ new, x.reg = r) ∧
      (r < 248 ∨ 250 < r → ∃ x ∈ new, x.Carries r c.f.laneSet c.act ld val) := by
  obtain ⟨new, hnew, hregs⟩ := Ctx.putAt_writes h r c.act val 0xFFFFFFFF ld tag
  by_cases hr : r < 248 ∨ 250 < r
  · obtain ⟨x, hx, hc⟩ := c.flight_carries hr val tag ld
    refine ⟨[{ x with seq := st.seq }], ?_, ?_, fun _ => ⟨_, List.mem_singleton_self _, hc _⟩⟩
    · rw [Ctx.putAt_eq h, hx]
    · intro y hy
      rw [List.mem_singleton.mp hy]
      exact (hc _).reg
  · exact ⟨new, hnew, fun x hx => (hregs x hx).1, fun h' => absurd h' hr⟩

/-- The writes of an instruction to registers one after the other. -/
theorem Ctx.putAts_carry (c : Ctx) (r : Nat) (val : Nat → Nat → Word) (ld : Nat × Nat × Nat) (tag : Nat → Option Tag) :
    ∀ (is : List Nat) (s : State) (st : Strand), s.strand? c.strand = some st →
      ∃ new : List Flight,
        is.foldl (fun a i => c.putAt a (r + i) c.act (val i) 0xFFFFFFFF ld tag) s = s.withFlights c.strand new ∧
          (∀ x ∈ new, x.reg ∈ is.map (r + ·)) ∧
          ∀ i ∈ is, r + i < 248 ∨ 250 < r + i → ∃ x ∈ new, x.Carries (r + i) c.f.laneSet c.act ld (val i)
  | [], s, _, _ => ⟨[], (State.withFlights_nil s _).symm, by simp, by simp⟩
  | i :: is, s, st, h => by
    obtain ⟨one, hone, hreg, hcarry⟩ := Ctx.putAt_carries h (r + i) (val i) ld tag
    obtain ⟨rest, hrest, hregs, hcarries⟩ := Ctx.putAts_carry c r val ld tag is _ _ (State.strand?_withFlights one h)
    refine ⟨one ++ rest, ?_, fun x hx => ?_, fun j hj hr => ?_⟩
    · rw [List.foldl_cons, hone, hrest, State.withFlights_append]
    · rcases List.mem_append.mp hx with hx | hx
      · exact List.mem_cons.mpr (.inl (hreg x hx))
      · exact List.mem_cons_of_mem _ (hregs x hx)
    · rcases List.mem_cons.mp hj with rfl | hj
      · obtain ⟨x, hx, hc⟩ := hcarry hr
        exact ⟨x, List.mem_append_left _ hx, hc⟩
      · obtain ⟨x, hx, hc⟩ := hcarries j hj hr
        exact ⟨x, List.mem_append_right _ hx, hc⟩

/-- The words of a fixed-latency span (R99). -/
theorem Ctx.putSpan_writesSpan {c : Ctx} {s : State} {st : Strand} (h : s.strand? c.strand = some st) (r n : Nat) (val : Nat → Nat → Word)
    (lat : Nat) (tag : Nat → Option Tag) :
    WritesSpan c.strand r n c.f.laneSet c.act (fun b => tri c.t b + 3 * lat) val s (c.putSpan s r n val lat tag) := by
  have hland : ∀ b, tri c.t b + 3 * lat ≤ tri (c.landSpan s ((List.range n).map (r + ·)) c.act lat) b := fun b => by
    unfold Ctx.landSpan
    rw [h, ← tri_landing]
    exact st.le_landAfters ..
  obtain ⟨new, hnew, hregs, hcarry⟩ := c.putAts_carry r val (c.landSpan s ((List.range n).map (r + ·)) c.act lat) tag (List.range n) s st h
  unfold Ctx.putSpan
  dsimp only
  rw [hnew]
  refine ⟨fun m hm => State.strand?_modStrand_ne _ _ hm, fun st' hs => ?_⟩
  cases h.symm.trans hs
  refine ⟨_, new, State.strand?_withFlights new h, rfl, rfl, hregs, fun i hi hr => ?_⟩
  obtain ⟨x, hx, hc⟩ := hcarry i (List.mem_range.mpr hi) hr
  exact ⟨x, hx, _, hland, hc⟩

/-- Writes whose data lands at once join the writes in flight (R73). -/
theorem foldl_landed (g : Nat → Option Flight) (is : List Nat) (st : Strand) :
    is.foldl (fun a i => match g i with | some x => { a with flights := a.flights ++ [x] } | none => a) st =
      { st with flights := st.flights ++ is.filterMap g } := by
  induction is generalizing st with
  | nil => simp
  | cons i is ih =>
    rw [List.foldl_cons, ih]
    cases hg : g i <;> simp [hg]

/-- The words of a load whose data has landed (R73). -/
theorem State.landWords_writesSpan {s : State} {k : Nat} {f : Fibre} (hf : s.fib? k = some f) (dst n seq : Nat) (lanes poisoned : Lanes)
    (val : Nat → Nat → Word) (tags : List (Nat × Tag)) (land : Nat × Nat × Nat) :
    WritesSpan (fibStrand k) dst n f.laneSet lanes (tri land) val s (s.landWords k dst n seq lanes poisoned val tags land) := by
  refine ⟨fun m hm => State.strand?_modStrand_ne _ _ hm, fun st hs => ?_⟩
  have hland := st.le_landAfters ((List.range n).map (dst + ·)) lanes land
  rw [List.foldl_map] at hland
  generalize hld : (List.range n).foldl (fun a r => st.landAfter (dst + r) lanes a) land = ld at hland
  have hset : ((s.fib? k).map (·.laneSet)).getD 0 = f.laneSet := by rw [hf]; rfl
  let g := fun r => landFlight (dst + r) seq f.laneSet lanes poisoned (val r) tags ld
  refine ⟨{ st with flights := st.flights ++ (List.range n).filterMap g }, _, ?_, rfl, rfl, fun x hx => ?_, fun i hi hr => ?_⟩
  · unfold State.landWords
    dsimp only
    rw [State.strand?_modStrand_self, hs, Option.map_some, hld, hset]
    exact congrArg some (foldl_landed g (List.range n) st)
  · obtain ⟨i, hi, hx⟩ := List.mem_filterMap.mp hx
    rw [landFlight_reg hx]
    exact List.mem_map.mpr ⟨i, hi, rfl⟩
  · obtain ⟨x, hx, hc⟩ := landFlight_carries hr seq f.laneSet lanes poisoned (val i) tags ld
    exact ⟨x, List.mem_filterMap.mpr ⟨i, List.mem_range.mpr hi, hx⟩, ld, hland, hc⟩

end Sys2Proof.Machine
end

section
/-! SUPPORT. A load at its issue: what it answers, and what it leaves where SRAM serves it and where it parks. -/

namespace Sys2Proof.Machine

/-! ### What a load does at issue -/

/-- LD, LDS and LDT are one load, with the form and the acquire of their fields. -/
theorem exec_load {c : Ctx} {i : Instr} {s : State} {n al : Nat} {ea : Nat → DWord} {trim : LaneAcc → LaneAcc} {d : BitVec 8} {w : Nat}
    {form : LoadForm} {acq : Option Nat} (ha : accessOf c i = some (false, n, al, ea, trim, d, w)) (hf : loadForm i = some (form, acq)) :
    ∃ body tags hint, exec i s = issue i s body ∧
      body c s = c.checked s .load n al false ea fun s lanes => c.load s form (lanes.map trim) tags acq hint := by
  cases i
  case ld f =>
    simp only [accessOf, Option.some.injEq, Prod.mk.injEq, true_and] at ha
    obtain ⟨rfl, rfl, rfl, rfl, rfl, rfl⟩ := ha
    cases hf
    simp only [List.map_id]
    exact ⟨fun c s => c.checked s .load (szBytes f.sz) (szAlign f.sz) false (c.ea f) fun s lanes =>
      c.load s (A96.form f) lanes (c.loadTags f true) (A96.acqAt f) (A96.cacheHint f), _, _, rfl, rfl⟩
  case lds f =>
    simp only [accessOf, Option.some.injEq, Prod.mk.injEq, true_and] at ha
    obtain ⟨rfl, rfl, rfl, rfl, rfl, rfl⟩ := ha
    cases hf
    simp only [List.map_id]
    exact ⟨fun c s => c.checked s .load (szBytes f.sz) (szAlign f.sz) false (c.eaScr f) fun s lanes =>
      c.load s (A96.form f) lanes (c.loadTags f false) (A96.acqAt f) (A96.cacheHint f), _, _, rfl, rfl⟩
  case ldt f =>
    simp only [accessOf, Option.some.injEq, Prod.mk.injEq, true_and] at ha
    obtain ⟨rfl, rfl, rfl, rfl, rfl, rfl⟩ := ha
    cases hf
    exact ⟨fun c s => c.checked s .load (transSpan f.sz) (szBytes f.sz) false (c.eaScr f) fun s lanes =>
      c.load s { dst := f.d.toNat, sz := 2, sx := false, ldt := true } (lanes.map (transposed f.sz)) (c.loadTags f false) none 0, _, _, rfl, rfl⟩
  all_goals cases hf

/-- The state in which a load that SRAM serves makes its reads: its access is counted, and an acquire has refreshed the copies. -/
def State.atReads (u : State) (k part code : Nat) (lines : List Nat) (sync : Bool) : State :=
  let s := (u.demand (fibCluster k) part lines).count (fibCluster k) code 1
  if sync then s.syncLines k else s

/-- The reads of a load at once. -/
def State.readsOf (s : State) (k : Nat) (bs : List LaneAcc) : List (LaneAcc × List Look) :=
  s.lookLanes k (fun i => Config.olderValue (s.freeCtr + i)) bs

/-- What the fibre knows after the reads. -/
def State.knows (s : State) (k : Nat) (bs : List LaneAcc) (acq : Option Nat) : State :=
  let ls := s.readsOf k bs
  let s := ({ s with freeCtr := s.freeCtr + 1536 } : State).looked k ls
  match acq with
  | some scope => s.acquire k scope (looksRels ls)
  | none => s

/-- The reads are made and logged. -/
def State.reads (s : State) (k : Nat) (bs : List LaneAcc) (acq : Option Nat) : State :=
  (s.knows k bs acq).replayLoad k bs ((s.readsOf k bs).map fun x => (x.1, x.2.flatMap (·.bytes)))

/-- Word `r` of lane `l` from the bytes of reads. -/
def readWord (form : LoadForm) (ls : List (LaneAcc × List Look)) (r l : Nat) : Word :=
  (((ls.find? fun a => a.1.lane == l).map fun a => (form.words (a.2.flatMap (·.bytes))).getD r 0)).getD 0

/-- The lanes whose bytes are bad. -/
def State.badLanes (s : State) (bs : List LaneAcc) : List (LaneAcc × Cause) := bs.filterMap fun x => (s.badLane x).map fun e => (x, e)

/-- Land the words of a load with bad lanes. -/
def Ctx.landBad (c : Ctx) (s : State) (form : LoadForm) (bad : List (LaneAcc × Cause)) (val : Nat → Nat → Word) (tags : List (Nat × Tag))
    (lat : Nat) : State :=
  let p := s.takeSeq c.k
  let badL := lanesOf fun l => bad.any (·.1.lane == l)
  (p.1.landWords c.k form.dst form.span p.2 c.act badL (fun r l => if badL.getLsbD l then p.1.freeLoadWord l else val r l) tags
    (c.landing lat)).holdBad c.k p.2 bad c.i.word0 (c.landing lat)

/-- The words that SRAM serves, with the bad lanes `bad`. -/
def Ctx.serves (c : Ctx) (s : State) (form : LoadForm) (bad : List (LaneAcc × Cause)) (val : Nat → Nat → Word) (tags : List (Nat × Tag))
    (lat : Nat) (tag : Nat → Option Tag) : State :=
  if bad.isEmpty then c.putSpan s form.dst form.span val lat tag else c.landBad s form bad val tags lat

section
variable {c : Ctx} {s : State} {form : LoadForm} {bs : List LaneAcc} {tags : List (Nat × Tag)} {acq : Option Nat} {hint : BitVec 2}

theorem Ctx.load_nil : c.load s form [] tags acq hint = .next s := rfl

theorem Ctx.load_busy {b : Nat} (hb : bs ≠ []) (h : c.busy s bs = some b) : c.load s form bs tags acq hint = .again (s.stall c.k (.bank b)) := by
  unfold Ctx.load
  rw [if_neg (by simpa using hb), h]

/-- A load that SRAM serves (R200). -/
theorem Ctx.load_hit (hb : bs ≠ []) (h : c.busy s bs = none) {u : State}
    (hu : u = (s.lateFirst c.k (bs.flatMap (·.bytes))).uoYield c.k (bs.flatMap (·.bytes)))
    (hmay : (u.loadMay c.k bs && u.present c.cluster bs) = true) {scr : Bool} (hscr : scr = bs.all fun x => x.bytes.all fun b => b.kind == .scr) :
    ∃ r tag, r = u.atReads c.k (s.strandPart c.strand) (if scr then 0x12 else 0x10) (linesOf bs) acq.isSome ∧
      c.load s form bs tags acq hint =
        .next (c.serves (r.reads c.k bs acq) form ((r.reads c.k bs acq).badLanes bs) (readWord form (r.readsOf c.k bs)) tags
          (if scr then 8 else 10) tag) := by
  have hd := SameReads.demand u c.cluster (s.strandPart c.strand) (linesOf bs)
  refine ⟨_, fun l => (tags.find? (·.1 == l)).map (·.2), rfl, ?_⟩
  unfold Ctx.load
  rw [if_neg (by simpa using hb), h]
  dsimp -zeta only
  extract_lets scr' drained counted synced ls looked acquired got logged words val tag lat bad p badL land
  have hdr : drained = u.demand c.cluster (s.strandPart c.strand) (linesOf bs) := by simp only [drained, hu]
  rw [if_pos (by rw [hdr, hd.loadMay, hd.present]; exact hmay)]
  have hval : val = readWord form ls := by
    funext r l
    simp [val, words, got, readWord, List.find?_map, Function.comp_def]
  have hsync : synced = u.atReads c.k (s.strandPart c.strand) (if scr then 0x12 else 0x10) (linesOf bs) acq.isSome := by
    simp only [synced, counted, hdr, scr', ← hscr]
    rfl
  have hlat : lat = if scr then 8 else 10 := by rw [hscr]
  rw [← hsync, ← hlat, ← show ls = synced.readsOf c.k bs from rfl, ← show logged = synced.reads c.k bs acq from rfl, ← hval]
  rw [← show bad = logged.badLanes bs from rfl]
  unfold Ctx.serves
  by_cases hbad : bad.isEmpty = true
  · rw [if_pos hbad, if_pos hbad]
  · rw [if_neg hbad, if_neg hbad]
    rfl

/-- A load that parks (R200). -/
theorem Ctx.load_miss (hb : bs ≠ []) (h : c.busy s bs = none) {u : State}
    (hu : u = (s.lateFirst c.k (bs.flatMap (·.bytes))).uoYield c.k (bs.flatMap (·.bytes)))
    (hmay : (u.loadMay c.k bs && u.present c.cluster bs) = false) :
    ∃ p, p = ((u.demand c.cluster (s.strandPart c.strand) (linesOf bs)).count c.cluster 0x11 1).takeSeq c.k ∧
      c.load s form bs tags acq hint = .next (p.1.parkMiss c.k
        { form := form, lanes := bs, seq := p.2, word := c.i.word0, act := c.act, acq := acq.isSome, scope := acq.getD 0, hint := hint, tags := tags }) := by
  have hd := SameReads.demand u c.cluster (s.strandPart c.strand) (linesOf bs)
  refine ⟨_, rfl, ?_⟩
  unfold Ctx.load
  rw [if_neg (by simpa using hb), h]
  dsimp only
  rw [← hu, hd.loadMay, hd.present, if_neg (by simp [hmay])]

end

/-! ### What the steps of a served load leave -/

theorem State.atReads_sameReads (u : State) (k part code : Nat) (lines : List Nat) (sync : Bool) :
    SameReads (if sync then u.syncLines k else u) (u.atReads k part code lines sync) := by
  have h := (SameReads.demand u (fibCluster k) part lines).trans (.count _ (fibCluster k) code 1)
  cases sync
  · exact h
  · exact h.syncLines k

theorem State.strands_atReads (u : State) (k part code : Nat) (lines : List Nat) (sync : Bool) :
    (u.atReads k part code lines sync).strands = u.strands := by
  have h := (HomeOnly.demand u (fibCluster k) part lines).strands
  cases sync
  · exact h
  · exact (State.strands_syncLines _ k).trans h

theorem State.atReads_stays (u : State) (k part code : Nat) (lines : List Nat) (sync : Bool) :
    Stays k u (u.atReads k part code lines sync) := by
  have h : Stays k u ((u.demand (fibCluster k) part lines).count (fibCluster k) code 1) :=
    .ofHome ((HomeOnly.demand ..).trans (.modCluster ..))
  cases sync
  · exact h
  · exact h.trans (.syncLines ..)

theorem State.atReads_badKept (u : State) (k part code : Nat) (lines : List Nat) (sync : Bool) :
    BadKept u (u.atReads k part code lines sync) := by
  have h := (BadKept.demand u (fibCluster k) part lines).trans (.count _ (fibCluster k) code 1)
  cases sync
  · exact h
  · exact h.trans (.syncLines ..)

theorem State.contents_atReads (u : State) (k part code : Nat) (lines : List Nat) (sync : Bool) :
    (u.atReads k part code lines sync).contents = u.contents := by
  cases sync <;> simp [State.atReads]

theorem Stays.looked {k : Nat} (s : State) (j : Nat) (xs : List (LaneAcc × List Look)) : Stays k s (s.looked j xs) := by
  unfold State.looked
  dsimp only
  split
  · exact Stays.trans (t := s.soPlace (s.viewOf j) ((xs.flatMap (·.2)).flatMap (·.seen))) (.intro rfl rfl (.refl _)) (.learn ..)
  · exact .learn ..

section
variable (s : State) (k : Nat) (bs : List LaneAcc) (acq : Option Nat)

theorem State.knows_stays : Stays k s (s.knows k bs acq) := by
  have h : Stays k s (({ s with freeCtr := s.freeCtr + 1536 } : State).looked k (s.readsOf k bs)) :=
    Stays.trans (t := { s with freeCtr := s.freeCtr + 1536 }) (.intro rfl rfl (.refl _)) (.looked ..)
  cases acq
  · exact h
  · exact h.trans (.modFib _ _ _ fun _ => rfl)

theorem State.knows_flightsKept : FlightsKept (fibStrand k) s (s.knows k bs acq) := by
  have h : FlightsKept (fibStrand k) s (({ s with freeCtr := s.freeCtr + 1536 } : State).looked k (s.readsOf k bs)) :=
    FlightsKept.trans (FlightsKept.ofStrands (s := s) (t := { s with freeCtr := s.freeCtr + 1536 }) rfl _) (.looked ..)
  cases acq
  · exact h
  · exact h.trans (.acquire ..)

theorem State.knows_badKept : BadKept s (s.knows k bs acq) := by
  have h : BadKept s (({ s with freeCtr := s.freeCtr + 1536 } : State).looked k (s.readsOf k bs)) :=
    BadKept.trans (t := { s with freeCtr := s.freeCtr + 1536 }) ⟨rfl, rfl, rfl, fun _ => rfl⟩ (.looked ..)
  cases acq
  · exact h
  · exact h.trans (.acquire ..)

theorem State.contents_knows : (s.knows k bs acq).contents = s.contents := by
  cases acq <;> simp [State.knows]

theorem State.strands_modSkein (n : Nat) (f : Skein → Skein) : (s.modSkein n f).strands = s.strands := rfl

theorem State.strands_modPart (p : Nat) (f : Partition → Partition) : (s.modPart p f).strands = s.strands := rfl

/-- The log of a replay is memory of the host, and counts of the skein. -/
theorem State.strands_replayRecord (addr kind lane : Nat) (body : List Byte) : (s.replayRecord k addr kind lane body).strands = s.strands := by
  unfold State.replayRecord
  split
  · rfl
  · next sk _ =>
    dsimp only
    split
    · rfl
    · split
      · rfl
      · simp only [State.count_strands, State.strands_modSkein, State.strands_modPart]
        exact (HomeOnly.ofMemory (State.onlyMemory_memWriteBytes ..)).strands

theorem State.strands_replayLoad (got : List (LaneAcc × List Byte)) : (s.replayLoad k bs got).strands = s.strands := by
  unfold State.replayLoad
  split
  · rfl
  · refine List.foldlRecOn (motive := fun a : State => a.strands = s.strands) _ _ rfl fun a ih x _ => ?_
    split
    · exact ih
    · refine List.foldlRecOn (motive := fun a : State => a.strands = s.strands) _ _ ih fun b ih y _ => ?_
      split
      · dsimp only
        split
        · exact ih
        · exact (State.strands_replayRecord ..).trans ih
      · exact ih

/-- Where the launch is not replayed nothing is logged. -/
theorem State.replayLoad_of_flag {s : State} {k : Nat} (h : s.launchFlag k 5 = false) (got : List (LaneAcc × List Byte)) :
    s.replayLoad k bs got = s := by
  unfold State.replayLoad
  rw [h]
  rfl

theorem State.seat_reads {n : Nat × Lanes} (h : s.seat k = some n) : (s.reads k bs acq).seat k = some n := by
  have hs := ((s.knows_stays k bs acq).kept (by rw [h]; exact Option.some_ne_none _)).1
  rw [h] at hs
  rw [← hs]
  unfold State.reads State.seat
  rw [State.strand?_of_strands (State.strands_replayLoad ..)]

theorem State.reads_flightsKept : FlightsKept (fibStrand k) s (s.reads k bs acq) :=
  (s.knows_flightsKept k bs acq).trans (.ofStrands (State.strands_replayLoad ..) _)

theorem State.reads_badKept : BadKept s (s.reads k bs acq) := (s.knows_badKept k bs acq).trans (.replayLoad ..)

theorem State.contents_reads {s : State} {k : Nat} (h : s.launchFlag k 5 = false) (hs : s.seat k ≠ none) :
    (s.reads k bs acq).contents = s.contents := by
  unfold State.reads
  rw [State.replayLoad_of_flag _ (((s.knows_stays k bs acq).kept hs).2 h), State.contents_knows]

end

end Sys2Proof.Machine
end

section
/-! SUPPORT. Which lanes of a load are bad, and the deferred trap that they leave. -/

namespace Sys2Proof.Machine

/-! ### Bytes of an access -/

/-- The checks give a byte of scratch kind its place in scratch (R198). -/
theorem State.checkAccess_scratch {s : State} {k : Nat} {acc : Acc} {n al : Nat} {line : Bool} {addrs : List (Nat × DWord)}
    {walks : List (Nat × Cause)} {as : List LaneAcc} (h : s.checkAccess k acc n al line addrs walks = .ok as) {a : LaneAcc} (ha : a ∈ as)
    {b : ByteAt} (hb : b ∈ a.bytes) (hk : b.kind = .scr) : ∃ sk o, b.loc = .scr sk o := by
  unfold State.checkAccess at h
  dsimp only at h
  iterate 7
    split at h
    · cases h
  cases h
  obtain ⟨p, -, rfl⟩ := List.mem_map.mp ha
  dsimp only at hb
  split at hb
  · obtain ⟨v, -, hv⟩ := List.mem_filterMap.mp hb
    obtain ⟨x, -, rfl⟩ := Option.map_eq_some_iff.mp hv
    dsimp only [Xlat.kind] at hk
    split at hk
    · cases hk
    · split at hk <;> cases hk
  · obtain ⟨o, -, rfl⟩ := List.mem_map.mp hb
    exact ⟨_, o, rfl⟩
  · cases hb

/-- The bytes that a load or a store moves are among those that its checks cover. -/
theorem trim_bytes {c : Ctx} {i : Instr} {x : Bool × Nat × Nat × (Nat → DWord) × (LaneAcc → LaneAcc) × BitVec 8 × Nat}
    (h : accessOf c i = some x) (a : LaneAcc) : ∀ b ∈ (x.2.2.2.2.1 a).bytes, b ∈ a.bytes := by
  have ht : ∀ sz, ∀ b ∈ (transposed sz a).bytes, b ∈ a.bytes := fun sz b hb => by
    obtain ⟨j, -, hj⟩ := List.mem_flatMap.mp hb
    exact List.mem_of_mem_drop (List.mem_of_mem_take hj)
  cases i
  case ld | lds | st | sts => cases h; exact fun _ => id
  case ldt | stt => cases h; exact ht _
  all_goals cases h

/-- Where SRAM serves every byte, a lane is bad by a bad row of scratch only (R199). -/
theorem State.badLane_present {s : State} {cl : Nat} {bs : List LaneAcc} (hp : s.present cl bs = true)
    (hs : ∀ a ∈ bs, ∀ b ∈ a.bytes, b.kind = .scr → ∃ sk o, b.loc = .scr sk o) {a : LaneAcc} (ha : a ∈ bs) {e : Cause}
    (he : s.badLane a = some e) : e = .memPoison := by
  obtain ⟨b, hb, hbad⟩ := List.exists_of_findSome?_eq_some he
  have hok := List.all_eq_true.mp (List.all_eq_true.mp hp a ha) b hb
  have hscr := hs a ha b hb
  obtain ⟨loc, kind⟩ := b
  cases loc with
  | scr sk o =>
    dsimp only [State.badByte] at hbad
    split at hbad <;> cases hbad
    rfl
  | mem key =>
    cases kind <;> dsimp only at hok hscr
    · rw [hbad, Option.isNone_some, Bool.and_false] at hok
      cases hok
    · cases hok
    · rw [hbad, Option.isNone_some, Bool.and_false] at hok
      cases hok
    · obtain ⟨_, _, h⟩ := hscr rfl
      cases h

theorem State.badLanes_eq_nil_iff {s : State} {bs : List LaneAcc} : s.badLanes bs = [] ↔ ∀ a ∈ bs, s.badLane a = none := by
  unfold State.badLanes
  simp [List.filterMap_eq_nil_iff]

theorem State.mem_badLanes {s : State} {bs : List LaneAcc} {x : LaneAcc × Cause} :
    x ∈ s.badLanes bs ↔ x.1 ∈ bs ∧ s.badLane x.1 = some x.2 := by
  unfold State.badLanes
  simp only [List.mem_filterMap, Option.map_eq_some_iff]
  constructor
  · rintro ⟨a, ha, e, he, rfl⟩
    exact ⟨ha, he⟩
  · rintro ⟨ha, he⟩
    exact ⟨_, ha, _, he, rfl⟩

theorem State.any_badLanes {s : State} {bs : List LaneAcc} {l : Nat} :
    ((s.badLanes bs).any fun x => x.1.lane == l) = true ↔ ∃ a ∈ bs, a.lane = l ∧ s.badLane a ≠ none := by
  simp only [List.any_eq_true, State.mem_badLanes, beq_iff_eq]
  constructor
  · rintro ⟨x, ⟨hx, he⟩, hl⟩
    exact ⟨x.1, hx, hl, by rw [he]; exact Option.some_ne_none _⟩
  · rintro ⟨a, ha, hl, he⟩
    obtain ⟨e, he⟩ := Option.ne_none_iff_exists'.mp he
    exact ⟨(a, e), ⟨ha, he⟩, hl⟩

theorem BadKept.badLanes {s t : State} (h : BadKept s t) (bs : List LaneAcc) : t.badLanes bs = s.badLanes bs := by
  unfold State.badLanes
  simp only [h.badLane]

/-! ### The deferred trap -/

/-- Bad rows of scratch raise MEM_POISON with all their lanes (R199). -/
theorem badTrap_poison {bad : List (LaneAcc × Cause)} (hne : bad ≠ []) (hp : ∀ x ∈ bad, x.2 = .memPoison) (word : Word) :
    ∃ t, badTrap bad word = some t ∧ t.cause = .memPoison ∧ t.defer = true ∧ t.mask = some (lanesOf fun l => bad.any (·.1.lane == l)) := by
  have hany : (bad.any (·.2 == .memPoison)) = true := by
    obtain ⟨x, hx⟩ := List.exists_mem_of_ne_nil _ hne
    exact List.any_eq_true.mpr ⟨x, hx, beq_iff_eq.mpr (hp x hx)⟩
  have hall : bad.filter (·.2 == .memPoison) = bad := List.filter_eq_self.mpr fun x hx => beq_iff_eq.mpr (hp x hx)
  obtain ⟨x, hx, hmin⟩ := Set.exists_min_image {y | y ∈ bad} (fun y => y.1.lane) (List.finite_toSet bad) (List.exists_mem_of_ne_nil _ hne)
  have hfind : (bad.find? fun x => bad.all fun y => decide (x.1.lane ≤ y.1.lane)) ≠ none := fun h =>
    absurd (List.find?_eq_none.mp h x hx) (by simpa using hmin)
  obtain ⟨y, hy⟩ := Option.ne_none_iff_exists'.mp hfind
  unfold badTrap
  dsimp only
  rw [if_pos hany, hall, hy]
  exact ⟨_, rfl, rfl, rfl, rfl⟩

theorem mem_insertDeferred (e : Nat × Trap) (l : List (Nat × Trap)) : e ∈ insertDeferred e l := by
  induction l with
  | nil => exact List.mem_singleton_self e
  | cons x xs ih =>
    unfold insertDeferred
    split
    · exact List.mem_cons_self
    · exact List.mem_cons_of_mem _ ih

theorem FlightsKept.holdBad (s : State) (k seq : Nat) (bad : List (LaneAcc × Cause)) (word : Word) (land : Nat × Nat × Nat) :
    FlightsKept (fibStrand k) s (s.holdBad k seq bad word land) := by
  unfold State.holdBad
  split
  · exact FlightsKept.trans (FlightsKept.ofStrands (s := s) (t := { s with freeCtr := s.freeCtr + 96 }) rfl _) (.hold ..)
  · exact .refl _ s

theorem State.takeSeq_of_seat {s : State} {k n : Nat} {ls : Lanes} (h : s.seat k = some (n, ls)) :
    (s.takeSeq k).2 = n ∧ ∃ f, (s.takeSeq k).1.fib? k = some f ∧ s.fib? k = some f ∧ f.laneSet = ls := by
  obtain ⟨st, f, hst, hf, rfl, rfl⟩ := State.seat_eq_some_iff.mp h
  unfold State.takeSeq
  rw [hst]
  refine ⟨rfl, f, ?_, hf, rfl⟩
  exact (State.fib?_modStrand_of_paths s (fibStrand k) k (fun st => { st with seq := st.seq + 1 }) fun _ => rfl).trans hf

/-- Words that land leave every fibre. -/
theorem State.fib?_landWords (s : State) (k dst n seq : Nat) (lanes poisoned : Lanes) (val : Nat → Nat → Word) (tags : List (Nat × Tag))
    (land : Nat × Nat × Nat) (j : Nat) : (s.landWords k dst n seq lanes poisoned val tags land).fib? j = s.fib? j := by
  refine State.fib?_modStrand_of_paths _ _ _ _ fun st => ?_
  have h := foldl_landed
    (fun r => landFlight (dst + r) seq (((s.fib? k).map (·.laneSet)).getD 0) lanes poisoned (val r) tags
      ((List.range n).foldl (fun a r => st.landAfter (dst + r) lanes a) land)) (List.range n) st
  exact (congrArg Strand.paths h).trans rfl

section
variable {c : Ctx} {s : State} {n : Nat} {ls : Lanes} (h : s.seat c.k = some (n, ls)) (form : LoadForm) (bad : List (LaneAcc × Cause))
  (val : Nat → Nat → Word) (tags : List (Nat × Tag)) (lat : Nat)
include h

/-- The words of a load with bad lanes are in flight, with free words in those lanes (R199). -/
theorem Ctx.landBad_writesSpan : ∃ w : Nat → Word, WritesSpan c.strand form.dst form.span ls c.act (fun b => tri c.t b + 3 * lat)
    (fun r l => if (lanesOf fun l => bad.any (·.1.lane == l)).getLsbD l then w l else val r l) s (c.landBad s form bad val tags lat) := by
  obtain ⟨-, f, hf, -, rfl⟩ := State.takeSeq_of_seat h
  have hland : tri (c.landing lat) = fun b => tri c.t b + 3 * lat := funext fun b => tri_landing c lat b
  refine ⟨(s.takeSeq c.k).1.freeLoadWord, ?_⟩
  rw [← hland]
  exact .after (.takeSeq s c.k) (.before (State.landWords_writesSpan hf ..) (.holdBad ..))

/-- The deferred trap of bad lanes stands in issue order (R160, R199). -/
theorem Ctx.landBad_deferred {tr : Trap} (ht : badTrap bad c.i.word0 = some tr) :
    ∃ g n', (c.landBad s form bad val tags lat).fib? c.k = some g ∧ (n, { tr with since := n' }) ∈ g.deferred := by
  obtain ⟨hn, f, hf, -, -⟩ := State.takeSeq_of_seat h
  unfold Ctx.landBad State.holdBad
  dsimp only
  rw [ht, hn]
  dsimp only [State.hold]
  generalize hw : (s.takeSeq c.k).1.landWords _ _ _ _ _ _ _ _ _ = w
  have hfib : w.fib? c.k = some f := by rw [← hw, State.fib?_landWords, hf]
  refine ⟨_, _, (State.fib?_modFib_self _ _ _).trans (congrArg _ hfib), mem_insertDeferred _ _⟩

end

end Sys2Proof.Machine
end

section
/-! SUPPORT. The clauses of a load at its issue. -/

namespace Sys2Proof.Machine

theorem FlightsKept.frame {c : Ctx} {s t : State} (h : FlightsKept c.strand s t) (hc : t.contents = s.contents) : c.Frame [] s t :=
  ⟨memSame_of_contents hc, h.others, fun r _ => h.regKept r⟩

theorem State.seat_of_strands {s t : State} (h : t.strands = s.strands) (k : Nat) : t.seat k = s.seat k := by
  simp only [State.seat, State.strand?_of_strands h]

theorem Issues.seat {i : Instr} {s : State} {c : Ctx} (h : Issues i s c) : s.seat c.k = some (c.st.seq, c.f.laneSet) :=
  State.seat_eq_some_iff.mpr ⟨_, _, h.strand, h.fib, rfl, rfl⟩

/-- What is performed before a read leaves its fibre in its seat. -/
theorem Stays.beforeRead {k : Nat} {s u : State} {bs : List ByteAt} (hu : u = (s.lateFirst k bs).uoYield k bs) : Stays k s u :=
  hu ▸ (Stays.lateFirst s k bs).trans (.ofHome (.uoYield ..))

theorem WritesSpan.frame {c : Ctx} {r n : Nat} {set lanes : Lanes} {at_ : Nat → Nat} {val : Nat → Nat → Word} {s t : State}
    (h : WritesSpan c.strand r n set lanes at_ val s t) (hc : t.contents = s.contents) : c.Frame ((List.range n).map (r + ·)) s t :=
  ⟨memSame_of_contents hc, h.others, fun _ hq => h.regKept hq⟩

/-- A load reads in `r` the words that it would in `v`. -/
theorem SameReads.readWord_eq {v r : State} (h : SameReads v r) (k : Nat) (form : LoadForm) (bs : List LaneAcc) (i l : Nat) :
    readWord form (r.readsOf k bs) i l = loadedWord v k (fun j => Config.olderValue (r.freeCtr + j)) form bs i l := by
  unfold readWord loadedWord State.readsOf
  rw [h.lookLanes]

theorem FlightsKept.advance (c : Ctx) (s : State) : FlightsKept c.strand s (c.advance s) := modFib ..

section
variable {c : Ctx} {s : State} {n : Nat} (h : s.seat c.k = some (n, c.f.laneSet)) (form : LoadForm) (bad : List (LaneAcc × Cause))
  (val : Nat → Nat → Word) (tags : List (Nat × Tag)) (lat : Nat) (tag : Nat → Option Tag)

theorem Ctx.contents_serves : (c.serves s form bad val tags lat tag).contents = s.contents := by
  unfold Ctx.serves
  split
  · exact Ctx.contents_putSpan ..
  · simp [Ctx.landBad]

include h

/-- The words of the lanes that are not bad are those read. -/
theorem Ctx.serves_writesSpan : ∃ W, WritesSpan c.strand form.dst form.span c.f.laneSet c.act (fun b => tri c.t b + 3 * lat) W s
    (c.advance (c.serves s form bad val tags lat tag)) ∧ ∀ r l, (bad.any fun x => x.1.lane == l) = false → W r l = val r l := by
  unfold Ctx.serves
  split
  · obtain ⟨st, _, hst, -⟩ := State.seat_eq_some_iff.mp h
    exact ⟨val, (Ctx.putSpan_writesSpan hst ..).before (.advance ..), fun _ _ _ => rfl⟩
  · obtain ⟨w, hw⟩ := Ctx.landBad_writesSpan h form bad val tags lat
    refine ⟨_, hw.before (.advance ..), fun r l hl => if_neg ?_⟩
    rw [getLsbD_lanesOf, hl, Bool.and_false]
    exact Bool.false_ne_true

/-- Bad rows of scratch defer MEM_POISON for their lanes (R199). -/
theorem Ctx.serves_deferred (hne : bad ≠ []) (hp : ∀ x ∈ bad, x.2 = .memPoison) :
    ∃ g tr, (c.advance (c.serves s form bad val tags lat tag)).fib? c.k = some g ∧ (n, tr) ∈ g.deferred ∧ tr.cause = .memPoison ∧
      tr.defer = true ∧ tr.mask = some (lanesOf fun l => bad.any (·.1.lane == l)) := by
  obtain ⟨tr, htr, hcause, hdefer, hmask⟩ := badTrap_poison hne hp c.i.word0
  obtain ⟨g, n', hg, hmem⟩ := Ctx.landBad_deferred h form bad val tags lat htr
  unfold Ctx.serves
  rw [if_neg (by simpa using hne)]
  exact ⟨_, { tr with since := n' }, (State.fib?_modFib_self ..).trans (congrArg _ hg), hmem, hcause, hdefer, hmask⟩

end

section
variable {c : Ctx} {i : Instr} {s : State} {n al : Nat} {ea : Nat → DWord} {trim : LaneAcc → LaneAcc} {d : BitVec 8} {w : Nat}
  {form : LoadForm} {acq : Option Nat} {as : List LaneAcc}
  (h : Issues i s c) (ha : accessOf c i = some (false, n, al, ea, trim, d, w)) (hf : loadForm i = some (form, acq))
include h ha hf

theorem load_traps {t : Trap} (hck : s.checkAccess c.k .load n al false (c.addrs ea) c.f.walks = .trap t) :
    exec i s = .next (c.afterTrap s i t) := by
  obtain ⟨body, tags, hint, he, hb⟩ := exec_load (s := s) ha hf
  rw [he]
  exact issue_trap h (by rw [hb, Ctx.checked, hck])

/-- A page that must be walked parks the fibre at the load. -/
theorem load_walks {va : Nat} (hck : s.checkAccess c.k .load n al false (c.addrs ea) c.f.walks = .walk va) :
    ∃ t, exec i s = .next t ∧ c.ParksToRetry t .walk ∧ c.Frame [] s t := by
  obtain ⟨body, tags, hint, he, hb⟩ := exec_load (s := s) ha hf
  obtain ⟨b, hb'⟩ := State.fib?_park_self (s := (s.enterMiss c.cluster (s.strandCtx c.strand) va c.k).count c.cluster 0x13 1) h.fib .walk
  refine ⟨_, he.trans (issue_again h (by rw [hb, Ctx.checked, hck])), ⟨_, hb', rfl, rfl, rfl, rfl⟩, FlightsKept.frame ?_ ?_⟩
  · exact (FlightsKept.ofStrands (s := s) (t := (s.enterMiss c.cluster (s.strandCtx c.strand) va c.k).count c.cluster 0x13 1) rfl _).trans
      (.park _ c.k _)
  · simp

variable (hck : s.checkAccess c.k .load n al false (c.addrs ea) c.f.walks = .ok as)
include hck

omit h in
/-- A load whose checks pass answers as its effect does. -/
theorem load_passes : ∃ body tags hint, exec i s = issue i s body ∧ body c s = c.load s form (as.map trim) tags acq hint := by
  obtain ⟨body, tags, hint, he, hb⟩ := exec_load (s := s) ha hf
  exact ⟨body, tags, hint, he, by rw [hb, Ctx.checked, hck]⟩

theorem load_idles (hb : as.map trim = []) : exec i s = .next (c.advance s) := by
  obtain ⟨body, tags, hint, he, hbody⟩ := load_passes ha hf hck
  exact he.trans (issue_next h (by rw [hbody, hb, Ctx.load_nil]))

theorem load_stalls {b : Nat} (hb : as.map trim ≠ []) (hbusy : c.busy s (as.map trim) = some b) :
    exec i s = .next (s.stall c.k (.bank b)) := by
  obtain ⟨body, tags, hint, he, hbody⟩ := load_passes ha hf hck
  exact he.trans (issue_again h (by rw [hbody, Ctx.load_busy hb hbusy]))

variable {u : State} (hb : as.map trim ≠ []) (hbusy : c.busy s (as.map trim) = none)
  (hu : u = (s.lateFirst c.k ((as.map trim).flatMap (·.bytes))).uoYield c.k ((as.map trim).flatMap (·.bytes)))
include hb hbusy hu

/-- A load that SRAM cannot serve now parks the fibre until its pieces have been read (R200, R220). -/
theorem load_parks (hmay : (u.loadMay c.k (as.map trim) && u.present c.cluster (as.map trim)) = false) : ∃ t m, exec i s = .next t ∧
    ParkedIn t c.k (.miss m) ∧ m.form = form ∧ m.lanes = as.map trim ∧ m.act = c.act ∧ m.seq = c.st.seq ∧ m.acq = acq.isSome ∧
    m.scope = acq.getD 0 ∧ m.got = [] ∧ m.pend = (as.map trim).flatMap (fun a => a.pieces.map fun p => (a.lane, p.1, p.2)) ∧
    c.Frame [] u t := by
  obtain ⟨body, tags, hint, he, hbody⟩ := load_passes ha hf hck
  obtain ⟨p, hp, hload⟩ := Ctx.load_miss (form := form) (tags := tags) (acq := acq) (hint := hint) hb hbusy hu hmay
  have hseat := ((Stays.beforeRead hu).kept (by rw [h.seat]; exact Option.some_ne_none _)).1.trans h.seat
  have hq : ((u.demand c.cluster (s.strandPart c.strand) (linesOf (as.map trim))).count c.cluster 0x11 1).strands = u.strands :=
    (HomeOnly.demand ..).strands
  obtain ⟨hseq, f, hfib, -, -⟩ := State.takeSeq_of_seat ((State.seat_of_strands hq c.k).trans hseat)
  obtain ⟨b, hpark⟩ := State.fib?_park_self (s := p.1.dueAt.2) (k := c.k) (f := f) (by rw [hp]; exact hfib) (.miss
    { form := form, lanes := as.map trim, seq := p.2, word := c.i.word0, act := c.act, acq := acq.isSome, scope := acq.getD 0, hint := hint
      tags := tags, pend := (as.map trim).flatMap fun x => x.pieces.map fun p => (x.lane, p.1, p.2), due := p.1.dueAt.1 })
  refine ⟨_, _, he.trans (issue_next h (hbody.trans hload)), ⟨_, (State.fib?_modFib_self ..).trans (congrArg _ hpark), rfl, rfl⟩, rfl, rfl, rfl,
    by rw [hp]; exact hseq, rfl, rfl, rfl, rfl, FlightsKept.frame ?_ ?_⟩
  · rw [hp]
    refine ((FlightsKept.ofStrands hq _).trans (.takeSeq _ c.k)).trans (FlightsKept.trans ?_ (.modFib _ c.k _))
    exact (FlightsKept.ofStrands (s := (State.takeSeq _ c.k).1) (t := (State.dueAt (State.takeSeq _ c.k).1).2) rfl _).trans (.park _ c.k _)
  · rw [hp]
    simp

/-- A load that SRAM serves (R199, R200). -/
theorem load_served (hmay : (u.loadMay c.k (as.map trim) && u.present c.cluster (as.map trim)) = true) :
    ∃ (t : State) (free : Nat → Nat) (W : Nat → Nat → Word), exec i s = .next t ∧ c.WentOn t ∧
      (∀ r l, (∀ a ∈ as.map trim, a.lane = l → u.badLane a = none) →
        W r l = loadedWord (if acq.isSome then u.syncLines c.k else u) c.k free form (as.map trim) r l) ∧
      (s.launchFlag c.k 5 = false → c.Frame ((List.range form.span).map (form.dst + ·)) u t ∧
        ∀ st r, u.strand? c.strand = some st → r < form.span → InFlight t c.strand st.flights (form.dst + r) c.f.laneSet c.act
          (fun b => tri c.t b + 3 * (if (as.map trim).all fun x => x.bytes.all fun y => y.kind == .scr then 8 else 10)) (W r)) ∧
      ((∃ a ∈ as.map trim, u.badLane a ≠ none) → ∃ g tr, t.fib? c.k = some g ∧ (c.st.seq, tr) ∈ g.deferred ∧
        tr.cause = .memPoison ∧ tr.defer = true ∧
        ∀ m, tr.mask = some m → ∀ l, l < 96 → (m.getLsbD l = true ↔ ∃ a ∈ as.map trim, a.lane = l ∧ u.badLane a ≠ none)) := by
  obtain ⟨body, tags, hint, he, hbody⟩ := load_passes ha hf hck
  obtain ⟨r, tag, hr, hload⟩ := Ctx.load_hit (form := form) (tags := tags) (acq := acq) (hint := hint) hb hbusy hu hmay rfl
  have hin := (Stays.beforeRead hu).kept (by rw [h.seat]; exact Option.some_ne_none _)
  have hstrands : r.strands = u.strands := hr ▸ State.strands_atReads ..
  have hseat : r.seat c.k = some (c.st.seq, c.f.laneSet) := (State.seat_of_strands hstrands c.k).trans (hin.1.trans h.seat)
  have hkept := (FlightsKept.ofStrands hstrands c.strand).trans (r.reads_flightsKept c.k (as.map trim) acq)
  have hlanes : (r.reads c.k (as.map trim) acq).badLanes (as.map trim) = u.badLanes (as.map trim) :=
    ((hr ▸ State.atReads_badKept .. : BadKept u r).trans (r.reads_badKept ..)).badLanes _
  have hcontents : s.launchFlag c.k 5 = false → (r.reads c.k (as.map trim) acq).contents = u.contents := fun hflag => by
    have hr' := ((hr ▸ State.atReads_stays .. : Stays c.k u r).kept (by rw [hin.1, h.seat]; exact Option.some_ne_none _)).2 (hin.2 hflag)
    rw [State.contents_reads _ _ hr' (by rw [hseat]; exact Option.some_ne_none _), hr, State.contents_atReads]
  have hreads : SameReads (if acq.isSome then u.syncLines c.k else u) r := hr ▸ State.atReads_sameReads ..
  have hseat' := r.seat_reads c.k (as.map trim) acq hseat
  have hword := hreads.readWord_eq c.k form (as.map trim)
  rw [hlanes] at hload
  generalize r.reads c.k (as.map trim) acq = y at hload hkept hcontents hseat'
  obtain ⟨W, hw, hW⟩ := Ctx.serves_writesSpan hseat' form (u.badLanes (as.map trim)) (readWord form (r.readsOf c.k (as.map trim))) tags
    (if (as.map trim).all fun x => x.bytes.all fun y => y.kind == .scr then 8 else 10) tag
  have hw' := WritesSpan.after hkept hw
  refine ⟨_, fun j => Config.olderValue (r.freeCtr + j), W, he.trans (issue_next h (hbody.trans hload)), ⟨_, rfl⟩, fun i l hl => ?_,
    fun hflag => ⟨hw'.frame ((Ctx.contents_serves ..).trans (hcontents hflag)), fun st i hs hi => hw'.inFlight hs hi⟩, fun hbad => ?_⟩
  · refine (hW i l (Bool.eq_false_iff.mpr fun hany => ?_)).trans (hword i l)
    obtain ⟨a, ha, hal, hne⟩ := State.any_badLanes.mp hany
    exact hne (hl a ha hal)
  · have hne : u.badLanes (as.map trim) ≠ [] := fun hnil => by
      obtain ⟨a, ha, hne⟩ := hbad
      exact hne (State.badLanes_eq_nil_iff.mp hnil a ha)
    have hp := (Bool.and_eq_true_iff.mp hmay).2
    obtain ⟨g, tr, hg, hmem, hcause, hdefer, hmask⟩ := Ctx.serves_deferred hseat' form _ (readWord form (r.readsOf c.k (as.map trim))) tags
      (if (as.map trim).all fun x => x.bytes.all fun y => y.kind == .scr then 8 else 10) tag hne fun x hx =>
        State.badLane_present hp (fun a ha' b hb' hk => by
          obtain ⟨a0, ha0, rfl⟩ := List.mem_map.mp ha'
          exact State.checkAccess_scratch hck ha0 (trim_bytes ha a0 b hb') hk) (State.mem_badLanes.mp hx).1 (State.mem_badLanes.mp hx).2
    refine ⟨g, tr, hg, hmem, hcause, hdefer, fun m hm l hl => ?_⟩
    cases hmask.symm.trans hm
    rw [getLsbD_lanesOf, decide_eq_true hl, Bool.true_and, State.any_badLanes]

end

end Sys2Proof.Machine
end

section
/-! SUPPORT. A parked load whose pieces are read, one after the other, and whose words land with the last. -/

namespace Sys2Proof.Machine

/-- From `s` to `t` fibre `k` came at most to know more: it stands where it stood, and its strand's writes in flight are the same. -/
structure Learns (k : Nat) (s t : State) : Prop where
  flights : FlightsKept (fibStrand k) s t
  stays : Stays k s t
  cycle : t.cycle = s.cycle
  fibre : ∀ f, s.fib? k = some f → ∃ g, t.fib? k = some g ∧ g.pc = f.pc ∧ g.state = f.state ∧ g.laneSet = f.laneSet ∧ g.deferred = f.deferred

namespace Learns

theorem ofHome {k : Nat} {s t : State} (h : HomeOnly s t) : Learns k s t :=
  ⟨.ofStrands h.strands _, .ofHome h, h.cycle, fun f hf => ⟨f, (State.fib?_of_strands h.strands k).trans hf, rfl, rfl, rfl, rfl⟩⟩

theorem refl (k : Nat) (s : State) : Learns k s s := .ofHome (.refl s)

theorem trans {k : Nat} {s t u : State} (h : Learns k s t) (h' : Learns k t u) : Learns k s u :=
  ⟨h.flights.trans h'.flights, h.stays.trans h'.stays, h'.cycle.trans h.cycle, fun f hf => by
    obtain ⟨g, hg, hpc, hstate, hset, hdef⟩ := h.fibre f hf
    obtain ⟨g', hg', hpc', hstate', hset', hdef'⟩ := h'.fibre g hg
    exact ⟨g', hg', hpc'.trans hpc, hstate'.trans hstate, hset'.trans hset, hdef'.trans hdef⟩⟩

theorem branch {k : Nat} {s t u : State} {p : Prop} [Decidable p] (h : Learns k s t) (h' : Learns k s u) : Learns k s (if p then t else u) := by
  split
  · exact h
  · exact h'

/-- A change of the fibre that leaves it in its place. -/
theorem modFib {k : Nat} (s : State) (f : Fibre → Fibre)
    (h : ∀ x, (f x).pc = x.pc ∧ (f x).state = x.state ∧ (f x).laneSet = x.laneSet ∧ (f x).deferred = x.deferred) : Learns k s (s.modFib k f) :=
  ⟨.modFib .., .modFib _ _ _ fun x => (h x).2.2.1, rfl, fun x hx => ⟨f x, (State.fib?_modFib_self ..).trans (congrArg _ hx), h x⟩⟩

theorem freeCtr {k : Nat} (s : State) (n : Nat) : Learns k s { s with freeCtr := n } := .ofHome ⟨rfl, rfl, rfl, rfl⟩

theorem looked {k : Nat} (s : State) (xs : List (LaneAcc × List Look)) : Learns k s (s.looked k xs) := by
  have learn : ∀ (a : State) seen rels, Learns k a (a.learn [k] seen rels) := fun a seen rels => by
    unfold State.learn
    exact .modFib _ _ fun _ => ⟨rfl, rfl, rfl, rfl⟩
  unfold State.looked
  dsimp only
  split
  · exact Learns.trans (t := s.soPlace (s.viewOf k) ((xs.flatMap (·.2)).flatMap (·.seen))) (.ofHome ⟨rfl, rfl, rfl, rfl⟩) (learn ..)
  · exact learn ..

theorem acquire {k : Nat} (s : State) (scope : Nat) (rels : List Rel) : Learns k s (s.acquire k scope rels) :=
  .modFib _ _ fun _ => ⟨rfl, rfl, rfl, rfl⟩

theorem syncLines {k : Nat} (s : State) : Learns k s (s.syncLines k) :=
  ⟨.ofStrands (State.strands_syncLines s k) _, .syncLines .., (HomeOnly.refresh ..).cycle,
    fun f hf => ⟨f, (State.fib?_of_strands (State.strands_syncLines s k) k).trans hf, rfl, rfl, rfl, rfl⟩⟩

end Learns

/-! ### One piece -/

/-- The bytes of a piece are read where its lines have been brought (R220). -/
theorem State.readPiece_eq (s : State) (k : Nat) (m : MissLoad) (p : Nat × Nat × Nat) {v : State}
    (hv : v = (s.goHomes (fibCluster k) (s.awayBytes (fibCluster k) ((m.pieceBytes p).take 1))).bringLines k m.hint (m.pieceBytes p)) :
    ∃ n x bad rels, s.readPiece k m p = (({ v with freeCtr := v.freeCtr + 1 } : State).looked k [x],
      { m with got := m.got ++ [(p.1, p.2.1, (v.look k n (m.pieceBytes p)).bytes)], bad := bad, rels := rels }) := by
  subst hv
  exact ⟨_, _, _, _, rfl⟩

theorem State.readPiece_learns (s : State) (k : Nat) (m : MissLoad) (p : Nat × Nat × Nat) :
    Learns k s (s.readPiece k m p).1 ∧ (s.readPiece k m p).2.lanes = m.lanes ∧ (s.readPiece k m p).2.form = m.form ∧
      (s.readPiece k m p).2.act = m.act := by
  obtain ⟨n, x, bad, rels, h⟩ := s.readPiece_eq k m p rfl
  have hv : Learns k s ((s.goHomes (fibCluster k) (s.awayBytes (fibCluster k) ((m.pieceBytes p).take 1))).bringLines k m.hint (m.pieceBytes p)) :=
    .ofHome ((HomeOnly.goHomes ..).trans (.bringLines ..))
  rw [h]
  exact ⟨(hv.trans (.freeCtr ..)).trans (.looked ..), rfl, rfl, rfl⟩

theorem State.readPieces_learns (k : Nat) (ps : List (Nat × Nat × Nat)) (s : State) (m : MissLoad) :
    Learns k s (ps.foldl (fun a q => a.1.readPiece k a.2 q) (s, m)).1 ∧ (ps.foldl (fun a q => a.1.readPiece k a.2 q) (s, m)).2.lanes = m.lanes ∧
      (ps.foldl (fun a q => a.1.readPiece k a.2 q) (s, m)).2.form = m.form ∧ (ps.foldl (fun a q => a.1.readPiece k a.2 q) (s, m)).2.act = m.act := by
  induction ps generalizing s m with
  | nil => exact ⟨.refl k s, rfl, rfl, rfl⟩
  | cons p ps ih =>
    obtain ⟨hl, hlanes, hform, hact⟩ := s.readPiece_learns k m p
    obtain ⟨hl', hlanes', hform', hact'⟩ := ih (s.readPiece k m p).1 (s.readPiece k m p).2
    exact ⟨hl.trans hl', hlanes'.trans hlanes, hform'.trans hform, hact'.trans hact⟩

/-! ### The last piece -/

theorem tri_tri1 (n b : Nat) : tri (tri1 n) b = n := by
  unfold tri tri1
  split
  · rfl
  · split <;> rfl

/-- A load all of whose pieces have been read, before its words land: an acquire has acquired, and a replayed load is logged. -/
def State.landed (s : State) (k : Nat) (m : MissLoad) : State :=
  let s := if m.acq then (s.syncLines k).acquire k m.scope m.rels else s
  s.replayLoad k m.lanes (m.lanes.map fun x => (x, x.pieces.flatMap fun p =>
    ((m.got.find? fun g => g.1 == x.lane && g.2.1 == p.1).map (·.2.2)).getD (List.replicate p.2 0)))

theorem State.finishLoad_eq (s : State) (k : Nat) (m : MissLoad) : ∃ badL val, s.finishLoad k m =
      (((s.landed k m).landWords k m.form.dst m.form.span m.seq m.act badL val m.tags (tri1 (s.landed k m).cycle)).holdBad k m.seq m.bad m.word
        (tri1 (s.landed k m).cycle)).ready k ∧ (m.bad = [] → ∀ r, val r = gotWord m r) := by
  refine ⟨_, _, rfl, fun hbad r => funext fun l => ?_⟩
  have hno : (lanesOf fun l => m.bad.any (·.1.lane == l)).getLsbD l = false := by rw [hbad, getLsbD_lanesOf]; simp
  rw [hno]
  simp [gotWord, List.find?_map, Function.comp_def]

/-- Where the launch is not replayed. -/
theorem State.landed_learns {s : State} {k : Nat} (m : MissLoad) (hf : s.launchFlag k 5 = false) (hs : s.seat k ≠ none) : Learns k s (s.landed k m) := by
  have h : Learns k s (if m.acq then (s.syncLines k).acquire k m.scope m.rels else s) :=
    .branch ((Learns.syncLines s).trans (.acquire ..)) (.refl k s)
  unfold State.landed
  dsimp only
  rw [State.replayLoad_of_flag _ ((h.stays.kept hs).2 hf)]
  exact h

theorem State.contents_landed {s : State} {k : Nat} (m : MissLoad) (hf : s.launchFlag k 5 = false) (hs : s.seat k ≠ none) :
    (s.landed k m).contents = s.contents := by
  have h : Learns k s (if m.acq then (s.syncLines k).acquire k m.scope m.rels else s) :=
    .branch ((Learns.syncLines s).trans (.acquire ..)) (.refl k s)
  unfold State.landed
  dsimp only
  rw [State.replayLoad_of_flag _ ((h.stays.kept hs).2 hf)]
  split <;> simp

theorem State.fib?_landed {s : State} {k : Nat} {f : Fibre} (m : MissLoad) (hf : s.fib? k = some f) :
    ∃ g, (s.landed k m).fib? k = some g ∧ g.pc = f.pc ∧ g.laneSet = f.laneSet ∧ g.deferred = f.deferred := by
  have h : Learns k s (if m.acq then (s.syncLines k).acquire k m.scope m.rels else s) :=
    .branch ((Learns.syncLines s).trans (.acquire ..)) (.refl k s)
  obtain ⟨g, hg, hpc, -, hset, hdef⟩ := h.fibre f hf
  unfold State.landed
  dsimp only
  exact ⟨g, (State.fib?_of_strands (State.strands_replayLoad ..) k).trans hg, hpc, hset, hdef⟩

/-- With its last piece a load's fibre is ready (R200). -/
theorem State.finishLoad_ready {s : State} {k : Nat} {f : Fibre} (m : MissLoad) (hf : s.fib? k = some f) :
    ∃ h, (s.finishLoad k m).fib? k = some h ∧ h.state = .ready ∧ h.pc = f.pc ∧ (m.bad = [] → h.deferred = f.deferred) := by
  obtain ⟨badL, val, heq, -⟩ := s.finishLoad_eq k m
  obtain ⟨g, hg, hpc, -, hdef⟩ := State.fib?_landed m hf
  rw [heq]
  generalize hw : (s.landed k m).landWords _ _ _ _ _ _ _ _ _ = w
  have hfib : w.fib? k = some g := by rw [← hw, State.fib?_landWords, hg]
  have hheld : ∃ g', (w.holdBad k m.seq m.bad m.word (tri1 (s.landed k m).cycle)).fib? k = some g' ∧ g'.pc = g.pc ∧
      (m.bad = [] → g'.deferred = g.deferred) := by
    unfold State.holdBad
    split
    · next t ht =>
      refine ⟨_, (State.fib?_modFib_self ..).trans (congrArg _ hfib), rfl, fun hbad => ?_⟩
      rw [hbad] at ht
      cases ht
    · exact ⟨g, hfib, rfl, fun _ => rfl⟩
  obtain ⟨g', hg', hpc', hdef'⟩ := hheld
  exact ⟨_, State.fib?_ready_self hg', rfl, hpc'.trans hpc, fun hbad => (hdef' hbad).trans hdef⟩

/-- The words of a load land with its last piece, where the launch is not replayed and no lane is bad. -/
theorem State.finishLoad_lands {s : State} {k : Nat} {f : Fibre} {m : MissLoad} (hf : s.fib? k = some f) (hflag : s.launchFlag k 5 = false) :
    (s.finishLoad k m).contents = s.contents ∧ (m.bad = [] →
      WritesSpan (fibStrand k) m.form.dst m.form.span f.laneSet m.act (fun _ => s.cycle) (gotWord m) s (s.finishLoad k m)) := by
  obtain ⟨st, hst, -⟩ := Option.bind_eq_some_iff.mp hf
  have hs : s.seat k ≠ none := by
    rw [State.seat_eq_some_iff.mpr ⟨st, f, hst, hf, rfl, rfl⟩]
    exact Option.some_ne_none _
  have hl := State.landed_learns m hflag hs
  obtain ⟨badL, val, heq, hval⟩ := s.finishLoad_eq k m
  rw [heq]
  refine ⟨by simp [State.contents_landed m hflag hs], fun hbad => ?_⟩
  obtain ⟨g, hg, -, -, hset, -⟩ := hl.fibre f hf
  have hw := State.landWords_writesSpan hg m.form.dst m.form.span m.seq m.act badL val m.tags (tri1 (s.landed k m).cycle)
  rw [hset, hl.cycle, show tri (tri1 s.cycle) = fun _ => s.cycle from funext fun b => tri_tri1 ..] at hw
  rw [hl.cycle, show gotWord m = val from (funext (hval hbad)).symm]
  exact .after hl.flights (hw.before ((FlightsKept.holdBad ..).trans (.ready ..)))

end Sys2Proof.Machine
end

section
/-! SUPPORT. MISS_DATA_LANDS, and the loads settled. -/

namespace Sys2Proof.Machine

/-! ### Which pieces are read -/

/-- The indices of a list's elements that satisfy `p`. -/
def indicesOf {α : Type} (l : List α) (p : α → Bool) : List Nat := (List.range l.length).filter fun n => ((l[n]?).map p).getD false

theorem mem_indicesOf {α : Type} {l : List α} {p : α → Bool} {n : Nat} : n ∈ indicesOf l p ↔ ∃ a, l[n]? = some a ∧ p a = true := by
  unfold indicesOf
  rw [List.mem_filter, List.mem_range]
  cases h : l[n]? with
  | none => simp
  | some a => simpa using fun _ => (List.getElem?_eq_some_iff.mp h).1

theorem indicesOf_isEmpty {α : Type} {l : List α} {p : α → Bool} : (indicesOf l p).isEmpty = true ↔ ∀ a ∈ l, p a = false := by
  rw [List.isEmpty_iff, List.eq_nil_iff_forall_not_mem]
  refine ⟨fun h a ha => ?_, fun h n hn => ?_⟩
  · obtain ⟨n, hn⟩ := List.mem_iff_getElem?.mp ha
    exact Bool.eq_false_iff.mpr fun hp => h n (mem_indicesOf.mpr ⟨a, hn, hp⟩)
  · obtain ⟨a, ha, hp⟩ := mem_indicesOf.mp hn
    exact absurd hp (Bool.eq_false_iff.mp (h a (List.mem_of_getElem? ha)))

/-- A choice among ready pieces is one of them, or all. -/
theorem State.pick_spec (s : State) {ready : List Nat} (h : ready ≠ []) : ∃ n is, s.pick ready ready = (is, { s with freeCtr := n }) ∧ is ≠ [] ∧
    ∀ i ∈ is, i ∈ ready := by
  unfold State.pick
  split
  · exact ⟨s.freeCtr, ready, rfl, h, fun _ => id⟩
  · split
    · exact ⟨_, ready, rfl, h, fun _ => id⟩
    · next n _ =>
      refine ⟨_, _, rfl, List.cons_ne_nil _ _, fun i hi => ?_⟩
      rw [List.mem_singleton.mp hi]
      have hlt : n % ready.length < ready.length := Nat.mod_lt _ (List.length_pos_iff.mpr h)
      rw [List.getD_eq_getElem _ _ hlt]
      exact List.getElem_mem hlt

/-- What is left is fewer. -/
theorem length_without_lt {α : Type} {l : List α} {is : List Nat} {i : Nat} (hi : i ∈ is) (hl : i < l.length) : (without l is).length < l.length := by
  unfold without
  rw [List.length_map]
  calc (l.zipIdx.filter fun x => !is.contains x.2).length < l.zipIdx.length := by
        refine List.length_filter_lt_length_iff_exists.mpr ⟨(l[i], i), ?_, by simpa using hi⟩
        exact List.mk_mem_zipIdx_iff_getElem?.mpr (List.getElem?_eq_getElem hl)
    _ = l.length := List.length_zipIdx

/-! ### The pieces of a parked load -/

section
variable {s : State} {k : Nat} {g : Fibre} {m : MissLoad}

/-- Whether a piece may be read now (R200, R220). -/
def State.pieceMay (s : State) (k : Nat) (m : MissLoad) (p : Nat × Nat × Nat) : Bool :=
  s.readMay k (m.pieceBytes p) && ((s.cluster (fibCluster k)).busyBank (m.pieceBytes p)).isNone

theorem State.pieceMay_iff {p : Nat × Nat × Nat} : s.pieceMay k m p = true ↔
    s.readMay k (m.pieceBytes p) = true ∧ (s.cluster (fibCluster k)).busyBank (m.pieceBytes p) = none := by
  unfold State.pieceMay
  rw [Bool.and_eq_true, Option.isNone_iff_eq_none]

/-- The pieces `is` of a parked load are read. -/
def State.piecesRead (s : State) (k : Nat) (m : MissLoad) (is : List Nat) : State × MissLoad :=
  (is.filterMap fun n => m.pend[n]?).foldl (fun a q => a.1.readPiece k a.2 q) (s, m)

/-- MISS_DATA_LANDS for a parked load, where `ready` are the pieces that may be read. -/
theorem missDataLands_eq (hg : s.fib? k = some g) (hw : g.wait = .miss m) {ready : List Nat} (hr : ready = indicesOf m.pend (s.pieceMay k m)) :
    exec (.missDataLands k) s =
      if g.state != .parked || decide (s.cycle < m.due) || (ready.isEmpty && !m.pend.isEmpty) then .next s
      else
        let p := s.pick ready ready
        let r := p.2.piecesRead k m p.1
        let left := without m.pend p.1
        if left.isEmpty then .next (r.1.finishLoad k { r.2 with pend := [] })
        else .next (r.1.modFib k fun f => { f with wait := .miss { r.2 with pend := left, due := s.cycle + 1 } }) := by
  subst hr
  show execMissDataLands k s = _
  unfold execMissDataLands
  rw [hg]
  dsimp -zeta only
  rw [hw]
  rfl

theorem missDataLands_waits (hg : s.fib? k = some g) (hw : g.wait = .miss m)
    (hno : s.cycle < m.due ∨ m.pend ≠ [] ∧ ∀ p ∈ m.pend, s.pieceMay k m p = false) : exec (.missDataLands k) s = .next s := by
  rw [missDataLands_eq hg hw rfl, if_pos]
  rcases hno with hdue | ⟨hne, hnone⟩
  · simp [hdue]
  · rw [indicesOf_isEmpty.mpr hnone]
    simp [hne]

/-- Chosen pieces are read; with the last the words land, and else the load waits on. -/
theorem missDataLands_reads (hg : s.fib? k = some g) (hw : g.wait = .miss m) (hp : g.state = .parked) (hdue : m.due ≤ s.cycle)
    (hmay : ∃ p ∈ m.pend, s.pieceMay k m p = true) : ∃ t h, exec (.missDataLands k) s = .next t ∧ t.fib? k = some h ∧ h.pc = g.pc ∧
      (h.state = .ready ∨ ∃ m', h.state = .parked ∧ h.wait = .miss m' ∧ m'.pend.length < m.pend.length ∧ m'.lanes = m.lanes ∧
        m'.form = m.form ∧ m'.act = m.act) := by
  have hready : indicesOf m.pend (s.pieceMay k m) ≠ [] := fun hnil => by
    obtain ⟨p, hp, hm⟩ := hmay
    exact absurd hm (Bool.eq_false_iff.mp (indicesOf_isEmpty.mp (List.isEmpty_iff.mpr hnil) p hp))
  obtain ⟨n, is, hpick, hne, hsub⟩ := s.pick_spec hready
  obtain ⟨hl, hlanes, hform, hact⟩ := State.readPieces_learns k (is.filterMap fun n => m.pend[n]?) { s with freeCtr := n } m
  obtain ⟨f, hf, hpc, hstate, -, -⟩ := hl.fibre g hg
  rw [missDataLands_eq hg hw rfl, if_neg (by simp [hp, hdue, hready])]
  dsimp only
  rw [hpick]
  dsimp only [State.piecesRead]
  split
  · obtain ⟨h, hh, hready, hpc', -⟩ := State.finishLoad_ready
      { (List.foldl (fun a q => State.readPiece a.1 k a.2 q) ({ s with freeCtr := n }, m) (is.filterMap fun n => m.pend[n]?)).2 with pend := [] } hf
    exact ⟨_, h, rfl, hh, hpc'.trans hpc, .inl hready⟩
  · refine ⟨_, _, rfl, (State.fib?_modFib_self ..).trans (congrArg _ hf), hpc, .inr ⟨_, hstate.trans hp, rfl, ?_, hlanes, hform, hact⟩⟩
    obtain ⟨i, hi⟩ := List.exists_mem_of_ne_nil _ hne
    obtain ⟨a, ha, -⟩ := mem_indicesOf.mp (hsub i hi)
    exact length_without_lt hi (List.getElem?_eq_some_iff.mp ha).1

/-- The last piece of a parked load. -/
theorem missDataLands_last {p : Nat × Nat × Nat} (hg : s.fib? k = some g) (hw : g.wait = .miss m) (hp : g.state = .parked)
    (hdue : m.due ≤ s.cycle) (hpend : m.pend = [p]) (hmay : s.pieceMay k m p = true) :
    exec (.missDataLands k) s = .next ((s.readPiece k m p).1.finishLoad k { (s.readPiece k m p).2 with pend := [] }) := by
  have hready : indicesOf m.pend (s.pieceMay k m) = [0] := by rw [hpend]; simp [indicesOf, hmay]
  rw [missDataLands_eq hg hw rfl, hready, if_neg (by simp [hp, hdue])]
  simp [State.pick, State.piecesRead, hpend, without]

/-- With the last piece the words of a parked load land, and its fibre is ready (R73, R200). -/
theorem missDataLands_lands {st : Strand} {p : Nat × Nat × Nat} (hg : s.fib? k = some g) (hst : s.strand? (fibStrand k) = some st)
    (hw : g.wait = .miss m) (hp : g.state = .parked) (hdue : m.due ≤ s.cycle) (hpend : m.pend = [p]) (hmay : s.pieceMay k m p = true)
    {v : State} (hv : v = (s.goHomes (fibCluster k) (s.awayBytes (fibCluster k) ((m.pieceBytes p).take 1))).bringLines k m.hint (m.pieceBytes p)) :
    ∃ t h n, exec (.missDataLands k) s = .next t ∧ t.fib? k = some h ∧ h.state = .ready ∧ h.pc = g.pc ∧
      (s.readPiece k m p).2.got = m.got ++ [(p.1, p.2.1, (v.look k n (m.pieceBytes p)).bytes)] ∧
      (s.launchFlag k 5 = false → MemSame (s.readPiece k m p).1 t ∧ ((s.readPiece k m p).2.bad = [] → h.deferred = g.deferred ∧
        ∀ r, r < m.form.span → InFlight t (fibStrand k) st.flights (m.form.dst + r) g.laneSet m.act (fun _ => s.cycle)
          (gotWord (s.readPiece k m p).2 r))) := by
  obtain ⟨hl, -, hform, hact⟩ := s.readPiece_learns k m p
  obtain ⟨n, x, bad, rels, hread⟩ := s.readPiece_eq k m p hv
  have hgot : (s.readPiece k m p).2.got = m.got ++ [(p.1, p.2.1, (v.look k n (m.pieceBytes p)).bytes)] := by rw [hread]
  have hexec := missDataLands_last hg hw hp hdue hpend hmay
  generalize s.readPiece k m p = u at *
  obtain ⟨f, hf, hpc, -, hset, hdef⟩ := hl.fibre g hg
  obtain ⟨h, hh, hready, hpc', hdef'⟩ := State.finishLoad_ready { u.2 with pend := [] } hf
  refine ⟨_, h, n, hexec, hh, hready, hpc'.trans hpc, hgot, fun hflag => ?_⟩
  have hs : s.seat k ≠ none := by
    rw [State.seat_eq_some_iff.mpr ⟨st, g, hst, hg, rfl, rfl⟩]
    exact Option.some_ne_none _
  obtain ⟨hmem, hlands⟩ := State.finishLoad_lands (m := { u.2 with pend := [] }) hf ((hl.stays.kept hs).2 hflag)
  refine ⟨memSame_of_contents hmem, fun hbad => ⟨(hdef' hbad).trans hdef, fun r hr => ?_⟩⟩
  have hspan := (WritesSpan.after hl.flights (hlands hbad)).inFlight hst (i := r) (by rw [hform]; exact hr)
  rw [hl.cycle, hset] at hspan
  rw [← hform, ← hact]
  exact hspan

end

/-! ### The loads settled -/

theorem State.lateFirst_of_none {s : State} {k : Nat} (h : ∀ e ∈ s.myStores k, e.late = none) (bs : List ByteAt) : s.lateFirst k bs = s := by
  unfold State.lateFirst
  refine if_neg (Bool.not_eq_true _ ▸ List.any_eq_false.mpr fun e he => ?_)
  rw [h e he]
  simp

theorem State.uoYield_of_nil {s : State} {k : Nat} (h : (s.cluster (fibCluster k)).uo = []) (bs : List ByteAt) : s.uoYield k bs = s := by
  unfold State.uoYield
  rw [h]
  rfl

theorem toNat_append_byte {n : Nat} (x : BitVec n) (b : Byte) : (x ++ b).toNat = b.toNat + 256 * x.toNat := by
  rw [BitVec.toNat_append, ← Nat.shiftLeft_add_eq_or_of_lt b.isLt, Nat.shiftLeft_eq]
  omega

/-- The words of bytes in little-endian order (R197). -/
theorem loadForm_words (sx : Bool) (bs : List Byte) :
    (∀ b, bs = [b] → ({ dst := 0, sz := 0, sx := sx } : LoadForm).words bs = [if sx then b.signExtend 32 else b.zeroExtend 32]) ∧
    (∀ a b, bs = [a, b] → ({ dst := 0, sz := 1, sx := sx } : LoadForm).words bs =
      [if sx then (b ++ a).signExtend 32 else (b ++ a).zeroExtend 32]) ∧
    (∀ a b c d, bs = [a, b, c, d] → ({ dst := 0, sz := 2, sx := sx } : LoadForm).words bs = [d ++ c ++ b ++ a]) := by
  have h1 : ∀ b, natOfBytes [b] = b.toNat := fun b => by simp [natOfBytes]
  have h2 : ∀ a b, natOfBytes [a, b] = (b ++ a).toNat := fun a b => by rw [natOfBytes, h1, toNat_append_byte]
  have h4 : ∀ a b c d, natOfBytes [a, b, c, d] = (d ++ c ++ b ++ a).toNat := fun a b c d => by
    rw [natOfBytes, natOfBytes, h2, toNat_append_byte (d ++ c ++ b) a, toNat_append_byte (d ++ c) b]
  refine ⟨?_, ?_, ?_⟩
  · rintro b rfl
    simp [LoadForm.words, h1]
  · rintro a b rfl
    simp [LoadForm.words, h2]
  · rintro a b c d rfl
    simp [LoadForm.words, h4]

/-- The clauses of a load at its issue, of MISS_DATA_LANDS, of a read without history, and of the words. -/
theorem loadsFillRegisters : LoadsFillRegisters := by
  refine ⟨fun s c i n al ea trim d w form acq h ha hf => ⟨fun t => load_traps h ha hf, fun va => load_walks h ha hf, fun as hck => ?_, fun bs => ?_⟩,
    fun s k g st m hg hst hw hp => ?_, fun s k n bs hh => ?_, loadForm_words⟩
  · exact ⟨load_idles h ha hf hck, fun b => load_stalls h ha hf hck, fun hb hbusy => load_served h ha hf hck hb hbusy rfl,
      fun hb hbusy => load_parks h ha hf hck hb hbusy rfl⟩
  · exact ⟨fun huo => State.uoYield_of_nil huo bs, fun hl => State.lateFirst_of_none hl bs⟩
  · have hmay : ∀ p, s.pieceMay k m p = true ↔ s.readMay k (m.pieceBytes p) = true ∧ (s.cluster (fibCluster k)).busyBank (m.pieceBytes p) = none :=
      fun p => State.pieceMay_iff
    refine ⟨fun hno => missDataLands_waits hg hw ?_, fun hdue hsome => missDataLands_reads hg hw hp hdue ?_, fun p hdue hpend hp' => ?_⟩
    · exact hno.imp_right fun h => ⟨h.1, fun p hp => Bool.eq_false_iff.mpr fun ht => h.2 p hp ((hmay p).mp ht)⟩
    · obtain ⟨p, hp, hm⟩ := hsome
      exact ⟨p, hp, (hmay p).mpr hm⟩
    · exact missDataLands_lands hg hst hw hp hdue hpend ((hmay p).mpr hp') rfl
  · rw [State.look_nil hh]

/-- Settles O40: a load runs its checks, and is served from SRAM or parks until MISS_DATA_LANDS has read its pieces; and a read finds known
values. -/
theorem loadsReadAndFillRegisters : Obligations.LoadsReadAndFillRegisters := ⟨loadsFillRegisters, readsFindKnownValues⟩

end Sys2Proof.Machine
end

section
/-! SUPPORT. The checks of the fields that an instruction which issues has passed, elements of words as numbers and as bits, and what the
element-wise instructions of the integer range leave (R98 to R101). -/

namespace Sys2Proof.Machine

/-! ### What the checks of the fields have found -/

/-- An instruction that issues has passed the checks of its fields (steps 14 and 15 of Table 2.7). -/
theorem Issues.fieldCheck {i : Instr} {s : State} {c : Ctx} (h : Issues i s c) : i.fieldCheck = none := by
  have hi := h.instr
  obtain ⟨-, -, -, hc⟩ := h
  cases hf : c.fieldBad with
  | none =>
    unfold Ctx.fieldBad at hf
    split at hf
    · cases hf
    · rwa [hi] at hf
  | some e =>
    unfold Ctx.check at hc
    rw [hf] at hc
    split at hc
    · cases hc
    · split at hc <;> cases hc

/-- The checks of step 14 that an instruction which issues has passed: those its entry adds, and those of the I64 instructions. -/
theorem Issues.fields {i : Instr} {s : State} {c : Ctx} (h : Issues i s c) :
    (∀ x, i.xuse = some x → i.extraOk = true) ∧ i.iFieldsOk = true := by
  have hf := h.fieldCheck
  unfold Instr.fieldCheck at hf
  obtain ⟨-, hbad⟩ | ⟨hok, -⟩ := ite_eq_iff.mp hf
  · cases hbad
  · simp only [Bool.not_eq_true', Bool.not_eq_false, Bool.and_eq_true] at hok
    obtain ⟨⟨⟨hx, hi⟩, -⟩, -⟩ := hok
    refine ⟨fun x hxu => ?_, hi⟩
    rw [hxu] at hx
    simp only [Bool.and_eq_true] at hx
    obtain ⟨⟨-, hextra⟩, -⟩ := hx
    exact hextra

/-! ### Widths -/

theorem elemBits_pos (e : BitVec 2) : 0 < elemBits e := by revert e; decide

/-- The elements of an X64 or I64 instruction fill a word. -/
theorem X64.w_fits (f : X64) : X64.w f * (32 / X64.w f) ≤ 32 := (elemBits_mul f.esz).le

theorem I64.w_fits (f : I64) : I64.w f * (32 / I64.w f) ≤ 32 := (elemBits_mul f.esz).le

theorem div_elemBits (e : BitVec 2) : 32 / elemBits e = nElems e := by revert e; decide

/-! ### Numbers of an element -/

/-- A number reduced to `w` bits is that number mod 2^w. -/
theorem wrapW_emod (w : Nat) (x : Int) : ((wrapW w x : Nat) : Int) % 2 ^ w = x % 2 ^ w := by
  rw [wrapW_cast, Int.emod_emod_of_dvd _ dvd_rfl]

theorem minW_le_maxW (sg : Bool) (w : Nat) : minW sg w ≤ maxW sg w := by
  have hw : (0 : Int) < 2 ^ w := by positivity
  have hh : (0 : Int) < 2 ^ (w - 1) := by positivity
  cases sg
  · show (0 : Int) ≤ 2 ^ w - 1
    omega
  · show -(2 ^ (w - 1) : Int) ≤ 2 ^ (w - 1) - 1
    omega

/-- A signed element is the number of the bits that make it up. -/
theorem val_true_toNat {n : Nat} (h : 0 < n) (x : BitVec n) : val true n x.toNat = x.toInt := by
  have hn : 2 ^ n = 2 * 2 ^ (n - 1) := by rw [← pow_succ', Nat.sub_add_cancel h]
  rw [BitVec.toInt_eq_toNat_cond, val]
  by_cases hx : 2 ^ (n - 1) ≤ x.toNat
  · rw [if_pos ⟨rfl, hx⟩, if_neg (by omega)]
    push_cast
    rfl
  · rw [if_neg fun hc => hx hc.2, if_pos (by omega)]

theorem val_false (n e : Nat) : val false n e = e := by simp [val]

/-- R100: the clamped number is the nearest in the range. -/
theorem fit_fst (sat sg : Bool) (w : Nat) (x : Int) :
    (fit sat sg w x).1 = wrapW w (if sat then max (minW sg w) (min (maxW sg w) x) else x) := by
  have h := minW_le_maxW sg w
  unfold fit satW
  cases sat
  · rfl
  · simp only [if_true]
    split
    · next hlt => rw [max_eq_left (le_trans (min_le_right ..) hlt.le)]
    · next hge =>
      split
      · next hgt => rw [min_eq_left hgt.le, max_eq_right h]
      · next hle => rw [min_eq_right (not_lt.mp hle), max_eq_right (not_lt.mp hge)]

/-- R100: the clamp changes exactly the numbers outside the range. -/
theorem fit_snd (sat sg : Bool) (w : Nat) (x : Int) :
    (fit sat sg w x).2 = true ↔ sat = true ∧ (x < minW sg w ∨ maxW sg w < x) := by
  unfold fit satW
  cases sat
  · simp
  · by_cases hlt : x < minW sg w <;> by_cases hgt : maxW sg w < x <;> simp [hlt, hgt]

/-! ### Bits of an element -/

/-- The top bit of an element says whether it is in the upper half. -/
theorem testBit_top {w a : Nat} (hw : 0 < w) (ha : a < 2 ^ w) : a.testBit (w - 1) = decide (2 ^ (w - 1) ≤ a) := by
  have h := (BitVec.ofNat w a).msb_eq_getLsbD_last
  rw [BitVec.msb_eq_decide, BitVec.getLsbD_ofNat, decide_eq_true (Nat.sub_lt hw Nat.one_pos), Bool.true_and,
    BitVec.toNat_ofNat, Nat.mod_eq_of_lt ha] at h
  exact h.symm

/-- Bit `k` of a word lies in one of its elements. -/
theorem getLsbD_eq_testBit_el {w : Nat} (h : 0 < w) (x : Word) (k : Nat) : x.getLsbD k = (el w x (k / w)).testBit (k % w) := by
  rw [el, Nat.testBit_mod_two_pow, Nat.testBit_div_two_pow, decide_eq_true (Nat.mod_lt k h), Bool.true_and, Nat.mod_add_div,
    BitVec.testBit_toNat]

/-- The low bits of a number, negative ones too. -/
theorem testBit_wrapW {w k : Nat} (h : k < w) (x : Int) : (wrapW w x).testBit k = x.testBit k := by
  have hw : 0 < 2 ^ w := by positivity
  cases x with
  | ofNat m =>
    have : wrapW w (Int.ofNat m) = m % 2 ^ w := by
      zify
      exact wrapW_cast ..
    rw [this, Nat.testBit_mod_two_pow, decide_eq_true h]
    rfl
  | negSucc m =>
    have hlt : m % 2 ^ w < 2 ^ w := Nat.mod_lt _ hw
    have : wrapW w (Int.negSucc m) = 2 ^ w - (m % 2 ^ w + 1) := by
      unfold wrapW
      rw [Int.negSucc_emod m (by positivity), show (m : Int) % 2 ^ w = ((m % 2 ^ w : Nat) : Int) by push_cast; rfl]
      have : ((2 : Int) ^ w).toNat = 2 ^ w := by rw [← Nat.cast_ofNat, ← Nat.cast_pow, Int.toNat_natCast]
      omega
    rw [this, Nat.testBit_two_pow_sub_succ hlt, Nat.testBit_mod_two_pow, decide_eq_true h]
    rfl

/-! ### Words made element by element -/

section
variable {w : Nat} (hw : w * (32 / w) ≤ 32)
include hw

/-- Element `i` of a word made from one number for each place. -/
theorem el_fromElems_range (g : Nat → Nat) {i : Nat} (hi : i < 32 / w) :
    el w (fromElems w ((List.range (32 / w)).map g)) i = g i % 2 ^ w := by
  rw [el_fromElems w _ i (by simpa using hi) (by simpa using hw)]
  simp

/-- The elements of a word made from numbers, reduced or not. -/
theorem elemsAre_fromElems_range {g : Nat → Nat} {x : Nat → Int} (h : ∀ i, i < 32 / w → (g i : Int) % 2 ^ w = x i % 2 ^ w) :
    ElemsAre w (fromElems w ((List.range (32 / w)).map g)) x := by
  intro i hi
  rw [el_fromElems_range hw g hi, ← h i hi]
  push_cast
  rfl

/-- Every element of immw is the immediate, reduced (R101). -/
theorem el_immWord (x : Int) {i : Nat} (hi : i < 32 / w) : el w (immWord w x) i = wrapW w x := by
  unfold immWord
  rw [el_fromElems w _ i (by simpa using hi) (by simpa using hw), List.getElem_replicate, Nat.mod_eq_of_lt (wrapW_lt ..)]

end

/-- R101: immw bit by bit. -/
theorem getLsbD_immWord (e : BitVec 2) (x : Int) {k : Nat} (hk : k < 32) :
    (immWord (elemBits e) x).getLsbD k = x.testBit (k % elemBits e) := by
  have hpos := elemBits_pos e
  have hmul := elemBits_mul e
  have hi : k / elemBits e < 32 / elemBits e := Nat.div_lt_of_lt_mul (hk.trans_eq hmul.symm)
  rw [getLsbD_eq_testBit_el hpos, el_immWord hmul.le x hi, testBit_wrapW (Nat.mod_lt _ hpos)]

/-! ### What an element-wise instruction leaves -/

/-- Setting no flag is no change. -/
theorem Ctx.orFlags_zero (c : Ctx) (s : State) (lat : Nat) : c.orFlags s (fun _ => 0) lat = s := by
  have h : c.act &&& lanesOf (fun _ => (0 : Flags) != 0) = 0 := BitVec.eq_of_getLsbD_eq fun l hl => by simp
  unfold Ctx.orFlags
  simp only [h, beq_self_eq_true, if_true]

/-- A write that sets no flag. -/
theorem Ctx.afterWrite_noFlags (c : Ctx) (s : State) (d : BitVec 8) (cov : Word) (lat : Nat) (W : Nat → Word) :
    c.afterWrite s d cov lat W (fun _ => 0) = c.advance (c.putBits s d.toNat c.act W cov lat c.laneTag) := by
  rw [Ctx.afterWrite, Ctx.orFlags_zero]

/-- A predicate on some element that is made from its place. -/
theorem any_zipIdx_range {α : Type} (n : Nat) (g : Nat → α) (p : α × Nat → Bool) :
    (((List.range n).map g).zipIdx).any p = true ↔ ∃ i, i < n ∧ p (g i, i) = true := by
  rw [List.any_eq_true]
  constructor
  · rintro ⟨⟨a, i⟩, hmem, hp⟩
    obtain ⟨hlt, ha⟩ := List.getElem?_eq_some_iff.mp (List.mk_mem_zipIdx_iff_getElem?.mp hmem)
    rw [List.getElem_map, List.getElem_range] at ha
    exact ⟨i, by simpa using hlt, ha ▸ hp⟩
  · rintro ⟨i, hi, hp⟩
    exact ⟨(g i, i), List.mk_mem_zipIdx_iff_getElem?.mpr (by simp [hi]), hp⟩

theorem zipWith_elems {β : Type} (w : Nat) (op : Nat → Nat → β) (x y : Word) :
    List.zipWith op (elems w x) (elems w y) = (List.range (32 / w)).map fun i => op (el w x i) (el w y i) := by
  unfold elems
  rw [List.zipWith_map, List.zipWith_self]

theorem map_elems {β : Type} (w : Nat) (op : Nat → β) (x : Word) : (elems w x).map op = (List.range (32 / w)).map fun i => op (el w x i) :=
  List.map_map

/-- What an instruction leaves that writes to D, in each lane, the elements that `g` gives for each place, and goes on (R99, R100). -/
def Ctx.leavesElems (c : Ctx) (s : State) (d : BitVec 8) (w : Nat) (dm : BitVec 8) (lat : Nat) (g : Nat → Nat → Nat × Bool) : State :=
  c.advance (c.putSat s d w dm (fun l => (List.range (32 / w)).map (g l)) lat)

section
variable {i : Instr} {s : State} {c : Ctx} (h : Issues i s c)
include h

theorem intBin_eq (f : X64) (k : ModKind) (lat : Nat) (op : Nat → Nat → Nat × Bool) :
    intBin i f k lat op s = .next (c.leavesElems s f.d (X64.w f) (X64.dm f (X64.w f)) lat fun l j =>
      op (el (X64.w f) (c.srcA k (X64.w f) f l) j) (el (X64.w f) (c.srcB k (X64.w f) f l) j)) := by
  simp only [Ctx.leavesElems, ← zipWith_elems]
  exact issue_next h rfl

theorem intUn_eq (f : X64) (k : ModKind) (lat : Nat) (op : Nat → Nat × Bool) :
    intUn i f k lat op s = .next (c.leavesElems s f.d (X64.w f) (X64.dm f (X64.w f)) lat fun l j =>
      op (el (X64.w f) (c.srcA k (X64.w f) f l) j)) := by
  simp only [Ctx.leavesElems, ← map_elems]
  exact issue_next h rfl

theorem intTer_eq (f : X64) (k : ModKind) (lat : Nat) (op : Nat → Nat → Nat → Nat → Nat × Bool) :
    intTer i f k lat op s = .next (c.leavesElems s f.d (X64.w f) (X64.dm f (X64.w f)) lat fun l j =>
      op (el (X64.w f) (c.srcA k (X64.w f) f l) j) (el (X64.w f) (c.srcB k (X64.w f) f l) j)
        (el (X64.w f) (c.srcC k (X64.w f) f l) j) (el (X64.w f) (c.rd f.d.toNat l) j)) := issue_next h rfl

theorem intImm_eq (f : I64) (lat : Nat) (op : Nat → Nat × Bool) :
    intImm i f lat op s = .next (c.leavesElems s f.d (I64.w f) 0xFF lat fun l j => op (el (I64.w f) (c.rdA f.a.toNat l) j)) := by
  simp only [Ctx.leavesElems, ← map_elems]
  exact issue_next h rfl

end

section
variable {w : Nat} (hw : w * (32 / w) ≤ 32) {c : Ctx} {s : State} {d dm : BitVec 8} {lat : Nat} {o : Host.Outcome State Fault Refusal}
include hw

/-- An operation that saturates nothing sets no flag, and its elements are those it gives. -/
theorem elems_of_leavesElems {g : Nat → Nat → Nat} (ho : o = .next (c.leavesElems s d w dm lat fun l j => (g l j, false))) :
    ∃ W, o = .next (c.afterWrite s d (dmaskBits w dm) lat W fun _ => 0) ∧ ∀ l j, j < 32 / w → el w (W l) j = g l j % 2 ^ w := by
  have hflags : ∀ l, (if (((List.range (32 / w)).map fun j => (g l j, false)).zipIdx.any fun e => e.1.2 && dm.getLsbD e.2) = true
      then fSAT else 0) = 0 := fun l => by
    have hno : ¬ ((((List.range (32 / w)).map fun j => (g l j, false)).zipIdx).any fun e => e.1.2 && dm.getLsbD e.2) = true := by
      rw [any_zipIdx_range]
      simp
    exact if_neg hno
  refine ⟨fun l => fromElems w ((List.range (32 / w)).map (g l)), ho.trans ?_, fun l j hj => el_fromElems_range hw (g l) hj⟩
  unfold Ctx.leavesElems Ctx.putSat Ctx.afterWrite
  simp only [hflags, List.map_map, Function.comp_def]

/-- An operation that saturates nothing sets no flag, and its elements stand for the numbers `x`, mod 2^w. -/
theorem numbers_of_leavesElems {g : Nat → Nat → Nat} {x : Nat → Nat → Int}
    (ho : o = .next (c.leavesElems s d w dm lat fun l j => (g l j, false)))
    (hx : ∀ l j, j < 32 / w → (g l j : Int) % 2 ^ w = x l j % 2 ^ w) :
    ∃ W, o = .next (c.afterWrite s d (dmaskBits w dm) lat W fun _ => 0) ∧ ∀ l, ElemsAre w (W l) (x l) := by
  obtain ⟨W, he, hW⟩ := elems_of_leavesElems hw ho
  refine ⟨W, he, fun l j hj => ?_⟩
  rw [hW l j hj, ← hx l j hj]
  push_cast
  rfl

/-- R100: an operation that reduces or clamps the numbers `x` sets SAT where the clamp changes an element that is written. -/
theorem fits_of_leavesElems {sat sg : Bool} {x : Nat → Nat → Int}
    (ho : o = .next (c.leavesElems s d w dm lat fun l j => fit sat sg w (x l j))) :
    ∃ W fl, o = .next (c.afterWrite s d (dmaskBits w dm) lat W fl) ∧ ∀ l, ElemsFit sat sg w dm (W l) (fl l) (x l) := by
  refine ⟨_, _, ho, fun l => ⟨?_, ?_⟩⟩
  · rw [List.map_map]
    refine elemsAre_fromElems_range hw fun j _ => ?_
    rw [Function.comp_apply, fit_fst, wrapW_cast, Int.emod_emod_of_dvd _ dvd_rfl]
  · have hany := any_zipIdx_range (32 / w) (fun j => fit sat sg w (x l j)) fun e => e.1.2 && dm.getLsbD e.2
    simp only [Bool.and_eq_true, fit_snd] at hany
    refine ⟨fun ⟨hsat, j, hj, hd, hout⟩ => if_pos (hany.mpr ⟨j, hj, ⟨hsat, hout⟩, hd⟩), fun hno => if_neg fun hyes => ?_⟩
    obtain ⟨j, hj, ⟨hsat, hout⟩, hd⟩ := hany.mp hyes
    rcases hno with hno | hno
    · exact hno ⟨j, hj, hd, hout⟩
    · exact absurd hsat (Bool.not_eq_true _ ▸ hno)

end

end Sys2Proof.Machine
end

section
/-! SUPPORT. The statements about sums, products, quotients, smaller and larger numbers (R105 to R110). -/

namespace Sys2Proof.Machine

/-- Settles O10: each element is the exact sum or difference, reduced or clamped once. -/
theorem addAndSubtractWriteSums : Obligations.AddAndSubtractWriteSums := by
  unfold Obligations.AddAndSubtractWriteSums
  refine fun s c sat => ⟨fun f h => ?_, fun f h => ?_, fun f h => ?_⟩
  · exact fits_of_leavesElems (X64.w_fits f) (intBin_eq h f .int 2 (eAdd false sat (X64.sg f) (X64.w f)))
  · exact fits_of_leavesElems (X64.w_fits f) (intBin_eq h f .int 2 (eAdd true sat (X64.sg f) (X64.w f)))
  · exact fits_of_leavesElems (I64.w_fits f) (intImm_eq h f 2 fun a => eAdd false sat (I64.sg f) (I64.w f) a (I64.imm f))

/-! ### Products -/

/-- The upper half of a double-width number (R106). -/
theorem wrapW_double_div (w : Nat) (x : Int) : ((wrapW (2 * w) x / 2 ^ w : Nat) : Int) % 2 ^ w = x / 2 ^ w % 2 ^ w := by
  have h2 : (2 : Int) ^ (2 * w) = 2 ^ w * 2 ^ w := by rw [two_mul, pow_add]
  have hsub : x % 2 ^ (2 * w) = x + 2 ^ w * -(2 ^ w * (x / 2 ^ (2 * w))) := by
    rw [Int.emod_def, h2]
    ring
  push_cast
  rw [wrapW_cast, hsub, Int.add_mul_ediv_left _ _ (by positivity), ← mul_neg, Int.add_mul_emod_self_left]

theorem multiplyWritesProducts : MultiplyWritesProducts := by
  refine fun s c f => ⟨fun h => ?_, fun h => ?_, fun sat h => ?_, fun h => ?_⟩
  · exact numbers_of_leavesElems (X64.w_fits f) (intBin_eq h f .int 3 (eMul false (X64.sg f) (X64.w f))) fun _ _ _ => wrapW_emod ..
  · exact numbers_of_leavesElems (X64.w_fits f) (intBin_eq h f .int 3 (eMul true (X64.sg f) (X64.w f))) fun _ _ _ => wrapW_double_div ..
  · exact fits_of_leavesElems (X64.w_fits f) (intTer_eq h f .int 3 fun a b c _ => eMad sat (X64.sg f) (X64.w f) a b c)
  · change ∃ V, execImadw f s = _ ∧ _
    unfold execImadw
    refine ⟨_, issue_next h rfl, fun l => ?_⟩
    rw [BitVec.toNat_ofInt]
    exact Int.toNat_of_nonneg (Int.emod_nonneg _ (by positivity))

/-! ### Quotients -/

/-- R109: the lanes of act in which an element that DMASK enables has a zero divisor. -/
theorem Ctx.getLsbD_zeroDivLanes (c : Ctx) (f : X64) {l : Nat} (hl : l < 96) : (c.zeroDivLanes f).getLsbD l = true ↔
    c.act.getLsbD l = true ∧
      ∃ i, i < 32 / X64.w f ∧ (X64.dm f (X64.w f)).getLsbD i = true ∧ el (X64.w f) (c.srcB .int (X64.w f) f l) i = 0 := by
  unfold Ctx.zeroDivLanes elems
  rw [BitVec.getLsbD_and, getLsbD_lanesOf, decide_eq_true hl, Bool.true_and, Bool.and_eq_true, any_zipIdx_range]
  simp only [Bool.and_eq_true, beq_iff_eq, and_comm]

/-- The quotient and the remainder of R109 as numbers. -/
theorem eDiv_cast (rem sg : Bool) (w a b : Nat) : (((eDiv rem sg w a b).1 : Nat) : Int) % 2 ^ w =
    (if rem then val sg w a - val sg w b * (val sg w a).tdiv (val sg w b) else (val sg w a).tdiv (val sg w b)) % 2 ^ w := by
  rw [← Int.tmod_def]
  exact wrapW_emod ..

theorem exec_divide (rem : Bool) (f : X64) (s : State) : exec (if rem then .irem f else .idiv f) s =
    issue (if rem then .irem f else .idiv f) s (divBody rem f) := by cases rem <;> rfl

theorem divideTruncatesOrTraps : DivideTruncatesOrTraps := by
  refine fun s c f rem h => ⟨c.zeroDivLanes f, fun l hl => c.getLsbD_zeroDivLanes f hl, fun hz => ?_, fun hz => ?_⟩
  · rw [exec_divide]
    exact issue_trap h (if_pos (bne_iff_ne.mpr hz))
  · have hbody : divBody rem f c s = .next (c.putSat s f.d (X64.w f) (X64.dm f (X64.w f)) (fun l => (List.range (32 / X64.w f)).map fun j =>
        eDiv rem (X64.sg f) (X64.w f) (el (X64.w f) (c.srcA .int (X64.w f) f l) j) (el (X64.w f) (c.srcB .int (X64.w f) f l) j)) 12) := by
      simp only [← zipWith_elems]
      exact if_neg (by simp [hz])
    rw [exec_divide]
    exact numbers_of_leavesElems (X64.w_fits f) (issue_next h hbody) fun _ _ _ => eDiv_cast ..

/-- Settles O11: the products are exact numbers before they are cut, and a division looks at every divisor before it writes. -/
theorem productsAndQuotients : Obligations.ProductsAndQuotients := ⟨multiplyWritesProducts, divideTruncatesOrTraps⟩

/-! ### The smaller, the larger, the absolute value and the negation -/

theorem minMaxAbsNegResults : MinMaxAbsNegResults := by
  refine fun s c f => ⟨fun h => ?_, fun h => ?_, fun h => ?_, fun h => ?_⟩
  · exact numbers_of_leavesElems (X64.w_fits f) (intBin_eq h f .int 2 (eMinMax false (X64.sg f) (X64.w f))) fun _ _ _ => wrapW_emod ..
  · exact numbers_of_leavesElems (X64.w_fits f) (intBin_eq h f .int 2 (eMinMax true (X64.sg f) (X64.w f))) fun _ _ _ => wrapW_emod ..
  · have habs : ∀ x : Int, |x| = if x < 0 then -x else x := fun x => by
      split
      · next hx => exact abs_of_neg hx
      · next hx => exact abs_of_nonneg (not_lt.mp hx)
    simp only [habs]
    exact fits_of_leavesElems (X64.w_fits f) (intUn_eq h f .int 2 (eAbsNeg false (f.flg.getLsbD 1) (X64.sg f) (X64.w f)))
  · exact fits_of_leavesElems (X64.w_fits f) (intUn_eq h f .int 2 (eAbsNeg true (f.flg.getLsbD 1) (X64.sg f) (X64.w f)))

end Sys2Proof.Machine
end

section
/-! SUPPORT. The statement about logical instructions and shifts (R111 to R113). -/

namespace Sys2Proof.Machine

/-! ### Logic -/

/-- An instruction of two raw sources that combines whole words. -/
theorem rawBin_eq {i : Instr} {s : State} {c : Ctx} (h : Issues i s c) (f : X64) (op : Word → Word → Word) :
    rawBin i f op s =
      .next (c.afterElems s f 2 (fun l => op (c.srcA .raw (X64.w f) f l) (c.srcB .raw (X64.w f) f l)) fun _ => 0) := by
  rw [Ctx.afterElems, Ctx.afterWrite_noFlags]
  exact issue_next h rfl

/-- The operation of R111 on one bit. -/
def logicBit : LogicOp → Bool → Bool → Bool
  | .and, a, b => a && b
  | .or, a, b => a || b
  | .xor, a, b => a ^^ b
  | .andn, a, b => a && !b
  | .orn, a, b => a || !b
  | .xnor, a, b => !(a ^^ b)

/-- R111: no operation crosses a bit. -/
theorem getLsbD_logicWord (op : LogicOp) (a b : Word) {k : Nat} (hk : k < 32) :
    (logicWord op a b).getLsbD k = logicBit op (a.getLsbD k) (b.getLsbD k) := by
  cases op <;> simp [logicWord, logicBit, hk]

theorem rawBin_logicWord {i : Instr} {s : State} {c : Ctx} (h : Issues i s c) (f : X64) (op : LogicOp) :
    ∃ W, rawBin i f (logicWord op) s = .next (c.afterElems s f 2 W fun _ => 0) ∧ ∀ l k, k < 32 → (W l).getLsbD k =
      logicBit op ((c.srcA .raw (X64.w f) f l).getLsbD k) ((c.srcB .raw (X64.w f) f l).getLsbD k) :=
  ⟨_, rawBin_eq h f _, fun _ _ hk => getLsbD_logicWord op _ _ hk⟩

theorem logicImm_bits {i : Instr} {s : State} {c : Ctx} (h : Issues i s c) (f : I64) (op : LogicOp) :
    ∃ W, logicImm i f op s = .next (c.afterWrite s f.d 0xFFFFFFFF 2 W fun _ => 0) ∧ ∀ l k, k < 32 → (W l).getLsbD k =
      logicBit op ((c.rdA f.a.toNat l).getLsbD k) (f.imm26.toInt.testBit (k % I64.w f)) := by
  refine ⟨fun l => logicWord op (c.rdA f.a.toNat l) (immWord (I64.w f) f.imm26.toInt), ?_, fun l k hk => ?_⟩
  · rw [Ctx.afterWrite_noFlags]
    exact issue_next h rfl
  · rw [getLsbD_logicWord op _ _ hk, I64.w, getLsbD_immWord f.esz _ hk]

theorem logicCombinesBits : LogicCombinesBits := by
  refine fun s c => ⟨fun f i op hm h => ?_, fun f i op hm h => ?_⟩
  · simp only [List.mem_cons, List.not_mem_nil, or_false, Prod.mk.injEq] at hm
    obtain ⟨rfl, rfl⟩ | ⟨rfl, rfl⟩ | ⟨rfl, rfl⟩ | ⟨rfl, rfl⟩ | ⟨rfl, rfl⟩ | ⟨rfl, rfl⟩ := hm
    · exact rawBin_logicWord h f .and
    · exact rawBin_logicWord h f .or
    · exact rawBin_logicWord h f .xor
    · exact rawBin_logicWord h f .andn
    · exact rawBin_logicWord h f .orn
    · exact rawBin_logicWord h f .xnor
  · simp only [List.mem_cons, List.not_mem_nil, or_false, Prod.mk.injEq] at hm
    obtain ⟨rfl, rfl⟩ | ⟨rfl, rfl⟩ | ⟨rfl, rfl⟩ := hm
    · exact logicImm_bits h f .and
    · exact logicImm_bits h f .or
    · exact logicImm_bits h f .xor

/-! ### Shifts -/

/-- The arithmetic shift by the width leaves the sign (R112). -/
theorem val_true_div_two_pow {w a : Nat} (hw : 0 < w) (ha : a < 2 ^ w) :
    val true w a / 2 ^ w = if a.testBit (w - 1) then -1 else 0 := by
  have hzero : (a : Int) / 2 ^ w = 0 := Int.ediv_eq_zero_of_lt (by positivity) (by exact_mod_cast ha)
  rw [val, testBit_top hw ha]
  by_cases h : 2 ^ (w - 1) ≤ a
  · rw [if_pos ⟨rfl, h⟩, if_pos (decide_eq_true h), show (a : Int) - 2 ^ w = a + 2 ^ w * -1 by ring,
      Int.add_mul_ediv_left _ _ (by positivity), hzero]
    rfl
  · rw [if_neg fun hc => h hc.2, if_neg (by simpa using h), hzero]

/-- R112: a shift of an element as a number, mod 2^w. -/
theorem eShift_cast (op : ShiftOp) {w a : Nat} (hw : 0 < w) (ha : a < 2 ^ w) (k : Nat) :
    ((eShift op w a k : Nat) : Int) % 2 ^ w = shiftOf op w a k % 2 ^ w := by
  by_cases hk : k < w
  · cases op with
    | shl =>
      simp only [eShift, shiftOf, if_pos hk]
      push_cast
      exact Int.emod_emod_of_dvd _ dvd_rfl
    | shrl => simp only [eShift, shiftOf, if_pos hk, Int.natCast_ediv, Nat.cast_pow, Nat.cast_ofNat]
    | shra => simp only [eShift, shiftOf, if_pos hk, wrapW_emod]
  · cases op with
    | shl => simp only [eShift, shiftOf, if_neg hk, Nat.cast_zero]
    | shrl => simp only [eShift, shiftOf, if_neg hk, Nat.cast_zero]
    | shra => simp only [eShift, shiftOf, if_neg hk, wrapW_emod, val_true_div_two_pow hw ha]

theorem intBin_shift {i : Instr} {s : State} {c : Ctx} (h : Issues i s c) (f : X64) (op : ShiftOp) :
    ∃ W, intBin i f .raw 2 (fun a k => (eShift op (X64.w f) a k, false)) s = .next (c.afterElems s f 2 W fun _ => 0) ∧
      ∀ l, ElemsAre (X64.w f) (W l) fun j =>
        shiftOf op (X64.w f) (el (X64.w f) (c.srcA .raw (X64.w f) f l) j) (el (X64.w f) (c.srcB .raw (X64.w f) f l) j) :=
  numbers_of_leavesElems (X64.w_fits f) (intBin_eq h f .raw 2 fun a k => (eShift op (X64.w f) a k, false)) fun _ _ _ =>
    eShift_cast op (elemBits_pos f.esz) (el_lt ..) _

theorem intImm_shift {i : Instr} {s : State} {c : Ctx} (h : Issues i s c) (f : I64) (op : ShiftOp) :
    ∃ W, intImm i f 2 (fun a => (eShift op (I64.w f) a (I64.amount f), false)) s =
        .next (c.afterWrite s f.d (dmaskBits (I64.w f) 0xFF) 2 W fun _ => 0) ∧
      ∀ l, ElemsAre (I64.w f) (W l) fun j => shiftOf op (I64.w f) (el (I64.w f) (c.rdA f.a.toNat l) j) (I64.amount f) :=
  numbers_of_leavesElems (I64.w_fits f) (intImm_eq h f 2 fun a => (eShift op (I64.w f) a (I64.amount f), false)) fun _ _ _ =>
    eShift_cast op (elemBits_pos f.esz) (el_lt ..) _

/-- R112: an immediate shift passes its checks only with an amount below the width. -/
theorem amount_lt_of_iFieldsOk {f : I64}
    (h : (f.flg == 0 && f.imm26.extractLsb' 5 21 == 0 && decide ((f.imm26.extractLsb' 0 5).toNat < elemBits f.esz)) = true) :
    (f.imm26.extractLsb' 0 5).toNat < I64.w f ∧ f.imm26.extractLsb' 5 21 = 0 := by
  simp only [Bool.and_eq_true, beq_iff_eq, decide_eq_true_eq] at h
  obtain ⟨⟨-, hhigh⟩, hlow⟩ := h
  exact ⟨hlow, hhigh⟩

theorem shiftsWriteShiftedElements : ShiftsWriteShiftedElements := by
  refine fun s c => ⟨fun f i op hm h => ?_, fun f i op hm h => ?_, fun f h => ?_⟩
  · simp only [List.mem_cons, List.not_mem_nil, or_false, Prod.mk.injEq] at hm
    obtain ⟨rfl, rfl⟩ | ⟨rfl, rfl⟩ | ⟨rfl, rfl⟩ := hm
    · exact intBin_shift h f .shl
    · exact intBin_shift h f .shrl
    · exact intBin_shift h f .shra
  · have hok := h.fields.2
    simp only [List.mem_cons, List.not_mem_nil, or_false, Prod.mk.injEq] at hm
    obtain ⟨rfl, rfl⟩ | ⟨rfl, rfl⟩ | ⟨rfl, rfl⟩ := hm
    all_goals
      obtain ⟨hlow, hhigh⟩ := amount_lt_of_iFieldsOk hok
      refine ⟨hlow, hhigh, ?_⟩
    · exact intImm_shift h f .shl
    · exact intImm_shift h f .shrl
    · exact intImm_shift h f .shra
  · exact numbers_of_leavesElems (X64.w_fits f) (intTer_eq h f .raw 2 fun a b c _ => (eFshr (X64.w f) a b c, false)) fun _ _ _ => by
      unfold eFshr
      push_cast
      exact Int.emod_emod_of_dvd _ dvd_rfl

/-- Settles O12: no logical operation crosses a bit, and a shift is one of the element's number. -/
theorem logicAndShiftsActOnBits : Obligations.LogicAndShiftsActOnBits := ⟨logicCombinesBits, shiftsWriteShiftedElements⟩

end Sys2Proof.Machine
end

section
/-! SUPPORT. The statement about smaller and larger numbers, compares and selects (R110, R116, R117): compares write bits of a word. -/

namespace Sys2Proof.Machine

/-! ### Predicate bits -/

theorem cmpInt_iff (cc : Cmp) (x y : Int) : cmpInt cc x y = true ↔ compares cc x y := by
  cases cc <;> simp [cmpInt, compares]

/-- Bits laid out from the lowest. -/
theorem testBit_foldr_bits (ts : List Bool) (j : Nat) : (ts.foldr (fun (t : Bool) a => t.toNat + 2 * a) 0).testBit j = ts.getD j false := by
  induction ts generalizing j with
  | nil => simp
  | cons t ts ih =>
    cases j with
    | zero => cases t <;> simp [Nat.testBit_zero]
    | succ j =>
      have hhalf : ∀ a, (t.toNat + 2 * a) / 2 = a := fun a => by
        rw [Nat.add_mul_div_left _ _ two_pos, Nat.div_eq_of_lt (Bool.toNat_lt t), Nat.zero_add]
      rw [List.foldr_cons, Nat.testBit_add_one, hhalf, ih, List.getD_cons_succ]

/-- R116: predicate bits at `b0` and above, over a word whose other bits stay. -/
theorem getLsbD_predBits (x : Word) {b0 : Nat} {ts : List Bool} {b : Nat} (hb : b < 32) :
    (x &&& ~~~(predBits b0 ts).2 ||| (predBits b0 ts).1).getLsbD b =
      if b0 ≤ b ∧ b < b0 + ts.length then ts.getD (b - b0) false else x.getLsbD b := by
  have hbits : (predBits b0 ts).1.getLsbD b = (decide (b0 ≤ b) && ts.getD (b - b0) false) := by
    rw [predBits, BitVec.getLsbD_ofNat, Nat.testBit_mul_two_pow, testBit_foldr_bits, decide_eq_true hb, Bool.true_and]
  have hcover : (predBits b0 ts).2.getLsbD b = (decide (b0 ≤ b) && decide (b - b0 < ts.length)) := by
    rw [predBits, BitVec.getLsbD_ofNat, Nat.testBit_mul_two_pow, Nat.testBit_two_pow_sub_one, decide_eq_true hb, Bool.true_and]
  rw [BitVec.getLsbD_or, BitVec.getLsbD_and, BitVec.getLsbD_not, hbits, hcover, decide_eq_true hb, Bool.true_and]
  by_cases hlow : b0 ≤ b
  · by_cases hlen : b - b0 < ts.length
    · rw [if_pos (by omega)]
      simp [hlow, hlen]
    · rw [if_neg (by omega), List.getD_eq_default _ _ (not_lt.mp hlen)]
      simp [hlen]
  · rw [if_neg fun hc => hlow hc.1]
    simp [hlow]

/-- An instruction that writes the predicate bits `p l j` of the places j < n at bit `b0` and above. -/
theorem Ctx.putPred_bits (c : Ctx) (s : State) (d : BitVec 8) (b0 lat : Nat) {n : Nat} {ts : Nat → List Bool}
    {p : Nat → Nat → Bool} (hts : ∀ l, ts l = (List.range n).map (p l)) :
    ∃ W, c.advance (c.putPred s d b0 ts lat) = c.afterWrite s d 0xFFFFFFFF lat W (fun _ => 0) ∧
      ∀ l b, b < 32 → (b0 ≤ b ∧ b < b0 + n → (W l).getLsbD b = p l (b - b0)) ∧
        (b < b0 ∨ b0 + n ≤ b → (W l).getLsbD b = (c.rd d.toNat l).getLsbD b) := by
  refine ⟨_, (Ctx.afterWrite_noFlags ..).symm, fun l b hb => ?_⟩
  rw [getLsbD_predBits _ hb, hts, List.length_map, List.length_range]
  refine ⟨fun hin => ?_, fun hout => if_neg (by omega)⟩
  have hlt : b - b0 < ((List.range n).map (p l)).length := by
    rw [List.length_map, List.length_range]
    omega
  rw [if_pos hin, List.getD_eq_getElem _ _ hlt, List.getElem_map, List.getElem_range]

theorem el_selWord {w : Nat} (hw : w * (32 / w) ≤ 32) (b : Nat) (x y z : Word) {j : Nat} (hj : j < 32 / w) :
    el w (selWord w b x y z) j = if z.getLsbD (b + j) then el w x j else el w y j := by
  unfold selWord
  rw [el_fromElems_range hw _ hj]
  split <;> exact Nat.mod_eq_of_lt (el_lt ..)

/-- R116: a compare that issues has room for its bits. -/
theorem room_of_bitsFit {b : Nat} {e : BitVec 2} (h : bitsFit b (nElems e) = true) : b + 32 / elemBits e ≤ 32 := by
  rw [div_elemBits]
  exact of_decide_eq_true h

theorem compareWritesPredicateBits : CompareWritesPredicateBits := by
  refine fun s c cc => ⟨fun f h => ⟨room_of_bitsFit (h.fields.1 _ rfl), ?_⟩, fun f h => ?_, fun f h => ?_⟩
  · change ∃ W, execIcmp cc f s = _ ∧ _
    unfold execIcmp
    obtain ⟨W, he, hW⟩ := c.putPred_bits s f.d f.imm8.toNat 2 fun l => zipWith_elems (X64.w f)
      (fun a b => cmpInt cc (val (X64.sg f) (X64.w f) a) (val (X64.sg f) (X64.w f) b)) (c.srcA .int (X64.w f) f l) (c.srcB .int (X64.w f) f l)
    refine ⟨W, (issue_next h rfl).trans (congrArg _ he), fun l b hb => ⟨fun hin => ?_, (hW l b hb).2⟩⟩
    rw [(hW l b hb).1 hin, cmpInt_iff]
    rfl
  · have hroom := h.fields.2
    simp only [Instr.iFieldsOk, Bool.and_eq_true] at hroom
    obtain ⟨-, hfit⟩ := hroom
    refine ⟨room_of_bitsFit hfit, ?_⟩
    change ∃ W, execIcmpi cc f s = _ ∧ _
    unfold execIcmpi
    obtain ⟨W, he, hW⟩ := c.putPred_bits s f.d (f.imm26.extractLsb' 21 5).toNat 2 fun l => map_elems (I64.w f)
      (fun a => cmpInt cc (val (I64.sg f) (I64.w f) a) (val (I64.sg f) (I64.w f) (I64.cmpImm f))) (c.rdA f.a.toNat l)
    refine ⟨W, (issue_next h rfl).trans (congrArg _ he), fun l b hb => ⟨fun hin => ?_, (hW l b hb).2⟩⟩
    rw [(hW l b hb).1 hin, cmpInt_iff]
    rfl
  · refine ⟨fun l => selWord (X64.w f) f.imm8.toNat (c.srcA .raw (X64.w f) f l) (c.srcB .raw (X64.w f) f l) (c.rd f.c.toNat l), ?_,
      fun l j hj => el_selWord (X64.w_fits f) _ _ _ _ hj⟩
    rw [Ctx.afterElems, Ctx.afterWrite_noFlags]
    exact (show execSel f s = _ from issue_next h rfl)

/-- Settles O13: IMIN to INEG take one number for each element, and a compare writes one bit. -/
theorem minMaxAndComparesOfIntegers : Obligations.MinMaxAndComparesOfIntegers := ⟨minMaxAbsNegResults, compareWritesPredicateBits⟩

end Sys2Proof.Machine
end

section
/-! SUPPORT. The statement about moves, 64-bit address arithmetic and window addresses (R118 to R122, Table 1.6). -/

namespace Sys2Proof.Machine

/-! ### Pairs as numbers -/

theorem toNat_cat32 (h l : Word) : (cat32 h l).toNat = h.toNat * 2 ^ 32 + l.toNat := by
  have hh := h.isLt
  have hl := l.isLt
  rw [cat32, BitVec.toNat_ofNat]
  omega

theorem toNat_hi32 (x : DWord) : (hi32 x).toNat = x.toNat / 2 ^ 32 := by
  have hx := x.isLt
  rw [hi32, BitVec.toNat_ofNat]
  omega

theorem toNat_lo32 (x : DWord) : (lo32 x).toNat = x.toNat % 2 ^ 32 := BitVec.toNat_ofNat ..

/-- A word extended to 64 bits, as a number mod 2^64. -/
theorem toNat_extend (sg : Bool) (x : Word) :
    (((if sg then x.signExtend 64 else x.zeroExtend 64).toNat : Nat) : Int) = val sg 32 x.toNat % 2 ^ 64 := by
  have hx := x.isLt
  cases sg
  · simp only [Bool.false_eq_true, if_false, val_false, BitVec.toNat_setWidth]
    omega
  · rw [if_pos rfl, BitVec.signExtend, BitVec.toNat_ofInt, val_true_toNat (by norm_num)]
    exact Int.toNat_of_nonneg (Int.emod_nonneg _ (by positivity))

/-- R120: base plus index times 2^k, mod 2^64. -/
theorem toNat_leaVal (sg : Bool) (a : DWord) (b : Word) (k : Nat) :
    ((leaVal sg a b k).toNat : Int) = (a.toNat + val sg 32 b.toNat * 2 ^ k) % 2 ^ 64 := by
  have hext : (((if sg then b.signExtend 64 else b.zeroExtend 64).toNat : Nat) : Int) ≡ val sg 32 b.toNat [ZMOD 2 ^ 64] := by
    rw [toNat_extend]
    exact Int.mod_modEq ..
  rw [leaVal, BitVec.toNat_add, BitVec.toNat_shiftLeft, Nat.shiftLeft_eq, Nat.add_mod_mod, Int.natCast_mod, Nat.cast_add, Nat.cast_mul,
    Nat.cast_pow]
  exact (hext.mul_right _).add_left _

/-! ### Moves and sums of pairs -/

theorem movesAndPairSums : MovesAndPairSums := by
  refine fun s c => ⟨fun f h => ?_, fun f h => ?_, fun f h => ?_, fun f h => ?_, fun f h => ?_⟩
  · rw [Ctx.afterElems, Ctx.afterWrite_noFlags]
    exact (show execMov f s = _ from issue_next h rfl)
  · refine ⟨moviWord f, ?_, fun hext j hj => ?_, fun hext => ?_⟩
    · rw [Ctx.afterWrite_noFlags]
      exact (show execMovi f s = _ from issue_next h rfl)
    · rw [moviWord, hext, el_immWord (I64.w_fits f) _ hj, wrapW_cast]
    · cases he : f.ext with
      | l64 => exact absurd he hext
      | l96 w1 | l128 w1 w2 => rw [moviWord, he]
  · exact ⟨_, show execLea f s = _ from issue_next h rfl, fun l => toNat_leaVal ..⟩
  · exact (show execIadd64 f s = _ from issue_next h rfl)
  · exact (show execIsub64 f s = _ from issue_next h rfl)

/-! ### Window addresses -/

/-- The bits of an address from bit `k` on. -/
theorem extractLsb'_beq_zero_iff (a : DWord) (k n : Nat) : (a.extractLsb' k n == 0) = true ↔ a.toNat / 2 ^ k % 2 ^ n = 0 := by
  rw [beq_iff_eq, ← BitVec.toNat_inj, BitVec.extractLsb'_toNat, Nat.shiftRight_eq_div_pow]
  rfl

theorem addrClass_eq (a : DWord) : addrClass a = windowClass a.toNat := by
  have ha := a.isLt
  have hglobal : (a.toNat < 2 ^ 56 ∨ 0xFF * 2 ^ 56 ≤ a.toNat) ↔ (a.toNat / 2 ^ 56 % 2 ^ 8 = 0 ∨ a.toNat / 2 ^ 56 % 2 ^ 8 = 0xFF) := by omega
  have hscr : (0xFE * 2 ^ 56 ≤ a.toNat ∧ a.toNat < 0xFE * 2 ^ 56 + 2 ^ 32) ↔
      (a.toNat / 2 ^ 56 % 2 ^ 8 = 0xFE ∧ a.toNat / 2 ^ 32 % 2 ^ 24 = 0) := by omega
  have hprv : (0xFD * 2 ^ 56 ≤ a.toNat ∧ a.toNat < 0xFD * 2 ^ 56 + 2 ^ 40) ↔
      (a.toNat / 2 ^ 56 % 2 ^ 8 = 0xFD ∧ a.toNat / 2 ^ 40 % 2 ^ 16 = 0) := by omega
  simp only [addrClass, windowClass, extractLsb'_beq_zero_iff, BitVec.extractLsb'_toNat, Nat.shiftRight_eq_div_pow, hglobal, hscr, hprv]
  generalize a.toNat / 2 ^ 56 % 2 ^ 8 = top
  by_cases hs : top = 0xFE
  · simp [hs]
  · by_cases hp : top = 0xFD <;> simp [hs, hp]

/-- The lowest member of a lane set, and that none lies below. -/
theorem lowest_of_lowLane? {m : Lanes} {l : Nat} (h : lowLane? m = some l) :
    m.getLsbD l = true ∧ ∀ j, j < l → m.getLsbD j = false := by
  refine ⟨getLsbD_of_lowLane? h, fun j hj => ?_⟩
  rw [lowLane?, lanesIn, List.head?_filter] at h
  obtain ⟨-, -, hfirst⟩ := List.find?_range_eq_some.mp h
  simpa using hfirst j hj

/-- R122: an address outside the scratch window, which CVTA.toscr refuses. -/
theorem not_toscr_iff (a : DWord) : (a.extractLsb' 56 8 != 0xFE || a.extractLsb' 32 24 != 0) = true ↔ windowClass a.toNat ≠ 1 := by
  have ha := a.isLt
  have htop : a.extractLsb' 56 8 = 0xFE ↔ a.toNat / 2 ^ 56 % 2 ^ 8 = 0xFE := by
    rw [← BitVec.toNat_inj, BitVec.extractLsb'_toNat, Nat.shiftRight_eq_div_pow]
    rfl
  have hone : windowClass a.toNat = 1 ↔ 0xFE * 2 ^ 56 ≤ a.toNat ∧ a.toNat < 0xFE * 2 ^ 56 + 2 ^ 32 := by
    unfold windowClass
    split
    · omega
    · split
      · next h => simpa using h
      · next h => split <;> simpa using h
  rw [Bool.or_eq_true, bne_iff_ne, bne_iff_ne, ne_eq, ne_eq, ne_eq, htop, ← beq_iff_eq (b := (0 : BitVec 24)), extractLsb'_beq_zero_iff, hone]
  omega

/-- R122: an address that is no offset of the window of CVTA.prv. -/
theorem not_prv_iff (a : DWord) : (a.extractLsb' 40 24 != 0) = true ↔ 2 ^ 40 ≤ a.toNat := by
  have ha := a.isLt
  rw [bne_iff_ne, ne_eq, ← beq_iff_eq, extractLsb'_beq_zero_iff]
  omega

/-- R122: with a lane of act that `bad` refuses CVTA traps, naming those lanes and the address of the lowest; with none it does not. -/
theorem Ctx.cvtaTrap_spec {c : Ctx} (f : X64) (bad : DWord → Bool) {P : Nat → Prop} (hP : ∀ l, bad (c.rdPairA f.a.toNat l) = true ↔ P l) :
    ((∃ l, l < 96 ∧ c.act.getLsbD l = true ∧ P l) →
      ∃ (Z : Lanes) (m : Nat), c.cvtaTrap f bad = some { cause := .winRange, addr := c.rdPairA f.a.toNat m, mask := some Z } ∧
        (∀ l, l < 96 → (Z.getLsbD l = true ↔ c.act.getLsbD l = true ∧ P l)) ∧ m < 96 ∧ Z.getLsbD m = true ∧
        ∀ l, l < m → Z.getLsbD l = false) ∧
    ((∀ l, l < 96 → c.act.getLsbD l = true → ¬ P l) → c.cvtaTrap f bad = none) := by
  have hZ : ∀ l, l < 96 →
      ((c.act &&& lanesOf fun l => bad (c.rdPairA f.a.toNat l)).getLsbD l = true ↔ c.act.getLsbD l = true ∧ P l) := fun l hl => by
    rw [BitVec.getLsbD_and, getLsbD_lanesOf, decide_eq_true hl, Bool.true_and, Bool.and_eq_true, hP]
  unfold Ctx.cvtaTrap
  dsimp only
  generalize (c.act &&& lanesOf fun l => bad (c.rdPairA f.a.toNat l)) = Z at hZ
  cases hm : lowLane? Z with
  | none =>
    refine ⟨fun ⟨l, hl, ha, hp⟩ => absurd (mem_lanesIn.mpr ((hZ l hl).mpr ⟨ha, hp⟩)) ?_, fun _ => rfl⟩
    rw [List.head?_eq_none_iff.mp hm]
    exact List.not_mem_nil
  | some m =>
    obtain ⟨hmem, hfirst⟩ := lowest_of_lowLane? hm
    have hlt := BitVec.lt_of_getLsbD hmem
    refine ⟨fun _ => ⟨Z, m, rfl, hZ, hlt, hmem, hfirst⟩, fun hnone => ?_⟩
    obtain ⟨ha, hp⟩ := (hZ m hlt).mp hmem
    exact absurd hp (hnone m hlt ha)

/-- R122: the address that CVTA.prv forms. -/
theorem toNat_prvAddr (a : DWord) : (cat32 (0xFD000000 ||| (hi32 a &&& 0xFF)) (lo32 a)).toNat = 0xFD * 2 ^ 56 + a.toNat % 2 ^ 40 := by
  have ha := a.isLt
  have hand : (hi32 a &&& 0xFF).toNat = a.toNat / 2 ^ 32 % 2 ^ 8 := by
    rw [BitVec.toNat_and, toNat_hi32]
    exact Nat.and_two_pow_sub_one_eq_mod _ 8
  have hor : (0xFD000000 ||| (hi32 a &&& 0xFF) : Word).toNat = 2 ^ 24 * 0xFD + a.toNat / 2 ^ 32 % 2 ^ 8 := by
    rw [BitVec.toNat_or, hand, Nat.two_pow_add_eq_or_of_lt (by omega)]
    rfl
  rw [toNat_cat32, hor, toNat_lo32]
  omega

theorem cvtaConvertsOrTraps : CvtaConvertsOrTraps := by
  refine fun s c f => ⟨fun h => ?_, fun k hk h => ?_, fun h => ?_⟩
  · refine ⟨_, show execCvta .scr f s = _ from issue_next h rfl, fun l => ?_⟩
    rw [toNat_cat32]
    rfl
  · obtain rfl | rfl := hk
    · obtain ⟨hrefused, haccepted⟩ := Ctx.cvtaTrap_spec f (fun a => a.extractLsb' 40 24 != 0) fun l => not_prv_iff _
      refine ⟨fun hex => ?_, fun hok => ⟨fun _ => ?_, fun hk => nomatch hk⟩⟩
      · obtain ⟨Z, m, htrap, hZ⟩ := hrefused hex
        exact ⟨Z, m, show execCvta .prv f s = _ from issue_trap h (by simp only [htrap]), hZ⟩
      · have htrap := haccepted hok
        exact ⟨_, show execCvta .prv f s = _ from issue_next h (by simp only [htrap]), fun l => toNat_prvAddr _⟩
    · obtain ⟨hrefused, haccepted⟩ := Ctx.cvtaTrap_spec f (fun a => a.extractLsb' 56 8 != 0xFE || a.extractLsb' 32 24 != 0)
        fun l => not_toscr_iff _
      refine ⟨fun hex => ?_, fun hok => ⟨fun hk => (nomatch hk), fun _ => ?_⟩⟩
      · obtain ⟨Z, m, htrap, hZ⟩ := hrefused hex
        exact ⟨Z, m, show execCvta .toscr f s = _ from issue_trap h (by simp only [htrap]), hZ⟩
      · have htrap := haccepted hok
        rw [Ctx.afterWrite_noFlags]
        exact (show execCvta .toscr f s = _ from issue_next h (by simp only [htrap]; rfl))
  · rw [Ctx.afterWrite_noFlags]
    simp only [← addrClass_eq]
    exact (show execCvta .cls f s = _ from issue_next h rfl)

/-- Settles O14: a pair is the number of its two words, and CVTA looks at the address of every lane of act before it writes. -/
theorem movesPairsAndWindowAddresses : Obligations.MovesPairsAndWindowAddresses := ⟨movesAndPairSums, cvtaConvertsOrTraps⟩

end Sys2Proof.Machine
end

section
/-! SUPPORT. The statement about bit fields, counts, PERMB, PACK and UNPACK (R114, R115, R123, R124): an element bit by bit. -/

namespace Sys2Proof.Machine

/-! ### Bit fields (R114) -/

/-- A signed field of `k` bits, reduced to `w` bits: its own bits, and its top bit above them. -/
theorem testBit_wrapW_val_true {w k x b : Nat} (hk : 0 < k) (hx : x < 2 ^ k) (hb : b < w) :
    (wrapW w (val true k x)).testBit b = if b < k then x.testBit b else x.testBit (k - 1) := by
  have hnat : (BitVec.ofNat k x).toNat = x := by rw [BitVec.toNat_ofNat, Nat.mod_eq_of_lt hx]
  have hval : val true k x = (BitVec.ofNat k x).toInt := by rw [← val_true_toNat hk, hnat]
  have hext : wrapW w (val true k x) = ((BitVec.ofNat k x).signExtend w).toNat := by
    rw [hval, BitVec.signExtend, BitVec.toNat_ofInt, wrapW]
    push_cast
    rfl
  rw [hext, BitVec.testBit_toNat, BitVec.getLsbD_signExtend, decide_eq_true hb, Bool.true_and, BitVec.msb_eq_getLsbD_last,
    ← BitVec.testBit_toNat, ← BitVec.testBit_toNat, hnat]

/-- R114: BFX bit by bit. -/
theorem testBit_eBfx (sg : Bool) {w a b c j : Nat} (hj : j < w) : (eBfx sg w a b c).testBit j =
    if j < bfLen w b c then a.testBit (bfPos w b + j)
    else sg && decide (0 < bfLen w b c) && a.testBit (bfPos w b + bfLen w b c - 1) := by
  have hfield : ∀ i, (a / 2 ^ bfPos w b % 2 ^ bfLen w b c).testBit i = (decide (i < bfLen w b c) && a.testBit (bfPos w b + i)) :=
    fun i => by rw [Nat.testBit_mod_two_pow, Nat.testBit_div_two_pow, Nat.add_comm]
  unfold eBfx
  dsimp only
  split
  · next h =>
    obtain ⟨hsg, hk⟩ := h
    rw [testBit_wrapW_val_true hk (Nat.mod_lt _ (by positivity)) hj, hfield, hfield, hsg, decide_eq_true hk,
      decide_eq_true (Nat.sub_lt hk Nat.one_pos), Nat.add_sub_assoc hk]
    split
    · next hlt => rw [decide_eq_true hlt, Bool.true_and]
    · rfl
  · next h =>
    rw [hfield]
    split
    · next hlt => rw [decide_eq_true hlt, Bool.true_and]
    · next hge =>
      rw [decide_eq_false hge, Bool.false_and]
      cases sg
      · rfl
      · simpa using fun hk => absurd ⟨rfl, hk⟩ h

/-- R114: BFI bit by bit. -/
theorem testBit_eBfi (w a b c d j : Nat) : (eBfi w a b c d).testBit j =
    if bfPos w b ≤ j ∧ j < bfPos w b + bfLen w b c then a.testBit (j - bfPos w b) else d.testBit j := by
  unfold eBfi
  dsimp only
  generalize bfPos w b = p, bfLen w b c = k
  have hlow : d % 2 ^ p < 2 ^ p := Nat.mod_lt _ (by positivity)
  have hmid : a % 2 ^ k < 2 ^ k := Nat.mod_lt _ (by positivity)
  have hshape : d % 2 ^ p + a % 2 ^ k * 2 ^ p + d / 2 ^ (p + k) * 2 ^ (p + k) =
      2 ^ p * (2 ^ k * (d / 2 ^ (p + k)) + a % 2 ^ k) + d % 2 ^ p := by
    rw [pow_add]
    ring
  rw [hshape, Nat.testBit_two_pow_mul_add _ hlow, Nat.testBit_two_pow_mul_add _ hmid, Nat.testBit_mod_two_pow, Nat.testBit_mod_two_pow,
    Nat.testBit_div_two_pow]
  by_cases hp : j < p
  · rw [if_pos hp, if_neg (by omega), decide_eq_true hp, Bool.true_and]
  · rw [if_neg hp]
    by_cases hk : j - p < k
    · rw [if_pos hk, if_pos (by omega), decide_eq_true hk, Bool.true_and]
    · rw [if_neg hk, if_neg (by omega), show j - p - k + (p + k) = j by omega]

/-! ### Counts and reversal (R115) -/

@[simp] theorem length_bitsOf (w e : Nat) : (bitsOf w e).length = w := by simp [bitsOf]

@[simp] theorem getElem_bitsOf (w e : Nat) {i : Nat} (h : i < (bitsOf w e).length) : (bitsOf w e)[i] = e.testBit i := by simp [bitsOf]

theorem ePopc_eq (w e : Nat) : ePopc w e = ((List.range w).filter fun b => e.testBit b).length := by
  unfold ePopc bitsOf
  rw [List.filter_map, List.length_map]
  rfl

/-- How many bits stand before the first set one of a list. -/
theorem length_takeWhile_not_spec {l : List Bool} {n : Nat} (hn : n = (l.takeWhile (!·)).length) :
    n ≤ l.length ∧ (∀ i (h : i < l.length), i < n → l[i] = false) ∧ ∀ h : n < l.length, l[n] = true := by
  have hfind : n = l.findIdx fun b => b := by
    rw [hn, List.takeWhile_eq_take_findIdx_not, List.length_take]
    simp only [Bool.not_not]
    exact min_eq_left List.findIdx_le_length
  subst hfind
  exact ⟨List.findIdx_le_length, fun i h hi => List.not_of_lt_findIdx hi, fun h => List.findIdx_getElem (p := fun b => b)⟩

/-- R115: CTZ counts the clear bits below the lowest set one. -/
theorem eCtz_spec {w a : Nat} (ha : a < 2 ^ w) :
    eCtz w a ≤ w ∧ a % 2 ^ eCtz w a = 0 ∧ (a ≠ 0 → a.testBit (eCtz w a) = true) ∧ (a = 0 → eCtz w a = w) := by
  obtain ⟨hle, hclear, hset⟩ := length_takeWhile_not_spec (l := bitsOf w a) (n := eCtz w a) rfl
  simp only [length_bitsOf, getElem_bitsOf] at hle hclear hset
  have hmod : a % 2 ^ eCtz w a = 0 := Nat.eq_of_testBit_eq fun i => by
    rw [Nat.testBit_mod_two_pow, Nat.zero_testBit]
    by_cases hi : i < eCtz w a
    · rw [hclear i (hi.trans_le hle) hi, Bool.and_false]
    · rw [decide_eq_false hi, Bool.false_and]
  refine ⟨hle, hmod, fun hne => hset (lt_of_le_of_ne hle fun heq => hne ?_), fun hz => ?_⟩
  · rwa [heq, Nat.mod_eq_of_lt ha] at hmod
  · by_contra hne
    have hbit := hset (lt_of_le_of_ne hle hne)
    rw [hz, Nat.zero_testBit] at hbit
    cases hbit

/-- R115: CLZ counts the clear bits above the highest set one. -/
theorem eClz_spec {w a : Nat} (ha : a < 2 ^ w) :
    eClz w a ≤ w ∧ a < 2 ^ (w - eClz w a) ∧ (a ≠ 0 → 2 ^ (w - eClz w a) ≤ 2 * a) ∧ (a = 0 → eClz w a = w) := by
  obtain ⟨hle, hclear, hset⟩ := length_takeWhile_not_spec (l := (bitsOf w a).reverse) (n := eClz w a) rfl
  simp only [List.length_reverse, length_bitsOf, List.getElem_reverse, getElem_bitsOf] at hle hclear hset
  have hlt : a < 2 ^ (w - eClz w a) := Nat.lt_pow_two_of_testBit a fun i hi => by
    by_cases hw : i < w
    · have := hclear (w - 1 - i) (by omega) (by omega)
      rwa [show w - 1 - (w - 1 - i) = i by omega] at this
    · exact Nat.testBit_lt_two_pow (ha.trans_le (Nat.pow_le_pow_right (by norm_num) (not_lt.mp hw)))
  refine ⟨hle, hlt, fun hne => ?_, fun hz => ?_⟩
  · have hzw : eClz w a < w := lt_of_le_of_ne hle fun heq => hne (by rw [heq, Nat.sub_self] at hlt; omega)
    have hge := Nat.ge_two_pow_of_testBit (hset hzw)
    rw [show w - eClz w a = w - 1 - eClz w a + 1 by omega, pow_succ]
    omega
  · by_contra hne
    have hbit := hset (lt_of_le_of_ne hle hne)
    rw [hz, Nat.zero_testBit] at hbit
    cases hbit

/-- R115: BREV reverses the bits of an element. -/
theorem testBit_eBrev (w e : Nat) {b : Nat} (hb : b < w) : (eBrev w e).testBit b = e.testBit (w - 1 - b) := by
  induction w generalizing b with
  | zero => cases hb
  | succ w ih =>
    have hstep : eBrev (w + 1) e = 2 * eBrev w e + (e.testBit w).toNat := by
      unfold eBrev bitsOf
      rw [List.range_succ, List.map_append, List.foldl_append]
      rfl
    have hlow := Bool.toNat_lt (e.testBit w)
    cases b with
    | zero =>
      change _ = e.testBit w
      rw [hstep, Nat.testBit_zero]
      cases e.testBit w <;> simp
    | succ b =>
      rw [hstep, Nat.testBit_add_one, Nat.mul_add_div two_pos, Nat.div_eq_of_lt hlow, Nat.add_zero, ih (by omega)]
      congr 1
      omega

/-- A count of bits fits the element. -/
theorem count_mod {n w : Nat} (h : n ≤ w) : n % 2 ^ w = n := Nat.mod_eq_of_lt (h.trans_lt Nat.lt_two_pow_self)

theorem bitFieldsAndCounts : BitFieldsAndCounts := by
  intro s c f w p k a
  have hw : w * (32 / w) ≤ 32 := X64.w_fits f
  refine ⟨fun h => ?_, fun h => ?_, fun h => ?_, fun h => ?_, fun h => ?_, fun h => ?_⟩
  · obtain ⟨W, he, hW⟩ := elems_of_leavesElems hw (intTer_eq h f .raw 2 fun a b c _ => (eBfx (X64.sg f) w a b c, false))
    refine ⟨W, he, fun l j b hj hb => ?_⟩
    rw [hW l j hj, Nat.testBit_mod_two_pow, decide_eq_true hb, Bool.true_and, testBit_eBfx _ hb]
    rfl
  · obtain ⟨W, he, hW⟩ := elems_of_leavesElems hw (intTer_eq h f .raw 2 fun a b c d => (eBfi w a b c d, false))
    refine ⟨W, he, fun l j b hj hb => ?_⟩
    rw [hW l j hj, Nat.testBit_mod_two_pow, decide_eq_true hb, Bool.true_and, testBit_eBfi]
    rfl
  · obtain ⟨W, he, hW⟩ := elems_of_leavesElems hw (intUn_eq h f .raw 2 fun a => (ePopc w a, false))
    refine ⟨W, he, fun l j hj => ?_⟩
    rw [hW l j hj, ePopc_eq, count_mod ((List.length_filter_le ..).trans_eq List.length_range)]
  · obtain ⟨W, he, hW⟩ := elems_of_leavesElems hw (intUn_eq h f .raw 2 fun a => (eClz w a, false))
    refine ⟨W, he, fun l j hj => ?_⟩
    obtain ⟨hle, hspec⟩ := eClz_spec (el_lt w (c.srcA .raw w f l) j)
    rw [hW l j hj, count_mod hle]
    exact hspec
  · obtain ⟨W, he, hW⟩ := elems_of_leavesElems hw (intUn_eq h f .raw 2 fun a => (eCtz w a, false))
    refine ⟨W, he, fun l j hj => ?_⟩
    obtain ⟨hle, hspec⟩ := eCtz_spec (el_lt w (c.srcA .raw w f l) j)
    rw [hW l j hj, count_mod hle]
    exact hspec
  · obtain ⟨W, he, hW⟩ := elems_of_leavesElems hw (intUn_eq h f .raw 2 fun a => (eBrev w a, false))
    refine ⟨W, he, fun l j b hj hb => ?_⟩
    rw [hW l j hj, Nat.testBit_mod_two_pow, decide_eq_true hb, Bool.true_and, testBit_eBrev _ _ hb]

/-! ### Bytes, PACK and UNPACK (R123, R124) -/

/-- R123: the four selector bits of byte `j` of PERMB. -/
theorem el_permbWord (x y z : Word) {j : Nat} (hj : j < 4) : el 8 (permbWord x y z) j =
    if 8 ≤ el 4 z j then 0 else if 4 ≤ el 4 z j then el 8 y (el 4 z j - 4) else el 8 x (el 4 z j) := by
  have hsel : el 4 z j = z.toNat / 2 ^ (4 * j) % 2 ^ 4 := rfl
  have hlow : (z.extractLsb' (4 * j) 3).toNat = el 4 z j % 8 := by
    rw [BitVec.extractLsb'_toNat, Nat.shiftRight_eq_div_pow, hsel]
    omega
  have hhigh : z.getLsbD (4 * j + 3) = decide (8 ≤ el 4 z j) := by
    rw [getLsbD_eq_testBit_el (w := 4) (by norm_num), show (4 * j + 3) / 4 = j by omega, show (4 * j + 3) % 4 = 4 - 1 by omega,
      testBit_top (by norm_num) (el_lt ..)]
    rfl
  unfold permbWord
  rw [show (4 : Nat) = 32 / 8 from rfl, el_fromElems_range (by norm_num) _ hj]
  simp only [Nat.reduceDiv, hlow, hhigh, decide_eq_true_eq]
  by_cases h8 : 8 ≤ el 4 z j
  · rw [if_pos h8, if_pos h8]
    rfl
  · rw [if_neg h8, if_neg h8, Nat.mod_eq_of_lt (not_le.mp h8)]
    split <;> exact Nat.mod_eq_of_lt (el_lt ..)

theorem bytesPackAndUnpack : BytesPackAndUnpack := by
  refine fun s c f => ⟨fun h => ?_, fun h => ?_, fun h => ?_⟩
  · refine ⟨fun l => permbWord (c.rdA f.a.toNat l) (c.rd f.b.toNat l) (c.rd f.c.toNat l), ?_, fun l j hj => el_permbWord _ _ _ hj⟩
    rw [Ctx.afterWrite_noFlags]
    exact (show execPermb f s = _ from issue_next h rfl)
  · exact fits_of_leavesElems (X64.w_fits f) (show execPack f s = _ from issue_next h rfl)
  · refine ⟨fun l => unpackWord (X64.sg f) (X64.w f) (f.imm8.extractLsb' 0 1).toNat (c.rdA f.a.toNat l), ?_, fun l => ?_⟩
    · rw [Ctx.afterWrite_noFlags]
      exact (show execUnpack f s = _ from issue_next h rfl)
    · have hhalf : 32 / X64.w f / 2 = 32 / (2 * X64.w f) := by rw [Nat.div_div_eq_div_mul, Nat.mul_comm]
      unfold unpackWord
      dsimp only
      rw [hhalf]
      exact elemsAre_fromElems_range (Nat.mul_div_le ..) fun j _ => wrapW_emod ..

/-- Settles O15: the fields and counts of an element bit by bit, and the bytes that PERMB takes. -/
theorem bitFieldsCountsAndBytes : Obligations.BitFieldsCountsAndBytes := ⟨bitFieldsAndCounts, bytesPackAndUnpack⟩

end Sys2Proof.Machine
end

section
/-! SUPPORT. The numbers that the codes of a format stand for, and the code below a number (R125, R131). -/

namespace Sys2Proof.Machine

/-! ### Powers of two -/

theorem pow2_eq_zpow (e : Int) : pow2 e = 2 ^ e := by
  unfold pow2
  split
  · next h =>
    lift e to Nat using h
    rw [Int.toNat_natCast, Rat.mkRat_one, zpow_natCast]
    push_cast
    rfl
  · next h =>
    obtain ⟨n, hn⟩ : ∃ n : Nat, -e = n := ⟨(-e).toNat, (Int.toNat_of_nonneg (by omega)).symm⟩
    rw [show e = -n by omega, zpow_neg, zpow_natCast, neg_neg, Int.toNat_natCast, Rat.mkRat_eq_div]
    push_cast
    rw [one_div]

theorem pow2_pos (e : Int) : 0 < pow2 e := by
  rw [pow2_eq_zpow]
  positivity

/-- ⌊log₂ x⌋ is what its name says. -/
theorem floorLog2_spec {x : ℚ} (hx : 0 < x) : (2 : ℚ) ^ floorLog2 x ≤ x ∧ x < 2 ^ (floorLog2 x + 1) := by
  have hnum : x.num.natAbs ≠ 0 := Int.natAbs_ne_zero.mpr (Rat.num_pos.mpr hx).ne'
  have hxe : x = (x.num.natAbs : ℚ) / x.den := by
    conv_lhs => rw [← Rat.num_div_den x]
    rw [Nat.cast_natAbs, abs_of_pos (Rat.num_pos.mpr hx)]
  have hden : (0 : ℚ) < x.den := by exact_mod_cast x.den_pos
  have n1 : ((2 : ℚ) ^ (Nat.log2 x.num.natAbs : Int)) ≤ x.num.natAbs := by exact_mod_cast Nat.log2_self_le hnum
  have n2 : (x.num.natAbs : ℚ) < 2 ^ ((Nat.log2 x.num.natAbs : Int) + 1) := by exact_mod_cast Nat.lt_log2_self
  have d1 : ((2 : ℚ) ^ (Nat.log2 x.den : Int)) ≤ x.den := by exact_mod_cast Nat.log2_self_le x.den_pos.ne'
  have d2 : (x.den : ℚ) < 2 ^ ((Nat.log2 x.den : Int) + 1) := by exact_mod_cast Nat.lt_log2_self
  have hlow : (2 : ℚ) ^ ((Nat.log2 x.num.natAbs : Int) - Nat.log2 x.den - 1) ≤ x := by
    conv_rhs => rw [hxe]
    rw [sub_sub, zpow_sub₀ two_ne_zero]
    exact div_le_div₀ (by positivity) n1 hden d2.le
  have hhigh : x < (2 : ℚ) ^ ((Nat.log2 x.num.natAbs : Int) - Nat.log2 x.den + 1) := by
    conv_lhs => rw [hxe]
    rw [sub_add_eq_add_sub, zpow_sub₀ two_ne_zero]
    exact div_lt_div₀ n2 d1 (by positivity) (by positivity)
  unfold floorLog2
  dsimp only
  rw [pow2_eq_zpow]
  split
  · next h => exact ⟨h, hhigh⟩
  · next h => exact ⟨hlow, by rw [sub_add_cancel]; exact not_le.mp h⟩

/-! ### The numbers of the magnitude codes -/

/-- A magnitude code is a significand, of at most P bits, above whole binades. -/
theorem Fmt.magVal_binade (f : Fmt) {k n : Nat} (hn : n ≤ 2 * 2 ^ (f.p - 1)) (hk : k = 0 ∨ 2 ^ (f.p - 1) ≤ n) :
    f.magVal (k * 2 ^ (f.p - 1) + n) = n * (2 : ℚ) ^ (f.emin + k - (f.p - 1)) := by
  have hh : 0 < 2 ^ (f.p - 1) := by positivity
  unfold Fmt.magVal
  dsimp only
  generalize 2 ^ (f.p - 1) = h at *
  simp only [pow2_eq_zpow, Rat.mkRat_one]
  have hdiv : (k * h + n) / h = k + n / h := by rw [Nat.add_comm, Nat.add_mul_div_right _ _ hh, Nat.add_comm]
  have hmod : ((k * h + n : Nat) : Int) % h = ((n % h : Nat) : Int) := by exact_mod_cast Nat.mul_add_mod_self_right k h n
  rw [hdiv, hmod]
  rcases Nat.lt_or_ge n h with hlt | hge
  · obtain rfl : k = 0 := hk.resolve_right (by omega)
    rw [Nat.div_eq_of_lt hlt, if_pos rfl]
    push_cast
    ring_nf
  · rcases Nat.lt_or_ge n (2 * h) with hlt | hge2
    · have h1 : n / h = 1 := by
        rw [Nat.div_eq_of_lt_le] <;> omega
      have h2 : h + n % h = n := by
        have := Nat.div_add_mod n h
        rw [h1] at this
        omega
      rw [h1, if_neg (by omega), ← Nat.cast_add, h2,
        show f.emin + ((k + 1 : Nat) : Int) - 1 - (f.p - 1) = f.emin + k - (f.p - 1) by push_cast; ring]
      push_cast
      rfl
    · obtain rfl : n = 2 * h := by omega
      rw [Nat.mul_mod_left, Nat.mul_div_cancel _ hh, if_neg (by omega),
        show f.emin + ((k + 2 : Nat) : Int) - 1 - (f.p - 1) = f.emin + k - (f.p - 1) + 1 by push_cast; ring, zpow_add_one₀ two_ne_zero]
      push_cast
      ring

/-- Every magnitude code is one. -/
theorem Fmt.exists_binade (f : Fmt) (c : Nat) : ∃ k n, c = k * 2 ^ (f.p - 1) + n ∧ n < 2 * 2 ^ (f.p - 1) ∧ (k = 0 ∨ 2 ^ (f.p - 1) ≤ n) := by
  have hh : 0 < 2 ^ (f.p - 1) := by positivity
  have hc := Nat.div_add_mod' c (2 ^ (f.p - 1))
  have hm := Nat.mod_lt c hh
  generalize c / 2 ^ (f.p - 1) = j at *
  generalize 2 ^ (f.p - 1) = h at *
  cases j with
  | zero => exact ⟨0, c % h, by omega, by omega, .inl rfl⟩
  | succ j => exact ⟨j, h + c % h, by rw [Nat.succ_mul] at hc; omega, by omega, .inr (by omega)⟩

@[simp] theorem Fmt.magVal_zero (f : Fmt) : f.magVal 0 = 0 := by simp [Fmt.magVal]

theorem Fmt.magVal_lt_succ (f : Fmt) (c : Nat) : f.magVal c < f.magVal (c + 1) := by
  obtain ⟨k, n, rfl, hn, hk⟩ := f.exists_binade c
  rw [Nat.add_assoc, f.magVal_binade hn.le hk, f.magVal_binade hn (hk.imp_right fun h => h.trans n.le_succ)]
  have : (0 : ℚ) < 2 ^ (f.emin + k - (f.p - 1)) := by positivity
  push_cast
  linarith

/-- Codes rise with the numbers that they stand for. -/
theorem Fmt.magVal_strictMono (f : Fmt) : StrictMono f.magVal := strictMono_nat_of_lt_succ f.magVal_lt_succ

theorem Fmt.magVal_nonneg (f : Fmt) (c : Nat) : 0 ≤ f.magVal c := by
  rw [← f.magVal_zero]
  exact f.magVal_strictMono.monotone (Nat.zero_le c)

theorem Fmt.magVal_eq_zero (f : Fmt) {c : Nat} : f.magVal c = 0 ↔ c = 0 := by
  rw [← f.magVal_zero]
  exact f.magVal_strictMono.injective.eq_iff

/-! ### The code below a number -/

/-- The number `x` lies a fraction `r` of the way from the number of magnitude code `c` to that of the next. -/
structure Fmt.Above (f : Fmt) (x : ℚ) (c : Nat) (r : ℚ) : Prop where
  nonneg : 0 ≤ r
  lt_one : r < 1
  eq : x = f.magVal c + r * (f.magVal (c + 1) - f.magVal c)

theorem Fmt.codeBelow_spec (f : Fmt) {x : ℚ} (hx : 0 < x) (hp : 1 ≤ f.p) : f.Above x (f.codeBelow x).1 (f.codeBelow x).2 := by
  obtain ⟨hlow, hhigh⟩ := floorLog2_spec hx
  have hcast : (((2 ^ (f.p - 1) : Nat)) : ℚ) = 2 ^ ((f.p : Int) - 1) := by
    rw [Nat.cast_pow, ← zpow_natCast, Nat.cast_sub hp]
    rfl
  unfold Fmt.codeBelow
  simp only [pow2_eq_zpow, Rat.mkRat_one]
  set e := max (floorLog2 x) f.emin with he
  set q := x * 2 ^ ((f.p : Int) - 1 - e) with hq
  have hxq : x = q * 2 ^ (e - (f.p - 1)) := by
    rw [hq, mul_assoc, ← zpow_add₀ two_ne_zero, show (f.p : Int) - 1 - e + (e - (f.p - 1)) = 0 by ring, zpow_zero, mul_one]
  have hq0 : 0 ≤ q := by positivity
  have hqhigh : q < 2 * ((2 ^ (f.p - 1) : Nat) : ℚ) := by
    have : x < 2 ^ (e + 1) := hhigh.trans_le (zpow_le_zpow_right₀ (by norm_num) (by omega))
    rw [hcast, hq, show (2 : ℚ) * 2 ^ ((f.p : Int) - 1) = 2 ^ (e + 1) * 2 ^ ((f.p : Int) - 1 - e) by
      rw [← zpow_one_add₀ two_ne_zero, ← zpow_add₀ two_ne_zero]; congr 1; ring]
    gcongr
  obtain ⟨n, hn⟩ : ∃ n : Nat, q.floor = n := ⟨q.floor.toNat, (Int.toNat_of_nonneg (Int.floor_nonneg.mpr hq0)).symm⟩
  have hfl : ⌊q⌋ = n := hn
  have hnle : (n : ℚ) ≤ q := by exact_mod_cast Int.le_floor.mp hfl.ge
  have hnlt : q < n + 1 := by exact_mod_cast Int.floor_lt.mp (hfl.trans_lt (lt_add_one (n : Int)))
  have hn2 : n < 2 * 2 ^ (f.p - 1) := by exact_mod_cast hnle.trans_lt hqhigh
  have hk : (e - f.emin).toNat = 0 ∨ 2 ^ (f.p - 1) ≤ n := by
    rcases le_or_gt (floorLog2 x) f.emin with hle | hgt
    · exact .inl (by omega)
    · refine .inr ?_
      have hqlow : ((2 ^ (f.p - 1) : Nat) : ℚ) ≤ q := by
        rw [max_eq_left hgt.le] at he
        rw [hcast, hq, he, show (2 : ℚ) ^ ((f.p : Int) - 1) = 2 ^ floorLog2 x * 2 ^ ((f.p : Int) - 1 - floorLog2 x) by
          rw [← zpow_add₀ two_ne_zero]; congr 1; ring]
        gcongr
      have : ((2 ^ (f.p - 1) : Nat) : Int) ≤ q.floor := Int.le_floor.mpr (by exact_mod_cast hqlow)
      rw [hn] at this
      exact_mod_cast this
  have hexp : f.emin + ((e - f.emin).toNat : Int) - (f.p - 1) = e - (f.p - 1) := by omega
  rw [hn, Int.toNat_natCast, Int.cast_natCast]
  refine ⟨sub_nonneg.mpr hnle, by linarith, ?_⟩
  rw [Nat.add_assoc, f.magVal_binade hn2.le hk, f.magVal_binade hn2 (hk.imp_right fun h => h.trans n.le_succ), hexp]
  conv_lhs => rw [hxq]
  push_cast
  ring

section
variable {f : Fmt} {x : ℚ} {c : Nat} {r : ℚ} (h : f.Above x c r)
include h

theorem Fmt.Above.le : f.magVal c ≤ x := by
  have := f.magVal_lt_succ c
  rw [h.eq]
  nlinarith [h.nonneg]

theorem Fmt.Above.lt : x < f.magVal (c + 1) := by
  have := f.magVal_lt_succ c
  rw [h.eq]
  nlinarith [h.lt_one]

/-- The code below a number is the last one whose number is not above it. -/
theorem Fmt.Above.le_iff {d : Nat} : f.magVal d ≤ x ↔ d ≤ c := by
  refine ⟨fun hd => Nat.lt_succ_iff.mp (f.magVal_strictMono.lt_iff_lt.mp (hd.trans_lt h.lt)), fun hd => ?_⟩
  exact (f.magVal_strictMono.monotone hd).trans h.le

theorem Fmt.Above.eq_iff : x = f.magVal c ↔ r = 0 := by
  have := f.magVal_lt_succ c
  rw [h.eq]
  constructor
  · intro he
    have : r * (f.magVal (c + 1) - f.magVal c) = 0 := by linarith
    exact (mul_eq_zero.mp this).resolve_right (by linarith)
  · rintro rfl
    ring

end

/-- A number that a code stands for has that code below it. -/
theorem Fmt.Above.unique {f : Fmt} {c d : Nat} {r : ℚ} (h : f.Above (f.magVal d) c r) : c = d ∧ r = 0 := by
  have hc : c = d := le_antisymm (f.magVal_strictMono.le_iff_le.mp h.le) (h.le_iff.mp le_rfl)
  subst hc
  exact ⟨rfl, h.eq_iff.mp rfl⟩

theorem Fmt.codeBelow_magVal (f : Fmt) (hp : 1 ≤ f.p) {d : Nat} (hd : d ≠ 0) : f.codeBelow (f.magVal d) = (d, 0) := by
  have hpos : 0 < f.magVal d := lt_of_le_of_ne (f.magVal_nonneg d) (Ne.symm (f.magVal_eq_zero.not.mpr hd))
  obtain ⟨h1, h2⟩ := (f.codeBelow_spec hpos hp).unique
  exact Prod.ext h1 h2

end Sys2Proof.Machine
end

section
/-! SUPPORT. The IEEE formats: what their codes stand for, and how a number is rounded to one of them (R125, R126, R131, Table 5.5). -/

namespace Sys2Proof.Machine

/-! ### The IEEE formats -/

/-- What the formats of a type selector have in common (R125, R126): codes of infinities and NaNs above those of the numbers, the code of
2^(P − 1) among those of the numbers, and fewer than 1000 whole binades. -/
structure Fmt.Ieee (f : Fmt) : Prop where
  kind : f.kind = .ieee
  two_le_p : 2 ≤ f.p
  two_le_bits : 2 ≤ f.bits
  room : f.maxCode + 1 + 2 ^ (f.p - 2) < 2 ^ (f.bits - 1)
  emin_nonpos : f.emin ≤ 0
  ints : (f.p - 1 - f.emin).toNat * 2 ^ (f.p - 1) + 2 ^ (f.p - 1) ≤ f.maxCode
  binades : ∃ k, f.maxCode + 1 = k * 2 ^ (f.p - 1) + 2 ^ (f.p - 1) ∧ k + f.p ≤ 1000

theorem fmt32_ieee : fmt32.Ieee := ⟨rfl, by decide, by decide, by decide, by decide, by decide, 254, rfl, by decide⟩
theorem fmt16_ieee : fmt16.Ieee := ⟨rfl, by decide, by decide, by decide, by decide, by decide, 30, rfl, by decide⟩
theorem fmtBf_ieee : fmtBf.Ieee := ⟨rfl, by decide, by decide, by decide, by decide, by decide, 254, rfl, by decide⟩

theorem fmt_ieee (t : FType) : t.fmt.Ieee := by
  cases t
  · exact fmt32_ieee
  · exact fmt16_ieee
  · exact fmtBf_ieee

/-- The number of magnitude code `c` with a sign. -/
def Fmt.number (f : Fmt) (neg : Bool) (c : Nat) : ℚ := if neg then -f.magVal c else f.magVal c

@[simp] theorem Fmt.number_true (f : Fmt) (c : Nat) : f.number true c = -f.magVal c := rfl
@[simp] theorem Fmt.number_false (f : Fmt) (c : Nat) : f.number false c = f.magVal c := rfl

theorem Fmt.abs_number (f : Fmt) (neg : Bool) (c : Nat) : |f.number neg c| = f.magVal c := by
  cases neg <;> simp [abs_of_nonneg (f.magVal_nonneg c)]

section
variable {f : Fmt} (hf : f.Ieee)
include hf

theorem Fmt.Ieee.one_le_p : 1 ≤ f.p := one_le_two.trans hf.two_le_p

theorem Fmt.Ieee.inf_lt : f.maxCode + 1 < 2 ^ (f.bits - 1) := (Nat.le_add_right ..).trans_lt hf.room

theorem Fmt.Ieee.signed : f.signed = true := by simp [Fmt.signed, hf.kind]

theorem Fmt.Ieee.code_eq (neg : Bool) (c : Nat) : f.code neg c = if neg then 2 ^ (f.bits - 1) + c else c := by
  simp [Fmt.code, hf.signed]

theorem Fmt.Ieee.two_pow_bits : 2 ^ f.bits = 2 * 2 ^ (f.bits - 1) := by
  rw [← pow_succ', Nat.sub_add_cancel (one_le_two.trans hf.two_le_bits)]

theorem Fmt.Ieee.code_lt {neg : Bool} {c : Nat} (hc : c < 2 ^ (f.bits - 1)) : f.code neg c < 2 ^ f.bits := by
  rw [hf.code_eq, hf.two_pow_bits]
  split <;> omega

theorem Fmt.Ieee.code_mod_two (neg : Bool) (c : Nat) : f.code neg c % 2 = c % 2 := by
  have hb := hf.two_le_bits
  have : 2 ^ (f.bits - 1) = 2 * 2 ^ (f.bits - 2) := by rw [← pow_succ', show f.bits - 2 + 1 = f.bits - 1 by omega]
  rw [hf.code_eq]
  split <;> omega

/-- What a code stands for, by its sign and its magnitude code. -/
theorem Fmt.Ieee.val_eq (code : Nat) : f.val code =
    let c := code % 2 ^ (f.bits - 1)
    let neg := decide (2 ^ (f.bits - 1) ≤ code % 2 ^ f.bits)
    if c ≤ f.maxCode then .fin neg (f.number neg c) else if c = f.maxCode + 1 then .inf neg else .nan (!c.testBit (f.p - 2)) := by
  simp [Fmt.val, hf.signed, hf.kind, hf.two_pow_bits, Fmt.number]

theorem Fmt.Ieee.val_code {neg : Bool} {c : Nat} (hc : c < 2 ^ (f.bits - 1)) : f.val (f.code neg c) =
    if c ≤ f.maxCode then .fin neg (f.number neg c) else if c = f.maxCode + 1 then .inf neg else .nan (!c.testBit (f.p - 2)) := by
  have hmod : f.code neg c % 2 ^ (f.bits - 1) = c := by
    rw [hf.code_eq]
    cases neg
    · exact Nat.mod_eq_of_lt hc
    · rw [if_pos rfl, Nat.add_mod_left, Nat.mod_eq_of_lt hc]
  have hneg : decide (2 ^ (f.bits - 1) ≤ f.code neg c % 2 ^ f.bits) = neg := by
    rw [Nat.mod_eq_of_lt (hf.code_lt hc), hf.code_eq]
    cases neg
    · simpa using hc
    · simp
  rw [hf.val_eq]
  simp only [hmod, hneg]

theorem Fmt.Ieee.val_code_fin {neg : Bool} {c : Nat} (hc : c ≤ f.maxCode) : f.val (f.code neg c) = .fin neg (f.number neg c) := by
  rw [hf.val_code ((Nat.lt_succ_of_le hc).trans hf.inf_lt), if_pos hc]

theorem Fmt.Ieee.val_code_inf (neg : Bool) : f.val (f.code neg (f.maxCode + 1)) = .inf neg := by
  rw [hf.val_code hf.inf_lt, if_neg (Nat.not_succ_le_self _), if_pos rfl]

/-- A number of the format is that of a magnitude code with a sign. -/
theorem Fmt.Ieee.eq_number {code : Nat} {k : Bool} {z : ℚ} (h : f.val code = .fin k z) : ∃ d ≤ f.maxCode, z = f.number k d := by
  rw [hf.val_eq] at h
  dsimp only at h
  split at h
  · next hc =>
    cases h
    exact ⟨_, hc, rfl⟩
  · split at h <;> cases h

/-! ### Rounding to an IEEE format -/

/-- The magnitude code that a number a fraction `r` above magnitude code `c` is rounded to, while the exponent is unbounded (R131
steps 1 and 2). -/
def roundedCode (m : RMode) (neg : Bool) (c : Nat) (r : ℚ) : Nat := if roundsUp m neg (c % 2 == 1) r then c + 1 else c

omit hf in
theorem roundedCode_zero (m : RMode) (neg : Bool) (c : Nat) : roundedCode m neg c 0 = c := by simp [roundedCode, roundsUp]

omit hf in
theorem roundedCode_cases (m : RMode) (neg : Bool) (c : Nat) (r : ℚ) :
    roundedCode m neg c r = c ∨ roundedCode m neg c r = c + 1 ∧ r ≠ 0 := by
  unfold roundedCode
  split
  · next hup => exact .inr ⟨rfl, fun hr => by simp [roundsUp, hr] at hup⟩
  · exact .inl rfl

omit hf in
/-- R131 step 1: round-to-nearest goes up from beyond the middle, and from the middle to the even code. -/
theorem roundedCode_rne (neg : Bool) (c : Nat) (r : ℚ) :
    (roundedCode .rne neg c r = c ∧ (r < 1 / 2 ∨ r = 1 / 2 ∧ c % 2 = 0)) ∨
      (roundedCode .rne neg c r = c + 1 ∧ (1 / 2 < r ∨ r = 1 / 2 ∧ c % 2 = 1)) := by
  have hhalf : (mkRat 1 2 : ℚ) = 1 / 2 := by norm_num [Rat.mkRat_eq_div]
  have hiff : roundsUp .rne neg (c % 2 == 1) r = true ↔ 1 / 2 < r ∨ r = 1 / 2 ∧ c % 2 = 1 := by
    unfold roundsUp
    rw [hhalf]
    split
    · next hr => norm_num [hr]
    · simp
  by_cases hup : 1 / 2 < r ∨ r = 1 / 2 ∧ c % 2 = 1
  · exact .inr ⟨if_pos (hiff.mpr hup), hup⟩
  · refine .inl ⟨if_neg (hiff.not.mpr hup), ?_⟩
    rw [not_or, not_lt, not_and] at hup
    exact (lt_or_eq_of_le hup.1).imp_right fun he => ⟨he, by have := hup.2 he; omega⟩

theorem Fmt.Ieee.overflow_eq (neg : Bool) (m : RMode) (sat : Bool) : f.overflow neg m sat =
    (if m = .rtz ∨ m = .rdn ∧ !neg ∨ m = .rup ∧ neg then f.code neg f.maxCode else f.code neg (f.maxCode + 1), fOF ||| fNX) := by
  simp [Fmt.overflow, hf.kind]

theorem Fmt.Ieee.roundCode_eq (neg : Bool) (c : Nat) (r : ℚ) (m : RMode) (sat : Bool) : f.roundCode neg c r m sat =
    let c' := roundedCode m neg c r
    if f.maxCode < c' then f.overflow neg m sat
    else (f.code neg c', (if r = 0 then 0 else fNX) ||| if r ≠ 0 ∧ c' ≠ 0 ∧ c' < 2 ^ (f.p - 1) then fUF else 0) := by
  unfold Fmt.roundCode roundedCode
  simp only [hf.kind, hf.signed, Fmt.zero, ne_eq, not_true_eq_false, false_and, if_false, Bool.not_true, Bool.and_false, Bool.false_eq_true]
  generalize (if roundsUp m neg (c % 2 == 1) r = true then c + 1 else c) = c'
  by_cases h0 : c' = 0
  · simp [h0]
  · simp [h0]

/-- A nonzero number is rounded from the code below its magnitude. -/
theorem Fmt.Ieee.rnd_fin {n : Bool} {q : ℚ} (hq : q ≠ 0) (m : RMode) (sat : Bool) : ∃ c r, f.Above |q| c r ∧
    f.rnd (.fin n q) m sat = f.roundCode (decide (q < 0)) c r m sat := by
  refine ⟨_, _, f.codeBelow_spec (abs_pos.mpr hq) hf.one_le_p, ?_⟩
  simp only [Fmt.rnd, if_neg hq, Fmt.rndQ]

end

/-! ### The nearest code, and those on either side -/

section
variable {f : Fmt} {x : ℚ} {c : Nat} {r : ℚ} (h : f.Above x c r)
include h

/-- How far a number lies from the two codes around it. -/
theorem Fmt.Above.sub_eq : x - f.magVal c = r * (f.magVal (c + 1) - f.magVal c) ∧
    f.magVal (c + 1) - x = (1 - r) * (f.magVal (c + 1) - f.magVal c) := by
  rw [h.eq]
  constructor <;> ring

/-- A code that is not one of the two around a number is farther from it than the nearer one on its side. -/
theorem Fmt.Above.dist (d : Nat) : (d ≤ c ∧ |f.magVal d - x| = x - f.magVal d ∧ f.magVal d ≤ f.magVal c) ∨
    (c < d ∧ |f.magVal d - x| = f.magVal d - x ∧ f.magVal (c + 1) ≤ f.magVal d) := by
  rcases le_or_gt d c with hd | hd
  · refine .inl ⟨hd, ?_, f.magVal_strictMono.monotone hd⟩
    rw [abs_of_nonpos (by linarith [h.le_iff.mpr hd]), neg_sub]
  · have hle := f.magVal_strictMono.monotone (Nat.succ_le_of_lt hd)
    exact .inr ⟨hd, abs_of_pos (by linarith [h.lt]), hle⟩

/-- R131: round-to-nearest takes the nearer code, and of two that are equally near the even one. -/
theorem Fmt.Above.nearest (neg : Bool) (d : Nat) :
    let c' := roundedCode .rne neg c r
    |f.magVal c' - x| ≤ |f.magVal d - x| ∧ (d ≠ c' → |f.magVal c' - x| = |f.magVal d - x| → c' % 2 = 0) := by
  intro c'
  obtain ⟨hbelow, habove⟩ := h.sub_eq
  have hstep := f.magVal_lt_succ c
  have hr0 := h.nonneg
  set u := f.magVal (c + 1) - f.magVal c with hu
  have hu0 : 0 < u := by linarith
  obtain ⟨hc', hr⟩ | ⟨hc', hr⟩ := roundedCode_rne neg c r
  · have hle2 : r ≤ 1 / 2 := hr.elim le_of_lt fun e => e.1.le
    have hdist : |f.magVal c' - x| = r * u := by
      rw [show c' = c from hc', abs_sub_comm, abs_of_nonneg (by linarith [h.le]), hbelow]
    rw [hdist]
    obtain ⟨hd, habs, hle⟩ | ⟨hd, habs, hle⟩ := h.dist d
    · rw [habs]
      refine ⟨by linarith, fun hne he => ?_⟩
      have := f.magVal_strictMono (show d < c by omega)
      linarith
    · rw [habs]
      have : r * u ≤ (1 - r) * u := by nlinarith
      refine ⟨by linarith, fun _ he => ?_⟩
      have : (1 - r) * u = r * u := by linarith
      have hrr : r = 1 / 2 := by nlinarith
      rw [show c' = c from hc']
      exact (hr.resolve_left (by linarith)).2
  · have hge : 1 / 2 ≤ r := hr.elim le_of_lt fun e => e.1.ge
    have hdist : |f.magVal c' - x| = (1 - r) * u := by
      rw [show c' = c + 1 from hc', ← habove, abs_of_pos (by linarith [h.lt])]
    rw [hdist]
    obtain ⟨hd, habs, hle⟩ | ⟨hd, habs, hle⟩ := h.dist d
    · rw [habs]
      have : (1 - r) * u ≤ r * u := by nlinarith
      refine ⟨by linarith, fun _ he => ?_⟩
      have : (1 - r) * u = r * u := by linarith
      have hrr : r = 1 / 2 := by nlinarith
      have := (hr.resolve_left (by linarith)).2
      omega
    · rw [habs]
      refine ⟨by linarith, fun hne he => ?_⟩
      have := f.magVal_strictMono (show c + 1 < d by omega)
      linarith

/-- R131: a mode that rounds away from zero takes the first code that is not below the number. -/
theorem Fmt.Above.away {m : RMode} {neg : Bool} (hm : ∀ odd, roundsUp m neg odd r = decide (r ≠ 0)) (d : Nat) :
    let c' := roundedCode m neg c r
    x ≤ f.magVal c' ∧ (x ≤ f.magVal d → f.magVal c' ≤ f.magVal d) := by
  intro c'
  by_cases hr : r = 0
  · have hc' : c' = c := if_neg (by rw [hm]; simp [hr])
    have hx := h.eq_iff.mpr hr
    rw [hc', ← hx]
    exact ⟨le_rfl, id⟩
  · have hc' : c' = c + 1 := if_pos (by rw [hm]; simp [hr])
    rw [hc']
    refine ⟨h.lt.le, fun hd => f.magVal_strictMono.monotone (Nat.succ_le_of_lt ?_)⟩
    by_contra hle
    exact hr (h.eq_iff.mp (le_antisymm (hd.trans (f.magVal_strictMono.monotone (not_lt.mp hle))) h.le))

/-- R131: a mode that rounds towards zero takes the last code that is not above the number. -/
theorem Fmt.Above.towards {m : RMode} {neg : Bool} (hm : ∀ odd, roundsUp m neg odd r = false) (d : Nat) :
    let c' := roundedCode m neg c r
    f.magVal c' ≤ x ∧ (f.magVal d ≤ x → f.magVal d ≤ f.magVal c') := by
  intro c'
  have hc' : c' = c := if_neg (by simp [hm])
  rw [hc']
  exact ⟨h.le, fun hd => f.magVal_strictMono.monotone (h.le_iff.mp hd)⟩

/-- Rounding gives the number itself exactly where the number has a code. -/
theorem Fmt.Above.rounded_eq_iff (m : RMode) (neg : Bool) : f.magVal (roundedCode m neg c r) = x ↔ r = 0 := by
  refine ⟨fun he => ?_, fun hr => ?_⟩
  · have h' := h
    rw [← he] at h'
    exact h'.unique.2
  · rw [hr, roundedCode_zero]
    exact (h.eq_iff.mpr hr).symm

/-- A number that is rounded above a code lies above it. -/
theorem Fmt.Above.lt_of_lt_rounded {m : RMode} {neg : Bool} {d : Nat} (hd : d < roundedCode m neg c r) : f.magVal d < x := by
  rcases roundedCode_cases m neg c r with hc | ⟨hc, hr⟩ <;> rw [hc] at hd
  · exact (f.magVal_strictMono hd).trans_le h.le
  · refine lt_of_le_of_ne (h.le_iff.mpr (Nat.lt_succ_iff.mp hd)) fun he => hr ?_
    have h' := h
    rw [← he] at h'
    exact h'.unique.2

end

end Sys2Proof.Machine
end

section
/-! SUPPORT. Rounding with signs, and the statement about it, settled (R131, Table 5.5). -/

namespace Sys2Proof.Machine

/-! ### Signs -/

/-- A number and a code of its sign are as far apart as their magnitudes. -/
theorem Fmt.abs_number_sub (f : Fmt) (x : ℚ) (d : Nat) : |f.number (decide (x < 0)) d - x| = |f.magVal d - (|x|)| := by
  by_cases hx : x < 0
  · rw [decide_eq_true hx, abs_of_neg hx, f.number_true, ← abs_neg]
    ring_nf
  · rw [decide_eq_false hx, abs_of_nonneg (not_lt.mp hx), f.number_false]

theorem Fmt.abs_number_not_sub (f : Fmt) (x : ℚ) (d : Nat) : |f.number (!decide (x < 0)) d - x| = f.magVal d + |x| := by
  have hd := f.magVal_nonneg d
  by_cases hx : x < 0
  · rw [decide_eq_true hx, Bool.not_true, f.number_false, abs_of_neg hx, ← sub_eq_add_neg]
    exact abs_of_nonneg (by linarith)
  · rw [decide_eq_false hx, Bool.not_false, f.number_true, abs_of_nonneg (not_lt.mp hx), ← abs_neg, neg_sub, sub_neg_eq_add, add_comm]
    exact abs_of_nonneg (by linarith [not_lt.mp hx])

section
variable {f : Fmt} {x : ℚ} {c : Nat} {r : ℚ} (h : f.Above |x| c r) (d : Nat) (k : Bool)
include h

theorem Fmt.Above.nearest_signed (hx : x ≠ 0) :
    let n := decide (x < 0)
    let c' := roundedCode .rne n c r
    |f.number n c' - x| ≤ |f.number k d - x| ∧
      (f.number k d ≠ f.number n c' → |f.number n c' - x| = |f.number k d - x| → c' % 2 = 0) := by
  intro n c'
  obtain ⟨hle, htie⟩ := h.nearest n d
  have hz : |f.magVal d - (|x|)| ≤ |f.number k d - x| := by
    rw [← f.abs_number k d]
    exact abs_abs_sub_abs_le ..
  rw [f.abs_number_sub]
  refine ⟨hle.trans hz, fun hne heq => ?_⟩
  by_cases hd : d = c'
  · have hk : k = !n := by
      rw [← Bool.not_eq_not, Bool.not_not]
      rintro rfl
      exact hne (by rw [hd])
    have hc0 : f.magVal c' ≠ 0 := fun h0 => hne (by
      have := f.abs_number k c'
      have := f.abs_number n c'
      rw [hd, abs_eq_zero.mp (by rw [f.abs_number, h0] : |f.number k c'| = 0),
        abs_eq_zero.mp (by rw [f.abs_number, h0] : |f.number n c'| = 0)])
    have hpos : 0 < f.magVal c' := lt_of_le_of_ne (f.magVal_nonneg c') hc0.symm
    have hxpos := abs_pos.mpr hx
    have hfar : |f.number k d - x| = f.magVal c' + |x| := by rw [hd, hk, f.abs_number_not_sub]
    rw [hfar] at heq
    rcases abs_cases (f.magVal c' - (|x|)) with ⟨habs, -⟩ | ⟨habs, -⟩ <;> rw [habs] at heq <;> linarith
  · exact htie hd (le_antisymm hle (heq ▸ hz))

theorem Fmt.Above.towardsZero_signed :
    let n := decide (x < 0)
    let c' := roundedCode .rtz n c r
    |f.number n c'| ≤ |x| ∧ (|f.number k d| ≤ |x| → |f.number k d| ≤ |f.number n c'|) := by
  simp only [f.abs_number]
  refine h.towards (fun odd => ?_) d
  simp [roundsUp]

theorem Fmt.Above.down_signed :
    let n := decide (x < 0)
    let c' := roundedCode .rdn n c r
    f.number n c' ≤ x ∧ (f.number k d ≤ x → f.number k d ≤ f.number n c') := by
  intro n c'
  have hd0 := f.magVal_nonneg d
  by_cases hneg : x < 0
  · have hn : n = true := decide_eq_true hneg
    obtain ⟨hle, hnext⟩ := h.away (m := .rdn) (neg := n) (fun odd => by simp [roundsUp, hn]) d
    rw [abs_of_neg hneg] at hle hnext
    have hy : f.number n c' = -f.magVal c' := by rw [hn, f.number_true]
    rw [hy]
    refine ⟨by linarith, fun hz => ?_⟩
    cases k with
    | false => exact absurd hz (by change ¬ f.magVal d ≤ x; linarith)
    | true =>
      change -f.magVal d ≤ x at hz
      exact neg_le_neg (hnext (by linarith))
  · have hn : n = false := decide_eq_false hneg
    obtain ⟨hle, hnext⟩ := h.towards (m := .rdn) (neg := n) (fun odd => by simp [roundsUp, hn]) d
    rw [abs_of_nonneg (not_lt.mp hneg)] at hle hnext
    have hy : f.number n c' = f.magVal c' := by rw [hn, f.number_false]
    rw [hy]
    refine ⟨hle, fun hz => ?_⟩
    cases k with
    | false => exact hnext hz
    | true => exact (neg_nonpos.mpr hd0).trans (f.magVal_nonneg c')

theorem Fmt.Above.up_signed :
    let n := decide (x < 0)
    let c' := roundedCode .rup n c r
    x ≤ f.number n c' ∧ (x ≤ f.number k d → f.number n c' ≤ f.number k d) := by
  intro n c'
  have hd0 := f.magVal_nonneg d
  by_cases hneg : x < 0
  · have hn : n = true := decide_eq_true hneg
    obtain ⟨hle, hnext⟩ := h.towards (m := .rup) (neg := n) (fun odd => by simp [roundsUp, hn]) d
    rw [abs_of_neg hneg] at hle hnext
    have hy : f.number n c' = -f.magVal c' := by rw [hn, f.number_true]
    rw [hy]
    refine ⟨by linarith, fun hz => ?_⟩
    cases k with
    | false => exact (neg_nonpos.mpr (f.magVal_nonneg c')).trans hd0
    | true =>
      change x ≤ -f.magVal d at hz
      exact neg_le_neg (hnext (by linarith))
  · have hn : n = false := decide_eq_false hneg
    obtain ⟨hle, hnext⟩ := h.away (m := .rup) (neg := n) (fun odd => by simp [roundsUp, hn]) d
    rw [abs_of_nonneg (not_lt.mp hneg)] at hle hnext
    have hy : f.number n c' = f.magVal c' := by rw [hn, f.number_false]
    rw [hy]
    refine ⟨hle, fun hz => ?_⟩
    cases k with
    | false => exact hnext hz
    | true =>
      change x ≤ -f.magVal d at hz
      have hx0 : x = 0 := le_antisymm (by linarith) (not_lt.mp hneg)
      have hd : f.magVal d = 0 := by linarith
      have := hnext (by rw [hx0, hd])
      change f.magVal c' ≤ -f.magVal d
      linarith

end

/-! ### The statement -/

/-- Settles O16: a number lies between two neighbouring codes, and each mode takes one of the two; beyond the last one it overflows. -/
theorem roundingIsCorrect : Obligations.RoundingIsCorrect := by
  intro t m x hx n r values
  have hf := fmt_ieee t
  obtain ⟨c, ρ, habove, hr⟩ := hf.rnd_fin (n := n) hx m false
  have hr' : r = _ := hr.trans (hf.roundCode_eq ..)
  change r = if t.fmt.maxCode < roundedCode m n c ρ then _ else _ at hr'
  by_cases hov : t.fmt.maxCode < roundedCode m n c ρ
  · rw [if_pos hov, hf.overflow_eq] at hr'
    have hr2 : r.2 = fOF ||| fNX := by rw [hr']
    have hlim : (m = .rtz ∨ m = .rdn ∧ !n ∨ m = .rup ∧ n) ↔ ¬ (m = .rne ∨ m = .rdn ∧ x < 0 ∨ m = .rup ∧ 0 < x) := by
      have hpos : 0 < x ↔ ¬ x < 0 := ⟨fun h => h.not_gt, fun h => lt_of_le_of_ne (not_lt.mp h) hx.symm⟩
      cases m <;> simp [n, hpos]
    have hmax : ∀ z, values z → ∃ d ≤ t.fmt.maxCode, |z| = t.fmt.magVal d := by
      rintro z ⟨code, k, -, hz⟩
      obtain ⟨d, hd, rfl⟩ := hf.eq_number hz
      exact ⟨d, hd, t.fmt.abs_number k d⟩
    refine ⟨fun hno => absurd hno (by rw [hr2]; decide), fun _ => ⟨hr2, fun z hz => ?_, fun hinf => ?_, fun hfin => ?_⟩⟩
    · obtain ⟨d, hd, hzd⟩ := hmax z hz
      rw [hzd]
      exact habove.lt_of_lt_rounded (hd.trans_lt hov)
    · rw [hr', if_neg (hlim.not.mpr (not_not.mpr hinf))]
      exact hf.val_code_inf n
    · refine ⟨t.fmt.number n t.fmt.maxCode, ?_, fun z hz => ?_⟩
      · rw [hr', if_pos (hlim.mpr hfin)]
        exact hf.val_code_fin le_rfl
      · obtain ⟨d, hd, hzd⟩ := hmax z hz
        rw [hzd, t.fmt.abs_number]
        exact t.fmt.magVal_strictMono.monotone hd
  · rw [if_neg hov] at hr'
    have hle := not_lt.mp hov
    have hr1 : r.1 = t.fmt.code n (roundedCode m n c ρ) := by rw [hr']
    have hof : r.2 &&& fOF = 0 := by
      rw [hr']
      dsimp only
      split <;> split <;> rfl
    have hnx : r.2 &&& fNX = 0 ↔ ρ = 0 := by
      rw [hr']
      dsimp only
      by_cases h0 : ρ = 0
      · simp [h0]
      · simp only [h0, if_false, ne_eq, not_false_eq_true, true_and, iff_false]
        split <;> decide
    refine ⟨fun _ => ⟨t.fmt.number n (roundedCode m n c ρ), ?_, ?_, ?_⟩, fun h => absurd hof h⟩
    · rw [hr1]
      exact hf.val_code_fin hle
    · rw [hnx, ← habove.rounded_eq_iff m n, ← sub_eq_zero, ← abs_eq_zero, ← t.fmt.abs_number_sub, abs_eq_zero, sub_eq_zero]
    · rintro z ⟨code, k, -, hz⟩
      obtain ⟨d, hd, rfl⟩ := hf.eq_number hz
      rw [hr1, hf.code_mod_two]
      cases m with
      | rne => exact habove.nearest_signed d k hx
      | rtz =>
        obtain ⟨h1, h2⟩ := habove.towardsZero_signed d k
        exact ⟨h1, fun hc => h2 hc.1⟩
      | rdn => exact habove.down_signed d k
      | rup => exact habove.up_signed d k

end Sys2Proof.Machine
end

section
/-! SUPPORT. What an instruction with floating-point results leaves: its trap, or its elements and the flags of those that are written
(R135, R137 to R139). -/

namespace Sys2Proof.Machine

/-- The check of step 15 that an instruction which issues has passed (R44). -/
theorem Issues.eszOk {i : Instr} {s : State} {c : Ctx} (h : Issues i s c) : i.eszOk = true := by
  have hf := h.fieldCheck
  unfold Instr.fieldCheck at hf
  obtain ⟨-, hbad⟩ | ⟨-, hesz⟩ := ite_eq_iff.mp hf
  · cases hbad
  · obtain ⟨-, hbad⟩ | ⟨hok, -⟩ := ite_eq_iff.mp hesz
    · cases hbad
    · simpa using hok

/-! ### Flags -/

/-- A bit of flags ORed over a list. -/
theorem getLsbD_foldl_or_if {α : Type} (p : α → Bool) (v : α → Flags) (es : List α) (a : Flags) (b : Nat) :
    (es.foldl (fun a e => if p e then a ||| v e else a) a).getLsbD b = (a.getLsbD b || es.any fun e => p e && (v e).getLsbD b) := by
  induction es generalizing a with
  | nil => simp
  | cons e es ih =>
    rw [List.foldl_cons, ih, List.any_cons]
    cases p e <;> simp [Bool.or_assoc]

/-- R135: an element sets a flag where DMASK writes it. -/
theorem getLsbD_flagsOf (dm : BitVec 8) (n : Nat) (g : Nat → Nat × Flags) (b : Nat) :
    (flagsOf dm ((List.range n).map g)).getLsbD b = true ↔ ∃ j, j < n ∧ dm.getLsbD j = true ∧ (g j).2.getLsbD b = true := by
  have hzero : (0 : Flags).getLsbD b = false := by simp
  unfold flagsOf
  rw [getLsbD_foldl_or_if (fun e : (Nat × Flags) × Nat => dm.getLsbD e.2) fun e => e.1.2, hzero, Bool.false_or, any_zipIdx_range]
  simp only [Bool.and_eq_true]

theorem flagsOf_singleton (r : Nat × Flags) : flagsOf 0xFF [r] = r.2 := by
  simp [flagsOf]

theorem sigNV_eq (vs : List Val) : sigNV vs = if .nan true ∈ vs then fNV else 0 := by
  unfold sigNV
  congr 1
  simp

/-! ### One element in a word -/

theorem fromElems_singleton (x : Nat) : fromElems 32 [x] = BitVec.ofNat 32 x := by
  apply BitVec.eq_of_toNat_eq
  simp [fromElems]

theorem dmaskBits_word : dmaskBits 32 0xFF = 0xFFFFFFFF := rfl

/-! ### The outcome of a floating-point instruction -/

section
variable {i : Instr} {s : State} {c : Ctx} {body : Ctx → State → Res} {d : BitVec 8} {order : List Cause} (h : Issues i s c)
  (he : exec i s = issue i s body)
include h he

theorem exec_of_trap {t : Trap} (hb : body c s = .trap t) : exec i s = .next (c.afterTrap s i t) := he.trans (issue_trap h hb)

/-- R138: the enabled trap before any effect, else the effect. -/
theorem fpCases_of_body {fl : Nat → Flags} {u : State}
    (hb : body c s = match fpTrap c.st.ctl order c.act fl with
      | some t => .trap t
      | none => .next u) :
    (∀ t, fpTrap c.st.ctl order c.act fl = some t → exec i s = .next (c.afterTrap s i t)) ∧
      (fpTrap c.st.ctl order c.act fl = none → exec i s = .next (c.advance u)) := by
  refine ⟨fun t ht => exec_of_trap h he ?_, fun hn => he.trans (issue_next h ?_)⟩
  · rw [hb, ht]
  · rw [hb, hn]

theorem fpOutcome_of_body {cov : Word} {lat : Nat} {W : Nat → Word} {fl : Nat → Flags}
    (hb : body c s = match fpTrap c.st.ctl order c.act fl with
      | some t => .trap t
      | none => .next (c.orFlags (c.putBits s d.toNat c.act W cov lat c.laneTag) fl lat)) :
    FpOutcome c s i order d cov lat W fl := fpCases_of_body h he hb

theorem fpOutcome_of_fpPut {w : Nat} {dm : BitVec 8} {res : Nat → List (Nat × Flags)} (hb : body c s = c.fpPut s d w dm order res) :
    FpOutcome c s i order d (dmaskBits w dm) 3 (fun l => fromElems w ((res l).map (·.1))) fun l => flagsOf dm (res l) :=
  fpOutcome_of_body h he (hb.trans rfl)

/-- The instructions whose result is one number for each element. -/
theorem fpElems_of_fpPut {f : X64} {res : Nat → Nat → Nat × Flags} (hb : body c s =
      c.fpPut s f.d (X64.w f) (X64.dm f (X64.w f)) order fun l => (List.range (32 / X64.w f)).map (res l)) :
    FpElems c s i f order res := by
  refine ⟨_, _, fpOutcome_of_fpPut h he hb, fun l => ⟨fun j hj => ?_, fun b => getLsbD_flagsOf ..⟩⟩
  rw [List.map_map]
  exact el_fromElems_range (X64.w_fits f) _ hj

/-- The instructions whose result is one FP32 number. -/
theorem fpOutcome_of_word {r : Nat → Nat × Flags} (hb : body c s = c.fpPut s d 32 0xFF order fun l => [r l]) :
    FpOutcome c s i order d 0xFFFFFFFF 3 (fun l => BitVec.ofNat 32 (r l).1) fun l => (r l).2 := by
  have ho := fpOutcome_of_fpPut h he hb
  simpa only [dmaskBits_word, List.map_cons, List.map_nil, fromElems_singleton, flagsOf_singleton] using ho

end

section
variable {i : Instr} {s : State} {c : Ctx} {f : X64} {order : List Cause} (h : Issues i s c)
include h

/-- An instruction of one number for each element, from the elements of A, B and C. -/
theorem fpElems_of_fpElem {op : Nat → Nat → Nat → Nat × Flags} (he : exec i s = fpElem i f order op s) :
    FpElems c s i f order fun l j =>
      op (el (X64.w f) (c.srcA .flt (X64.w f) f l) j) (el (X64.w f) (c.srcB .flt (X64.w f) f l) j)
        (el (X64.w f) (c.srcC .flt (X64.w f) f l) j) := fpElems_of_fpPut h he rfl

/-- An instruction that sets no flag and takes no trap (R144, R145). -/
theorem afterElems_of_fpElem {op : Nat → Nat → Nat → Nat} (he : exec i s = fpElem i f [] (fun a b c => (op a b c, 0)) s) :
    ∃ W, exec i s = .next (c.afterElems s f 3 W fun _ => 0) ∧ ∀ l j, j < 32 / X64.w f → el (X64.w f) (W l) j =
      op (el (X64.w f) (c.srcA .flt (X64.w f) f l) j) (el (X64.w f) (c.srcB .flt (X64.w f) f l) j)
        (el (X64.w f) (c.srcC .flt (X64.w f) f l) j) % 2 ^ X64.w f := by
  obtain ⟨W, fl, ⟨-, hnext⟩, hW⟩ := fpElems_of_fpElem h he
  have hfl : fl = fun _ => 0 := funext fun l => BitVec.eq_of_getLsbD_eq fun b hb => by
    rw [Bool.eq_iff_iff, (hW l).2 b]
    simp
  rw [hfl] at hnext
  exact ⟨W, hnext rfl, fun l => (hW l).1⟩

end

end Sys2Proof.Machine
end

section
/-! SUPPORT. Exact sums and products, rounded once, and the statement about FADD, FSUB, FMUL and FFMA, settled (R133, R134, R141). -/

namespace Sys2Proof.Machine

theorem mul_eq_exactProduct (a b : Val) : a.mul b = exactProduct a b := by
  cases a <;> cases b <;> rfl

theorem sumVals_pair (m : RMode) (a b : Val) : sumVals [a, b] m = exactSum m a b := by
  cases a with
  | nan g => cases b <;> simp [sumVals, exactSum, Val.isNan]
  | inf x => cases b with
    | nan g => cases x <;> simp [sumVals, exactSum, Val.isNan]
    | inf y => cases x <;> cases y <;> simp [sumVals, exactSum, Val.isNan]
    | fin y q => cases x <;> simp [sumVals, exactSum, Val.isNan]
  | fin x p => cases b with
    | nan g => simp [sumVals, exactSum, Val.isNan]
    | inf y => cases y <;> simp [sumVals, exactSum, Val.isNan]
    | fin y q => simp [sumVals, exactSum, Val.isNan, beq_eq_decide, Bool.and_comm, Bool.and_assoc, Bool.and_left_comm]

theorem addRnd_eq_roundOnce (t : Fmt) (a b : Val) (m : RMode) : addRnd t a b m = roundOnce t m (exactSum m a b) 0 [a, b] := by
  simp [addRnd, dotRnd, roundOnce, sumVals_pair, sigNV_eq]

theorem mulRnd_eq_roundOnce (t : Fmt) (a b : Val) (m : RMode) : mulRnd t a b m = roundOnce t m (exactProduct a b) 0 [a, b] := by
  simp [mulRnd, roundOnce, mul_eq_exactProduct, sigNV_eq]

theorem fmaRnd_eq_roundOnce (t : Fmt) (a b d : Val) (m : RMode) :
    dotRnd t [(a, b)] [d] m = roundOnce t m (exactSum m (exactProduct a b).1 d) (exactProduct a b).2 [a, b, d] := by
  simp [dotRnd, roundOnce, sumVals_pair, mul_eq_exactProduct, sigNV_eq]

theorem cvtRnd_eq_roundOnce (t : Fmt) (a : Val) (m : RMode) : cvtRnd t a m = roundOnce t m (a, 0) 0 [a] := by
  simp [cvtRnd, roundOnce, sigNV_eq]

/-- Settles O17: the exact sum of two terms, or the exact product, is rounded by the one rounding of R131. -/
theorem floatArithmeticRoundsOnce : Obligations.FloatArithmeticRoundsOnce := by
  intro s c t f m a b d
  refine ⟨fun h => ?_, fun h => ?_, fun h => ?_, fun h => ?_⟩
  · simpa only [addRnd_eq_roundOnce] using fpElems_of_fpElem h (show exec (.fadd t f) s = execFadd t f s from rfl)
  · simpa only [addRnd_eq_roundOnce] using fpElems_of_fpElem h (show exec (.fsub t f) s = execFsub t f s from rfl)
  · simpa only [mulRnd_eq_roundOnce] using fpElems_of_fpElem h (show exec (.fmul t f) s = execFmul t f s from rfl)
  · simpa only [fmaRnd_eq_roundOnce] using fpElems_of_fpElem h (show exec (.ffma t f) s = execFfma t f s from rfl)

end Sys2Proof.Machine
end

section
/-! SUPPORT. The statement about FMIN, FMAX, FMINN, FMAXN and FCMP, settled (R142, R143). -/

namespace Sys2Proof.Machine

/-! ### The smaller and the larger of two values (R142) -/

theorem atMost_of_le {x y : Val} (hx : x.isNan = false) (hy : y.isNan = false) (h : x.le y = true) : atMost x y := by
  cases x with
  | nan g => cases hx
  | inf n => cases y with
    | nan g => cases hy
    | inf k => cases n <;> cases k <;> simp_all [Val.le, atMost]
    | fin k q => cases n <;> simp_all [Val.le, atMost]
  | fin n p => cases y with
    | nan g => cases hy
    | inf k => cases k <;> simp_all [Val.le, atMost]
    | fin k q => simpa [Val.le, atMost, or_assoc] using h

/-- Of two values that are no NaN one is at most the other. -/
theorem le_of_not_le {x y : Val} (hx : x.isNan = false) (hy : y.isNan = false) (h : ¬ x.le y = true) : y.le x = true := by
  cases x with
  | nan g => cases hx
  | inf n => cases y with
    | nan g => cases hy
    | inf k => cases n <;> cases k <;> simp_all [Val.le]
    | fin k q => cases n <;> simp_all [Val.le]
  | fin n p => cases y with
    | nan g => cases hy
    | inf k => cases k <;> simp_all [Val.le]
    | fin k q =>
      simp only [Val.le, Bool.or_eq_true, decide_eq_true_eq, Bool.and_eq_true, beq_iff_eq, bne_iff_ne, Bool.not_eq_true'] at h ⊢
      rcases lt_trichotomy p q with hlt | heq | hgt
      · exact absurd (.inl hlt) h
      · subst heq
        by_contra hc
        cases n <;> cases k <;> simp_all
      · exact .inl hgt

theorem atMost_refl {x : Val} (hx : x.isNan = false) : atMost x x := by
  refine atMost_of_le hx hx ?_
  by_contra h
  exact h (le_of_not_le hx hx h)

/-- R142: which code the four instructions take, and their flags. -/
theorem minMax_spec (t : Fmt) (big num : Bool) (a b : Nat) :
    let r := t.minMax big num a b
    r.2 = (if t.val a = .nan true ∨ t.val b = .nan true then fNV else 0) ∧
    (∀ g h, t.val a = .nan g → t.val b = .nan h → r.1 = t.nan) ∧
    (∀ g, t.val a = .nan g → (t.val b).isNan = false → r.1 = if num then b else t.nan) ∧
    (∀ g, t.val b = .nan g → (t.val a).isNan = false → r.1 = if num then a else t.nan) ∧
    ((t.val a).isNan = false → (t.val b).isNan = false →
      (r.1 = a ∨ r.1 = b) ∧ (big = false → atMost (t.val r.1) (t.val a) ∧ atMost (t.val r.1) (t.val b)) ∧
      (big = true → atMost (t.val a) (t.val r.1) ∧ atMost (t.val b) (t.val r.1))) := by
  intro r
  have hr2 : r.2 = sigNV [t.val a, t.val b] := by
    simp only [r, Fmt.minMax]
    split <;> rfl
  have hnan : ∀ g, (Val.nan g).isNan = true := fun _ => rfl
  refine ⟨?_, fun g h hg hh => ?_, fun g hg hb => ?_, fun g hg ha => ?_, fun ha hb => ?_⟩
  · rw [hr2, sigNV_eq]
    simp [eq_comm]
  · simp [r, Fmt.minMax, hg, hh, hnan]
  · simp [r, Fmt.minMax, hg, hb, hnan]
  · simp [r, Fmt.minMax, hg, ha, hnan]
  · cases big
    · by_cases hle : (t.val a).le (t.val b) = true
      · have hr1 : r.1 = a := by simp [r, Fmt.minMax, ha, hb, hle]
        rw [hr1]
        exact ⟨.inl rfl, fun _ => ⟨atMost_refl ha, atMost_of_le ha hb hle⟩, nofun⟩
      · have hr1 : r.1 = b := by simp [r, Fmt.minMax, ha, hb, hle]
        rw [hr1]
        exact ⟨.inr rfl, fun _ => ⟨atMost_of_le hb ha (le_of_not_le ha hb hle), atMost_refl hb⟩, nofun⟩
    · by_cases hle : (t.val b).le (t.val a) = true
      · have hr1 : r.1 = a := by simp [r, Fmt.minMax, ha, hb, hle]
        rw [hr1]
        exact ⟨.inl rfl, nofun, fun _ => ⟨atMost_refl ha, atMost_of_le hb ha hle⟩⟩
      · have hr1 : r.1 = b := by simp [r, Fmt.minMax, ha, hb, hle]
        rw [hr1]
        exact ⟨.inr rfl, nofun, fun _ => ⟨atMost_of_le ha hb (le_of_not_le hb ha hle), atMost_refl hb⟩⟩

theorem minimumAndMaximum : MinimumAndMaximum := by
  intro s c f i big num hi h t a b
  have he : exec i s = fpElem i f [.fpInvalid] (fun a b _ => t.minMax big num a b) s := by
    simp only [List.mem_cons, Prod.mk.injEq, List.not_mem_nil, or_false] at hi
    obtain ⟨rfl, rfl, rfl⟩ | ⟨rfl, rfl, rfl⟩ | ⟨rfl, rfl, rfl⟩ | ⟨rfl, rfl, rfl⟩ := hi <;> rfl
  exact ⟨_, fpElems_of_fpElem h he, fun l j _ => minMax_spec t big num (a l j) (b l j)⟩

/-! ### Compares (R143) -/

theorem cmp_eq_lt_iff {x y : Val} (hx : x.isNan = false) (hy : y.isNan = false) : x.cmp y = .lt ↔ holdsFor .lt x y := by
  cases x with
  | nan g => cases hx
  | inf n => cases y with
    | nan g => cases hy
    | inf k => cases n <;> cases k <;> simp [Val.cmp, holdsFor, Val.isNan]
    | fin k q => cases n <;> simp [Val.cmp, holdsFor, Val.isNan]
  | fin n p => cases y with
    | nan g => cases hy
    | inf k => cases k <;> simp [Val.cmp, holdsFor, Val.isNan]
    | fin k q =>
      simp only [Val.cmp, holdsFor, Val.isNan]
      split
      · next hlt => simp [hlt]
      · next hge => split <;> simp [hge]

theorem cmp_swap {x y : Val} (hx : x.isNan = false) (hy : y.isNan = false) : x.cmp y = .gt ↔ y.cmp x = .lt := by
  cases x with
  | nan g => cases hx
  | inf n => cases y with
    | nan g => cases hy
    | inf k => cases n <;> cases k <;> simp [Val.cmp]
    | fin k q => cases n <;> simp [Val.cmp]
  | fin n p => cases y with
    | nan g => cases hy
    | inf k => cases k <;> simp [Val.cmp]
    | fin k q =>
      simp only [Val.cmp]
      rcases lt_trichotomy p q with hlt | heq | hgt
      · simp [hlt, hlt.not_gt, hlt.ne']
      · simp [heq]
      · simp [hgt, hgt.not_gt, hgt.ne']

theorem cmp_eq_gt_iff {x y : Val} (hx : x.isNan = false) (hy : y.isNan = false) : x.cmp y = .gt ↔ holdsFor .lt y x := by
  rw [cmp_swap hx hy, cmp_eq_lt_iff hy hx]

/-- The predicates of values that are no NaN, by which is less. -/
theorem holdsFor_iff_less {cc : FCmp} {x y : Val} (hx : x.isNan = false) (hy : y.isNan = false) : holdsFor cc x y ↔
    match cc with
    | .eq => ¬ holdsFor .lt x y ∧ ¬ holdsFor .lt y x
    | .ne => holdsFor .lt x y ∨ holdsFor .lt y x
    | .lt => holdsFor .lt x y
    | .le => ¬ holdsFor .lt y x
    | .gt => holdsFor .lt y x
    | .ge => ¬ holdsFor .lt x y
    | .un => False
    | .ord => True := by
  cases cc <;> simp [holdsFor, hx, hy]

/-- The predicates beside a NaN. -/
theorem holdsFor_of_nan {cc : FCmp} {x y : Val} (h : x.isNan = true ∨ y.isNan = true) : holdsFor cc x y ↔ cc = .ne ∨ cc = .un := by
  cases cc <;> simp [holdsFor, h]

theorem fcmpVal_fst (cc : FCmp) (x y : Val) : (fcmpVal cc x y).1 = true ↔ holdsFor cc x y := by
  by_cases hu : x.isNan = true ∨ y.isNan = true
  · rw [holdsFor_of_nan hu]
    have hor : (x.isNan || y.isNan) = true := by simpa using hu
    cases cc <;> simp [fcmpVal, hor]
  · obtain ⟨hx, hy⟩ : x.isNan = false ∧ y.isNan = false := by simpa using hu
    rw [holdsFor_iff_less hx hy]
    simp only [← cmp_eq_lt_iff hx hy, ← cmp_eq_gt_iff hx hy]
    cases cc <;> simp only [fcmpVal, hx, hy] <;> cases x.cmp y <;> decide

/-- When a compare of two values sets NV. -/
def compareInvalid (cc : FCmp) (x y : Val) : Prop :=
  x = .nan true ∨ y = .nan true ∨ (x.isNan = true ∨ y.isNan = true) ∧ (cc = .lt ∨ cc = .le ∨ cc = .gt ∨ cc = .ge)

theorem fcmpVal_snd (cc : FCmp) (x y : Val) :
    (compareInvalid cc x y → (fcmpVal cc x y).2 = fNV) ∧ (¬ compareInvalid cc x y → (fcmpVal cc x y).2 = 0) := by
  have hsig : sigNV [x, y] ≠ 0 ↔ x = .nan true ∨ y = .nan true := by
    have hnv : fNV ≠ 0 := by decide
    rw [sigNV_eq, ite_ne_right_iff, and_iff_left hnv]
    simp [eq_comm]
  have hcond : (sigNV [x, y] ≠ 0 ∨ (x.isNan || y.isNan) = true ∧ ¬ (cc = .eq ∨ cc = .ne ∨ cc = .un ∨ cc = .ord)) ↔
      compareInvalid cc x y := by
    rw [hsig, compareInvalid, or_assoc, Bool.or_eq_true]
    cases cc <;> simp
  exact ⟨fun h => if_pos (hcond.mpr h), fun h => if_neg (hcond.not.mpr h)⟩

/-- One flag ORed over a list. -/
theorem foldl_or_spec {α : Type} {v : α → Flags} {p : α → Prop} {x : Flags} {es : List α}
    (h : ∀ e ∈ es, (p e → v e = x) ∧ (¬ p e → v e = 0)) :
    ((∃ e ∈ es, p e) → es.foldl (fun a e => a ||| v e) 0 = x) ∧ ((¬ ∃ e ∈ es, p e) → es.foldl (fun a e => a ||| v e) 0 = 0) := by
  suffices hgen : ∀ a, a = 0 ∨ a = x → ((∃ e ∈ es, p e) → es.foldl (fun a e => a ||| v e) a = x) ∧
      ((¬ ∃ e ∈ es, p e) → es.foldl (fun a e => a ||| v e) a = a) from hgen 0 (.inl rfl)
  induction es with
  | nil => simp
  | cons e es ih =>
    intro a ha
    obtain ⟨hyes, hno⟩ := h e List.mem_cons_self
    have ih := ih fun e he => h e (List.mem_cons_of_mem _ he)
    rw [List.foldl_cons]
    by_cases hp : p e
    · have hx : a ||| v e = x := by
        rw [hyes hp]
        rcases ha with rfl | rfl <;> simp
      rw [hx]
      refine ⟨fun _ => ?_, fun hc => absurd ⟨e, List.mem_cons_self, hp⟩ hc⟩
      by_cases hs : ∃ e ∈ es, p e
      · exact (ih x (.inr rfl)).1 hs
      · exact (ih x (.inr rfl)).2 hs
    · have hz : a ||| v e = a := by rw [hno hp]; simp
      rw [hz]
      simpa [hp] using ih a ha

/-- The words that FCMP writes, and its flags: one predicate for each element. -/
theorem fcmp_outcome {s : State} {c : Ctx} {cc : FCmp} {f : X64} (h : Issues (.fcmp cc f) s c) :
    let a := fun l j => (X64.ftype f).fmt.val (el (X64.w f) (c.srcA .flt (X64.w f) f l) j)
    let b := fun l j => (X64.ftype f).fmt.val (el (X64.w f) (c.srcB .flt (X64.w f) f l) j)
    let res := fun l => (List.range (32 / X64.w f)).map fun j => fcmpVal cc (a l j) (b l j)
    let p := fun l => predBits f.imm8.toNat ((res l).map (·.1))
    FpOutcome c s (.fcmp cc f) [.fpInvalid] f.d 0xFFFFFFFF 3 (fun l => c.rd f.d.toNat l &&& ~~~(p l).2 ||| (p l).1)
      fun l => (res l).foldl (fun a r => a ||| r.2) 0 := by
  simp only [← zipWith_elems (X64.w f) fun x y => fcmpVal cc ((X64.ftype f).fmt.val x) ((X64.ftype f).fmt.val y)]
  exact fpOutcome_of_body h (show exec (.fcmp cc f) s = execFcmp cc f s from rfl) rfl

theorem floatCompareWritesBits : FloatCompareWritesBits := by
  intro s c cc f h w t a b
  have hn : 32 / X64.w f = 32 / w := rfl
  refine ⟨_, _, fcmp_outcome h, fun l => ⟨fun k hk => ?_, ?_⟩⟩
  · rw [getLsbD_predBits _ hk, List.length_map, List.length_map, List.length_range]
    refine ⟨fun hin => ?_, fun hout => if_neg (by omega)⟩
    rw [if_pos hin, List.map_map, List.getD_eq_getElem _ _ (by rw [List.length_map, List.length_range]; omega), List.getElem_map,
      List.getElem_range]
    exact fcmpVal_fst ..
  · have hflags := foldl_or_spec (es := (List.range (32 / w)).map fun j => (a l j, b l j)) (v := fun e => (fcmpVal cc e.1 e.2).2)
      fun e _ => fcmpVal_snd cc e.1 e.2
    rw [List.foldl_map] at hflags
    rw [List.foldl_map]
    simpa only [List.mem_map, List.mem_range, exists_exists_and_eq_and, compareInvalid] using hflags

/-- Settles O18: one order of values decides which operand is taken and which predicates hold; NaNs are settled before it. -/
theorem floatMinMaxAndCompares : Obligations.FloatMinMaxAndCompares := ⟨minimumAndMaximum, floatCompareWritesBits⟩

end Sys2Proof.Machine
end

section
/-! SUPPORT. The statement about classes, signs and floating-point traps, settled (R138, R144, R145). -/

namespace Sys2Proof.Machine

/-! ### Classes (R144) -/

/-- FLG and ESZ of an instruction that issues agree on the width of its elements (R139, R140). -/
theorem ftype_bits {f : X64} (h : (ftypeOf f.flg).map FType.esz == some f.esz) : (X64.ftype f).fmt.bits = X64.w f := by
  have hall : ∀ (flg : BitVec 4) (esz : BitVec 2), (ftypeOf flg).map FType.esz = some esz →
      (if flg.toNat % 4 = 0 then FType.f32 else if flg.toNat % 4 = 1 then .f16 else .bf16).fmt.bits = elemBits esz := by decide
  exact hall f.flg f.esz (eq_of_beq h)

theorem number_eq_zero (f : Fmt) (neg : Bool) {c : Nat} : f.number neg c = 0 ↔ c = 0 := by
  rw [← abs_eq_zero, f.abs_number, f.magVal_eq_zero]

/-- The class of a value is that of the fields of its code. -/
theorem fclassBit_eq_classOf {f : Fmt} (hf : f.Ieee) {code : Nat} (hc : code < 2 ^ f.bits) : fclassBit f code = classOf f code := by
  unfold fclassBit classOf
  rw [hf.val_eq, Nat.mod_eq_of_lt hc]
  dsimp only
  generalize code % 2 ^ (f.bits - 1) = mag
  rcases lt_trichotomy mag (f.maxCode + 1) with hfin | hinf | hnan
  · rw [if_pos (Nat.lt_succ_iff.mp hfin), if_neg hfin.not_gt, if_neg hfin.ne]
    simp only [number_eq_zero, decide_eq_true_eq]
  · rw [if_neg (by omega), if_pos hinf, if_neg hinf.not_gt, if_pos hinf]
    simp only [decide_eq_true_eq]
  · rw [if_neg (by omega), if_neg hnan.ne', if_pos hnan]
    cases mag.testBit (f.p - 2) <;> rfl

theorem classOf_le (f : Fmt) (code : Nat) : classOf f code ≤ 9 := by
  unfold classOf
  dsimp only
  repeat' split
  all_goals norm_num

/-! ### The sign bit (R145) -/

/-- An element is its sign bit over the bits below. -/
theorem testBit_sign {w top low k : Nat} (hlow : low < 2 ^ (w - 1)) (htop : top < 2) (hk : k < w) :
    (2 ^ (w - 1) * top + low).testBit k = if k = w - 1 then decide (top = 1) else low.testBit k := by
  rw [Nat.testBit_two_pow_mul_add _ hlow]
  by_cases htk : k = w - 1
  · rw [if_neg (by omega), if_pos htk, htk, Nat.sub_self, Nat.testBit_zero]
    interval_cases top <;> rfl
  · rw [if_pos (by omega), if_neg htk]

theorem sign_split {w : Nat} (hw : 0 < w) {e : Nat} (he : e < 2 ^ w) :
    e % 2 ^ (w - 1) < 2 ^ (w - 1) ∧ e / 2 ^ (w - 1) < 2 ∧ 2 ^ (w - 1) * (e / 2 ^ (w - 1)) + e % 2 ^ (w - 1) = e := by
  have hh : 0 < 2 ^ (w - 1) := by positivity
  refine ⟨Nat.mod_lt _ hh, Nat.div_lt_of_lt_mul ?_, Nat.div_add_mod ..⟩
  rwa [← pow_succ, Nat.sub_add_cancel hw]

/-- The bits of an element, by its sign bit and those below. -/
theorem testBit_eq_sign {w e k : Nat} (he : e < 2 ^ w) (hk : k < w) :
    e.testBit k = if k = w - 1 then decide (e / 2 ^ (w - 1) = 1) else (e % 2 ^ (w - 1)).testBit k := by
  obtain ⟨hlow, htop, hsum⟩ := sign_split (Nat.zero_lt_of_lt hk) he
  conv_lhs => rw [← hsum]
  exact testBit_sign hlow htop hk

theorem testBit_absElem {w e k : Nat} (he : e < 2 ^ w) (hk : k < w) :
    (absElem .flt w e).testBit k = (e.testBit k && decide (k ≠ w - 1)) := by
  rw [testBit_eq_sign he hk]
  change (e % 2 ^ (w - 1)).testBit k = _
  by_cases htk : k = w - 1
  · rw [if_pos htk, htk, Nat.testBit_mod_two_pow]
    simp
  · rw [if_neg htk]
    simp [htk]

theorem testBit_negElem {w e k : Nat} (he : e < 2 ^ w) (hk : k < w) :
    (negElem .flt w e).testBit k = (e.testBit k ^^ decide (k = w - 1)) := by
  obtain ⟨hlow, htop, hsum⟩ := sign_split (Nat.zero_lt_of_lt hk) he
  have hneg : negElem .flt w e = 2 ^ (w - 1) * (1 - e / 2 ^ (w - 1)) + e % 2 ^ (w - 1) := by
    have hif : negElem .flt w e = if e < 2 ^ (w - 1) then e + 2 ^ (w - 1) else e - 2 ^ (w - 1) := rfl
    rw [hif]
    generalize e / 2 ^ (w - 1) = top at *
    generalize e % 2 ^ (w - 1) = low at *
    interval_cases top <;> split <;> omega
  rw [hneg, testBit_sign hlow ((Nat.sub_le ..).trans_lt one_lt_two) hk, testBit_eq_sign he hk]
  by_cases htk : k = w - 1
  · simp only [htk, if_true, decide_true, Bool.xor_true]
    generalize e / 2 ^ (w - 1) = top at *
    interval_cases top <;> rfl
  · simp [htk]

theorem testBit_copySign {w a b k : Nat} (ha : a < 2 ^ w) (hb : b < 2 ^ w) (hk : k < w) :
    (a % 2 ^ (w - 1) + b / 2 ^ (w - 1) * 2 ^ (w - 1)).testBit k = if k = w - 1 then b.testBit k else a.testBit k := by
  obtain ⟨hlow, -, -⟩ := sign_split (Nat.zero_lt_of_lt hk) ha
  obtain ⟨-, htop, -⟩ := sign_split (Nat.zero_lt_of_lt hk) hb
  rw [Nat.add_comm, Nat.mul_comm, testBit_sign hlow htop hk, testBit_eq_sign ha hk, testBit_eq_sign hb hk]
  split <;> rfl

/-- Bit `k` of an element that holds `x` reduced. -/
theorem testBit_reduced {w e x k : Nat} (h : e = x % 2 ^ w) (hk : k < w) : e.testBit k = x.testBit k := by
  rw [h, Nat.testBit_mod_two_pow, decide_eq_true hk, Bool.true_and]

theorem classAndSignBits : ClassAndSignBits := by
  intro s c f w a b
  have hlt : ∀ l j, a l j < 2 ^ w := fun l j => el_lt ..
  have hltB : ∀ l j, b l j < 2 ^ w := fun l j => el_lt ..
  refine ⟨fun h => ?_, fun h => ?_, fun h => ?_, fun h => ?_⟩
  · obtain ⟨W, he, hW⟩ := afterElems_of_fpElem h (show exec (.fclass f) s = execFclass f s from rfl)
    have hbits : (X64.ftype f).fmt.bits = w := ftype_bits h.eszOk
    refine ⟨W, he, fun l j hj => ?_⟩
    have hw : 9 < w := by
      rw [← hbits]
      cases X64.ftype f <;> decide
    rw [hW l j hj, fclassBit_eq_classOf (fmt_ieee _) (by rw [hbits]; exact hlt l j), Nat.mod_eq_of_lt]
    exact Nat.pow_lt_pow_right one_lt_two ((classOf_le ..).trans_lt hw)
  · obtain ⟨W, he, hW⟩ := afterElems_of_fpElem h (show exec (.fabs f) s = execFabs f s from rfl)
    exact ⟨W, he, fun l j k hj hk => (testBit_reduced (hW l j hj) hk).trans (testBit_absElem (hlt l j) hk)⟩
  · obtain ⟨W, he, hW⟩ := afterElems_of_fpElem h (show exec (.fneg f) s = execFneg f s from rfl)
    exact ⟨W, he, fun l j k hj hk => (testBit_reduced (hW l j hj) hk).trans (testBit_negElem (hlt l j) hk)⟩
  · obtain ⟨W, he, hW⟩ := afterElems_of_fpElem h (show exec (.fcopysign f) s = execFcopysign f s from rfl)
    exact ⟨W, he, fun l j k hj hk => (testBit_reduced (hW l j hj) hk).trans (testBit_copySign (hlt l j) (hltB l j) hk)⟩

/-! ### The trap that is taken (R138) -/

/-- The lanes of act in which a cause's flag would be set. -/
def trapLanes (act : Lanes) (fl : Nat → Flags) (e : Cause) : Lanes := act &&& lanesOf fun l => fl l &&& (fpEnable e).2 != 0

theorem getLsbD_trapLanes (act : Lanes) (fl : Nat → Flags) (e : Cause) {l : Nat} (hl : l < 96) :
    (trapLanes act fl e).getLsbD l = true ↔ act.getLsbD l = true ∧ fl l &&& (fpEnable e).2 ≠ 0 := by
  simp [trapLanes, hl]

theorem trapLanes_ne_zero (act : Lanes) (fl : Nat → Flags) (e : Cause) :
    trapLanes act fl e ≠ 0 ↔ ∃ l, l < 96 ∧ act.getLsbD l = true ∧ fl l &&& (fpEnable e).2 ≠ 0 := by
  constructor
  · intro hne
    by_contra hno
    refine hne (lanes_ext fun l hl => ?_)
    rw [getLsbD_trapLanes _ _ _ hl]
    simpa using fun ha hf => hno ⟨l, hl, ha, hf⟩
  · rintro ⟨l, hl, h⟩ hz
    have := (getLsbD_trapLanes act fl e hl).mpr h
    rw [hz] at this
    simp at this

theorem fpTrapIsTheFirstEnabledCause : FpTrapIsTheFirstEnabledCause := by
  intro ctl order act fl hit
  have hcause : ∀ e, (ctl.getLsbD (fpEnable e).1 && trapLanes act fl e != 0) = true ↔ hit e := fun e => by
    rw [Bool.and_eq_true, bne_iff_ne, trapLanes_ne_zero]
  have hdef : fpTrap ctl order act fl = order.findSome? fun e =>
      if ctl.getLsbD (fpEnable e).1 && trapLanes act fl e != 0 then some { cause := e, mask := some (trapLanes act fl e) } else none := rfl
  rw [hdef]
  refine ⟨fun t ht => ?_, fun hn e he hhit => ?_⟩
  · obtain ⟨pre, e, post, hsplit, hsome, hpre⟩ := List.findSome?_eq_some_iff.mp ht
    obtain ⟨hyes, hte⟩ := Option.ite_none_right_eq_some.mp hsome
    cases hte
    refine ⟨pre, post, hsplit, (hcause e).mp hyes, fun e' he' hhit => ?_, rfl, _, rfl, fun l hl => getLsbD_trapLanes act fl e hl⟩
    have := hpre e' he'
    rw [if_pos ((hcause e').mpr hhit)] at this
    cases this
  · have := List.findSome?_eq_none_iff.mp hn e he
    rw [if_pos ((hcause e).mpr hhit)] at this
    cases this

/-- Settles O22: a class is read off the fields of a code, a sign is one bit, and a trap is the first that the order finds. -/
theorem classesSignsAndFpTraps : Obligations.ClassesSignsAndFpTraps := ⟨classAndSignBits, fpTrapIsTheFirstEnabledCause⟩

end Sys2Proof.Machine
end

section
/-! SUPPORT. Rounding to integers, the integers that a format holds, and counts beyond the range of a format (R146, R147, R151). -/

namespace Sys2Proof.Machine

/-! ### Rounding to an integer -/

/-- A number's magnitude lies a fraction `r` above the integer `n`, and is rounded as a code is. -/
theorem roundInt_eq (q : ℚ) (m : RMode) : ∃ (n : Nat) (r : ℚ), |q| = n + r ∧ 0 ≤ r ∧ r < 1 ∧
    roundInt q m = (if q < 0 then -(roundedCode m (decide (q < 0)) n r : Int) else roundedCode m (decide (q < 0)) n r, r != 0) := by
  have hfl : (⌊|q|⌋.toNat : ℚ) = (⌊|q|⌋ : ℚ) := by exact_mod_cast Int.toNat_of_nonneg (Int.floor_nonneg.mpr (abs_nonneg q))
  refine ⟨⌊|q|⌋.toNat, |q| - ⌊|q|⌋.toNat, by ring, ?_, ?_, ?_⟩
  · rw [hfl]
    exact sub_nonneg.mpr (Int.floor_le _)
  · rw [hfl, sub_lt_iff_lt_add']
    exact Int.lt_floor_add_one _
  · have hdef : roundInt q m = (if q < 0 then -(roundedCode m (decide (q < 0)) ⌊|q|⌋.toNat (|q| - mkRat ⌊|q|⌋.toNat 1) : Int)
        else roundedCode m (decide (q < 0)) ⌊|q|⌋.toNat (|q| - mkRat ⌊|q|⌋.toNat 1), (|q| - mkRat ⌊|q|⌋.toNat 1) != 0) := rfl
    rw [hdef, Rat.mkRat_one]
    rfl

/-- R146, R151: the integral value in a mode. -/
structure IntegralIn (m : RMode) (q : ℚ) (k : Int) : Prop where
  near : |q - k| < 1
  rne : m = .rne → |q - k| ≤ 1 / 2 ∧ (|q - k| = 1 / 2 → k % 2 = 0)
  rtz : m = .rtz → |(k : ℚ)| ≤ |q|
  rdn : m = .rdn → (k : ℚ) ≤ q
  rup : m = .rup → q ≤ k

theorem roundInt_integralIn (q : ℚ) (m : RMode) : IntegralIn m q (roundInt q m).1 := by
  obtain ⟨n, r, hq, hr0, hr1, he⟩ := roundInt_eq q m
  have hcases := roundedCode_cases m (decide (q < 0)) n r
  have hrne := roundedCode_rne (decide (q < 0)) n r
  have hk : (roundInt q m).1 = if q < 0 then -(roundedCode m (decide (q < 0)) n r : Int) else roundedCode m (decide (q < 0)) n r := by rw [he]
  have hdist : |q - (roundInt q m).1| = |(n : ℚ) + r - roundedCode m (decide (q < 0)) n r| := by
    rw [hk, ← hq]
    split
    · next hneg =>
      rw [abs_of_neg hneg, ← abs_neg]
      push_cast
      ring_nf
    · next hpos => rw [abs_of_nonneg (not_lt.mp hpos), Int.cast_natCast]
  have hpar : (roundInt q m).1 % 2 = 0 ↔ roundedCode m (decide (q < 0)) n r % 2 = 0 := by
    rw [hk]
    split <;> omega
  refine ⟨?_, ?_, ?_, ?_, ?_⟩
  · rw [hdist]
    rcases hcases with hc | ⟨hc, hr⟩ <;> rw [hc, abs_lt]
    · constructor <;> linarith
    · have : 0 < r := lt_of_le_of_ne hr0 (Ne.symm hr)
      push_cast
      constructor <;> linarith
  · rintro rfl
    rw [hdist, hpar]
    obtain ⟨hc, hr⟩ | ⟨hc, hr⟩ := hrne
    · have habs : |(n : ℚ) + r - roundedCode .rne (decide (q < 0)) n r| = r := by
        rw [hc, add_sub_cancel_left, abs_of_nonneg hr0]
      rw [habs, hc]
      exact ⟨hr.elim le_of_lt fun e => e.1.le, fun e => (hr.resolve_left (by linarith)).2⟩
    · have habs : |(n : ℚ) + r - roundedCode .rne (decide (q < 0)) n r| = 1 - r := by
        rw [hc, ← abs_neg, Nat.cast_succ]
        ring_nf
        exact abs_of_nonneg (by linarith)
      rw [habs, hc]
      refine ⟨hr.elim (fun h => by linarith) fun e => by linarith [e.1], fun e => ?_⟩
      have := (hr.resolve_left (by linarith)).2
      omega
  · rintro rfl
    have hc : roundedCode .rtz (decide (q < 0)) n r = n := if_neg (by simp [roundsUp])
    rw [hk, hc, hq]
    split <;> simp [hr0]
  · rintro rfl
    rw [hk]
    split
    · next hneg =>
      have hneg' := hq
      rw [abs_of_neg hneg] at hneg'
      rcases hcases with hc | ⟨hc, hr⟩
      · have hr : r = 0 := by
          by_contra hr
          have : roundedCode .rdn (decide (q < 0)) n r = n + 1 := if_pos (by simp [roundsUp, hr, hneg])
          omega
        rw [hc]
        push_cast
        linarith
      · rw [hc]
        push_cast
        linarith
    · next hpos =>
      have hc : roundedCode .rdn (decide (q < 0)) n r = n := if_neg (by simp [roundsUp, not_lt.mp hpos])
      rw [abs_of_nonneg (not_lt.mp hpos)] at hq
      rw [hc, hq]
      push_cast
      linarith
  · rintro rfl
    rw [hk]
    split
    · next hneg =>
      have hc : roundedCode .rup (decide (q < 0)) n r = n := if_neg (by simp [roundsUp, hneg])
      rw [abs_of_neg hneg] at hq
      rw [hc]
      push_cast
      linarith
    · next hpos =>
      rw [abs_of_nonneg (not_lt.mp hpos)] at hq
      rcases hcases with hc | ⟨hc, hr⟩
      · have hr : r = 0 := by
          by_contra hr
          have : roundedCode .rup (decide (q < 0)) n r = n + 1 := if_pos (by simp [roundsUp, hr, not_lt.mp hpos])
          omega
        rw [hc]
        push_cast
        linarith
      · rw [hc]
        push_cast
        linarith

/-- Whether the integral value differs from the number. -/
theorem roundInt_inexact (q : ℚ) (m : RMode) : (roundInt q m).2 = true ↔ q ≠ (roundInt q m).1 := by
  obtain ⟨n, r, hq, hr0, hr1, he⟩ := roundInt_eq q m
  rw [he, bne_iff_ne, ne_eq, not_iff_not]
  have habs : q = ((if q < 0 then -(roundedCode m (decide (q < 0)) n r : Int) else roundedCode m (decide (q < 0)) n r : Int) : ℚ) ↔
      |q| = roundedCode m (decide (q < 0)) n r := by
    split
    · next hneg =>
      rw [abs_of_neg hneg, neg_eq_iff_eq_neg]
      push_cast
      rfl
    · next hpos => rw [abs_of_nonneg (not_lt.mp hpos), Int.cast_natCast]
  rw [habs, hq]
  rcases roundedCode_cases m (decide (q < 0)) n r with hc | ⟨hc, hr⟩ <;> rw [hc]
  · simp
  · push_cast
    exact ⟨fun h => absurd h hr, fun h => by linarith⟩

/-! ### The integers of a format -/

/-- The number of a magnitude code is an integer, or below 2^(P − 1). -/
theorem Fmt.magVal_integer_or_small (f : Fmt) (c : Nat) :
    (∃ j : Nat, f.magVal c = j) ∨ f.magVal c < (2 ^ (f.p - 1) : Nat) := by
  obtain ⟨k, n, rfl, hn, hk⟩ := f.exists_binade c
  rw [f.magVal_binade hn.le hk]
  rcases le_or_gt 0 (f.emin + k - (f.p - 1)) with h0 | h0
  · lift f.emin + k - (f.p - 1) to Nat using h0 with e
    exact .inl ⟨n * 2 ^ e, by push_cast; rfl⟩
  · refine .inr ?_
    have hhalf : (2 : ℚ) ^ (f.emin + k - (f.p - 1)) ≤ 2 ^ (-1 : Int) := zpow_le_zpow_right₀ one_le_two (by omega)
    have hn' : (n : ℚ) < 2 * (2 ^ (f.p - 1) : Nat) := by exact_mod_cast hn
    have hn0 : (0 : ℚ) ≤ n := n.cast_nonneg
    rw [zpow_neg_one] at hhalf
    nlinarith

section
variable {f : Fmt} (hf : f.Ieee)
include hf

/-- The integers up to 2^(P − 1) are numbers of the format. -/
theorem Fmt.Ieee.exists_code_of_small {j : Nat} (hj : j ≤ 2 ^ (f.p - 1)) : ∃ d ≤ f.maxCode, f.magVal d = j := by
  have hp := hf.one_le_p
  have hemin := hf.emin_nonpos
  have hpcast : ((f.p - 1 : Nat) : Int) = (f.p : Int) - 1 := by omega
  have hmax : f.magVal ((f.p - 1 - f.emin).toNat * 2 ^ (f.p - 1) + 2 ^ (f.p - 1)) = (2 ^ (f.p - 1) : Nat) := by
    rw [f.magVal_binade (by omega) (.inr le_rfl), show f.emin + ((f.p - 1 - f.emin).toNat : Int) - (f.p - 1) = 0 by omega, zpow_zero, mul_one]
  suffices hex : ∃ d, f.magVal d = j by
    obtain ⟨d, hd⟩ := hex
    refine ⟨d, (f.magVal_strictMono.le_iff_le.mp ?_).trans hf.ints, hd⟩
    rw [hmax, hd]
    exact_mod_cast hj
  rcases Nat.eq_zero_or_pos j with rfl | hpos
  · exact ⟨0, by simp⟩
  · have hlog1 := Nat.log2_self_le hpos.ne'
    have hlog2 := Nat.lt_log2_self (n := j)
    have hlog : Nat.log2 j ≤ f.p - 1 := (Nat.pow_le_pow_iff_right one_lt_two).mp (hlog1.trans hj)
    have hsplit : 2 ^ (f.p - 1) = 2 ^ Nat.log2 j * 2 ^ (f.p - 1 - Nat.log2 j) := by rw [← pow_add, Nat.add_sub_cancel' hlog]
    refine ⟨(Nat.log2 j - f.emin).toNat * 2 ^ (f.p - 1) + j * 2 ^ (f.p - 1 - Nat.log2 j), ?_⟩
    rw [f.magVal_binade ?_ (.inr ?_), show f.emin + ((Nat.log2 j - f.emin).toNat : Int) - (f.p - 1) = -((f.p - 1 - Nat.log2 j : Nat) : Int) by omega]
    · push_cast
      rw [mul_assoc, ← zpow_natCast, ← zpow_add₀ two_ne_zero, add_neg_cancel, zpow_zero, mul_one]
    · rw [hsplit, ← mul_assoc, ← pow_succ']
      exact Nat.mul_le_mul_right _ hlog2.le
    · rw [hsplit]
      exact Nat.mul_le_mul_right _ hlog1

/-- The integral value of a number of the format is a number of the format. -/
theorem Fmt.Ieee.exists_code_roundInt {c : Nat} (hc : c ≤ f.maxCode) (neg : Bool) (m : RMode) :
    ∃ d ≤ f.maxCode, ((roundInt (f.number neg c) m).1 : ℚ) = f.number neg d := by
  obtain ⟨n, r, hq, hr0, hr1, he⟩ := roundInt_eq (f.number neg c) m
  rw [f.abs_number] at hq
  set k := roundedCode m (decide (f.number neg c < 0)) n r
  have hk : ∃ d ≤ f.maxCode, f.magVal d = k := by
    rcases f.magVal_integer_or_small c with ⟨j, hj⟩ | hsmall
    · have hjn : j = n := by
        have h1 : n ≤ j := by
          have : (n : ℚ) < j + 1 := by linarith
          exact Nat.lt_succ_iff.mp (by exact_mod_cast this)
        have h2 : j ≤ n := by
          have : (j : ℚ) < n + 1 := by linarith
          exact Nat.lt_succ_iff.mp (by exact_mod_cast this)
        omega
      have hr : r = 0 := by
        rw [hj, hjn] at hq
        linarith
      exact ⟨c, hc, by rw [hj, hjn, show k = n from by simp only [k, hr, roundedCode_zero]]⟩
    · refine hf.exists_code_of_small ?_
      have hn : n < 2 ^ (f.p - 1) := by
        have : (n : ℚ) < (2 ^ (f.p - 1) : Nat) := by linarith
        exact_mod_cast this
      rcases roundedCode_cases m (decide (f.number neg c < 0)) n r with h | ⟨h, -⟩ <;> omega
  obtain ⟨d, hd, hdk⟩ := hk
  refine ⟨d, hd, ?_⟩
  rw [he]
  dsimp only
  cases neg with
  | false =>
    rw [if_neg (not_lt.mpr (f.number_false c ▸ f.magVal_nonneg c)), f.number_false, hdk, Int.cast_natCast]
  | true =>
    by_cases hneg : f.number true c < 0
    · rw [if_pos hneg, f.number_true, hdk, Int.cast_neg, Int.cast_natCast]
    · have hc0 : f.magVal c = 0 := le_antisymm (by rw [f.number_true] at hneg; linarith) (f.magVal_nonneg c)
      obtain ⟨hn, hr⟩ : (n : ℚ) = 0 ∧ r = 0 := by
        have : (0 : ℚ) ≤ n := n.cast_nonneg
        constructor <;> linarith
      have hk0 : k = 0 := by
        simp only [k, hr, roundedCode_zero]
        exact_mod_cast hn
      rw [if_neg hneg, f.number_true, hdk, hk0]
      norm_num

/-- Rounding a number of the format gives its code, and is exact. -/
theorem Fmt.Ieee.rnd_number {d : Nat} (hd : d ≤ f.maxCode) (neg : Bool) (m : RMode) (sat : Bool) :
    f.rnd (.fin neg (f.number neg d)) m sat = (f.code neg d, 0) := by
  by_cases h0 : d = 0
  · subst h0
    simp [Fmt.rnd, Fmt.zero, hf.kind, (number_eq_zero f neg).mpr rfl]
  · have hq : f.number neg d ≠ 0 := (number_eq_zero f neg).not.mpr h0
    obtain ⟨c, r, habove, hr⟩ := hf.rnd_fin (n := neg) hq m sat
    rw [f.abs_number] at habove
    obtain ⟨rfl, rfl⟩ := habove.unique
    have hpos : 0 < f.magVal c := lt_of_le_of_ne (f.magVal_nonneg c) (Ne.symm (f.magVal_eq_zero.not.mpr h0))
    have hneg : decide (f.number neg c < 0) = neg := by
      cases neg
      · exact decide_eq_false (not_lt.mpr hpos.le)
      · exact decide_eq_true (neg_lt_zero.mpr hpos)
    rw [hr, hf.roundCode_eq, hneg]
    simp only [roundedCode_zero, if_neg (not_lt.mpr hd), if_true, ne_eq, not_true_eq_false, false_and, if_false]
    rfl

/-- FRND gives an integral value of its operand's sign, and may set NX (R146). -/
theorem Fmt.Ieee.frndCode_spec {code : Nat} {n : Bool} {q : ℚ} (hv : f.val code = .fin n q) (m : RMode) (exact : Bool) :
    f.val (frndCode f m exact code).1 = .fin n (roundInt q m).1 ∧
      (frndCode f m exact code).2 = if exact = true ∧ q ≠ (roundInt q m).1 then fNX else 0 := by
  obtain ⟨c, hc, rfl⟩ := hf.eq_number hv
  obtain ⟨d, hd, hk⟩ := hf.exists_code_roundInt hc n m
  have hcode : (frndCode f m exact code).1 = f.code n d := by
    simp only [frndCode, hv, Rat.mkRat_one, hk, hf.rnd_number hd]
  constructor
  · rw [hcode, hf.val_code_fin hd, hk]
  · simp only [frndCode, hv, Bool.and_eq_true, roundInt_inexact]

/-! ### Counts beyond the range of a format (R147) -/

/-- The first code above the numbers is below 2^999 times the smallest number. -/
theorem Fmt.Ieee.magVal_range : f.magVal (f.maxCode + 1) ≤ 2 ^ (999 : Int) * f.magVal 1 := by
  obtain ⟨k, hk, hle⟩ := hf.binades
  have hp := hf.one_le_p
  have hone : f.magVal 1 = 2 ^ (f.emin - (f.p - 1)) := by
    have := f.magVal_binade (k := 0) (n := 1) (by have := Nat.one_le_two_pow (n := f.p - 1); omega) (.inl rfl)
    simpa using this
  rw [hk, f.magVal_binade (by omega) (.inr le_rfl), hone, Nat.cast_pow, ← zpow_natCast, Nat.cast_ofNat, ← zpow_add₀ two_ne_zero,
    ← zpow_add₀ two_ne_zero]
  exact zpow_le_zpow_right₀ one_le_two (by omega)

theorem Fmt.Ieee.roundCode_overflow {c : Nat} (hc : f.maxCode < c) (neg : Bool) (r : ℚ) (m : RMode) (sat : Bool) :
    f.roundCode neg c r m sat = f.overflow neg m sat := by
  rw [hf.roundCode_eq]
  have : f.maxCode < roundedCode m neg c r := by
    rcases roundedCode_cases m neg c r with h | ⟨h, -⟩ <;> omega
  exact if_pos this

/-- Of a number below half the smallest one only the sign matters. -/
theorem Fmt.Ieee.roundCode_tiny {r : ℚ} (h0 : 0 < r) (h1 : r < 1 / 2) (neg : Bool) (m : RMode) (sat : Bool) :
    f.roundCode neg 0 r m sat = f.roundCode neg 0 (1 / 4) m sat := by
  have hhalf : (mkRat 1 2 : ℚ) = 1 / 2 := by norm_num [Rat.mkRat_eq_div]
  have hround : roundedCode m neg 0 r = roundedCode m neg 0 (1 / 4) := by
    unfold roundedCode roundsUp
    rw [if_neg h0.ne', if_neg (by norm_num : ¬ (1 / 4 : ℚ) = 0), hhalf]
    cases m <;> norm_num [h1.not_gt, h1.ne]
  rw [hf.roundCode_eq, hf.roundCode_eq, hround]
  simp only [h0.ne', (by norm_num : ¬ (1 / 4 : ℚ) = 0), ne_eq, not_false_eq_true, true_and, if_false]

/-- R147: beyond ±1,000 the count of FSCALB has no part in the result. -/
theorem Fmt.Ieee.rnd_scaled {code : Nat} {n : Bool} {q : ℚ} (hv : f.val code = .fin n q) (k : Int) (m : RMode) (sat : Bool) :
    f.rnd (.fin n (q * 2 ^ max (-1000) (min 1000 k))) m sat = f.rnd (.fin n (q * 2 ^ k)) m sat := by
  obtain ⟨d, hd, rfl⟩ := hf.eq_number hv
  by_cases hd0 : d = 0
  · rw [(number_eq_zero f n).mpr hd0, zero_mul, zero_mul]
  have hmin : f.magVal 1 ≤ f.magVal d := f.magVal_strictMono.monotone (Nat.one_le_iff_ne_zero.mpr hd0)
  have hmax : f.magVal d < f.magVal (f.maxCode + 1) := f.magVal_strictMono (Nat.lt_succ_of_le hd)
  have hone : 0 < f.magVal 1 := by simpa using f.magVal_lt_succ 0
  have hrange := hf.magVal_range
  have hnn := f.magVal_nonneg d
  have hne : f.number n d ≠ 0 := (number_eq_zero f n).not.mpr hd0
  have hscaled : ∀ e : Int, ∃ c r, f.Above (f.magVal d * 2 ^ e) c r ∧
      f.rnd (.fin n (f.number n d * 2 ^ e)) m sat = f.roundCode (decide (f.number n d < 0)) c r m sat := fun e => by
    have he : (0 : ℚ) < 2 ^ e := by positivity
    obtain ⟨c, r, habove, hr⟩ := hf.rnd_fin (n := n) (mul_ne_zero hne he.ne') m sat
    rw [abs_mul, f.abs_number, abs_of_pos he] at habove
    have hsign : f.number n d * 2 ^ e < 0 ↔ f.number n d < 0 := by
      rw [← not_le, ← not_le, mul_nonneg_iff_of_pos_right he]
    rw [decide_eq_decide.mpr hsign] at hr
    exact ⟨c, r, habove, hr⟩
  rcases lt_or_ge 1000 k with hbig | hk1
  · have hover : ∀ e : Int, 1000 ≤ e → f.rnd (.fin n (f.number n d * 2 ^ e)) m sat =
      f.overflow (decide (f.number n d < 0)) m sat := fun e he => by
      obtain ⟨c, r, habove, hr⟩ := hscaled e
      rw [hr]
      refine hf.roundCode_overflow (habove.le_iff.mp (hrange.trans ?_)) ..
      rw [mul_comm]
      have : (2 : ℚ) ^ (999 : Int) ≤ 2 ^ e := zpow_le_zpow_right₀ one_le_two (by omega)
      gcongr
    rw [show max (-1000) (min 1000 k) = 1000 by omega, hover 1000 le_rfl, hover k hbig.le]
  rcases lt_or_ge k (-1000) with hsmall | hk2
  · have htiny : ∀ e : Int, e ≤ -1000 →
        f.rnd (.fin n (f.number n d * 2 ^ e)) m sat = f.roundCode (decide (f.number n d < 0)) 0 (1 / 4) m sat := fun e he => by
      obtain ⟨c, r, habove, hr⟩ := hscaled e
      have hpow : (2 : ℚ) ^ e ≤ 2 ^ (-1000 : Int) := zpow_le_zpow_right₀ one_le_two he
      have hlt : f.magVal d * 2 ^ e < f.magVal 1 / 2 := by
        calc f.magVal d * 2 ^ e ≤ f.magVal d * 2 ^ (-1000 : Int) := by gcongr
          _ < 2 ^ (999 : Int) * f.magVal 1 * 2 ^ (-1000 : Int) := by
            have : (0 : ℚ) < 2 ^ (-1000 : Int) := by positivity
            gcongr
            exact hmax.trans_le hrange
          _ = f.magVal 1 / 2 := by
            rw [mul_right_comm, ← zpow_add₀ two_ne_zero, show (999 : Int) + -1000 = -1 by norm_num, zpow_neg_one]
            ring
      have hc : c = 0 := by
        by_contra hc
        have := (f.magVal_strictMono.monotone (Nat.one_le_iff_ne_zero.mpr hc)).trans habove.le
        linarith
      subst hc
      have heq := habove.eq
      rw [f.magVal_zero, zero_add, sub_zero] at heq
      have hpos : 0 < f.magVal d * 2 ^ e := mul_pos (hone.trans_le hmin) (by positivity)
      rw [heq] at hpos hlt
      rw [hr, hf.roundCode_tiny (pos_of_mul_pos_left hpos hone.le) (by rw [zero_add] at hlt; nlinarith)]
    rw [show max (-1000) (min 1000 k) = -1000 by omega, htiny (-1000) le_rfl, htiny k hsmall.le]
  · rw [show max (-1000) (min 1000 k) = k by omega]

end

end Sys2Proof.Machine
end

section
/-! SUPPORT. The statement about FRND, FSCALB and the conversions, settled (R146, R147, R151 to R153). -/

namespace Sys2Proof.Machine

/-! ### Rounding, scaling and conversion to a format -/

theorem cvtRnd_fin (t : Fmt) (n : Bool) (q : ℚ) (m : RMode) : cvtRnd t (.fin n q) m = t.rnd (.fin n q) m false := by
  rw [cvtRnd_eq_roundOnce]
  simp [roundOnce]

theorem frndCode_nan {f : Fmt} {code : Nat} {sig : Bool} (hv : f.val code = .nan sig) (m : RMode) (exact : Bool) :
    frndCode f m exact code = (f.nan, if sig then fNV else 0) := by simp only [frndCode, hv]

theorem frndCode_inf {f : Fmt} {code : Nat} {n : Bool} (hv : f.val code = .inf n) (m : RMode) (exact : Bool) :
    frndCode f m exact code = (code, 0) := by simp only [frndCode, hv]

/-- R147: the value times a power of two, rounded once. -/
theorem scalbRnd_fin {f : Fmt} (hf : f.Ieee) {code : Nat} {n : Bool} {q : ℚ} (hv : f.val code = .fin n q) (k : Int) (m : RMode) :
    scalbRnd f (.fin n q) (max (-1000) (min 1000 k)) m = f.rnd (.fin n (q * 2 ^ k)) m false := by
  have hdef : scalbRnd f (.fin n q) (max (-1000) (min 1000 k)) m = cvtRnd f (.fin n (q * pow2 (max (-1000) (min 1000 k)))) m := rfl
  rw [hdef, cvtRnd_fin, pow2_eq_zpow, hf.rnd_scaled hv]

/-- Elements of 16 bits, where ESZ says so (R44). -/
theorem w_of_esz_one {f : X64} (h : (f.esz == 1) = true) : X64.w f = 16 := by
  rw [X64.w, eq_of_beq h]
  rfl

theorem cvtff_elems {s : State} {c : Ctx} {f : X64} {k : CvtffKind} {res : Nat → Nat → Nat × Flags} {body : Ctx → State → Res}
    (h : Issues (.cvtff k f) s c) (he : exec (.cvtff k f) s = issue (.cvtff k f) s body) (hesz : (f.esz == 1) = true)
    (hb : body c s = c.fpPut s f.d 16 (f.dmask 2) ordArith fun l => [res l 0, res l 1]) : FpElems c s (.cvtff k f) f ordArith res := by
  refine fpElems_of_fpPut h he ?_
  rw [w_of_esz_one hesz, hb]
  rfl

theorem roundScaleAndConvert : RoundScaleAndConvert := by
  intro s c t f w m
  have hf := fmt_ieee t
  refine ⟨fun h => ?_, fun h => ?_, fun h => ?_, fun k u v hk h => ?_, fun k v hk h => ?_, fun k u hk h => ?_⟩
  · refine ⟨_, fpElems_of_fpElem h (show exec (.frnd t f) s = execFrnd t f s from rfl), fun l j _ => ?_⟩
    cases hv : t.fmt.val (el w (c.srcA .flt w f l) j) with
    | nan sig => exact frndCode_nan hv m (f.flg.getLsbD 2)
    | inf neg => exact frndCode_inf hv m (f.flg.getLsbD 2)
    | fin n q =>
      obtain ⟨hval, hfl⟩ := hf.frndCode_spec hv m (f.flg.getLsbD 2)
      have hk := roundInt_integralIn q m
      exact ⟨_, hval, hk.near, hk.rne, hk.rtz, hk.rdn, hk.rup, hfl⟩
  · have hb : ∀ l, List.zipWith (fun a b => scalbRnd t.fmt (t.fmt.val a) (max (-1000) (min 1000 (val true w b))) m)
          (elems w (c.srcA .flt w f l)) (elems w (c.srcB .raw w f l)) = (List.range (32 / w)).map fun j =>
        scalbRnd t.fmt (t.fmt.val (el w (c.srcA .flt w f l) j)) (max (-1000) (min 1000 (elVal true w (c.srcB .raw w f l) j))) m :=
      fun l => zipWith_elems ..
    refine ⟨_, fpElems_of_fpPut h (show exec (.fscalb t f) s = execFscalb t f s from rfl)
      (congrArg (c.fpPut s f.d w (X64.dm f w) ordArith) (funext hb)), fun l j _ => ?_⟩
    intro k
    cases hv : t.fmt.val (el w (c.srcA .flt w f l) j) with
    | nan sig => exact cvtRnd_eq_roundOnce ..
    | inf neg => exact cvtRnd_eq_roundOnce ..
    | fin n q => exact scalbRnd_fin hf hv k m
  · have hb : ∀ l, (elems w (c.srcA .int w f l)).map (fun a => cvtRnd t.fmt (.fin false (mkRat (val (f.flg.getLsbD 2) w a) 1)) m) =
        (List.range (32 / w)).map fun j => t.fmt.rnd (.fin false (elVal (f.flg.getLsbD 2) w (c.srcA .int w f l) j : ℚ)) m false := fun l => by
      simp only [map_elems, cvtRnd_fin, Rat.mkRat_one]
      rfl
    exact fpElems_of_fpPut h (show exec (.cvtif t f) s = execCvtif t f s from rfl)
      (congrArg (c.fpPut s f.d w (X64.dm f w) [.fpOverflow, .fpInexact]) (funext hb))
  · have hesz := h.eszOk
    simp only [← cvtRnd_eq_roundOnce]
    simp only [List.mem_cons, Prod.mk.injEq, List.not_mem_nil, or_false] at hk
    obtain ⟨rfl, rfl, rfl⟩ | ⟨rfl, rfl, rfl⟩ := hk
    · exact cvtff_elems h (show exec (.cvtff .f16ToBf16 f) s = execCvtff .f16ToBf16 f s from rfl) hesz rfl
    · exact cvtff_elems h (show exec (.cvtff .bf16ToF16 f) s = execCvtff .bf16ToF16 f s from rfl) hesz rfl
  · have hesz := h.eszOk
    simp only [← cvtRnd_eq_roundOnce]
    simp only [List.mem_cons, Prod.mk.injEq, List.not_mem_nil, or_false] at hk
    obtain ⟨rfl, rfl⟩ | ⟨rfl, rfl⟩ := hk
    · exact cvtff_elems h (show exec (.cvtff .toF16 f) s = execCvtff .toF16 f s from rfl) hesz rfl
    · exact cvtff_elems h (show exec (.cvtff .toBf16 f) s = execCvtff .toBf16 f s from rfl) hesz rfl
  · simp only [← cvtRnd_eq_roundOnce]
    simp only [List.mem_cons, Prod.mk.injEq, List.not_mem_nil, or_false] at hk
    obtain ⟨rfl, rfl⟩ | ⟨rfl, rfl⟩ := hk
    · exact fpOutcome_of_word h (show exec (.cvtff .fromF16 f) s = execCvtff .fromF16 f s from rfl) rfl
    · exact fpOutcome_of_word h (show exec (.cvtff .fromBf16 f) s = execCvtff .fromBf16 f s from rfl) rfl

/-! ### Conversion to an integer (R151) -/

/-- Whether an integral value is outside the range of an element. -/
def outOfRange (sg : Bool) (w : Nat) (k : Int) : Bool := decide (k < minW sg w) || decide (maxW sg w < k)

theorem cvtToInt_fin (sg : Bool) (w : Nat) (n : Bool) (q : ℚ) (m : RMode) :
    let k := (roundInt q m).1
    cvtToInt sg w (.fin n q) m = (wrapW w (max (minW sg w) (min (maxW sg w) k)), outOfRange sg w k,
      if outOfRange sg w k then fNV else if (k : ℚ) ≠ q then fNX else 0) := by
  intro k
  have hle := minW_le_maxW sg w
  have hdef : cvtToInt sg w (.fin n q) m = if k < minW sg w then (wrapW w (minW sg w), true, fNV)
      else if maxW sg w < k then (wrapW w (maxW sg w), true, fNV)
      else (wrapW w k, false, if (roundInt q m).2 then fNX else 0) := rfl
  rw [hdef]
  by_cases hlow : k < minW sg w
  · rw [if_pos hlow, max_eq_left ((min_le_right ..).trans hlow.le)]
    simp [outOfRange, hlow]
  · rw [if_neg hlow]
    by_cases hhigh : maxW sg w < k
    · rw [if_pos hhigh, min_eq_left hhigh.le, max_eq_right hle]
      simp [outOfRange, hhigh]
    · rw [if_neg hhigh, min_eq_right (not_lt.mp hhigh), max_eq_right (not_lt.mp hlow)]
      simp only [roundInt_inexact]
      simp [outOfRange, hlow, hhigh, k, eq_comm]

/-- What CVTFI makes of element `j` of lane `l`. -/
def cvtfiElem (t : FType) (f : X64) (c : Ctx) (l j : Nat) : Nat × Bool × Flags :=
  cvtToInt (f.flg.getLsbD 2) (X64.w f) (t.fmt.val (el (X64.w f) (c.srcA .flt (X64.w f) f l) j)) (X64.mode f)

/-- The lanes of act in which an element that is written is NaN or out of range. -/
def cvtfiBad (t : FType) (f : X64) (c : Ctx) : Lanes :=
  c.act &&& lanesOf fun l =>
    (((List.range (32 / X64.w f)).map (cvtfiElem t f c l)).zipIdx).any fun e => (X64.dm f (X64.w f)).getLsbD e.2 && e.1.2.1

/-- The effect of CVTFI, element by element. -/
def cvtfiBody (t : FType) (f : X64) (c : Ctx) (s : State) : Res :=
  if f.flg.getLsbD 3 && cvtfiBad t f c != 0 then .trap { cause := .cvtRange, mask := some (cvtfiBad t f c) }
  else c.fpPut s f.d (X64.w f) (X64.dm f (X64.w f)) [.fpInvalid, .fpInexact] fun l =>
    (List.range (32 / X64.w f)).map fun j => ((cvtfiElem t f c l j).1, (cvtfiElem t f c l j).2.2)

theorem exec_cvtfi (t : FType) (f : X64) (s : State) : exec (.cvtfi t f) s = issue (.cvtfi t f) s (cvtfiBody t f) := by
  have hbody : ∀ c s, cvtfiBody t f c s =
      (if f.flg.getLsbD 3 && cvtfiBad t f c != 0 then .trap { cause := .cvtRange, mask := some (cvtfiBad t f c) }
      else c.fpPut s f.d (X64.w f) (X64.dm f (X64.w f)) [.fpInvalid, .fpInexact] fun l =>
        ((List.range (32 / X64.w f)).map (cvtfiElem t f c l)).map fun r => (r.1, r.2.2)) := fun c s => by
    simp only [List.map_map]
    rfl
  have hmap : ∀ c l, (List.range (32 / X64.w f)).map (cvtfiElem t f c l) = (elems (X64.w f) (c.srcA .flt (X64.w f) f l)).map fun a =>
      cvtToInt (f.flg.getLsbD 2) (X64.w f) (t.fmt.val a) (X64.mode f) := fun c l =>
    (map_elems (X64.w f) (fun a => cvtToInt (f.flg.getLsbD 2) (X64.w f) (t.fmt.val a) (X64.mode f)) _).symm
  have heq : cvtfiBody t f = _ := funext fun c => funext fun s => hbody c s
  rw [heq]
  simp only [cvtfiBad, hmap]
  rfl

theorem convertToIntegerClampsOrTraps : ConvertToIntegerClampsOrTraps := by
  intro s c t f h w sg a out
  have he := exec_cvtfi t f s
  have hout : ∀ l j, (cvtfiElem t f c l j).2.1 = out l j := fun l j => by
    change (cvtToInt sg w (a l j) (X64.mode f)).2.1 = match a l j with | .fin _ q => _ | _ => _
    cases a l j with
    | nan g => rfl
    | inf n => rfl
    | fin n q =>
      rw [cvtToInt_fin]
      rfl
  refine ⟨cvtfiBad t f c, fun l hl => ?_, fun hchk hz => exec_of_trap h he (if_pos ?_),
    fun hno => ⟨_, fpElems_of_fpPut h he (if_neg ?_), fun l j _ => ?_⟩⟩
  · simp only [cvtfiBad, BitVec.getLsbD_and, getLsbD_lanesOf, decide_eq_true hl, Bool.true_and, Bool.and_eq_true, any_zipIdx_range, hout]
    rfl
  · rw [hchk, Bool.true_and]
    exact bne_iff_ne.mpr hz
  · rw [Bool.and_eq_true, bne_iff_ne]
    rintro ⟨hchk, hz⟩
    exact hno.elim (fun hf => by rw [hchk] at hf; cases hf) hz
  · dsimp only
    change match a l j with | .nan _ => _ | .inf n => _ | .fin _ q => _
    have hcvt : cvtfiElem t f c l j = cvtToInt sg w (a l j) (X64.mode f) := rfl
    rw [← hout]
    rw [hcvt]
    cases a l j with
    | nan g => rfl
    | inf n => exact ⟨wrapW_cast .., rfl⟩
    | fin n q =>
      rw [cvtToInt_fin]
      exact ⟨wrapW_cast .., rfl⟩

/-- Settles O19: numbers are rounded to integers as they are to codes, and each conversion rounds once. -/
theorem roundingScalingConversion : Obligations.RoundingScalingConversion := ⟨roundScaleAndConvert, convertToIntegerClampsOrTraps⟩

end Sys2Proof.Machine
end

section
/-! SUPPORT. The statement about FTWOSUM, FDOT2 and FDOT4Q, settled (R148 to R150). -/

namespace Sys2Proof.Machine

/-- The code of a rounded value fits the format. -/
theorem Fmt.Ieee.rnd_lt {f : Fmt} (hf : f.Ieee) (v : Val) (m : RMode) (sat : Bool) : (f.rnd v m sat).1 < 2 ^ f.bits := by
  have hmax : f.maxCode < 2 ^ (f.bits - 1) := (Nat.lt_succ_self _).trans hf.inf_lt
  cases v with
  | nan g =>
    have hnan : f.nan = f.maxCode + 1 + 2 ^ (f.p - 2) := by simp only [Fmt.nan, hf.kind]
    have hle : 2 ^ (f.bits - 1) ≤ 2 ^ f.bits := Nat.pow_le_pow_right two_pos (Nat.sub_le ..)
    exact (hnan.trans_lt hf.room).trans_le hle
  | inf n =>
    simp only [Fmt.rnd, hf.kind, if_true]
    exact hf.code_lt hf.inf_lt
  | fin n q =>
    by_cases hq : q = 0
    · simp only [Fmt.rnd, hq, if_true, Fmt.zero, hf.kind]
      exact hf.code_lt (by positivity)
    · obtain ⟨c, r, -, hr⟩ := hf.rnd_fin (n := n) hq m sat
      rw [hr, hf.roundCode_eq]
      dsimp only
      split
      · rw [hf.overflow_eq]
        dsimp only
        split
        · exact hf.code_lt hmax
        · exact hf.code_lt hf.inf_lt
      · next hle => exact hf.code_lt ((not_lt.mp hle).trans_lt hmax)

/-! ### Sums of numbers -/

/-- Adding up numbers. -/
theorem foldl_numbers {g : ℚ → Val → ℚ} (hg : ∀ a n x, g a (.fin n x) = a + x) (es : List (Bool × ℚ)) (a : ℚ) :
    (es.map fun e => Val.fin e.1 e.2).foldl g a = a + (es.map Prod.snd).sum := by
  induction es generalizing a with
  | nil => simp
  | cons e es ih => rw [List.map_cons, List.foldl_cons, ih, hg, List.map_cons, List.sum_cons, add_assoc]

/-- The sum of numbers, where it is not zero. -/
theorem sumVals_of_numbers {es : List (Bool × ℚ)} (h : (es.map Prod.snd).sum ≠ 0) (m : RMode) :
    sumVals (es.map fun e => .fin e.1 e.2) m = (.fin (decide ((es.map Prod.snd).sum < 0)) (es.map Prod.snd).sum, 0) := by
  have hinf : ∀ n, (es.map fun e => Val.fin e.1 e.2).contains (.inf n) = false := fun n => by simp
  have hnan : (es.map fun e => Val.fin e.1 e.2).any Val.isNan = false := by simp [Val.isNan]
  unfold sumVals
  dsimp only
  simp only [hinf, hnan, Bool.and_self, Bool.false_eq_true, if_false]
  rw [foldl_numbers (fun _ _ _ => rfl), zero_add, if_neg h]

/-- R149, R150: of numbers, the exact sum is rounded once. -/
theorem dotRnd_of_numbers (f : Fmt) (ps : List (ℚ × ℚ)) (x : ℚ) (sg : ℚ → Bool) (m : RMode)
    (h : (ps.map fun p => p.1 * p.2).sum + x ≠ 0) :
    dotRnd f (ps.map fun p => (.fin (sg p.1) p.1, .fin (sg p.2) p.2)) [.fin (sg x) x] m =
      f.rndQ ((ps.map fun p => p.1 * p.2).sum + x) m false := by
  let es : List (Bool × ℚ) := ps.map (fun p => (sg p.1 != sg p.2, p.1 * p.2)) ++ [(sg x, x)]
  have hes : (es.map Prod.snd).sum = (ps.map fun p => p.1 * p.2).sum + x := by simp [es, Function.comp_def]
  have hprods : (ps.map fun p => (Val.fin (sg p.1) p.1, Val.fin (sg p.2) p.2)).map (fun p => p.1.mul p.2) =
      ps.map fun p => (.fin (sg p.1 != sg p.2) (p.1 * p.2), 0) := by
    rw [List.map_map]
    rfl
  have hterms : (ps.map fun p => (Val.fin (sg p.1 != sg p.2) (p.1 * p.2), (0 : Flags))).map (·.1) ++ [.fin (sg x) x] =
      es.map fun e => .fin e.1 e.2 := by simp [es, Function.comp_def]
  have hnv : ∀ a : Flags, (ps.map fun p => (Val.fin (sg p.1 != sg p.2) (p.1 * p.2), (0 : Flags))).foldl (fun a p => a ||| p.2) a = a := by
    clear hterms hprods hes h es
    induction ps with
    | nil => exact fun a => rfl
    | cons p ps ih => exact fun a => by simpa using ih a
  have hsig : sigNV ((ps.map fun p => (Val.fin (sg p.1) p.1, Val.fin (sg p.2) p.2)).flatMap (fun p => [p.1, p.2]) ++ [.fin (sg x) x]) = 0 := by
    rw [sigNV_eq, if_neg]
    simp
  have hsum := sumVals_of_numbers (es := es) (by rwa [hes]) m
  rw [hes] at hsum
  unfold dotRnd
  dsimp only
  rw [hprods, hterms, hsum, hnv, hsig]
  simp only [Fmt.rnd, if_neg h]
  simp

/-! ### FTWOSUM (R148) -/

theorem twoSum_fst (a b : Val) : (twoSum a b).1 = (roundOnce fmt32 .rne (exactSum .rne a b) 0 [a, b]).1 := by
  rw [← addRnd_eq_roundOnce]
  rfl

theorem twoSum_flags (a b : Val) : (twoSum a b).2.2 = (roundOnce fmt32 .rne (exactSum .rne a b) 0 [a, b]).2 := by
  rw [← addRnd_eq_roundOnce]
  rfl

theorem twoSum_error {n k j : Bool} {p q r : ℚ} (h : fmt32.val (twoSum (.fin n p) (.fin k q)).1 = .fin j r) :
    (twoSum (.fin n p) (.fin k q)).2.1 = (fmt32.rnd (.fin false (p + q - r)) .rne false).1 := by
  change fmt32.val (addRnd fmt32 (.fin n p) (.fin k q) .rne).1 = _ at h
  simp only [twoSum, h]

theorem twoSum_noError {a b : Val} (h : ∀ j r, fmt32.val (twoSum a b).1 ≠ .fin j r) : (twoSum a b).2.1 = fmt32.nan := by
  change ∀ j r, fmt32.val (addRnd fmt32 a b .rne).1 ≠ .fin j r at h
  cases hs : fmt32.val (addRnd fmt32 a b .rne).1 with
  | fin j r => exact absurd hs (h j r)
  | nan g => simp only [twoSum, hs]
  | inf n => simp only [twoSum, hs]

theorem twoSum_lt (a b : Val) : (twoSum a b).1 < 2 ^ 32 ∧ (twoSum a b).2.1 < 2 ^ 32 := by
  refine ⟨fmt32_ieee.rnd_lt .., ?_⟩
  unfold twoSum
  dsimp only
  split
  · exact fmt32_ieee.rnd_lt ..
  · decide

/-- The checks that an entry adds, of an instruction that issues. -/
theorem Issues.extraOk {i : Instr} {s : State} {c : Ctx} (h : Issues i s c) {x : X64 × XUse × Nat × Nat × Nat} (hx : i.xuse = some x) :
    i.extraOk = true := h.fields.1 x hx

/-- Every byte type has a value (Table 5.4). -/
theorem exists_qType {t : BitVec 8} (h : isByteType t = true) : ∃ u, qType? t.toNat = some u := by
  have hall : ∀ t : BitVec 8, isByteType t = true → (qType? t.toNat).isSome = true := by decide +kernel
  exact Option.isSome_iff_exists.mp (hall t h)

/-- Settles O20: FTWOSUM is one rounded sum and its error, and a dot product is one sum, rounded once. -/
theorem twoSumAndDotProducts : Obligations.TwoSumAndDotProducts := by
  intro s c f
  refine ⟨fun h => ?_, fun bf h => ?_, fun h => ?_, fun m ps x sg hne => dotRnd_of_numbers fmt32 ps x sg m hne⟩
  · intro a b sum
    have hcases := fpCases_of_body (order := ordArith) (fl := fun l => (twoSum (a l) (b l)).2.2) h
      (show exec (.ftwosum f) s = execFtwosum f s from rfl) rfl
    simp only [twoSum_flags] at hcases
    refine ⟨hcases.1, fun hn => ⟨fun l => cat32 (BitVec.ofNat 32 (twoSum (a l) (b l)).2.1) (BitVec.ofNat 32 (twoSum (a l) (b l)).1),
      hcases.2 hn, fun l => ?_⟩⟩
    obtain ⟨h1, h2⟩ := twoSum_lt (a l) (b l)
    simp only [lo32_cat32, hi32_cat32, BitVec.toNat_ofNat, Nat.mod_eq_of_lt h1, Nat.mod_eq_of_lt h2]
    refine ⟨twoSum_fst .., fun n p k q j r ha hb hs => ?_, fun hs => twoSum_noError ?_⟩
    · rw [ha, hb]
      exact twoSum_error (by rw [← ha, ← hb, twoSum_fst]; exact hs)
    · rw [twoSum_fst]
      exact hs
  · cases bf
    · exact fpOutcome_of_word h (show exec (.fdot2 false f) s = dotInstr (.fdot2 false f) f 16 fmt16.val s from rfl) rfl
    · exact fpOutcome_of_word h (show exec (.fdot2 true f) s = dotInstr (.fdot2 true f) f 16 fmtBf.val s from rfl) rfl
  · obtain ⟨u, hu⟩ := exists_qType (h.extraOk rfl)
    have hev : (fun e => ((qType? f.imm8.toNat).map fun t => t.val e).getD (.nan false)) = u.val := by
      rw [hu]
      rfl
    have he : exec (.fdot4q f) s = dotInstr (.fdot4q f) f 8 u.val s := by
      rw [← hev]
      rfl
    exact ⟨u, hu, fpOutcome_of_word h he rfl⟩

end Sys2Proof.Machine
end

section
/-! SUPPORT. The statement about CVTQ and CVTDQ, settled (R154 to R156). -/

namespace Sys2Proof.Machine

/-- R154: the lanes of act whose scale is no positive number. -/
theorem Ctx.getLsbD_badScale (c : Ctx) (f : X64) {l : Nat} (hl : l < 96) : (c.badScale f).getLsbD l = true ↔
    c.act.getLsbD l = true ∧ ¬ ∃ n q, val32 (c.rd f.b.toNat l) = .fin n q ∧ 0 < q := by
  unfold Ctx.badScale
  rw [BitVec.getLsbD_and, getLsbD_lanesOf, decide_eq_true hl, Bool.true_and, Bool.and_eq_true]
  refine and_congr_right fun _ => ?_
  cases val32 (c.rd f.b.toNat l) <;> simp

theorem sigNV_singleton (v : Val) : sigNV [v] = if v = .nan true then fNV else 0 := by
  rw [sigNV_eq]
  simp [eq_comm]

/-- Whether a code is a NaN, by its magnitude code. -/
theorem Fmt.Ieee.isNan_val {f : Fmt} (hf : f.Ieee) (code : Nat) :
    (f.val code).isNan = decide (f.maxCode + 1 < code % 2 ^ (f.bits - 1)) := by
  rw [hf.val_eq]
  dsimp only
  split
  · next h => exact (decide_eq_false (by omega)).symm
  · split
    · next h => exact (decide_eq_false (by omega)).symm
    · next h1 h2 => exact (decide_eq_true (by omega)).symm

/-- The magnitude of a NaN is a NaN, and that of a number is none. -/
theorem isNan_magnitude (x : Word) : (val32 (x &&& 0x7FFFFFFF)).isNan = (val32 x).isNan := by
  have hand : (x &&& 0x7FFFFFFF).toNat = x.toNat % 2 ^ 31 := by
    rw [BitVec.toNat_and]
    exact Nat.and_two_pow_sub_one_eq_mod x.toNat 31
  unfold val32
  rw [fmt32_ieee.isNan_val, fmt32_ieee.isNan_val, hand, show fmt32.bits - 1 = 31 from rfl, Nat.mod_mod]

/-- R155: when the running magnitude is replaced. -/
theorem raises_iff {x y : Val} (hx : x.isNan = false) :
    (y.isNan || x.cmp y == .gt) = true ↔ y.isNan = true ∨ holdsFor .gt x y := by
  cases hy : y.isNan with
  | true => simp
  | false =>
    rw [Bool.false_or, beq_iff_eq, cmp_eq_gt_iff hx hy, holdsFor_iff_less (cc := .gt) hx hy]
    simp

/-- Settles O21: both look at every scale first; CVTQ then rounds the product of operand and scale, and CVTDQ that of byte and scale. -/
theorem quantiseWithScales : Obligations.QuantiseWithScales := by
  intro s c f i hi h scale k
  have hbyte : isByteType f.imm8 = true := by
    rcases hi with rfl | rfl <;> exact h.extraOk rfl
  obtain ⟨u, hu⟩ := exists_qType hbyte
  have hget : (qType? f.imm8.toNat).getD (.int true 8) = u := by rw [hu]; rfl
  refine ⟨c.badScale f, u, hu, fun l hl => c.getLsbD_badScale f hl, fun hz => ?_, fun hz hi => ?_, fun hz hi => ?_⟩
  · have hbad : (c.badScale f != 0) = true := bne_iff_ne.mpr hz
    rcases hi with rfl | rfl
    · exact exec_of_trap h (show exec (.cvtq f) s = execCvtq f s from rfl) (if_pos hbad)
    · exact exec_of_trap h (show exec (.cvtdq f) s = execCvtdq f s from rfl) (if_pos hbad)
  · subst hi
    have hbad : ¬ (c.badScale f != 0) = true := by simp [hz]
    rw [← hget]
    exact fpOutcome_of_word h (show exec (.cvtdq f) s = execCvtdq f s from rfl) (if_neg hbad)
  · subst hi
    have hbad : ¬ (c.badScale f != 0) = true := by simp [hz]
    rw [← hget]
    simp only [← mul_eq_exactProduct, ← sigNV_singleton]
    have hcases := fpCases_of_body h (show exec (.cvtq f) s = execCvtq f s from rfl) (if_neg hbad)
    refine ⟨hcases.1, fun hn => ⟨c.act &&& lanesOf fun l =>
      !(val32 (prepWord .flt 32 (f.moda &&& 0xC0) (c.rdA f.a.toNat l))).isNan && ((val32 (c.rd 251 l)).isNan ||
        (val32 (prepWord .flt 32 (f.moda &&& 0xC0) (c.rdA f.a.toNat l) &&& 0x7FFFFFFF)).cmp (val32 (c.rd 251 l)) == .gt),
      fun l hl => ?_, hcases.2 hn⟩⟩
    rw [BitVec.getLsbD_and, getLsbD_lanesOf, decide_eq_true hl, Bool.true_and, Bool.and_eq_true, Bool.and_eq_true, Bool.not_eq_true']
    refine and_congr_right fun _ => and_congr_right fun hnan => raises_iff ?_
    rw [isNan_magnitude, hnan]

end Sys2Proof.Machine
end

section
/-! SUPPORT. What a change of the state leaves in place: the queues of the units, the measured passes of the partitions, and the
contexts of the skeins that still have a strand. -/

namespace Sys2Proof.Machine

/-- The key of a skein's context. -/
def Skein.key (x : Skein) : Nat := ctxKey x.part x.ctx

/-- From `s` to `t` no operation entered or left a copy engine's queue and no entry a store queue, no measured pass began or ended, no
strand began, and a skein kept its context unless its last strand ended. -/
structure UnitsKept (s t : State) : Prop where
  copies : ∀ c, (t.cluster c).copies = (s.cluster c).copies
  stores : ∀ c i, unviewed (t.spindle c i).stores = unviewed (s.spindle c i).stores
  passes : ∀ p, (t.part p).mrPass = (s.part p).mrPass ∧ (t.part p).mrLaunch = (s.part p).mrLaunch
  strands : ∀ n, s.strand? n = none → t.strand? n = none
  contexts : ∀ sk, (t.skein? sk).map Skein.key = (s.skein? sk).map Skein.key ∨ ∀ n, strandSkein n = sk → t.strand? n = none

/-- A cluster change that leaves the queues: those of copies, and the stores but for what they know. -/
def Cluster.QueuesKept (x y : Cluster) : Prop :=
  y.copies = x.copies ∧ ∀ i, unviewed (y.spindles.getD i {}).stores = unviewed (x.spindles.getD i {}).stores

theorem Cluster.QueuesKept.of_eq {x y : Cluster} (hc : y.copies = x.copies) (hs : y.spindles = x.spindles) : x.QueuesKept y :=
  ⟨hc, fun i => by rw [hs]⟩

/-- A change of one spindle, of which the entries of its store queue stay but for what they know. -/
theorem Cluster.queuesKept_lset (x : Cluster) (i : Nat) {y : Spindle} (h : unviewed y.stores = unviewed (x.spindles.getD i {}).stores) :
    x.QueuesKept { x with spindles := lset x.spindles i y } := by
  refine ⟨rfl, fun j => ?_⟩
  show unviewed ((lset x.spindles i y).getD j {}).stores = _
  rw [List.getD_eq_getElem?_getD, getElem?_lset, List.getD_eq_getElem?_getD]
  split
  · next hj =>
    subst hj
    rw [List.getD_eq_getElem?_getD] at h
    cases hx : x.spindles[j]? with
    | none => rfl
    | some z => rw [hx] at h; exact h
  · rfl

/-- What entries of a queue know is no part of the queue. -/
theorem unviewed_map_view (q : List StoreEntry) (p : StoreEntry → View) : unviewed (q.map fun y => { y with view := p y }) = unviewed q := by
  simp only [unviewed, List.map_map]
  rfl

/-- The entries of a queue but for what they know, with some taken out by what else they are. -/
theorem unviewed_filter (q : List StoreEntry) {p : StoreEntry → Bool} (hp : ∀ e, p { e with view := {} } = p e) :
    unviewed (q.filter p) = (unviewed q).filter p := by
  rw [unviewed, unviewed, List.filter_map]
  congr 1
  exact List.filter_congr fun e _ => (hp e).symm

namespace UnitsKept

/-! ### How such changes are put together -/

/-- A change that touches none of the tables. -/
theorem ofTables {s t : State} (hst : t.strands = s.strands) (hsk : t.skeins = s.skeins) (hc : t.clusters = s.clusters)
    (hp : t.parts = s.parts) : UnitsKept s t where
  copies c := by unfold State.cluster; rw [hc]
  stores c i := by unfold State.spindle State.cluster; rw [hc]
  passes p := by unfold State.part; rw [hp]; exact ⟨rfl, rfl⟩
  strands n h := (State.strand?_of_strands hst n).trans h
  contexts sk := .inl (by unfold State.skein?; rw [hsk])

theorem refl (s : State) : UnitsKept s s := ofTables rfl rfl rfl rfl

theorem trans {s t u : State} (h : UnitsKept s t) (h' : UnitsKept t u) : UnitsKept s u where
  copies c := (h'.copies c).trans (h.copies c)
  stores c i := (h'.stores c i).trans (h.stores c i)
  passes p := ⟨(h'.passes p).1.trans (h.passes p).1, (h'.passes p).2.trans (h.passes p).2⟩
  strands n hn := h'.strands n (h.strands n hn)
  contexts sk := by
    rcases h'.contexts sk with h2 | h2
    · exact (h.contexts sk).imp h2.trans fun h1 n hn => h'.strands n (h1 n hn)
    · exact .inr h2

theorem branch {s t u : State} {p : Prop} [Decidable p] (h : UnitsKept s t) (h' : UnitsKept s u) : UnitsKept s (if p then t else u) := by
  split
  · exact h
  · exact h'

theorem foldl {α : Type} (l : List α) (g : State → α → State) (h : ∀ a x, UnitsKept a (g a x)) (s : State) :
    UnitsKept s (l.foldl g s) :=
  List.foldlRecOn (motive := fun a => UnitsKept s a) _ _ (refl s) fun a ih x _ => ih.trans (h a x)

theorem modCluster (s : State) (c : Nat) {f : Cluster → Cluster} (h : (s.cluster c).QueuesKept (f (s.cluster c))) :
    UnitsKept s (s.modCluster c f) := by
  have key : ∀ n, (s.cluster n).QueuesKept ((s.modCluster c f).cluster n) := fun n => by
    by_cases hn : n = c
    · subst hn; rw [State.cluster_modCluster_self]; exact h
    · rw [State.cluster_modCluster_ne _ _ hn]; exact ⟨rfl, fun _ => rfl⟩
  exact ⟨fun n => (key n).1, fun n => (key n).2, fun _ => ⟨rfl, rfl⟩, fun _ h => h, fun _ => .inl rfl⟩

/-- A change of a cluster that touches neither its copy engine nor its spindles. -/
theorem modCluster' (s : State) (c : Nat) (f : Cluster → Cluster) (h : ∀ x, (f x).copies = x.copies ∧ (f x).spindles = x.spindles) :
    UnitsKept s (s.modCluster c f) :=
  modCluster s c (.of_eq (h _).1 (h _).2)

/-- Such a change, and then another. -/
theorem afterCluster {s t : State} {c : Nat} {f : Cluster → Cluster} (h : UnitsKept (s.modCluster c f) t)
    (hf : ∀ x, (f x).copies = x.copies ∧ (f x).spindles = x.spindles) : UnitsKept s t :=
  (modCluster' s c f hf).trans h

theorem modSpindle (s : State) (c i : Nat) {f : Spindle → Spindle} (h : ∀ x, unviewed (f x).stores = unviewed x.stores) :
    UnitsKept s (s.modSpindle c i f) :=
  modCluster s c (Cluster.queuesKept_lset _ i (h _))

theorem modPart (s : State) (p : Nat) {f : Partition → Partition}
    (h : (f (s.part p)).mrPass = (s.part p).mrPass ∧ (f (s.part p)).mrLaunch = (s.part p).mrLaunch) : UnitsKept s (s.modPart p f) := by
  refine ⟨fun _ => rfl, fun _ _ => rfl, fun q => ?_, fun _ h => h, fun _ => .inl rfl⟩
  by_cases hq : q = p
  · subst hq; rw [State.part_modPart_self]; exact h
  · rw [State.part_modPart_ne _ _ hq]; exact ⟨rfl, rfl⟩

theorem modStrand (s : State) (n : Nat) (f : Strand → Strand) : UnitsKept s (s.modStrand n f) := by
  refine ⟨fun _ => rfl, fun _ _ => rfl, fun _ => ⟨rfl, rfl⟩, fun m hm => ?_, fun _ => .inl rfl⟩
  by_cases h : m = n
  · subst h; rw [State.strand?_modStrand_self, hm]; rfl
  · rw [State.strand?_modStrand_ne _ _ h]; exact hm

theorem modFib (s : State) (k : Nat) (f : Fibre → Fibre) : UnitsKept s (s.modFib k f) := modStrand ..

theorem modSkein (s : State) (n : Nat) (f : Skein → Skein) (h : ∀ x, (f x).key = x.key) : UnitsKept s (s.modSkein n f) := by
  refine ⟨fun _ => rfl, fun _ _ => rfl, fun _ => ⟨rfl, rfl⟩, fun _ h => h, fun sk => .inl ?_⟩
  by_cases hn : sk = n
  · subst hn; rw [State.skein?_modSkein_self]; cases s.skein? sk <;> simp [h]
  · rw [State.skein?_modSkein_ne _ _ hn]

theorem modLaunch (s : State) (n : Nat) (f : Launch → Launch) : UnitsKept s (s.modLaunch n f) := ofTables rfl rfl rfl rfl

theorem modCtx (s : State) (k : Nat) (f : Context → Context) : UnitsKept s (s.modCtx k f) := ofTables rfl rfl rfl rfl

theorem modDie (s : State) (d : Nat) (f : Die → Die) : UnitsKept s (s.modDie d f) := ofTables rfl rfl rfl rfl

theorem count (s : State) (cl code n : Nat) : UnitsKept s (s.count cl code n) := modCluster' _ _ _ fun _ => ⟨rfl, rfl⟩

theorem raise (s : State) (v : Nat) : UnitsKept s (s.raise v) := by
  unfold State.raise
  exact .branch (ofTables rfl rfl rfl rfl) (ofTables rfl rfl rfl rfl)

/-! ### Memory -/

theorem logLine (s : State) (part : Option Nat) (key : Nat) : UnitsKept s (s.logLine part key) := by
  unfold State.logLine
  cases part with
  | none => exact .refl s
  | some p =>
    refine .branch (.refl s) (.branch (.modPart s p ⟨rfl, rfl⟩) ?_)
    exact (UnitsKept.modPart s p (f := fun x => { x with undo := x.undo ++ [lineOf key] }) ⟨rfl, rfl⟩).trans (ofTables rfl rfl rfl rfl)

theorem memPut (s : State) (part : Option Nat) (key : Nat) (b : Byte) : UnitsKept s (s.memPut part key b) :=
  .branch (.refl s) ((UnitsKept.logLine s part key).trans (ofTables rfl rfl rfl rfl))

theorem memPuts (s : State) (part : Option Nat) (key : Nat) (bs : List Byte) : UnitsKept s (s.memPuts part key bs) := by
  induction bs generalizing s key with
  | nil => exact .refl s
  | cons b bs ih => exact (UnitsKept.memPut s part key b).trans (ih _ _)

theorem beginWrite (s : State) (rels : List Rel) : UnitsKept s (s.beginWrite rels) := ofTables rfl rfl rfl rfl

theorem memWriteBytes (s : State) (part : Option Nat) (key : Nat) (bs : List Byte) : UnitsKept s (s.memWriteBytes part key bs) :=
  (UnitsKept.beginWrite s _).trans (.memPuts ..)

theorem locPut (s : State) (part : Option Nat) (l : Loc) (b : Byte) : UnitsKept s (s.locPut part l b) := by
  cases l with
  | mem k => exact .memPut ..
  | scr sk o =>
    exact (UnitsKept.modSkein s sk (fun x => { x with scratch := cellWrite x.scratch (x.physOfs o) b }) fun _ => rfl).trans
      (ofTables rfl rfl rfl rfl)

theorem locWrites (s : State) (part : Option Nat) (bs : List (Loc × Byte)) : UnitsKept s (s.locWrites part bs) :=
  (UnitsKept.beginWrite s _).trans (.foldl _ _ (fun a _ => .locPut a ..) _)

theorem poisonLine (s : State) (l : Loc) : UnitsKept s (s.poisonLine l) := by
  unfold State.poisonLine
  split
  · exact .branch (.refl s) (ofTables rfl rfl rfl rfl)
  · exact .modSkein s _ _ fun x => by split <;> rfl

/-! ### Homes and caches -/

theorem l2Drop (s : State) (p : Nat → L2Line → Bool) : UnitsKept s (s.l2Drop p) := by
  unfold State.l2Drop
  dsimp only
  refine .branch (.refl s) (UnitsKept.trans (.foldl _ _ (fun a c => ?_) s) (t := List.foldl _ s s.clusters) (ofTables rfl rfl rfl rfl))
  exact .branch (.refl a) (.afterCluster (.count ..) fun _ => ⟨rfl, rfl⟩)

theorem l2Room (s : State) (line : Nat) : UnitsKept s (s.l2Room line) := by
  unfold State.l2Room
  refine .branch (.refl s) (.branch (.refl s) ?_)
  exact UnitsKept.trans (t := { s with freeCtr := s.freeCtr + 1 }) (ofTables rfl rfl rfl rfl) (.l2Drop ..)

theorem atHome (s : State) (cl p line : Nat) : UnitsKept s (s.atHome cl p line) := by
  unfold State.atHome
  generalize (tget? s.l2 line).isSome = hit
  refine (UnitsKept.count s cl (if hit then 0x16 else 0x17) 1).trans (.branch (.count ..) (.branch (.refl _) ?_))
  exact (UnitsKept.l2Room _ line).trans (ofTables rfl rfl rfl rfl)

theorem goHome (s : State) (cl key : Nat) : UnitsKept s (s.goHome cl key) := by
  unfold State.goHome
  split
  · exact .atHome ..
  · exact .refl s

theorem goHomes (s : State) (cl : Nat) (bs : List ByteAt) : UnitsKept s (s.goHomes cl bs) :=
  .foldl _ _ (fun a n => .goHome a cl (n * 128)) s

theorem pfGone (s : State) (cl line : Nat) : UnitsKept s (s.pfGone cl line) :=
  .branch (.refl s) (.afterCluster (.count ..) fun _ => ⟨rfl, rfl⟩)

theorem uoWriteBack (s : State) (cl : Nat) (part : Option Nat) (line : Nat) (fences : List Rel) :
    UnitsKept s (s.uoWriteBack cl part line fences) := by
  unfold State.uoWriteBack
  split
  · exact .refl s
  · next u _ =>
    refine .branch (.refl s) (UnitsKept.trans ?_ (.modCluster' _ _ _ fun _ => ⟨rfl, rfl⟩))
    exact ((UnitsKept.goHome s cl (line * 128)).trans (.beginWrite ..)).trans (.foldl _ _ (fun a x => .memPut a ..) _)

theorem uoDrop (s : State) (cl line : Nat) : UnitsKept s (s.uoDrop cl line) :=
  .branch (.afterCluster (.pfGone ..) fun _ => ⟨rfl, rfl⟩) (.refl s)

theorem rcDrop (s : State) (cl line : Nat) : UnitsKept s (s.rcDrop cl line) :=
  .branch (.afterCluster (.pfGone ..) fun _ => ⟨rfl, rfl⟩) (.refl s)

theorem uoEvict (s : State) (cl : Nat) (part : Option Nat) (line : Nat) : UnitsKept s (s.uoEvict cl part line) :=
  (UnitsKept.uoWriteBack s cl part line []).trans (.uoDrop ..)

theorem makeRoom (s : State) (cl b : Nat) : UnitsKept s (s.makeRoom cl b) := by
  unfold State.makeRoom
  refine .branch (.refl s) (.branch (.refl s) ?_)
  exact UnitsKept.trans (t := { s with freeCtr := s.freeCtr + 1 }) (ofTables rfl rfl rfl rfl) ((UnitsKept.uoEvict ..).trans (.rcDrop ..))

theorem uoFill (s : State) (cl line : Nat) (next : Bool) : UnitsKept s (s.uoFill cl line next) := by
  unfold State.uoFill
  refine .branch (.refl s) ?_
  dsimp only
  split
  · exact (UnitsKept.makeRoom ..).trans (.modCluster' _ _ _ fun _ => ⟨rfl, rfl⟩)
  · exact .modCluster' _ _ _ fun _ => ⟨rfl, rfl⟩

theorem refresh (s : State) (cl : Nat) : UnitsKept s (s.refresh cl) := .branch (.refl s) (.modCluster' _ _ _ fun _ => ⟨rfl, rfl⟩)

theorem homeWrite (s : State) (cl : Nat) (part : Option Nat) (a : Nat) (v : Byte) : UnitsKept s (s.homeWrite cl part a v) := by
  unfold State.homeWrite
  dsimp only
  refine ((UnitsKept.branch (.uoEvict ..) (.refl s)).trans (.memPut _ part a v)).trans (.branch ?_ (.refl _))
  exact .modCluster' _ _ _ fun _ => ⟨rfl, rfl⟩

theorem uoLeave (s : State) (cl : Nat) (bs : List ByteAt) : UnitsKept s (s.uoLeave cl bs) := by
  refine .foldl _ _ (fun a b => ?_) s
  split
  · exact .branch (.uoEvict ..) (.refl a)
  · exact .refl a

/-! ### Fibres -/

theorem packet (s : State) (k type : Nat) (payload : List Byte) : UnitsKept s (s.packet k type payload) :=
  .branch (.modCluster' _ _ _ fun _ => ⟨rfl, rfl⟩) (.refl s)

theorem unslot (s : State) (k : Nat) : UnitsKept s (s.unslot k) := by
  unfold State.unslot
  split
  · exact .refl s
  · exact .modSpindle _ _ _ fun _ => rfl

theorem ready (s : State) (k : Nat) : UnitsKept s (s.ready k) := by
  unfold State.ready
  dsimp only
  have h : UnitsKept s ((s.unslot k).modFib k fun f =>
      { f with state := .ready, wait := .none, pubs := [], stamp := s.cycle, beats := [], wsHeld := false }) :=
    (UnitsKept.unslot s k).trans (.modFib ..)
  exact .branch (h.trans (.packet ..)) h

theorem park (s : State) (k : Nat) (w : Wait) : UnitsKept s (s.park k w) := by
  unfold State.park
  dsimp only
  have h := UnitsKept.unslot s k
  exact .branch (h.trans (.modFib ..)) ((h.trans (.modFib ..)).trans (.packet ..))

theorem syncLines (s : State) (k : Nat) : UnitsKept s (s.syncLines k) :=
  (UnitsKept.modSkein s (fibSkein k) (fun sk => { sk with logged := [] }) fun _ => rfl).trans (.refresh ..)

theorem syncPoint (s : State) (k : Nat) : UnitsKept s (s.syncPoint k) := (UnitsKept.syncLines s k).trans (.modFib ..)

theorem fenceSync (s : State) (k : Nat) (kind : FenceKind) (scope : Nat) : UnitsKept s (s.fenceSync k kind scope) := by
  unfold State.fenceSync
  exact (UnitsKept.branch (.refl s) (.syncLines s k)).trans (.modFib ..)

theorem learn (s : State) (ks : List Nat) (seen : List (Loc × Nat)) (rels : List Rel) : UnitsKept s (s.learn ks seen rels) :=
  .foldl _ _ (fun a k => .modFib a k _) s

theorem soPlace (s : State) (v : View) (seen : List (Loc × Nat)) : UnitsKept s (s.soPlace v seen) := ofTables rfl rfl rfl rfl

end UnitsKept

end Sys2Proof.Machine
end

section
/-! SUPPORT. Performing stores, ending strands and launches, and taking traps leave the queues of the units, but for the entry performed. -/

namespace Sys2Proof.Machine

namespace UnitsKept

/-! ### Performing the parts of an entry -/

theorem byteWrite (s : State) (cl : Nat) (part : Option Nat) (owners : List Nat) (b : ByteAt) (v : Byte) (hint : BitVec 2) :
    UnitsKept s (s.byteWrite cl part owners b v hint) := by
  unfold State.byteWrite
  split
  · exact .branch (.homeWrite ..) ((UnitsKept.uoFill ..).trans (.modCluster' _ _ _ fun _ => ⟨rfl, rfl⟩))
  · exact .homeWrite ..
  · exact .locPut ..

theorem atomPerform (s : State) (cl : Nat) (part : Option Nat) (op : AtomOp) (t : AType) (a : AtomLane) (rels : List Rel) :
    UnitsKept s (s.atomPerform cl part op t a rels).1 := by
  unfold State.atomPerform
  split
  · exact .refl s
  · exact ((UnitsKept.uoLeave s cl a.acc.bytes).trans (.beginWrite ..)).trans (.foldl _ _ (fun x b => .byteWrite x ..) _)

theorem wrote (s : State) (cl : Nat) (e : StoreEntry) (bs : List ByteAt) (rels : List Rel) : UnitsKept s (s.wrote cl e bs rels) := by
  unfold State.wrote
  dsimp only
  exact ((UnitsKept.branch (.soPlace ..) (.refl s)).trans (.learn ..)).trans (.modSpindle _ _ _ fun _ => unviewed_map_view ..)

theorem performPart (s : State) (cl : Nat) (part : Option Nat) (e : StoreEntry) (i : Nat) : UnitsKept s (s.performPart cl part e i) := by
  unfold State.performPart
  split
  · split
    · exact .branch (.foldl _ _ (fun z (b : ByteAt) => .poisonLine z b.loc) s) ((UnitsKept.atomPerform ..).trans (.wrote ..))
    · exact .refl s
  · split
    · next line _ =>
      have h : ∀ (p : Prop) [Decidable p], UnitsKept s (if p then s else s.uoWriteBack cl part line e.fences) := fun p _ =>
        .branch (.refl s) (.uoWriteBack ..)
      exact .branch (h _) ((h _).trans ((UnitsKept.uoDrop ..).trans (.rcDrop ..)))
    · exact .refl s
  · refine (((UnitsKept.uoLeave ..).trans (.beginWrite ..)).trans (.foldl _ _ (fun x b => ?_) _)).trans (.wrote ..)
    exact .branch (.poisonLine ..) (.byteWrite ..)

theorem performParts (s : State) (cl : Nat) (part : Option Nat) (e : StoreEntry) (is : List Nat) :
    UnitsKept s (s.performParts cl part e is) :=
  (UnitsKept.goHomes s cl _).trans (.foldl _ _ (fun a i => .performPart a cl part e i) _)

theorem atomOne (s : State) (k : Nat) (r : AtomReq) (x : AtomLane) (view : View) (fences : List Rel) :
    UnitsKept s (s.atomOne k r x view fences).1 := by
  unfold State.atomOne
  dsimp only
  generalize hy : s.atomPerform _ _ _ _ _ _ = y
  have h : UnitsKept s y.1 := hy ▸ .atomPerform ..
  split
  · exact h
  · exact h.trans ((UnitsKept.branch (.soPlace ..) (.refl _)).trans (.branch (ofTables rfl rfl rfl rfl) (.refl _)))

theorem atomLanes (s : State) (k : Nat) (r : AtomReq) (is : List Nat) (e : Option StoreEntry) :
    UnitsKept s (s.atomLanes k r is e).1 := by
  unfold State.atomLanes
  dsimp only
  generalize hp : List.foldl _ _ _ = p
  have h : UnitsKept s p.1 := by
    subst hp
    refine List.foldlRecOn (motive := fun a : State × AtomReq => UnitsKept s a.1) _ _ (.goHomes ..) fun a ih x _ => ih.trans ?_
    cases e with
    | none => exact .branch (.atomOne ..) ((UnitsKept.atomOne ..).trans (.learn ..))
    | some e => exact .branch (.atomOne ..) ((UnitsKept.atomOne ..).trans (.wrote ..))
  exact .branch h (h.trans (.count ..))

theorem replayRecord (s : State) (k addr kind lane : Nat) (body : List Byte) : UnitsKept s (s.replayRecord k addr kind lane body) := by
  unfold State.replayRecord
  split
  · exact .refl s
  · next sk _ =>
    refine .branch (.refl s) (.branch ?_ ?_)
    · refine (UnitsKept.modLaunch s sk.launch fun l => { l with logFull := true }).trans (.modPart _ _ ?_)
      exact ⟨rfl, rfl⟩
    · refine UnitsKept.trans (UnitsKept.trans ((UnitsKept.memWriteBytes ..).trans (.modPart _ _ ?_)) (.modSkein _ _ _ ?_)) (.count ..)
      · exact ⟨rfl, rfl⟩
      · exact fun _ => rfl

theorem atomLog (s : State) (k : Nat) (r : AtomReq) : UnitsKept s (s.atomLog k r) :=
  .branch (.foldl _ _ (fun a _ => .replayRecord a ..) s) (.refl s)

theorem holdBad (s : State) (k seq : Nat) (bad : List (LaneAcc × Cause)) (word : Word) (land : Nat × Nat × Nat) :
    UnitsKept s (s.holdBad k seq bad word land) := by
  unfold State.holdBad
  split
  · exact UnitsKept.trans (t := { s with freeCtr := s.freeCtr + 96 }) (ofTables rfl rfl rfl rfl) (.modFib ..)
  · exact .refl s

theorem atomLate (s : State) (e : StoreEntry) (r : AtomReq) : UnitsKept s (s.atomLate e r) := by
  unfold State.atomLate
  dsimp only
  generalize hu : (if r.acq then _ else s) = u
  have h : UnitsKept s u := by
    subst hu
    refine .branch ((UnitsKept.foldl _ _ (fun a k => (UnitsKept.syncLines a k).trans (.modFib ..)) s).trans (.modSpindle _ _ _ fun x => ?_)) (.refl s)
    rw [← unviewed_map_view x.stores fun y => if y.po.contains e.id then y.view.meet r.scope e.strand r.rels else y.view]
    congr 1
    exact List.map_congr_left fun y _ => by split <;> rfl
  generalize hv : State.modStrand _ e.strand _ = v
  have h' : UnitsKept s v := by
    subst hv
    exact (h.trans (.atomLog u (mkFib e.strand 0) r)).trans (.modStrand ..)
  split
  · exact h'.trans (.holdBad ..)
  · exact h'

theorem performSome (s : State) (cl : Nat) (part : Option Nat) (e : StoreEntry) (is : List Nat) :
    UnitsKept s (s.performSome cl part e is).1 := by
  unfold State.performSome
  split
  · exact .branch ((UnitsKept.atomLanes ..).trans (.atomLate ..)) (.atomLanes ..)
  · exact .performParts ..

/-! ### The end of strands and launches -/

theorem wakeFences (s : State) (cl sp : Nat) : UnitsKept s (s.wakeFences cl sp) := by
  refine .foldl _ _ (fun a f => ?_) s
  split
  · exact .branch ((UnitsKept.fenceSync ..).trans (.ready ..)) (.refl a)
  · exact .refl a

theorem pageRequest (s : State) (d : Nat) (e : PrqEntry) : UnitsKept s (s.pageRequest d e) := by
  unfold State.pageRequest
  have h := UnitsKept.modCtx s (ctxKey e.part e.ctx) fun c => { c with prqSeq := c.prqSeq + 1 }
  have h' := fun (p : Prop) [Decidable p] => h.trans (.branch (p := p) (.count _ e.cluster 0x15 1) (.refl _))
  exact .branch ((h' _).trans (.modDie ..)) ((h' _).trans (.modDie ..))

theorem agentWrite {s t : State} {cl : Option Nat} {key va : Nat} {v : List Byte} (h : s.agentWrite cl key va v = some t) :
    UnitsKept s t := by
  obtain ⟨bs, -, rfl⟩ := Option.map_eq_some_iff.mp h
  exact .locWrites ..

theorem writeCompletion (s : State) (n : Nat) (status count : Word) : UnitsKept s (s.writeCompletion n status count) := by
  unfold State.writeCompletion
  split
  · exact .refl s
  · split
    · next s' hs' =>
      have h : UnitsKept s { s' with launches := terase s'.launches n } := (UnitsKept.agentWrite hs').trans (ofTables rfl rfl rfl rfl)
      exact .branch (h.trans (.raise ..)) h
    · exact (UnitsKept.pageRequest ..).trans (.modLaunch ..)

theorem tryComplete (s : State) (n : Nat) : UnitsKept s (s.tryComplete n) := by
  unfold State.tryComplete
  split
  · exact .refl s
  · exact .branch (.writeCompletion ..) (.refl s)

/-- One more strand of a launch has ended. -/
theorem endedOne (s : State) (n : Nat) : UnitsKept s ((s.modLaunch n fun l => { l with ended := l.ended + 1 }).tryComplete n) :=
  (UnitsKept.modLaunch s n fun l => { l with ended := l.ended + 1 }).trans (.tryComplete ..)

theorem unbindAll (s : State) (sk : Nat) : UnitsKept s (s.unbindAll sk) := by
  refine .foldl _ _ (fun a e => ?_) s
  unfold State.unbind
  split
  · refine UnitsKept.trans (.modSkein _ _ _ ?_) (.modCluster' _ _ _ fun _ => ⟨rfl, rfl⟩)
    exact fun _ => rfl
  · exact .refl a

/-- A skein without strands may go. -/
theorem eraseSkein (s : State) {sk : Nat} (h : ∀ n, strandSkein n = sk → s.strand? n = none) :
    UnitsKept s { s with skeins := terase s.skeins sk } := by
  refine ⟨fun _ => rfl, fun _ _ => rfl, fun _ => ⟨rfl, rfl⟩, fun _ h => h, fun x => ?_⟩
  by_cases hx : x = sk
  · exact .inr (hx ▸ h)
  · exact .inl (by simp only [State.skein?, tget?_terase_ne _ hx])

theorem endSkein (s : State) {sk : Nat} (h : ∀ n, strandSkein n = sk → s.strand? n = none) : UnitsKept s (s.endSkein sk) := by
  unfold State.endSkein
  split
  · exact .refl s
  · next x _ =>
    dsimp only
    generalize hu : List.foldl _ _ x.withdrew = u
    have hend : UnitsKept s u := by
      subst hu
      have hun := UnitsKept.unbindAll s sk
      exact (hun.trans (.eraseSkein _ fun n hn => hun.strands n (h n hn))).trans (.foldl _ _ (fun a n => .endedOne a n) _)
    split
    · exact hend.trans (.endedOne ..)
    · exact hend.trans (.modLaunch ..)

theorem eraseStrand (s : State) (n : Nat) : UnitsKept s { s with strands := terase s.strands n } := by
  refine ⟨fun _ => rfl, fun _ _ => rfl, fun _ => ⟨rfl, rfl⟩, fun m hm => ?_, fun _ => .inl rfl⟩
  by_cases h : m = n
  · subst h; exact tget?_terase_self ..
  · exact (tget?_terase_ne s.strands h).trans hm

theorem mxAbandon (s : State) (n : Nat) : UnitsKept s (s.mxAbandon n) := by
  unfold State.mxAbandon
  split
  · exact .refl s
  · refine .branch ?_ (.refl s)
    dsimp only
    split
    · exact (UnitsKept.modStrand ..).trans (.afterCluster (.modLaunch ..) fun _ => ⟨rfl, rfl⟩)
    · exact (UnitsKept.modStrand ..).trans (.modCluster' _ _ _ fun _ => ⟨rfl, rfl⟩)

/-- Once a strand is over, its skein ends unless it has another strand. -/
theorem endSkeinUnlessUsed (s : State) (sk : Nat) :
    UnitsKept s (if s.strands.any fun e => strandSkein e.1 == sk then s else s.endSkein sk) := by
  split
  · exact .refl s
  · next hany =>
    refine .endSkein s fun m hm => ?_
    by_contra hst
    obtain ⟨st, hst⟩ := Option.ne_none_iff_exists'.mp hst
    exact hany (List.any_eq_true.mpr ⟨_, mem_of_tget? hst, by simp [hm]⟩)

theorem tryEndStrand (s : State) (n : Nat) : UnitsKept s (s.tryEndStrand n) := by
  unfold State.tryEndStrand
  dsimp only
  refine (UnitsKept.mxAbandon s n).trans ?_
  generalize s.mxAbandon n = a
  refine .branch (UnitsKept.trans ?_ (.endSkeinUnlessUsed ..)) (.refl a)
  have h := UnitsKept.eraseStrand a n
  split
  · exact .branch (h.trans (.modLaunch ..)) h
  · exact h

/-- Taking entries out of the queue of a spindle leaves the other units. -/
theorem dropStores (s : State) (cl sp : Nat) (p : StoreEntry → Bool) :
    UnitsKept (s.modSpindle cl sp fun x => { x with stores := x.stores.filter fun e => !p e }) (s.dropStores cl sp p) :=
  (UnitsKept.wakeFences ..).trans (.foldl _ _ (fun a n => .tryEndStrand a n) _)

/-! ### Traps and waits -/

theorem parkDeliver (s : State) (k : Nat) (tr : Trap) (resume : DWord) (act : Lanes) (nest : Bool) :
    UnitsKept s (s.parkDeliver k tr resume act nest) := by
  unfold State.parkDeliver
  split
  · exact .refl s
  · exact ((UnitsKept.pageRequest ..).trans (.modFib ..)).trans (.park ..)

theorem enterHandler (s : State) (k : Nat) (tr : Trap) (resume : DWord) (start : Bool) (act : Lanes) (t : Nat) :
    UnitsKept s (s.enterHandler k tr resume start act t) := by
  unfold State.enterHandler
  split
  · exact (((UnitsKept.modStrand ..).trans (.modFib ..)).trans (.packet ..)).trans (.ready ..)
  · exact .refl s

theorem deliver (s : State) (k : Nat) (tr : Trap) (resume : DWord) (start : Bool) (act : Lanes) :
    UnitsKept s (s.deliver k tr resume start act) := by
  unfold State.deliver
  split
  · refine .branch (.parkDeliver ..) (.branch (.parkDeliver ..) ?_)
    split
    · exact .branch (.enterHandler ..) (.modFib ..)
    · exact .modFib ..
  · exact .refl s

theorem takeTrap (s : State) (k : Nat) (tr : Trap) (act : Lanes) (len : Nat) : UnitsKept s (s.takeTrap k tr act len) := by
  unfold State.takeTrap
  split
  · exact .refl s
  · exact .branch (.deliver ..) (.deliver ..)

theorem endRun (s : State) (k : Nat) (pc : DWord) : UnitsKept s (s.endRun k pc) := by
  unfold State.endRun
  split
  · exact .refl s
  · exact (UnitsKept.modStrand ..).trans (.modFib ..)

theorem toReady (s : State) (k : Nat) : UnitsKept s (s.toReady k) := by
  unfold State.toReady
  split
  · exact .branch (.ready ..) (.park ..)
  · exact .refl s

theorem waitDone (s : State) (k : Nat) : UnitsKept s (s.waitDone k) := by
  unfold State.waitDone
  split
  · split
    · exact (UnitsKept.endRun ..).trans (.toReady ..)
    · exact .ready ..
  · exact .refl s

theorem trapWaiter (s : State) (k : Nat) (t : Trap) : UnitsKept s (s.trapWaiter k t) := by
  unfold State.trapWaiter
  split
  · exact (UnitsKept.modFib ..).trans (.takeTrap ..)
  · exact .refl s

theorem failTrap {s t : State} {strand : Nat} {k : OpClass} {tr : Trap} (h : s.failTrap strand k = some (t, tr)) : UnitsKept s t := by
  obtain ⟨st, -, h⟩ := Option.bind_eq_some_iff.mp h
  obtain ⟨f, -, h⟩ := Option.map_eq_some_iff.mp h
  cases h
  exact .modStrand ..

theorem waitcDone (s : State) (k : Nat) (cls : OpClass) : UnitsKept s (s.waitcDone k cls) := by
  unfold State.waitcDone
  split
  · next h => exact (UnitsKept.failTrap h).trans (.trapWaiter ..)
  · exact (UnitsKept.syncPoint ..).trans (.waitDone ..)

theorem waitcServe (s : State) (strand : Nat) (cls : OpClass) : UnitsKept s (s.waitcServe strand cls) := by
  unfold State.waitcServe
  split
  · exact .refl s
  · refine .foldl _ _ (fun a p => ?_) s
    split
    · exact .branch (.waitcDone ..) (.refl a)
    · exact .refl a

theorem finishOp (s : State) (strand : Nat) (k : OpClass) (num : Nat) (fail : Option Fail) :
    UnitsKept s (s.finishOp strand k num fail) := by
  unfold State.finishOp
  dsimp only
  have h := fun (f g : Strand → Strand) =>
    ((UnitsKept.modStrand s strand f).trans (.modStrand _ strand g)).trans (.count _ (strandCluster strand) 0x2C 1)
  exact (UnitsKept.trans ((h _ _).trans (.branch (.count ..) (.refl _))) (.waitcServe ..)).trans (.tryEndStrand ..)

end UnitsKept

end Sys2Proof.Machine
end

section
/-! SUPPORT. The last part of a queued store, and the end of an operation whose bursts are all made. -/

namespace Sys2Proof.Machine

/-! ### STORE_PERFORMED (R200, R201) -/

/-- The stores of a spindle's queue that a filter leaves. -/
theorem State.stores_modSpindle_filter (s : State) (cl sp : Nat) (p : StoreEntry → Bool) :
    ((s.modSpindle cl sp fun x => { x with stores := x.stores.filter p }).spindle cl sp).stores = (s.spindle cl sp).stores.filter p := by
  unfold State.spindle State.modSpindle
  rw [State.cluster_modCluster_self]
  simp only [List.getD_eq_getElem?_getD, getElem?_lset, if_pos]
  cases (s.cluster cl).spindles[sp]? <;> rfl

/-- The entries that stay when those of one number leave the queue. -/
theorem State.unviewed_dropStores (s : State) (cl sp id : Nat) :
    unviewed ((s.dropStores cl sp fun y => y.id == id).spindle cl sp).stores =
      (unviewed (s.spindle cl sp).stores).filter fun x => x.id != id := by
  rw [(UnitsKept.dropStores s cl sp _).stores, State.stores_modSpindle_filter, ← unviewed_filter _ fun _ => rfl]
  rfl

/-- The one part of an entry that has a single part and that nothing holds back. -/
theorem readyParts_one {may : Nat → Bool} (share : Nat → Nat → Bool) (h : may 0 = true) : readyParts 1 may share = [0] := by
  simp [readyParts, h]

theorem storePerformed_last {s : State} {cl sp i : Nat} {e : StoreEntry} (he : (s.spindle cl sp).stores[i]? = some e)
    (hdue : e.due ≤ s.cycle) (hsize : e.size = 1) (hmay : e.partMay (s.spindle cl sp).stores 0 = true)
    (hbank : (s.cluster cl).busyBank (e.partLocs 0) = none) :
    exec (.storePerformed cl sp i) s =
      .next ((s.performSome cl (s.partOf e.strand) e [0]).1.dropStores cl sp fun y => y.id == e.id) := by
  show execStorePerformed cl sp i s = _
  unfold execStorePerformed
  have hready := fun share => readyParts_one (may := fun n => e.partMay (s.spindle cl sp).stores n &&
    ((s.cluster cl).busyBank (e.partLocs n)).isNone) share (by simp [hmay, hbank])
  have hpick : ∀ single, s.pick [0] single = ([0], s) := fun _ => rfl
  simp only [he, hsize, hready, hpick]
  simp [Nat.not_lt.mpr hdue]

/-- R200, R201: with its last part performed, an entry leaves the queue. -/
theorem storePerformed_removes {s : State} {cl sp i : Nat} {e : StoreEntry} (he : (s.spindle cl sp).stores[i]? = some e)
    (hdue : e.due ≤ s.cycle) (hsize : e.size = 1) (hmay : e.partMay (s.spindle cl sp).stores 0 = true)
    (hbank : (s.cluster cl).busyBank (e.partLocs 0) = none) :
    ∃ t, exec (.storePerformed cl sp i) s = .next t ∧
      unviewed (t.spindle cl sp).stores = unviewed ((s.spindle cl sp).stores.filter fun x => x.id != e.id) := by
  refine ⟨_, storePerformed_last he hdue hsize hmay hbank, ?_⟩
  rw [State.unviewed_dropStores, (UnitsKept.performSome ..).stores, unviewed_filter _ fun _ => rfl]

/-! ### ENGINE_OP_COMPLETE (R249, R255) -/

/-- An operation without parts in flight that is to end leaves its queue. -/
theorem State.copies_endEng {s : State} {o : EngOp} {f : Option Fail} (hend : o.ending = some f) (hfly : o.flying = []) :
    ((s.endEng o).cluster (strandCluster o.strand)).copies =
      (s.cluster (strandCluster o.strand)).copies.filter fun x => !(x.strand == o.strand && x.cls == o.cls && x.num == o.num) := by
  unfold State.endEng
  simp only [hend, hfly, List.isEmpty_nil, if_true]
  rw [(UnitsKept.finishOp ..).copies, State.cluster_modCluster_self]
  exact congrArg (List.filter _) ((UnitsKept.count s ..).copies _)

/-- An operation whose ranges are all done makes no further burst. -/
theorem State.bursts_over (s : State) {o : EngOp} {rs : List Range} (hold : Bool) {n : Nat} (hn : n ≠ 0) (h : rs.length ≤ o.idx) :
    s.bursts o rs hold n = .over s o none := by
  obtain ⟨m, rfl⟩ := Nat.exists_eq_succ_of_ne_zero hn
  simp [State.bursts, List.getElem?_eq_none h]

theorem burstCount_ne_zero (rs : List Range) : burstCount rs ≠ 0 := by
  have h : ∀ (l : List Nat) (n : Nat), n ≤ l.foldl (· + ·) n := fun l n => by
    induction l generalizing n with
    | nil => exact le_rfl
    | cons x l ih => exact le_trans (Nat.le_add_right n x) (ih _)
  have := h (rs.map fun r => 2 * (r.n / 4096) + 4) 1
  unfold burstCount
  omega

/-- A started operation, other than a collective, that is done goes to its end where it may go on. -/
theorem State.perform_over {s : State} {o : EngOp} {rs : List Range} (hkind : o.kind.collSig = none) (hfly : o.flying = [])
    (hend : o.ending = none) (hplan : o.plan = some rs) (hidx : rs.length ≤ o.idx)
    (hhalt : (s.ctx (s.strandCtx o.strand)).halting = false) (hdue : o.due ≤ s.cycle) (hmay : s.engMay o = true) :
    ∃ u f, s.perform o = State.endEng u { o with ending := some f } := by
  have hstart : s.startEng o = (s, o) := by simp [State.startEng, hplan]
  have hb := fun n hn => State.bursts_over { s with freeCtr := s.freeCtr + 1 } (n != 0)
    (n := if n = 0 then burstCount rs else n) hn hidx
  have hne : ∀ n, (if n = 0 then burstCount rs else n) ≠ 0 := fun n => by
    split
    · exact burstCount_ne_zero rs
    · assumption
  refine ⟨{ s with freeCtr := s.freeCtr + 1 }, failureOf none o.bad o.done, ?_⟩
  unfold State.perform
  rw [if_neg (by simp [hfly, hend])]
  split
  · next hk => simp [EngKind.collSig, hk] at hkind
  · rw [if_neg (by simp [hhalt, hmay, hdue])]
    simp only [hstart, hplan, Option.getD_some, hb _ (hne _)]
    rw [← hplan]
    rfl

theorem engineOpComplete_removes {s : State} {strand num : Nat} {k : OpClass} {o : EngOp} {rs : List Range}
    (hfind : (s.cluster (strandCluster strand)).copies.find? (fun x => x.strand == strand && x.cls == k && x.num == num) = some o)
    (hkind : o.kind.collSig = none) (hfly : o.flying = []) (hend : o.ending = none) (hplan : o.plan = some rs) (hidx : rs.length ≤ o.idx)
    (hhalt : (s.ctx (s.strandCtx strand)).halting = false) (hdue : o.due ≤ s.cycle) (hmay : s.engMay o = true) :
    ∃ t, exec (.engineOpComplete strand k num) s = .next t ∧
      ∀ x ∈ (t.cluster (strandCluster strand)).copies, ¬ (x.strand = strand ∧ x.cls = k ∧ x.num = num) := by
  have hkey := List.find?_some hfind
  simp only [Bool.and_eq_true, beq_iff_eq] at hkey
  obtain ⟨⟨rfl, rfl⟩, rfl⟩ := hkey
  obtain ⟨u, f, hp⟩ := State.perform_over hkind hfly hend hplan hidx hhalt hdue hmay
  refine ⟨s.perform o, ?_, fun x hx => ?_⟩
  · show execEngineOpComplete _ _ _ s = _
    unfold execEngineOpComplete
    rw [hfind]
  · rw [hp, State.copies_endEng (o := { o with ending := some f }) rfl hfly] at hx
    rintro ⟨hs, hc, hn⟩
    simpa [hs, hc, hn] using (List.mem_filter.mp hx).2

end Sys2Proof.Machine
end

section
/-! SUPPORT. The lane reductions without an enabled trap, and the instructions on the substitution table and the escape log. -/

namespace Sys2Proof.Machine

/-! ### LRED and LSCAN (R138, R169) -/

/-- R138: with none of an order's causes enabled there is no trap. -/
theorem fpTrap_of_disabled {ctl : Word} {order : List Cause} (h : ∀ e ∈ order, ctl.getLsbD (fpEnable e).1 = false) (act : Lanes)
    (fl : Nat → Flags) : fpTrap ctl order act fl = none :=
  List.findSome?_eq_none_iff.mpr fun e he => by simp [h e he]

theorem Ctx.lanePut_of_disabled {c : Ctx} {op : LaneOp} (h : ∀ e ∈ laneOrder op, c.st.ctl.getLsbD (fpEnable e).1 = false) (s : State)
    (d : BitVec 8) (res : Nat → Word × Flags) (tag : Nat → Option Tag) :
    c.lanePut s op d res tag = .next (c.orFlags (c.putBits s d.toNat c.act (fun l => (res l).1) 0xFFFFFFFF 4 tag) (fun l => (res l).2) 4) := by
  unfold Ctx.lanePut
  rw [fpTrap_of_disabled h]
  rfl

/-- One value and one set of flags in every lane. -/
theorem Ctx.lanePut_const {c : Ctx} {op : LaneOp} (h : ∀ e ∈ laneOrder op, c.st.ctl.getLsbD (fpEnable e).1 = false) (s : State)
    (d : BitVec 8) (w : Word) (fl : Flags) (tag : Nat → Option Tag) :
    c.lanePut s op d (fun _ => (w, fl)) tag =
      .next (c.orFlags (c.putBits s d.toNat c.act (fun _ => w) 0xFFFFFFFF 4 tag) (fun _ => fl) 4) :=
  Ctx.lanePut_of_disabled h ..

theorem laneReductionsComplete (s : State) (c : Ctx) (f : X64) (op : LaneOp)
    (h : ∀ e ∈ laneOrder op, c.st.ctl.getLsbD (fpEnable e).1 = false) :
    (Issues (.lred op f) s c → ∃ W fl tag, exec (.lred op f) s =
      .next (c.advance (c.orFlags (c.putBits s f.d.toNat c.act (fun _ => W) 0xFFFFFFFF 4 tag) (fun _ => fl) 4))) ∧
    (Issues (.lscan op f) s c → ∃ W fl tag, exec (.lscan op f) s =
      .next (c.advance (c.orFlags (c.putBits s f.d.toNat c.act W 0xFFFFFFFF 4 tag) fl 4))) := by
  constructor
  · intro hi
    refine ⟨?_, ?_, ?_, show execLred op f s = _ from issue_next hi ?_⟩
    rotate_left 3
    show c.lanePut s op f.d (fun _ => (_, _)) (c.allTag f.a) = _
    rw [Ctx.lanePut_const h]
  · intro hi
    refine ⟨?_, ?_, ?_, show execLscan op f s = _ from issue_next hi ?_⟩
    rotate_left 3
    show c.lanePut s op f.d _ _ = _
    rw [Ctx.lanePut_of_disabled h]

/-! ### SBRD, ESCRD, SBWD and SBCLR (R423 to R427) -/

theorem Ctx.subIndex_of_le {c : Ctx} {a : BitVec 8} (h : (c.rdLow a.toNat).toNat ≤ 63) : c.subIndex a = .ok (c.rdLow a.toNat).toNat :=
  if_neg (Nat.not_lt.mpr h)

theorem Ctx.cluster_advance (c : Ctx) (s : State) (n : Nat) : (c.advance s).cluster n = s.cluster n := rfl

/-- An entry of the table after a change of another, and of itself. -/
theorem State.subst_modSub (s : State) (cl n m : Nat) (f : SubEntry → SubEntry) :
    ((s.modSub cl n f).cluster cl).subst[m]? =
      if m = n then (s.cluster cl).subst[m]?.map f else (s.cluster cl).subst[m]? := by
  unfold State.modSub
  rw [State.cluster_modCluster_self, getElem?_lset]
  split
  · next h =>
    subst h
    rw [List.getD_eq_getElem?_getD]
    cases (s.cluster cl).subst[m]? <;> rfl
  · rfl

/-- Freeing an entry leaves the others. -/
theorem State.subst_subFree_ne (s : State) (cl part : Nat) {n m : Nat} (h : m ≠ n) :
    ((s.subFree cl part n).cluster cl).subst[m]? = (s.cluster cl).subst[m]? := by
  unfold State.subFree
  dsimp only
  split
  · rfl
  · rw [State.cluster_modCluster_self]
    exact (State.subst_modSub ..).trans (if_neg h)

/-- Freeing leaves an entry that is free. -/
theorem State.subst_subFree_of_free {s : State} {cl : Nat} (part n : Nat) {m : Nat} {e : SubEntry}
    (he : (s.cluster cl).subst[m]? = some e) (hfree : e.state = .free) :
    ((s.subFree cl part n).cluster cl).subst[m]? = some e := by
  by_cases h : m = n
  · subst h
    unfold State.subFree
    dsimp only
    rw [if_pos (by simp [List.getD_eq_getElem?_getD, he, hfree])]
    exact he
  · rw [State.subst_subFree_ne _ _ _ h, he]

theorem State.subst_subFree_self {s : State} {cl n : Nat} {e : SubEntry} (he : (s.cluster cl).subst[n]? = some e)
    (hfree : e.state ≠ .free) :
    ((s.subFree cl e.part n).cluster cl).subst[n]? = some { installs := e.installs } := by
  unfold State.subFree
  dsimp only
  rw [if_neg (by simp [List.getD_eq_getElem?_getD, he, hfree]), State.cluster_modCluster_self]
  refine (State.subst_modSub ..).trans ?_
  rw [if_pos rfl, he]
  rfl

/-- Freeing entries one after another, an entry among them. -/
theorem State.subst_foldl_subFree {s : State} {cl n : Nat} {e : SubEntry} {l : List Nat} (hn : n ∈ l)
    (he : (s.cluster cl).subst[n]? = some e) (hfree : e.state ≠ .free) :
    ((l.foldl (fun a m => a.subFree cl e.part m) s).cluster cl).subst[n]? = some { installs := e.installs } := by
  induction l generalizing s with
  | nil => cases hn
  | cons m l ih =>
    by_cases h : n = m
    · subst h
      rw [List.foldl_cons]
      exact List.foldlRecOn (motive := fun a : State => (a.cluster cl).subst[n]? = some { installs := e.installs }) _ _
        (State.subst_subFree_self he hfree) fun a ih x _ => State.subst_subFree_of_free _ _ ih rfl
    · exact ih ((List.mem_cons.mp hn).resolve_left h) ((State.subst_subFree_ne _ _ _ h).trans he)

/-- The DONE sampler entries that are freed are none of the table. -/
theorem State.subst_doneFree (s : State) (cl part : Nat) : ((s.doneFree cl part).cluster cl).subst = (s.cluster cl).subst := by
  unfold State.doneFree
  rw [State.cluster_modCluster_self]

variable {s : State} {c : Ctx} {f : X64}

theorem sbrd_completes (h : Issues (.sbrd f) s c) (hidx : (c.rdLow f.a.toNat).toNat ≤ 63) :
    ∃ W, exec (.sbrd f) s = .next (c.afterWrite s f.d 0xFFFFFFFF 3 W fun _ => 0) := by
  simp only [Ctx.afterWrite_noFlags]
  refine ⟨?_, show execSbrd f s = _ from issue_next h ?_⟩
  rotate_left
  rw [Ctx.subIndex_of_le hidx]
  rfl

/-- A fibre that has parked and whose instruction is behind it. -/
theorem Ctx.parkedIn_advance {c : Ctx} {s : State} {w : Wait} (h : ParkedIn s c.k w) : ParkedIn (c.advance s) c.k w := by
  obtain ⟨g, hg, hstate, hwait⟩ := h
  exact ⟨_, (State.fib?_modFib_self ..).trans (congrArg (Option.map _) hg), hstate, hwait⟩

/-- A load that misses parks its fibre. -/
theorem State.parkedIn_parkMiss {s : State} {k : Nat} {f : Fibre} (h : s.fib? k = some f) (m : MissLoad) :
    ∃ m', ParkedIn (s.parkMiss k m) k (.miss m') ∧ m'.form = m.form := by
  obtain ⟨b, hb⟩ := State.fib?_park_self ((State.fib?_of_strands (s := s) (t := s.dueAt.2) rfl k).trans h)
    (.miss { m with pend := m.lanes.flatMap fun x => x.pieces.map fun p => (x.lane, p.1, p.2), due := s.dueAt.1 })
  exact ⟨_, ⟨_, hb, rfl, rfl⟩, rfl⟩

theorem escrd_completes (h : Issues (.escrd f) s c) :
    ∃ t m, exec (.escrd f) s = .next t ∧ c.WentOn t ∧ ParkedIn t c.k (.miss m) ∧ m.form.dst = f.d.toNat := by
  obtain ⟨-, g, hg, -, -⟩ := State.takeSeq_of_seat h.seat
  obtain ⟨m, hpark, hform⟩ := State.parkedIn_parkMiss hg _
  exact ⟨_, m, show execEscrd f s = _ from issue_next h rfl, ⟨_, rfl⟩, Ctx.parkedIn_advance hpark, congrArg LoadForm.dst hform⟩

theorem sbwd_completes (h : Issues (.sbwd f) s c) (hidx : (c.rdLow f.a.toNat).toNat ≤ 63)
    (hen : (s.part (s.strandPart c.strand)).substCtl.getLsbD 0 = true) :
    ∃ t, exec (.sbwd f) s = .next t ∧ c.WentOn t ∧
      ∀ e, (s.cluster c.cluster).subst[(c.rdLow f.a.toNat).toNat]? = some e → e.part = s.strandPart c.strand → e.state = .promoted →
        (t.cluster c.cluster).subst[(c.rdLow f.a.toNat).toNat]? =
          some { e with state := if f.imm8 = 3 then .rejected else .withdrawn } := by
  refine ⟨_, show execSbwd f s = _ from issue_next h (by rw [Ctx.subIndex_of_le hidx]; simp only [substEn, hen]; rfl),
    ⟨_, rfl⟩, fun e he hp hs => ?_⟩
  rw [Ctx.cluster_advance, State.subst_modSub, if_pos rfl, he, Option.map_some, if_pos (by simp [hp, hs])]

/-- R427: IMM8[0] frees every entry. -/
theorem sbclr_all (h : Issues (.sbclr f) s c) (hall : f.imm8.getLsbD 0 = true) :
    exec (.sbclr f) s = .next (c.advance (((List.range 64).foldl (fun a n => a.subFree c.cluster (s.strandPart c.strand) n) s).doneFree
      c.cluster (s.strandPart c.strand))) := by
  show execSbclr f s = _
  exact issue_next h (if_pos hall)

theorem sbclr_one (h : Issues (.sbclr f) s c) (hone : ¬ f.imm8.getLsbD 0 = true) (hidx : (c.rdLow f.a.toNat).toNat ≤ 63) :
    exec (.sbclr f) s = .next (c.advance (s.subFree c.cluster (s.strandPart c.strand) (c.rdLow f.a.toNat).toNat)) := by
  show execSbclr f s = _
  exact issue_next h ((if_neg hone).trans (by rw [Ctx.subIndex_of_le hidx]))

theorem sbclr_completes (h : Issues (.sbclr f) s c) (hidx : (c.rdLow f.a.toNat).toNat ≤ 63) :
    ∃ t, exec (.sbclr f) s = .next t ∧ c.WentOn t ∧
      ∀ e, (s.cluster c.cluster).subst[(c.rdLow f.a.toNat).toNat]? = some e → e.part = s.strandPart c.strand → e.state ≠ .free →
        (t.cluster c.cluster).subst[(c.rdLow f.a.toNat).toNat]? = some { installs := e.installs } := by
  by_cases hall : f.imm8.getLsbD 0 = true
  · refine ⟨_, sbclr_all h hall, ⟨_, rfl⟩, fun e he hp hs => ?_⟩
    rw [Ctx.cluster_advance, State.subst_doneFree, ← hp]
    exact State.subst_foldl_subFree (List.mem_range.mpr (by omega)) he hs
  · refine ⟨_, sbclr_one h hall hidx, ⟨_, rfl⟩, fun e he hp hs => ?_⟩
    rw [Ctx.cluster_advance, ← hp]
    exact State.subst_subFree_self he hs

end Sys2Proof.Machine
end

section
/-! SUPPORT. The engine instructions: COPY, GATHER and COLL (R250, R251, R257). -/

namespace Sys2Proof.Machine

/-! ### The fibre's earlier stores -/

/-- A strand that is left runs in the context it ran in. -/
theorem UnitsKept.strandCtx {s t : State} (h : UnitsKept s t) {n : Nat} (hn : t.strand? n ≠ none) : t.strandCtx n = s.strandCtx n := by
  have hdef : ∀ u : State, u.strandCtx n = ((u.skein? (strandSkein n)).map Skein.key).getD 0 := fun u => by
    unfold State.strandCtx
    cases u.skein? (strandSkein n) <;> rfl
  rw [hdef, hdef, (h.contexts (strandSkein n)).resolve_right fun hno => hn (hno n rfl)]

/-- Performing its earlier stores leaves a fibre's strand, and its context. -/
theorem State.strandCtx_drainStores {s : State} {k : Nat} {f : Fibre} (hf : s.fib? k = some f) :
    (s.drainStores k).strandCtx (fibStrand k) = s.strandCtx (fibStrand k) := by
  unfold State.drainStores State.drainFor
  dsimp only
  split
  · rfl
  · generalize hp : List.foldl _ s _ = p
    have hkept : UnitsKept s p := hp ▸ .foldl _ _ (fun a e => .performSome ..) s
    have hstay : Stays k s p := hp ▸ .foldl _ _ (fun a e => .performEntry ..) s
    obtain ⟨st, hst, -⟩ := Option.bind_eq_some_iff.mp hf
    have hseat : s.seat k ≠ none := fun h => by
      simp [State.seat, hst, show tget? st.paths (fibPath k) = some f by simpa [State.fib?, hst] using hf] at h
    have hdrop := UnitsKept.dropStores p (fibCluster k) (s.spindleOf k) fun e => (s.storesBefore k [] true).any fun x => x.id == e.id
    generalize hq : p.dropStores _ _ _ = q at hdrop ⊢
    have hqseat : q.seat k ≠ none := by
      rw [(Stays.kept (hstay.trans (hq ▸ .dropStores ..)) hseat).1]
      exact hseat
    have hqst : q.strand? (fibStrand k) ≠ none := fun h => hqseat (by rw [State.seat, h]; rfl)
    have hpst : p.strand? (fibStrand k) ≠ none := fun h => hqst (hdrop.strands _ h)
    exact (hdrop.strandCtx hqst).trans (hkept.strandCtx hpst)

/-- A fibre without stores has none to perform. -/
theorem State.drainStores_of_none {s : State} {k : Nat} (h : s.myStores k = []) : s.drainStores k = s := by
  unfold State.drainStores State.drainFor State.storesBefore
  rw [h]
  rfl

/-! ### Handing an operation to the copy engine -/

/-- From `s` to `t` the fibre's queued stores are the same, and its strand's operations. -/
def Ctx.IssuesAs (c : Ctx) (s t : State) : Prop :=
  t.myStores c.k = s.myStores c.k ∧ (t.strand? c.strand).map (·.ops) = (s.strand? c.strand).map (·.ops)

theorem Ctx.IssuesAs.trans {c : Ctx} {s t u : State} (h : c.IssuesAs s t) (h' : c.IssuesAs t u) : c.IssuesAs s u :=
  ⟨h'.1.trans h.1, h'.2.trans h.2⟩

/-- A change of the strand that leaves its spindle and its operations. -/
theorem Ctx.issuesAs_modStrand (c : Ctx) (s : State) {g : Strand → Strand} (h : ∀ st, (g st).spindle = st.spindle ∧ (g st).ops = st.ops) :
    c.IssuesAs s (s.modStrand c.strand g) := by
  constructor
  · unfold State.myStores State.storesOf State.spindleOf
    rw [show fibStrand c.k = c.strand from rfl, State.strand?_modStrand_self, Option.map_map]
    simp only [Function.comp_def, (h _).1]
    rfl
  · rw [State.strand?_modStrand_self, Option.map_map]
    simp only [Function.comp_def, (h _).2]

theorem Ctx.issuesAs_put (c : Ctx) (s : State) (r : BitVec 8) (val : Nat → Word) (lat : Nat) : c.IssuesAs s (c.put s r val lat) := by
  refine c.issuesAs_modStrand s fun st => ?_
  split <;> exact ⟨rfl, rfl⟩

/-- An operation is one more of its class. -/
theorem Strand.cnt_issueOp (st : Strand) (k : OpClass) : (st.issueOp k).cnt k = st.cnt k + 1 := by
  simp [Strand.issueOp, Strand.cnt]

theorem Ctx.cnt_issueEngine {c : Ctx} {s a : State} (ha : c.IssuesAs s a) (hs : s.myStores c.k = []) (hst : s.strand? c.strand = some c.st)
    (k : OpClass) (kind : EngKind) (promise : Option Nat) :
    ∃ st, (c.issueEngine a k kind promise).strand? c.strand = some st ∧ st.cnt k = c.st.cnt k + 1 := by
  obtain ⟨hmine, hops⟩ := ha
  rw [hst, Option.map_some] at hops
  obtain ⟨st, hast, hst'⟩ := Option.map_eq_some_iff.mp hops
  refine ⟨st.issueOp k, ?_, ?_⟩
  · unfold Ctx.issueEngine
    rw [State.drainStores_of_none (hmine.trans hs)]
    exact (State.strand?_modStrand_self ..).trans (congrArg _ hast)
  · rw [Strand.cnt_issueOp, Strand.cnt, hst', Strand.cnt]

/-! ### The instructions -/

/-- An instruction without a tainted operand writes no escape record. -/
theorem Ctx.escapeLow_untagged {c : Ctx} (h : c.Untagged) (s : State) (dst : DWord) : c.escapeLow s dst = .ok s := by
  have hno : c.tagIn ((c.i.regs.low.flatMap spanRegs).map fun r => (r, c.low)) = none :=
    List.findSome?_eq_none_iff.mpr fun r _ => h ..
  simp only [Ctx.escapeLow, hno]

theorem Ctx.engineInstr_goes {c : Ctx} {s : State} {k : OpClass} (hact : c.act ≠ 0) (htag : c.Untagged)
    (hready : s.engineReady c.strand k = true) {err : Option OperandErr} (herr : err = none) (dst : DWord) (go : State → State) :
    c.engineInstr s k err dst go = .next (go s) := by
  subst herr
  unfold Ctx.engineInstr
  rw [if_neg (by simpa using hact), if_neg (by simp [hready])]
  simp [c.escapeLow_untagged htag]

/-- An operation is issued from `v`: the instruction goes on, and the strand's operations are those that issuing left. -/
def Ctx.IssuesOp (c : Ctx) (s v : State) (i : Instr) (k : OpClass) (kind : EngKind) : Prop :=
  ∃ a promise u, exec i s = .next (c.advance u) ∧ c.IssuesAs v a ∧
    (u.strand? c.strand).map (·.ops) = ((c.issueEngine a k kind promise).strand? c.strand).map (·.ops)

section
variable {s : State} {c : Ctx} {f : X64} {k : OpClass} {kind : EngKind} {dst : DWord} (hact : c.act ≠ 0) (htag : c.Untagged)
include hact htag

/-- COPY puts its promise into D and issues (R263, R265). -/
theorem Ctx.copyInstr_issues (v : State) (hready : v.engineReady c.strand .c = true) {err : Option OperandErr} (herr : err = none)
    (dst : DWord) (kind : EngKind) (d : BitVec 8) :
    ∃ a promise u, c.engineInstr v .c err dst (fun s =>
        let p := s.newPromise c.strand
        let s := c.put p.1 d (fun _ => BitVec.ofNat 32 p.2) 2
        (c.issueEngine s .c kind (some p.2)).modStrand c.strand fun st => { st with promiseLast := BitVec.ofNat 32 p.2 }) = .next u ∧
      c.IssuesAs v a ∧ (u.strand? c.strand).map (·.ops) = ((c.issueEngine a .c kind promise).strand? c.strand).map (·.ops) := by
  refine ⟨c.put (v.newPromise c.strand).1 d (fun _ => BitVec.ofNat 32 (v.newPromise c.strand).2) 2, some (v.newPromise c.strand).2, _,
    Ctx.engineInstr_goes hact htag hready herr dst _, ?_, ?_⟩
  · exact Ctx.IssuesAs.trans (t := (v.newPromise c.strand).1) ⟨rfl, rfl⟩ (c.issuesAs_put _ d _ 2)
  · rw [State.strand?_modStrand_self, Option.map_map]
    rfl

theorem copyLin_issues (h : Issues (.copy .lin f) s c) (he : engineOf s c (.copy .lin f) = some (k, kind, none, dst))
    (hready : s.engineReady c.strand k = true) : c.IssuesOp s s (.copy .lin f) k kind := by
  simp only [engineOf, Option.some.injEq, Prod.mk.injEq] at he
  obtain ⟨rfl, rfl, herr, rfl⟩ := he
  obtain ⟨a, promise, u, hu, hops⟩ := Ctx.copyInstr_issues hact htag s hready herr (c.rdPairLow f.a.toNat)
    (.lin (c.rdPairLow f.a.toNat).toNat (c.rdPairLow f.b.toNat).toNat (c.rdLow f.c.toNat).toNat) f.d
  refine ⟨a, promise, u, ?_, hops⟩
  show execCopy .lin f s = _
  exact issue_next h hu

theorem copyPeer_issues (h : Issues (.copy .peer f) s c) (he : engineOf s c (.copy .peer f) = some (k, kind, none, dst))
    (hready : s.engineReady c.strand k = true) : c.IssuesOp s s (.copy .peer f) k kind := by
  simp only [engineOf, Option.some.injEq, Prod.mk.injEq] at he
  obtain ⟨rfl, rfl, herr, rfl⟩ := he
  obtain ⟨a, promise, u, hu, hops⟩ := Ctx.copyInstr_issues hact htag s hready herr (c.rdPairLow f.a.toNat) _ f.d
  refine ⟨a, promise, u, ?_, hops⟩
  show execCopy .peer f s = _
  exact issue_next h hu

/-- COPY.PAT reads its pattern after the fibre's earlier stores (R253, R265). -/
theorem copyPat_issues (h : Issues (.copy .pat f) s c) {v : State}
    (hv : v = if s.drainBusy c.k = none then s.drainStores c.k else s)
    (he : engineOf v c (.copy .pat f) = some (k, kind, none, dst)) (hready : v.engineReady c.strand k = true) :
    c.IssuesOp s v (.copy .pat f) k kind := by
  have hkey : v.strandCtx c.strand = s.strandCtx c.strand := by
    rw [hv]
    split
    · exact State.strandCtx_drainStores h.fib
    · rfl
  simp only [engineOf, hkey, Option.some.injEq, Prod.mk.injEq] at he
  obtain ⟨rfl, rfl, herr, rfl⟩ := he
  obtain ⟨a, promise, u, hu, hops⟩ := Ctx.copyInstr_issues hact htag v hready herr (c.rdPairLow f.a.toNat) _ f.d
  refine ⟨a, promise, u, ?_, hops⟩
  have hv' : (if (CopyKind.pat = .pat && c.act != 0 && (s.drainBusy c.k).isNone) = true then s.drainStores c.k else s) = v := by
    rw [hv, bne_iff_ne.mpr hact]
    simp
  show execCopy .pat f s = _
  refine issue_next h ?_
  dsimp only
  rw [hv']
  exact hu

theorem gather_issues (h : Issues (.gather f) s c) (he : engineOf s c (.gather f) = some (k, kind, none, dst))
    (hready : s.engineReady c.strand k = true) : c.IssuesOp s s (.gather f) k kind := by
  simp only [engineOf, Option.some.injEq, Prod.mk.injEq] at he
  obtain ⟨rfl, rfl, herr, rfl⟩ := he
  refine ⟨s, none, _, ?_, ⟨rfl, rfl⟩, rfl⟩
  show execGather f s = _
  exact issue_next h (Ctx.engineInstr_goes hact htag hready herr ..)

theorem coll_issues {op : CollOp} (h : Issues (.coll op f) s c) (he : engineOf s c (.coll op f) = some (k, kind, none, dst))
    (hready : s.engineReady c.strand k = true) : c.IssuesOp s s (.coll op f) k kind := by
  simp only [engineOf, Option.some.injEq, Prod.mk.injEq] at he
  obtain ⟨rfl, rfl, herr, rfl⟩ := he
  let g := (f.ext.w1.extractLsb' 0 8).toNat
  let inst := ((s.skein? c.skein).bind fun x => tget? x.colls g).getD 0
  refine ⟨s.modSkein c.skein fun x => { x with colls := tset x.colls g (inst + 1) }, none, _, ?_, ⟨rfl, rfl⟩, rfl⟩
  show execColl op f s = _
  exact issue_next h (Ctx.engineInstr_goes hact htag hready herr ..)

end

/-- Whether an instruction is a COPY.PAT. -/
def isPat : Instr → Bool
  | .copy .pat _ => true
  | _ => false

/-- R250, R251, R257: an engine instruction whose counter and queue are open and whose checks pass issues its operation. -/
theorem engineInstr_issues {s v : State} {c : Ctx} {i : Instr} {k : OpClass} {kind : EngKind} {dst : DWord} (h : Issues i s c)
    (hact : c.act ≠ 0) (htag : c.Untagged) (hv : v = if isPat i = true ∧ s.drainBusy c.k = none then s.drainStores c.k else s)
    (he : engineOf v c i = some (k, kind, none, dst)) (hready : v.engineReady c.strand k = true) : c.IssuesOp s v i k kind := by
  unfold engineOf at he
  split at he
  · obtain rfl : v = s := hv.trans (if_neg (by simp [isPat]))
    exact copyLin_issues hact htag h he hready
  · exact copyPat_issues hact htag h (by simpa [isPat] using hv) he hready
  · obtain rfl : v = s := hv.trans (if_neg (by simp [isPat]))
    exact copyPeer_issues hact htag h he hready
  · obtain rfl : v = s := hv.trans (if_neg (by simp [isPat]))
    exact gather_issues hact htag h he hready
  · obtain rfl : v = s := hv.trans (if_neg (by simp [isPat]))
    exact coll_issues hact htag h he hready
  · cases he

theorem engineFormsComplete {s v : State} {c : Ctx} {i : Instr} {k : OpClass} {kind : EngKind} {dst : DWord} (h : Issues i s c)
    (hact : c.act ≠ 0) (htag : c.Untagged) (hv : v = if isPat i = true ∧ s.drainBusy c.k = none then s.drainStores c.k else s)
    (he : engineOf v c i = some (k, kind, none, dst)) (hready : v.engineReady c.strand k = true) :
    (∃ t, exec i s = .next t ∧ c.WentOn t) ∧
    (s.myStores c.k = [] → ∃ t st, exec i s = .next t ∧ c.WentOn t ∧ t.strand? c.strand = some st ∧ st.cnt k = c.st.cnt k + 1) := by
  obtain ⟨a, promise, u, hexec, ha, hops⟩ := engineInstr_issues h hact htag hv he hready
  refine ⟨⟨_, hexec, ⟨u, rfl⟩⟩, fun hmine => ?_⟩
  obtain rfl : v = s := by
    rw [hv, State.drainStores_of_none hmine, ite_self]
  obtain ⟨st, hst, hcnt⟩ := Ctx.cnt_issueEngine ha hmine h.strand k kind promise
  rw [hst, Option.map_some] at hops
  obtain ⟨st', hst', hops⟩ := Option.map_eq_some_iff.mp hops
  refine ⟨_, _, hexec, ⟨u, rfl⟩, (State.strand?_modStrand_self ..).trans (congrArg _ hst'), ?_⟩
  rw [← hcnt]
  unfold Strand.cnt
  exact congrArg (fun ops => (ops.filter fun o => o.cls == k).length) hops

end Sys2Proof.Machine
end

section
/-! SUPPORT. The Ephemeris tick and the trace drain (R432, R438). -/

namespace Sys2Proof.Machine

/-! ### What writes to memory leave of the partitions and the clusters -/

/-- A logged write leaves a partition but for its undo log. -/
theorem State.part_logLine (s : State) (part : Option Nat) (key q : Nat) :
    ∃ undo full, (s.logLine part key).part q = { s.part q with undo := undo, ckFull := full } := by
  have hmod : ∀ (u : State) (p : Nat) (g : Partition → Partition), (∀ x, ∃ undo full, g x = { x with undo := undo, ckFull := full }) →
      u.parts = (s.modPart p g).parts → ∃ undo full, u.part q = { s.part q with undo := undo, ckFull := full } := fun u p g hg hu => by
    have : u.part q = (s.modPart p g).part q := by unfold State.part; rw [hu]
    rw [this]
    by_cases hq : q = p
    · subst hq; rw [State.part_modPart_self]; exact hg _
    · rw [State.part_modPart_ne _ _ hq]; exact ⟨_, _, rfl⟩
  unfold State.logLine
  cases part with
  | none => exact ⟨_, _, rfl⟩
  | some p =>
    dsimp only
    split
    · exact ⟨_, _, rfl⟩
    · split
      · exact hmod _ p _ (fun x => ⟨_, _, rfl⟩) rfl
      · exact hmod _ p (fun x => { x with undo := x.undo ++ [lineOf key] }) (fun x => ⟨_, _, rfl⟩) rfl

theorem State.part_memPuts (s : State) (part : Option Nat) (key : Nat) (bs : List Byte) (q : Nat) :
    ∃ undo full, (s.memPuts part key bs).part q = { s.part q with undo := undo, ckFull := full } := by
  induction bs generalizing s key with
  | nil => exact ⟨_, _, rfl⟩
  | cons b bs ih =>
    obtain ⟨_, _, h⟩ := ih (s.memPut part key b) (key + 1)
    have hput : ∃ undo full, (s.memPut part key b).part q = { s.part q with undo := undo, ckFull := full } := by
      unfold State.memPut
      split
      · exact ⟨_, _, rfl⟩
      · exact s.part_logLine part key q
    obtain ⟨_, _, h'⟩ := hput
    exact ⟨_, _, h.trans (by rw [h'])⟩

theorem State.clusters_memWriteBytes (s : State) (part : Option Nat) (key : Nat) (bs : List Byte) :
    (s.memWriteBytes part key bs).clusters = s.clusters := by
  obtain ⟨_, _, _, _, _, h⟩ := s.onlyMemory_memWriteBytes part key bs
  rw [h]

/-! ### The Ephemeris tick -/

/-- From `s` to `t` no event was counted, each partition has the clusters it had, and of each cluster the counts at the last tick are those
they were or the present ones. -/
structure Latches (s t : State) : Prop where
  ev : ∀ c, (t.cluster c).ev = (s.cluster c).ev
  clustersOf : ∀ p, t.clustersOf p = s.clustersOf p
  evTick : ∀ c, (t.cluster c).evTick = (s.cluster c).evTick ∨ (t.cluster c).evTick = (s.cluster c).ev

namespace Latches

theorem refl (s : State) : Latches s s := ⟨fun _ => rfl, fun _ => rfl, fun _ => .inl rfl⟩

theorem trans {s t u : State} (h : Latches s t) (h' : Latches t u) : Latches s u where
  ev c := (h'.ev c).trans (h.ev c)
  clustersOf p := (h'.clustersOf p).trans (h.clustersOf p)
  evTick c := by
    rcases h'.evTick c with h2 | h2
    · exact (h.evTick c).imp h2.trans h2.trans
    · exact .inr (h2.trans (h.ev c))

theorem foldl {α : Type} (l : List α) (g : State → α → State) (h : ∀ a x, Latches a (g a x)) (s : State) : Latches s (l.foldl g s) :=
  List.foldlRecOn (motive := fun a => Latches s a) _ _ (refl s) fun a ih x _ => ih.trans (h a x)

theorem branch {s t u : State} {p : Prop} [Decidable p] (h : Latches s t) (h' : Latches s u) : Latches s (if p then t else u) := by
  split
  · exact h
  · exact h'

/-- A change that leaves the clusters, and the range of each partition. -/
theorem ofParts {s t : State} (hc : t.clusters = s.clusters) (ha : t.absent = s.absent)
    (hp : ∀ p, (t.part p).rangeBase = (s.part p).rangeBase ∧ (t.part p).rangeLimit = (s.part p).rangeLimit) : Latches s t := by
  have hcl : ∀ c, t.cluster c = s.cluster c := fun c => by unfold State.cluster; rw [hc]
  refine ⟨fun c => by rw [hcl], fun p => ?_, fun c => .inl (by rw [hcl])⟩
  unfold State.clustersOf
  exact List.filter_congr fun c _ => by unfold State.owns; rw [(hp p).1, (hp p).2, ha]

theorem modPart (s : State) (p : Nat) {f : Partition → Partition}
    (h : ∀ x, (f x).rangeBase = x.rangeBase ∧ (f x).rangeLimit = x.rangeLimit) : Latches s (s.modPart p f) := by
  refine ofParts rfl rfl fun q => ?_
  by_cases hq : q = p
  · subst hq; rw [State.part_modPart_self]; exact h _
  · rw [State.part_modPart_ne _ _ hq]; exact ⟨rfl, rfl⟩

theorem memWriteBytes (s : State) (part : Option Nat) (key : Nat) (bs : List Byte) : Latches s (s.memWriteBytes part key bs) := by
  refine ofParts (s.clusters_memWriteBytes ..) ?_ fun q => ?_
  · obtain ⟨_, _, _, _, _, h⟩ := s.onlyMemory_memWriteBytes part key bs
    rw [h]
  · obtain ⟨_, _, h⟩ := s.beginOther.part_memPuts part key bs q
    unfold State.memWriteBytes
    rw [h]
    exact ⟨rfl, rfl⟩

theorem raise (s : State) (v : Nat) : Latches s (s.raise v) := by
  unfold State.raise
  exact .branch (ofParts rfl rfl fun _ => ⟨rfl, rfl⟩) (ofParts rfl rfl fun _ => ⟨rfl, rfl⟩)

theorem ephPut (s : State) (part : Nat) (r : List Byte) : Latches s (s.ephPut part r) := by
  unfold State.ephPut
  have h := fun (key : Nat) (bs : List Byte) => (Latches.memWriteBytes s (some part) key bs).trans
    (.modPart _ part (f := fun p => { p with ephHead := p.ephHead + 1, ephLost := 0 }) fun _ => ⟨rfl, rfl⟩)
  exact .branch ((h _ _).trans (.raise ..)) (h _ _)

theorem ephDrain (s : State) (part n : Nat) : Latches s (s.ephDrain part n) := by
  induction n generalizing s with
  | zero => exact .refl s
  | succ n ih =>
    unfold State.ephDrain
    split
    · exact .refl s
    · next r rest _ =>
      have h : Latches s (s.modPart part fun p => { p with ephWait := rest }) := .modPart _ _ fun _ => ⟨rfl, rfl⟩
      exact .branch ((h.trans (.ephPut ..)).trans (ih _)) (.refl s)

theorem ephTake (s : State) (part : Nat) (r : List Byte) : Latches s (s.ephTake part r) := by
  unfold State.ephTake
  refine Latches.trans (.modPart s part fun x => ?_) (.ephDrain ..)
  split <;> exact ⟨rfl, rfl⟩

/-- The counts of a cluster are latched. -/
theorem latch (s : State) (c : Nat) : Latches s (s.modCluster c fun x => { x with evTick := x.ev }) := by
  have h : ∀ n, ((s.modCluster c fun x => { x with evTick := x.ev }).cluster n).ev = (s.cluster n).ev ∧
      (((s.modCluster c fun x => { x with evTick := x.ev }).cluster n).evTick = (s.cluster n).evTick ∨
        ((s.modCluster c fun x => { x with evTick := x.ev }).cluster n).evTick = (s.cluster n).ev) := fun n => by
    by_cases hn : n = c
    · subst hn; rw [State.cluster_modCluster_self]; exact ⟨rfl, .inr rfl⟩
    · rw [State.cluster_modCluster_ne _ _ hn]; exact ⟨rfl, .inl rfl⟩
  exact ⟨fun n => (h n).1, fun _ => rfl, fun n => (h n).2⟩

/-- Counts once latched stay so. -/
theorem latched {s t : State} (h : Latches s t) {c : Nat} (hc : (s.cluster c).evTick = (s.cluster c).ev) :
    (t.cluster c).evTick = (s.cluster c).ev :=
  (h.evTick c).elim (·.trans hc) id

/-- The counts of the clusters of a list are latched. -/
theorem evTick_foldl_latch {s : State} {l : List Nat} {c : Nat} (hc : c ∈ l) :
    ((l.foldl (fun a c => a.modCluster c fun x => { x with evTick := x.ev }) s).cluster c).evTick = (s.cluster c).ev := by
  induction l generalizing s with
  | nil => cases hc
  | cons d l ih =>
    by_cases hd : c = d
    · subst hd
      rw [List.foldl_cons, ← (Latches.latch s c).ev c]
      exact (Latches.foldl l _ (fun a x => .latch a x) _).latched (by rw [State.cluster_modCluster_self])
    · rw [List.foldl_cons, ih ((List.mem_cons.mp hc).resolve_left hd), (Latches.latch s d).ev c]

/-- The tick of a partition, and the counts of its clusters after it. -/
theorem ephTickOf (s : State) (part : Nat) : Latches s (s.ephTickOf part) ∧
    ∀ c ∈ s.clustersOf part, ((s.ephTickOf part).cluster c).evTick = (s.cluster c).ev := by
  unfold State.ephTickOf
  dsimp only
  generalize ha : List.foldl (fun a r => State.ephTake a part r) _ _ = a
  have h : Latches s a := ha ▸ (Latches.ephDrain s part 16).trans (.foldl _ _ (fun a r => .ephTake a part r) _)
  refine ⟨(h.trans (.foldl _ _ (fun a x => .latch a x) a)).trans (.modPart _ _ fun _ => ⟨rfl, rfl⟩), fun c hc => ?_⟩
  rw [← h.ev c]
  exact evTick_foldl_latch (by rw [h.clustersOf]; exact hc)

end Latches

/-- The ticks of partitions one after another. -/
theorem State.evTick_foldl_ephTickOf {s : State} {l : List Nat} {p c : Nat} (hp : p ∈ l) (hc : c ∈ s.clustersOf p) :
    ((l.foldl State.ephTickOf s).cluster c).evTick = (s.cluster c).ev := by
  induction l generalizing s with
  | nil => cases hp
  | cons q l ih =>
    obtain ⟨h, htick⟩ := Latches.ephTickOf s q
    rw [List.foldl_cons, ← h.ev c]
    by_cases hq : p = q
    · subst hq
      exact (Latches.foldl l _ (fun a x => (Latches.ephTickOf a x).1) _).latched ((htick c hc).trans (h.ev c).symm)
    · exact ih ((List.mem_cons.mp hp).resolve_left hq) (by rw [h.clustersOf]; exact hc)

/-- R432: at a tick the counts of the clusters of each partition that is due are latched. -/
theorem ephemerisTick_latches (s : State) : ∃ t, exec .ephemerisTick s = .next t ∧
    ∀ p, p < 32 → (s.part p).ephEn = true → s.cycle % 2 ^ (s.part p).ephK = 0 →
      ∀ c ∈ s.clustersOf p, (t.cluster c).evTick = (s.cluster c).ev :=
  ⟨_, rfl, fun p hp hen hcycle _ hc => State.evTick_foldl_ephTickOf
    (List.mem_filter.mpr ⟨List.mem_range.mpr hp, by simp [State.ephDue, hen, hcycle]⟩) hc⟩

/-! ### The trace drain -/

theorem State.cluster_raise (s : State) (v c : Nat) : (s.raise v).cluster c = s.cluster c := by
  unfold State.raise
  split <;> rfl

theorem State.traceDrain_nil {s : State} {c : Nat} (h : (s.cluster c).trace.staged = []) (p n : Nat) : s.traceDrain c p n = s := by
  cases n with
  | zero => rfl
  | succ n => unfold State.traceDrain; simp only [h]

/-- A cluster whose buffer holds nothing back and has nothing staged has no fibre to stop or release. -/
theorem State.traceHold_idle {s : State} {c : Nat} (hst : (s.cluster c).trace.staged = []) (hh : (s.cluster c).trace.holding = false) :
    s.traceHold c = s := by
  unfold State.traceHold
  simp [hst, hh]

/-- The one packet that is staged, and fits, is drained. -/
theorem State.trace_traceDrain_one {s : State} {c p : Nat} {h : Byte} {tl : List Byte} (hst : (s.cluster c).trace.staged = h :: tl)
    (hlen : packetLen h = tl.length + 1) (hroom : packetLen h ≤ (s.cluster c).trace.room (s.part p).trSeg) :
    ((s.traceDrain c p (s.cluster c).trace.staged.length).cluster c).trace =
      { (s.cluster c).trace with head := (s.cluster c).trace.head + BitVec.ofNat 32 (packetLen h), staged := [] } := by
  have hmin : min (packetLen h) (h :: tl).length = packetLen h := by simp [hlen]
  have hdrop : (h :: tl).drop (packetLen h) = [] := by simp [hlen]
  rw [hst, List.length_cons, State.traceDrain]
  simp only [hst, hmin, if_pos hroom]
  generalize hw : List.foldl _ s _ = w
  have hwcl : w.cluster c = s.cluster c := by
    have hall : w.clusters = s.clusters := by
      subst hw
      refine List.foldlRecOn (motive := fun a : State => a.clusters = s.clusters) _ _ rfl fun a ih x _ => ?_
      exact (State.clusters_memWriteBytes a _ _ [x.1]).trans ih
    unfold State.cluster
    rw [hall]
  generalize hv : (if (s.part p).trIrq = true then _ else _) = v
  have hvcl : (v.cluster c).trace =
      { (s.cluster c).trace with head := (s.cluster c).trace.head + BitVec.ofNat 32 (packetLen h), staged := [] } := by
    have hsame : ∀ (b : Bool) (u : State), (if b = true then u.raise (4 * p + 2) else u).cluster c = u.cluster c := fun b u => by
      split
      · exact State.cluster_raise ..
      · rfl
    rw [← hv, hsame, State.cluster_modCluster_self, hwcl]
    simp only [hst, hdrop]
  rw [State.traceDrain_nil (by rw [hvcl])]
  exact hvcl

/-- R438: the one packet that is staged, and fits, leaves the buffer. -/
theorem traceDrain_empties {s : State} {c p : Nat} {h : Byte} {tl : List Byte} (ho : s.owner c = some p)
    (hst : (s.cluster c).trace.staged = h :: tl) (hlen : packetLen h = tl.length + 1) (hh : (s.cluster c).trace.holding = false)
    (hroom : packetLen h ≤ 2 ^ (s.part p).trSeg - ((s.cluster c).trace.head - (s.cluster c).trace.tail).toNat) :
    ∃ t, exec (.traceDrain c) s = .next t ∧ (t.cluster c).trace.staged = [] ∧
      (t.cluster c).trace.head = (s.cluster c).trace.head + BitVec.ofNat 32 (packetLen h) := by
  have ht := State.trace_traceDrain_one hst hlen hroom
  refine ⟨s.traceDrain c p (s.cluster c).trace.staged.length, ?_, by rw [ht], by rw [ht]⟩
  show execTraceDrain c s = _
  unfold execTraceDrain
  simp only [ho]
  rw [State.traceHold_idle (by rw [ht]) (by rw [ht]; exact hh)]

end Sys2Proof.Machine
end

section
/-! SUPPORT. The end of a measured pass (R447), and the trial and installation of a candidate (R408). -/

namespace Sys2Proof.Machine

namespace UnitsKept

/-! ### The end of a pass -/

theorem passRecord (s : State) (part : Nat) : UnitsKept s (s.passRecord part) :=
  (UnitsKept.foldl _ _ (fun a _ => .memWriteBytes a ..) s).trans (.memWriteBytes ..)

theorem undoAll (s : State) (part : Nat) : UnitsKept s (s.undoAll part) := by
  unfold State.undoAll
  have hlines := fun (a : State) (c : Nat) (ls : List Nat) =>
    UnitsKept.foldl ls (fun a n => (a.uoDrop c n).rcDrop c n) (fun a n => (UnitsKept.uoDrop a c n).trans (.rcDrop ..)) a
  exact UnitsKept.trans (UnitsKept.trans (.foldl _ _ (fun a _ => .memWriteBytes a ..) s) (.foldl _ _ (fun a c => hlines a c _) _)) (.l2Drop ..)

theorem modIc (s : State) (q : Nat) (f : ICache → ICache) : UnitsKept s (s.modIc q f) := ofTables rfl rfl rfl rfl

theorem icDrop (s : State) (qs : List Nat) (p : IcItem → Bool) : UnitsKept s (s.icDrop qs p) :=
  .foldl qs _ (fun a q => .modIc a q _) s

theorem icClear (s : State) (part : Nat) : UnitsKept s (s.icClear part) := .icDrop ..

theorem frontierWrite {s t : State} {key va : Nat} {v : List Byte} (h : s.frontierWrite key va v = some t) : UnitsKept s t := by
  unfold State.frontierWrite at h
  split at h
  · cases h
  · exact .agentWrite h

theorem zeroHeights (s : State) (l : Launch) (fr : Frontier) : UnitsKept s (s.zeroHeights l fr) := by
  unfold State.zeroHeights
  split
  · cases h : s.frontierWrite l.ctxKey (fr.backing.toNat + 4 * 65536) (List.replicate (4 * (fr.d1 * fr.d2 - 65536)) 0) with
    | none => exact .refl s
    | some t => exact .frontierWrite h
  · exact .refl s

theorem askPoints (s : State) (n : Nat) : UnitsKept s (s.askPoints n) := by
  unfold State.askPoints
  split
  · split
    · exact .branch (.refl s) (.modLaunch ..)
    · exact .refl s
  · exact .refl s

theorem firePoints (s : State) (d fuel : Nat) : UnitsKept s (s.firePoints d fuel) := by
  induction fuel generalizing s with
  | zero => exact .refl s
  | succ fuel ih =>
    unfold State.firePoints
    split
    · exact ((UnitsKept.modLaunch ..).trans (.count ..)).trans (ih _)
    · exact .refl s

theorem fire (s : State) (n : Nat) : UnitsKept s (s.fire n) := by
  unfold State.fire
  split
  · exact .branch (.refl s) ((UnitsKept.askPoints s n).trans (.firePoints ..))
  · exact .refl s

theorem rerun (s : State) (n : Nat) : UnitsKept s (s.rerun n) := by
  unfold State.rerun
  split
  · exact .refl s
  · dsimp only
    generalize State.withManifest s _ = l
    have h : UnitsKept s { s with launches := tset s.launches n l } := ofTables rfl rfl rfl rfl
    split
    · exact (h.trans (.zeroHeights ..)).trans (.fire ..)
    · exact h

/-- The event codes of a pass. -/
theorem selectEvents (s : State) (cs : List Nat) (codes : Word) :
    UnitsKept s (cs.foldl (fun a c => (a.setEvSel c codes).zeroCounters c) s) :=
  .foldl _ _ (fun a c => .afterCluster (t := (a.setEvSel c codes).zeroCounters c)
    (.modCluster' _ _ _ fun _ => ⟨rfl, rfl⟩) fun _ => ⟨rfl, rfl⟩) s

end UnitsKept

/-- A pass that has begun is the partition's. -/
theorem State.mrPass_passBegin (s : State) (part n : Nat) : ((s.passBegin part n).part part).mrPass = n := by
  unfold State.passBegin
  dsimp only
  rw [((UnitsKept.selectEvents _ _ _).passes part).1, State.part_modPart_self]

/-- What is noted of a pass that ends leaves which pass it is, and its launch. -/
theorem UnitsKept.notePass (s : State) (part : Nat) (p : Partition) :
    UnitsKept s ((s.passRecord part).modPart part fun x =>
      if p.mrPass = 0 then { x with mrSig0 := p.mrSig }
      else if p.mrSig ≠ p.mrSig0 then { x with mrMismatch := x.mrMismatch ||| BitVec.ofNat 32 (2 ^ p.mrPass) }
      else x) := by
  refine (UnitsKept.passRecord s part).trans (.modPart _ part ?_)
  split
  · exact ⟨rfl, rfl⟩
  · split <;> exact ⟨rfl, rfl⟩

/-- R447: with its launch done, a pass ends: the next one begins, or after the last the measurement is over. -/
theorem measurePassEnd_ends {s : State} {part n : Nat} {l : Launch} (hmr : (s.part part).mrLaunch = some n)
    (hl : tget? s.launches n = some l) (hdone : s.launchDone l = true) :
    ∃ t, exec (.measurePassEnd part) s = .next t ∧
      ((s.part part).mrPass + 1 < (s.part part).mrPasses → (s.part part).ckFull = false →
        (t.part part).mrPass = (s.part part).mrPass + 1) ∧
      ((s.part part).mrPasses ≤ (s.part part).mrPass + 1 → (t.part part).mrLaunch = none) := by
  have hexec : ∀ o, execMeasurePassEnd part s = o → exec (.measurePassEnd part) s = o := fun _ h => h
  have hb : ((s.part part).mrLaunch.bind fun n => (tget? s.launches n).map fun l => (n, l)) = some (n, l) := by
    rw [hmr, Option.bind_some, hl]
    rfl
  unfold execMeasurePassEnd at hexec
  simp only [hb, hdone, Bool.not_true, if_neg Bool.false_ne_true] at hexec
  by_cases hmore : ((s.part part).mrPass + 1 < (s.part part).mrPasses && !(s.part part).ckFull) = true
  · refine ⟨_, hexec _ (if_pos hmore), fun _ _ => ?_, fun hlast => ?_⟩
    · rw [((UnitsKept.rerun _ n).passes part).1, State.mrPass_passBegin]
    · simp only [Bool.and_eq_true, decide_eq_true_eq] at hmore
      omega
  · refine ⟨_, hexec _ (if_neg hmore), fun hlt hfull => ?_, fun _ => ?_⟩
    · simp [hlt, hfull] at hmore
    · rw [State.part_modPart_self]
      dsimp only
      rw [((UnitsKept.tryComplete _ n).passes part).2, State.part_modPart_self]

/-! ### TRIAL and CANDIDATE_INSTALL (R406 to R408) -/

theorem State.sampler_getD {s : State} {cl job : Nat} {x : Sampler} (h : (s.cluster cl).sampler[job]? = some (some x)) :
    (s.cluster cl).sampler.getD job none = some x := by
  rw [List.getD_eq_getElem?_getD, h]
  rfl

section
variable {s : State} {cl job n : Nat} {x : Sampler} {ws : List (BitVec 64)} {is : List Instr}
  (hx : (s.cluster cl).sampler[job]? = some (some x)) (hcand : candInstrs ws = some is) (hsampled : s.sampled cl x = true)
  (hdone : x.done = false)
include hx hcand hsampled hdone

theorem trial_completes (hpark : (s.part x.part).cmpPark = false) (hen : (s.part x.part).substCtl.getLsbD 0 = true)
    (hbeats : (s.part x.part).trialBeats ≠ 0) (hok : candOk is x.text x.ins x.outs = true) (htrial : x.trial = some (is, n)) :
    ∃ t, exec (.trial cl job n ws) s = .next t ∧ (t.part x.part).trialBeats = 0 := by
  have hget := State.sampler_getD hx
  have hexec : ∃ u : State, execTrial cl job n ws s = .next (u.modPart x.part fun p => { p with trialBeats := 0 }) := by
    unfold execTrial
    simp only [hget, hcand, hsampled, hdone, hpark, substEn, hen, hok, htrial, beq_eq_false_iff_ne.mpr hbeats, beq_self_eq_true,
      if_true, Bool.not_true, Bool.or_false, bne_self_eq_false, Bool.false_eq_true, if_false]
    exact ⟨_, rfl⟩
  obtain ⟨u, hu⟩ := hexec
  exact ⟨_, hu, by rw [State.part_modPart_self]⟩

/-- An empty text makes the sampler entry DONE. -/
theorem candidateInstall_done (hnil : is = []) : ∃ t, exec (.candidateInstall cl job ws) s = .next t ∧
    (t.cluster cl).sampler[job]? = some (some { x with done := true, trial := none }) := by
  have hget := State.sampler_getD hx
  subst hnil
  refine ⟨s.modCluster cl fun c => { c with sampler := lset c.sampler job (some { x with done := true, trial := none }) }, ?_, ?_⟩
  · show execCandidateInstall cl job ws s = _
    unfold execCandidateInstall
    simp only [hget, hcand, hsampled, hdone, Bool.not_true, Bool.or_false, Bool.false_eq_true, if_false, List.isEmpty_nil, if_true]
  · rw [State.cluster_modCluster_self]
    exact (getElem?_lset ..).trans (by rw [if_pos rfl, hx]; rfl)

/-- A candidate that matched on all samples goes into the first entry where that is free. -/
theorem candidateInstall_installs (hne : is ≠ []) (htrial : x.trial = some (is, 64)) {e : SubEntry}
    (he : (s.cluster cl).subst[0]? = some e) (hfree : e.state = .free) :
    ∃ t y, exec (.candidateInstall cl job ws) s = .next t ∧ (t.cluster cl).subst[0]? = some y ∧ y.state = .probation ∧ y.cand = is := by
  have hget := State.sampler_getD hx
  have hfind : (s.cluster cl).subst.findIdx? (fun e => e.state == .free) = some 0 := by
    cases hl : (s.cluster cl).subst with
    | nil => simp [hl] at he
    | cons y l =>
      rw [hl] at he
      obtain rfl : y = e := by simpa using he
      simp [List.findIdx?_cons, hfree]
  have hexec : ∃ (y : SubEntry) (runs : Cluster → Cluster) (close : Cluster → Cluster), execCandidateInstall cl job ws s =
      .next (((s.modSub cl 0 fun _ => y).modCluster cl runs).modCluster cl close) ∧ (∀ c, (runs c).subst = c.subst) ∧
      (∀ c, (close c).subst = c.subst) ∧ y.state = .probation ∧ y.cand = is := by
    unfold execCandidateInstall
    simp only [hget, hcand, hsampled, hdone, htrial, hfind, Bool.not_true, Bool.or_false, Bool.false_eq_true, if_false,
      List.isEmpty_eq_false_iff.mpr hne, bne_self_eq_false]
    exact ⟨_, _, _, rfl, fun _ => rfl, fun _ => rfl, rfl, rfl⟩
  obtain ⟨y, runs, close, hu, hruns, hclose, hstate, hcand⟩ := hexec
  refine ⟨_, y, hu, ?_, hstate, hcand⟩
  rw [State.cluster_modCluster_self, hclose, State.cluster_modCluster_self, hruns, State.subst_modSub, if_pos rfl, he]
  rfl

end

end Sys2Proof.Machine
end

section
/-! SUPPORT. The mailbox commands after stage A (R479), and the statement about the forms that complete, settled. -/

namespace Sys2Proof.Machine

/-! ### What a command leaves -/

/-- From `s` to `t` the interrupts raised and pending stay, and the vectors' masks. -/
structure VectorsKept (s t : State) : Prop where
  msix : t.msix = s.msix
  irqs : t.irqs = s.irqs
  msixPba : t.msixPba = s.msixPba

namespace VectorsKept

theorem refl (s : State) : VectorsKept s s := ⟨rfl, rfl, rfl⟩

theorem trans {s t u : State} (h : VectorsKept s t) (h' : VectorsKept t u) : VectorsKept s u :=
  ⟨h'.msix.trans h.msix, h'.irqs.trans h.irqs, h'.msixPba.trans h.msixPba⟩

theorem branch {s t u : State} {p : Prop} [Decidable p] (h : VectorsKept s t) (h' : VectorsKept s u) : VectorsKept s (if p then t else u) := by
  split
  · exact h
  · exact h'

theorem foldl {α : Type} (l : List α) (g : State → α → State) (h : ∀ a x, VectorsKept a (g a x)) (s : State) : VectorsKept s (l.foldl g s) :=
  List.foldlRecOn (motive := fun a => VectorsKept s a) _ _ (refl s) fun a ih x _ => ih.trans (h a x)

theorem memWriteBytes (s : State) (part : Option Nat) (key : Nat) (bs : List Byte) : VectorsKept s (s.memWriteBytes part key bs) := by
  obtain ⟨_, _, _, _, _, h⟩ := s.onlyMemory_memWriteBytes part key bs
  rw [h]
  exact ⟨rfl, rfl, rfl⟩

theorem modPart (s : State) (p : Nat) (f : Partition → Partition) : VectorsKept s (s.modPart p f) := ⟨rfl, rfl, rfl⟩

theorem mbPut (s : State) (ofs : Nat) (bs : List Byte) : VectorsKept s (s.mbPut ofs bs) := ⟨rfl, rfl, rfl⟩

theorem pfGone (s : State) (cl line : Nat) : VectorsKept s (s.pfGone cl line) := .branch (.refl s) ⟨rfl, rfl, rfl⟩

theorem uoDrop (s : State) (cl line : Nat) : VectorsKept s (s.uoDrop cl line) :=
  .branch (VectorsKept.trans (t := s.modCluster cl _) ⟨rfl, rfl, rfl⟩ (.pfGone ..)) (.refl s)

theorem rcDrop (s : State) (cl line : Nat) : VectorsKept s (s.rcDrop cl line) :=
  .branch (VectorsKept.trans (t := s.modCluster cl _) ⟨rfl, rfl, rfl⟩ (.pfGone ..)) (.refl s)

theorem l2Drop (s : State) (p : Nat → L2Line → Bool) : VectorsKept s (s.l2Drop p) := by
  unfold State.l2Drop
  dsimp only
  refine .branch (.refl s) (VectorsKept.trans (.foldl _ _ (fun a c => ?_) s) (t := List.foldl _ s s.clusters) ⟨rfl, rfl, rfl⟩)
  exact .branch (.refl a) ⟨rfl, rfl, rfl⟩

theorem undoAll (s : State) (part : Nat) : VectorsKept s (s.undoAll part) := by
  unfold State.undoAll
  have hlines := fun (a : State) (c : Nat) (ls : List Nat) =>
    VectorsKept.foldl ls (fun a n => (a.uoDrop c n).rcDrop c n) (fun a n => (VectorsKept.uoDrop a c n).trans (.rcDrop ..)) a
  exact VectorsKept.trans (VectorsKept.trans (.foldl _ _ (fun a _ => .memWriteBytes a ..) s) (.foldl _ _ (fun a c => hlines a c _) _))
    (.l2Drop ..)

end VectorsKept

/-- A command that is done changes the mailbox's registers and the interrupts. -/
theorem State.mbDone_eq (u : State) (op : Nat) (part : Option Nat) (code : Nat) : ∃ cmd ret irqs pba,
    u.mbDone op part code = { u with mbCmd := cmd, mbRet := ret, mbWait := none, irqs := irqs, msixPba := pba } := by
  unfold State.mbDone
  cases part with
  | none => exact ⟨_, _, _, _, rfl⟩
  | some p =>
    dsimp only
    unfold State.raise
    split <;> exact ⟨_, _, _, _, rfl⟩

theorem State.part_mbDone (u : State) (op : Nat) (part : Option Nat) (code p : Nat) : (u.mbDone op part code).part p = u.part p := by
  obtain ⟨_, _, _, _, h⟩ := u.mbDone_eq op part code
  rw [h]
  rfl

/-- A vector raised or not, the mailbox is as it was. -/
theorem State.raise_mailbox (s : State) (v : Nat) :
    (s.raise v).mbCmd = s.mbCmd ∧ (s.raise v).mbRet = s.mbRet ∧ (s.raise v).mbWait = s.mbWait := by
  unfold State.raise
  split <;> exact ⟨rfl, rfl, rfl⟩

/-- A command has run, whatever else it changed than the interrupts. -/
theorem mailboxRan_mbDone {s u : State} (h : VectorsKept s u) {part : Option Nat} (hcmd : part = none → u.mbCmd = s.mbCmd) (op code : Nat) :
    mailboxRan s (u.mbDone op part code) op part code := by
  unfold mailboxRan State.mbDone
  cases part with
  | none => exact ⟨by rw [hcmd rfl], rfl, rfl, h.irqs, h.msixPba⟩
  | some p =>
    obtain ⟨hc, hr, hw⟩ := State.raise_mailbox
      { u with mbCmd := BitVec.ofNat 32 (p * 2 ^ 8 + op), mbRet := BitVec.ofNat 32 code, mbWait := none } (4 * p + 3)
    have hv := State.raise_congr (s := s) (t := { u with mbCmd := BitVec.ofNat 32 (p * 2 ^ 8 + op), mbRet := BitVec.ofNat 32 code, mbWait := none })
      h.msix h.irqs h.msixPba (4 * p + 3)
    exact ⟨hc, hr, hw, hv⟩

theorem mailboxRan_none {s u : State} (h : VectorsKept s u) (hcmd : u.mbCmd = s.mbCmd) (op code : Nat) :
    mailboxRan s (u.mbDone op none code) op none code :=
  mailboxRan_mbDone h (fun _ => hcmd) op code

theorem mailboxRan_some {s u : State} (h : VectorsKept s u) (op p code : Nat) :
    mailboxRan s (u.mbDone op (some p) code) op (some p) code :=
  mailboxRan_mbDone h (fun hp => by cases hp) op code

/-! ### The commands -/

section
variable {s : State} (hstart : s.startStat.getLsbD 0 = true) (hwait : s.mbWait = none)
include hstart hwait

theorem State.mbOpen_of_stageA : (!s.mbOpen) = false := by
  simp [State.mbOpen, State.answers, State.stageDone, hstart, hwait]

theorem fwLoad_completes (idx : Nat) (bs : List (BitVec 8)) : ∃ t, exec (.fwLoad idx bs) s = .next t ∧ mailboxRan s t 0x01 none 0 := by
  let img := spliceBytes (s.fwSlots.getD s.idleSlot []) idx bs
  refine ⟨{ s with fwSlots := lset s.fwSlots s.idleSlot img }.mbDone 0x01 none 0, ?_,
    mailboxRan_none ⟨rfl, rfl, rfl⟩ rfl ..⟩
  show execFwLoad idx bs s = _
  unfold execFwLoad
  rw [State.mbOpen_of_stageA hstart hwait, if_neg Bool.false_ne_true]

theorem fwActivate_completes : ∃ t code, exec .fwActivate s = .next t ∧ mailboxRan s t 0x02 none code := by
  have hexec : ∀ o, execFwActivate s = o → exec .fwActivate s = o := fun _ h => h
  unfold execFwActivate at hexec
  simp only [State.mbOpen_of_stageA hstart hwait, Bool.false_eq_true, if_false] at hexec
  have hran := fun (u : State) (hu : VectorsKept s u) (hc : u.mbCmd = s.mbCmd) code =>
    mailboxRan_none hu hc 0x02 code
  by_cases hhead : (!fwHeaderOk (s.fwSlots.getD s.idleSlot []) (Config.blobMin s.blob).toNat) = true
  · exact ⟨_, 2, hexec _ (if_pos hhead), hran s (.refl s) rfl 2⟩
  · by_cases hvalid : s.slotValid s.idleSlot = true
    · exact ⟨_, 0, hexec _ ((if_neg hhead).trans (if_pos hvalid)), hran { s with fwNext := s.idleSlot } ⟨rfl, rfl, rfl⟩ rfl 0⟩
    · exact ⟨_, 5, hexec _ ((if_neg hhead).trans (if_neg hvalid)), hran s (.refl s) rfl 5⟩

theorem partWr_completes {part x sr : Nat} {v : Word} (hpart : part < 32) {u : State} (hw : s.partWrite part x sr v = .ok u)
    (hu : VectorsKept s u) : ∃ t, exec (.partWr part x sr v) s = .next t ∧
      mailboxRan s t 0x10 (some part) 0 ∧ t.mem = u.mem ∧ t.parts = u.parts ∧ t.ctxs = u.ctxs := by
  refine ⟨u.mbDone 0x10 (some part) 0, ?_, mailboxRan_some hu .., ?_⟩
  · have hanswers : s.answers = true := by simp [State.answers, State.stageDone, hstart]
    show execPartWr part x sr v s = _
    unfold execPartWr
    simp [hanswers, hwait, hw, hpart]
  · obtain ⟨_, _, _, _, h⟩ := u.mbDone_eq 0x10 (some part) 0
    rw [h]
    exact ⟨rfl, rfl, rfl⟩

theorem partRd_completes {part x sr : Nat} (hpart : part < 32) (hx : x < 16) (hsr : srInfo sr ≠ none) (hl : srLocal sr = false) :
    ∃ t, exec (.partRd part x sr) s = .next t ∧ mailboxRan s t 0x11 (some part) 0 := by
  have hexec : ∃ data, execPartRd part x sr s = .next ((s.mbPut 4 data).mbDone 0x11 (some part) 0) := by
    unfold execPartRd
    rw [State.mbOpen_of_stageA hstart hwait, if_neg Bool.false_ne_true, if_neg]
    · exact ⟨_, rfl⟩
    · simp [hl, Option.isNone_iff_eq_none, hsr, Nat.not_le.mpr hpart, Nat.not_le.mpr hx]
  obtain ⟨data, hexec⟩ := hexec
  exact ⟨_, hexec, mailboxRan_some (.mbPut s 4 data) ..⟩

theorem rollback_completes {part : Nat} (hpart : part < 32) (hhalt : (s.part part).halted ≠ none) (hfull : (s.part part).ckFull = false) :
    ∃ t, exec (.rollback part) s = .next t ∧ mailboxRan s t 0x20 (some part) 0 ∧ (t.part part).undo = [] := by
  refine ⟨((s.undoAll part).modPart part fun p => { p with undo := [] }).mbDone 0x20 (some part) 0, ?_,
    mailboxRan_some ((VectorsKept.undoAll s part).trans (.modPart ..)) .., ?_⟩
  · show execRollback part s = _
    unfold execRollback
    rw [State.mbOpen_of_stageA hstart hwait, if_neg Bool.false_ne_true, if_neg (Nat.not_le.mpr hpart), if_neg (by simpa using hhalt),
      if_neg (by simp [hfull])]
  · rw [State.part_mbDone, State.part_modPart_self]

theorem partReset_completes {part : Nat} (hpart : part < 32) (hhalt : (s.part part).halted ≠ none) :
    ∃ t, exec (.partReset part) s = .next t ∧ mailboxRan s t 0x21 (some part) 0 ∧ (t.part part).halted = none := by
  refine ⟨(s.modPart part fun p => { p with halted := none, devSeq := 0 }).mbDone 0x21 (some part) 0, ?_,
    mailboxRan_some (.modPart ..) .., ?_⟩
  · show execPartReset part s = _
    unfold execPartReset
    rw [State.mbOpen_of_stageA hstart hwait, if_neg Bool.false_ne_true, if_neg (Nat.not_le.mpr hpart), if_neg (by simpa using hhalt)]
  · rw [State.part_mbDone, State.part_modPart_self]

theorem peerWr_completes {part idx : Nat} {bs : List (BitVec 8)} (hpart : part < 32) (hidx : idx < 65536) (hlen : bs.length = 32) :
    ∃ t, exec (.peerWr part idx bs) s = .next t ∧ mailboxRan s t 0x30 (some part) 0 ∧ tget? (t.part part).peers idx = some bs := by
  refine ⟨(s.modPart part fun p => { p with peers := tset p.peers idx bs }).mbDone 0x30 (some part) 0, ?_,
    mailboxRan_some (.modPart ..) .., ?_⟩
  · show execPeerWr part idx bs s = _
    unfold execPeerWr
    rw [State.mbOpen_of_stageA hstart hwait, if_neg Bool.false_ne_true, if_neg (Nat.not_le.mpr hpart),
      if_neg (by simp [hlen, Nat.not_le.mpr hidx])]
  · rw [State.part_mbDone, State.part_modPart_self]
    exact tget?_tset_self ..

theorem neighWr_completes (idx : Nat) (bs : List (BitVec 8)) :
    ∃ t, exec (.neighWr idx bs) s = .next t ∧ mailboxRan s t 0x31 none 0 ∧ tget? t.neigh idx = some bs := by
  refine ⟨{ s with neigh := tset s.neigh idx bs }.mbDone 0x31 none 0, ?_, mailboxRan_none ⟨rfl, rfl, rfl⟩ rfl ..,
    tget?_tset_self ..⟩
  show execNeighWr idx bs s = _
  unfold execNeighWr
  rw [if_pos (by simpa using State.mbOpen_of_stageA hstart hwait)]

theorem powerLimit_completes {watts : Nat} (hlo : 400 ≤ watts) (hhi : watts ≤ 1750) :
    ∃ t, exec (.powerLimit watts) s = .next t ∧ mailboxRan s t 0x40 none 0 ∧ t.power = watts := by
  refine ⟨{ s with power := watts }.mbDone 0x40 none 0, ?_, mailboxRan_none ⟨rfl, rfl, rfl⟩ rfl .., rfl⟩
  show execPowerLimit watts s = _
  unfold execPowerLimit
  rw [State.mbOpen_of_stageA hstart hwait, if_neg Bool.false_ne_true, if_pos ⟨hlo, hhi⟩]

theorem telemetry_completes : ∃ t, exec .telemetry s = .next t ∧ mailboxRan s t 0x41 none 0 := by
  have hexec : ∃ data, execTelemetry s = .next ((State.mbPut { s with freeCtr := s.freeCtr + 5 } 0 data).mbDone 0x41 none 0) := by
    unfold execTelemetry
    rw [State.mbOpen_of_stageA hstart hwait, if_neg Bool.false_ne_true]
    exact ⟨_, rfl⟩
  obtain ⟨data, hexec⟩ := hexec
  exact ⟨_, hexec, mailboxRan_none ⟨rfl, rfl, rfl⟩ rfl ..⟩

end

/-- Settles O60, each form by its own lemma. The store queues, the copy engines' queues and the measured passes stay through the end of
strands and launches and through the traps that a form may bring about (`UnitsKept`). -/
theorem formsOfUnitsComplete : Obligations.FormsOfUnitsComplete := by
  unfold Obligations.FormsOfUnitsComplete
  refine ⟨laneReductionsComplete, fun s c i k kind dst h hact htag he hready => engineFormsComplete h hact htag rfl he hready,
    fun s strand num k o st rs hfind hkind hfly hend hplan hidx _ _ hhalt hdue hmay =>
      engineOpComplete_removes hfind hkind hfly hend hplan hidx hhalt hdue hmay,
    fun s c f => ⟨sbrd_completes, escrd_completes, sbwd_completes, sbclr_completes⟩,
    fun s cl sp i e he hdue hsize hmay hbank => storePerformed_removes he hdue hsize hmay hbank, ephemerisTick_latches,
    fun s c p h tl ho hst hlen hh hroom => traceDrain_empties ho hst hlen hh hroom,
    fun s part n l hmr hl hdone => measurePassEnd_ends hmr hl hdone, fun s cl job n x ws is hx hcand hsampled hdone => ⟨?_, ?_, ?_⟩,
    fun s part x sr idx v bs hstart hwait hpart => ⟨fwLoad_completes hstart hwait idx bs, fwActivate_completes hstart hwait,
      fun u hw hirqs hmsix hpba => partWr_completes hstart hwait hpart hw ⟨hmsix, hirqs, hpba⟩,
      partRd_completes hstart hwait hpart, fun hhalt => ⟨rollback_completes hstart hwait hpart hhalt,
        partReset_completes hstart hwait hpart hhalt⟩, peerWr_completes hstart hwait hpart, neighWr_completes hstart hwait idx bs,
      powerLimit_completes hstart hwait, telemetry_completes hstart hwait⟩⟩
  · exact trial_completes hx hcand hsampled hdone
  · exact candidateInstall_done hx hcand hsampled hdone
  · exact fun hne htrial e he hfree => candidateInstall_installs hx hcand hsampled hdone hne htrial he hfree

end Sys2Proof.Machine
end
